-- ==== Sys2Proof/Word.lean ====
section
/-! DEFINITION. The words of the Xiton: bytes, 32-bit words (R2), 64-bit doublewords, and the list-backed
table by number that the state is built from. Nothing here is specific to an instruction. -/

namespace Sys2Proof

/-- A byte is 8 bits (R2). -/
abbrev Byte := BitVec 8
/-- A word is 32 bits (R2): one instruction word (R45). -/
abbrev Word := BitVec 32
/-- A doubleword: the width of the scalar registers (R93) and of the system registers. -/
abbrev DWord := BitVec 64
/-- 16 rows of 64 columns of 16-bit cells (R120): a vector register, a queue row-set (R164). Cell `e` is
bits `[16e + 15 : 16e]`, so the bytes stand in increasing cell index, little-endian (R4). -/
abbrev RowSet := BitVec 16384
/-- A lane mask (R122): bit `64 r + c` governs cell `(r, c)`. -/
abbrev Mask := BitVec 1024

/-- A table from numbers to `α`, listed by strictly rising number; what an unlisted number holds is given
by the reader. -/
abbrev Tbl (α : Type) := List (Nat × α)

namespace Tbl

/-- The entry of number `k`, or `d` where none is listed. -/
def get {α : Type} (d : α) : Tbl α → Nat → α
  | [], _ => d
  | (i, x) :: t, k => if i = k then x else get d t k

/-- The table with `k` holding `v`, kept in rising order. -/
def set {α : Type} : Tbl α → Nat → α → Tbl α
  | [], k, v => [(k, v)]
  | (i, x) :: t, k, v =>
    if k < i then (k, v) :: (i, x) :: t
    else if k = i then (k, v) :: t
    else (i, x) :: set t k v

/-- The table without an entry for `k`. -/
def erase {α : Type} : Tbl α → Nat → Tbl α
  | [], _ => []
  | (i, x) :: t, k => if i = k then erase t k else (i, x) :: erase t k

end Tbl

end Sys2Proof
end

