-- ==== Sys2Proof/Machine/Bits.lean ====
section
/-! DEFINITION. Bit and number helpers of R12 and R92: rotations, clamps, byte order, the packing of equal
cells into a wide word, integer square root. -/

namespace Sys2Proof.Machine

/-- `x` with bits `[lo + n.width - 1 : lo]` replaced by `v`. -/
def setField {w k : Nat} (x : BitVec w) (lo : Nat) (v : BitVec k) : BitVec w :=
  (x &&& ~~~((BitVec.allOnes k).setWidth w <<< lo)) ||| (v.setWidth w <<< lo)

/-- Field `[lo + k - 1 : lo]` as a number. -/
def fieldNat {w : Nat} (x : BitVec w) (lo k : Nat) : Nat := (x.extractLsb' lo k).toNat

/-- One bit as 0 or 1. -/
def b2n (b : Bool) : Nat := if b then 1 else 0

/-- `rotl` and `rotr` of R12 on 64 bits. -/
def rotl64 (x : DWord) (n : Nat) : DWord := x.rotateLeft (n % 64)
def rotr64 (x : DWord) (n : Nat) : DWord := x.rotateRight (n % 64)

/-- `SatS(x, n)` and `SatU(x, n)` (R92). -/
def satS (n : Nat) (x : Int) : Int :=
  if x > 2 ^ (n - 1) - 1 then 2 ^ (n - 1) - 1 else if x < -(2 ^ (n - 1)) then -(2 ^ (n - 1)) else x
def satU (n : Nat) (x : Int) : Int := if x > 2 ^ n - 1 then 2 ^ n - 1 else if x < 0 then 0 else x

/-- `n` bytes, the first least significant (R4), as a number; and back. -/
def leNat : List Byte → Nat
  | [] => 0
  | b :: bs => b.toNat + 256 * leNat bs

def leBytes : Nat → Nat → List Byte
  | 0, _ => []
  | k + 1, v => BitVec.ofNat 8 v :: leBytes k (v / 256)

/-- Equal fields of `w` bits, the first least significant, as a number; and the list of them. -/
def packNat (w : Nat) : List Nat → Nat
  | [] => 0
  | x :: xs => x % 2 ^ w + (packNat w xs) <<< w

def unpackNat (w : Nat) : Nat → Nat → List Nat
  | 0, _ => []
  | k + 1, v => v % 2 ^ w :: unpackNat w k (v >>> w)

/-- The cells of a row-set in increasing index (R120), and the row-set of them. -/
def rowCells (x : RowSet) : List Nat := unpackNat 16 1024 x.toNat
def rowOfCells (cs : List Nat) : RowSet := BitVec.ofNat 16384 (packNat 16 cs)
def rowCell (x : RowSet) (e : Nat) : Nat := (x.extractLsb' (16 * e) 16).toNat
/-- The bytes of a row-set, little-endian in increasing cell index (R164). -/
def rowBytes (x : RowSet) : List Byte := leBytes 2048 x.toNat
def rowOfBytes (bs : List Byte) : RowSet := BitVec.ofNat 16384 (leNat bs)

/-- The lanes of a mask in increasing index, and the mask of them. -/
def maskLanes (m : Mask) : List Bool := (unpackNat 1 1024 m.toNat).map (· == 1)
def maskOfLanes (ls : List Bool) : Mask := BitVec.ofNat 1024 (packNat 1 (ls.map b2n))

/-- The square root of `v` rounded down, bit by bit from bit `k - 1`. -/
def isqrtFrom (v : Nat) : Nat → Nat → Nat
  | 0, r => r
  | k + 1, r => let c := r + 2 ^ k; if c * c ≤ v then isqrtFrom v k c else isqrtFrom v k r
def isqrt (v : Nat) : Nat := isqrtFrom v (v.log2 / 2 + 1) 0

/-- Two's complement reading of `n` bits. -/
def sext (n v : Nat) : Int := if v % 2 ^ n < 2 ^ (n - 1) then (v % 2 ^ n : Nat) else (v % 2 ^ n : Nat) - (2 ^ n : Nat)
/-- The low `n` bits of an integer. -/
def low (n : Nat) (x : Int) : Nat := (x % (2 ^ n : Nat)).toNat

end Sys2Proof.Machine
end

