-- ==== Sys2Proof/Machine/Float.lean ====
section
/-! DEFINITION. Number formats, rounding, the special cases and the conversions of file 04 (R69 to R92).
Encodings of every format stand in the low bits of a `Nat`; the arithmetic is exact and `Round` narrows once. -/

namespace Sys2Proof.Machine

/-- IV, DZ, OF, UF and NX from bit 4 down to bit 0 (R73). -/
abbrev FFlags := BitVec 5
def ffNone : FFlags := 0
def ffIV : FFlags := 16
def ffDZ : FFlags := 8
def ffOF : FFlags := 4
def ffUF : FFlags := 2
def ffNX : FFlags := 1

/-- The four binary formats of R69. -/
inductive Fmt where
  | fp32 | bf16 | e5m2 | e4m3
  deriving DecidableEq, Repr

/-- The rounding modes of R78 with their codes in R51. -/
inductive Rm where
  | rne | rz | ru | rd | sr
  deriving DecidableEq, Repr

def Rm.ofCode (c : Nat) : Rm :=
  match c with
  | 0 => .rne | 1 => .rz | 2 => .ru | 3 => .rd | _ => .sr

/-- Width of T (R69). -/
def Fmt.t : Fmt → Nat
  | .fp32 => 23 | .bf16 => 7 | .e5m2 => 2 | .e4m3 => 3
/-- Width of E. -/
def Fmt.e : Fmt → Nat
  | .fp32 => 8 | .bf16 => 8 | .e5m2 => 5 | .e4m3 => 4
def Fmt.bias : Fmt → Nat
  | .fp32 => 127 | .bf16 => 127 | .e5m2 => 15 | .e4m3 => 7
def Fmt.width (f : Fmt) : Nat := f.t + f.e + 1
/-- The exponent of the largest finite value and its kept bits (R69). -/
def Fmt.emax : Fmt → Int
  | .fp32 => 127 | .bf16 => 127 | .e5m2 => 15 | .e4m3 => 8
def Fmt.maxSig (f : Fmt) : Nat :=
  match f with
  | .e4m3 => 14
  | .fp32 | .bf16 | .e5m2 => 2 ^ (f.t + 1) - 1
/-- Formats that R76 flushes. -/
def Fmt.flushes : Fmt → Bool
  | .fp32 | .bf16 => true
  | .e5m2 | .e4m3 => false

def fSign (f : Fmt) (x : Nat) : Bool := x.testBit (f.t + f.e)
def fExp (f : Fmt) (x : Nat) : Nat := x >>> f.t % 2 ^ f.e
def fFrac (f : Fmt) (x : Nat) : Nat := x % 2 ^ f.t
def fMake (f : Fmt) (neg : Bool) (e t : Nat) : Nat := b2n neg <<< (f.t + f.e) + e <<< f.t + t
def fAbs (f : Fmt) (x : Nat) : Nat := x % 2 ^ (f.t + f.e)

/-- The classes of R70. -/
def isNaN (f : Fmt) (x : Nat) : Bool :=
  fExp f x == 2 ^ f.e - 1 && (if f = .e4m3 then fFrac f x == 7 else fFrac f x != 0)
def isSNaN (f : Fmt) (x : Nat) : Bool := f != .e4m3 && isNaN f x && !x.testBit (f.t - 1)
def isInf (f : Fmt) (x : Nat) : Bool := f != .e4m3 && fExp f x == 2 ^ f.e - 1 && fFrac f x == 0
def isZero (f : Fmt) (x : Nat) : Bool := fExp f x == 0 && fFrac f x == 0
def isSub (f : Fmt) (x : Nat) : Bool := fExp f x == 0 && fFrac f x != 0
def quiet (f : Fmt) (x : Nat) : Nat := if f = .e4m3 then x else x ||| 2 ^ (f.t - 1)
def canonNaN : Fmt → Nat
  | .fp32 => 0x7FC00000 | .bf16 => 0x7FC0 | .e5m2 => 0x7E | .e4m3 => 0x7F
/-- Infinity of sign `neg`; for E4M3, 448 (R92). -/
def fInf (f : Fmt) (neg : Bool) : Nat :=
  if f = .e4m3 then fMake f neg 15 6 else fMake f neg (2 ^ f.e - 1) 0
def fMax (f : Fmt) (neg : Bool) : Nat :=
  if f = .e4m3 then fMake f neg 15 6 else fMake f neg (2 ^ f.e - 2) (2 ^ f.t - 1)
def fZero (f : Fmt) (neg : Bool) : Nat := fMake f neg 0 0

/-- An operand as a flushing stream reads it (R76). -/
def flush (f : Fmt) (ftz : Bool) (x : Nat) : Nat :=
  if ftz && f.flushes && isSub f x then fZero f (fSign f x) else x

/-- An exact value `± num / den`; a zero keeps a sign (R79). -/
structure Exact where
  neg : Bool
  num : Nat
  den : Nat
  deriving DecidableEq, Repr

/-- `± n × 2^k`. -/
def Exact.scaled (neg : Bool) (n : Nat) (k : Int) : Exact :=
  if 0 ≤ k then ⟨neg, n * 2 ^ k.toNat, 1⟩ else ⟨neg, n, 2 ^ (-k).toNat⟩
def Exact.ofInt (x : Int) : Exact := ⟨decide (x < 0), x.natAbs, 1⟩
def Exact.isZero (x : Exact) : Bool := x.num == 0
def Exact.negate (x : Exact) : Exact := { x with neg := !x.neg }

/-- `Value` of a finite encoding (R69, R92). -/
def value (f : Fmt) (x : Nat) : Exact :=
  if fExp f x = 0 then .scaled (fSign f x) (fFrac f x) (1 - f.bias - f.t)
  else .scaled (fSign f x) (2 ^ f.t + fFrac f x) ((fExp f x : Int) - f.bias - f.t)

def Exact.mul (a b : Exact) : Exact := ⟨a.neg != b.neg, a.num * b.num, a.den * b.den⟩

/-- A sum with the sign of an exact zero of R79. -/
def Exact.add (m : Rm) (a b : Exact) : Exact :=
  if a.num = 0 ∧ b.num = 0 then ⟨(a.neg && b.neg) || m == .rd, 0, 1⟩
  else
    let x : Int := (if a.neg then -1 else 1) * (a.num * b.den : Nat) + (if b.neg then -1 else 1) * (b.num * a.den : Nat)
    if x = 0 then ⟨m == .rd, 0, 1⟩ else ⟨decide (x < 0), x.natAbs, a.den * b.den⟩

/-- `floor(log2(num / den))`. -/
def Exact.log2 (x : Exact) : Int :=
  let k : Int := (x.num.log2 : Int) - x.den.log2
  if 0 ≤ k then (if x.num < x.den * 2 ^ k.toNat then k - 1 else k)
  else (if x.num * 2 ^ (-k).toNat < x.den then k - 1 else k)

/-- The integer that mode `m` keeps of `tn / td`, sign `neg` (R78, R80). -/
def roundQuot (m : Rm) (neg : Bool) (tn td sr : Nat) : Nat :=
  let n := tn / td
  let r := tn % td
  match m with
  | .rne => if 2 * r < td then n else if 2 * r = td then n + n % 2 else n + 1
  | .rz => n
  | .ru => if neg then n else n + b2n (r != 0)
  | .rd => if neg then n + b2n (r != 0) else n
  | .sr => (tn * 2 ^ 32 + sr * td) / (td * 2 ^ 32)

/-- The result of an overflow (R78). -/
def overflowTo (f : Fmt) (m : Rm) (neg : Bool) : Nat :=
  match f with
  | .e4m3 => fInf f neg
  | .fp32 | .bf16 | .e5m2 =>
    match m with
    | .rne | .sr => fInf f neg
    | .rz => fMax f neg
    | .ru => if neg then fMax f neg else fInf f neg
    | .rd => if neg then fInf f neg else fMax f neg

/-- `Round` of R80. -/
def roundTo (f : Fmt) (x : Exact) (m : Rm) (sr : Nat) (ftz : Bool) : Nat × FFlags :=
  if x.num = 0 then (fZero f x.neg, ffNone)
  else
    let emin : Int := 1 - (f.bias : Int)
    let l := x.log2
    let tiny := decide (l < emin)
    if ftz && f.flushes && tiny then (fZero f x.neg, ffUF ||| ffNX)
    else
      let e := max l emin
      let k := e - f.t
      let tn := if 0 ≤ k then x.num else x.num * 2 ^ (-k).toNat
      let td := if 0 ≤ k then x.den * 2 ^ k.toNat else x.den
      let n := roundQuot m x.neg tn td sr
      let nx := n * td != tn
      let fl := (if nx then ffNX else 0) ||| (if tiny && nx then ffUF else 0)
      let (n, e) := if n = 2 ^ (f.t + 1) then (2 ^ f.t, e + 1) else (n, e)
      if f.emax < e ∨ (e = f.emax ∧ f.maxSig < n) then (overflowTo f m x.neg, fl ||| ffOF ||| ffNX)
      else if n < 2 ^ f.t then
        (if ftz && f.flushes && n != 0 then (fZero f x.neg, fl ||| ffUF ||| ffNX) else (fMake f x.neg 0 n, fl))
      else (fMake f x.neg (e + f.bias).toNat (n - 2 ^ f.t), fl)

/-- A NaN of `src` carried to `dst` by R85: quiet, payload in the top bits of T. -/
def nanTo (dst src : Fmt) (x : Nat) : Nat :=
  let neg := fSign src x
  match dst with
  | .e4m3 => fMake .e4m3 neg 15 7
  | .e5m2 => fMake .e5m2 neg 31 2
  | .fp32 | .bf16 =>
    let t := if src = .e4m3 then 0 else fFrac src x
    let t' := if src.t ≤ dst.t then t <<< (dst.t - src.t) else t >>> (src.t - dst.t)
    fMake dst neg 255 (t' ||| 2 ^ (dst.t - 1))

/-- `PickNaN` over the operands in order (R83): the first NaN, and IV if any is signalling. -/
def pickNaN (f : Fmt) (xs : List Nat) : Option (Nat × FFlags) :=
  match xs.find? (isNaN f) with
  | none => none
  | some x => some (quiet f x, if xs.any (isSNaN f) then ffIV else ffNone)

def invalid (f : Fmt) : Nat × FFlags := (canonNaN f, ffIV)

/-- An operand negated, a NaN excepted (R84). -/
def negOp (f : Fmt) (x : Nat) : Nat := if isNaN f x then x else x ^^^ 2 ^ (f.t + f.e)

/-- `FMAop` of R84 over operands already flushed. -/
def fmaOp (f : Fmt) (a b c : Nat) (m : Rm) (sr : Nat) (ftz : Bool) : Nat × FFlags :=
  match pickNaN f [a, b, c] with
  | some r => r
  | none =>
    let neg := fSign f a != fSign f b
    if (isZero f a && isInf f b) || (isInf f a && isZero f b) then invalid f
    else if isInf f a || isInf f b then
      (if isInf f c && fSign f c != neg then invalid f else (fInf f neg, ffNone))
    else if isInf f c then (c, ffNone)
    else roundTo f (((value f a).mul (value f b)).add m (value f c)) m sr ftz

def addOp (f : Fmt) (a b : Nat) (m : Rm) (sr : Nat) (ftz : Bool) : Nat × FFlags :=
  match pickNaN f [a, b] with
  | some r => r
  | none =>
    if isInf f a then
      (if isInf f b && fSign f a != fSign f b then invalid f else (a, ffNone))
    else if isInf f b then (b, ffNone)
    else roundTo f ((value f a).add m (value f b)) m sr ftz

def mulOp (f : Fmt) (a b : Nat) (m : Rm) (sr : Nat) (ftz : Bool) : Nat × FFlags :=
  match pickNaN f [a, b] with
  | some r => r
  | none =>
    let neg := fSign f a != fSign f b
    if (isZero f a && isInf f b) || (isInf f a && isZero f b) then invalid f
    else if isInf f a || isInf f b then (fInf f neg, ffNone)
    else roundTo f ((value f a).mul (value f b)) m sr ftz

/-- Division with the invalid cases and DZ of R83. -/
def divOp (f : Fmt) (a b : Nat) (m : Rm) (sr : Nat) (ftz : Bool) : Nat × FFlags :=
  match pickNaN f [a, b] with
  | some r => r
  | none =>
    let neg := fSign f a != fSign f b
    if (isZero f a && isZero f b) || (isInf f a && isInf f b) then invalid f
    else if isInf f a then (fInf f neg, ffNone)
    else if isInf f b then (fZero f neg, ffNone)
    else if isZero f b then (fInf f neg, ffDZ)
    else
      let x := value f a
      let y := value f b
      roundTo f ⟨neg, x.num * y.den, x.den * y.num⟩ m sr ftz

/-- Square root; 72 bits below the point decide every mode, stochastic rounding included, and a last bit
stands for an inexact remainder. -/
def sqrtOp (f : Fmt) (a : Nat) (m : Rm) (sr : Nat) (ftz : Bool) : Nat × FFlags :=
  match pickNaN f [a] with
  | some r => r
  | none =>
    if isZero f a then (a, ffNone)
    else if fSign f a then invalid f
    else if isInf f a then (a, ffNone)
    else
      let x := value f a
      let v := x.num * x.den * 2 ^ 400
      let r := isqrt v
      roundTo f ⟨false, if r * r = v then 2 * r else 2 * r + 1, 2 * x.den * 2 ^ 200⟩ m sr ftz

/-- Floating point to floating point (R85). -/
def cvtFF (dst src : Fmt) (x : Nat) (m : Rm) (sr : Nat) (ftz : Bool) : Nat × FFlags :=
  let x := flush src ftz x
  if isNaN src x then (nanTo dst src x, if isSNaN src x then ffIV else ffNone)
  else if isInf src x then (if dst = .e4m3 then invalid .e4m3 else (fInf dst (fSign src x), ffNone))
  else roundTo dst (value src x) m sr ftz

/-- Integer to floating point (R86). -/
def cvtIF (dst : Fmt) (x : Int) (m : Rm) (sr : Nat) (ftz : Bool) : Nat × FFlags :=
  roundTo dst (.ofInt x) m sr ftz

/-- Floating point to an `n`-bit integer (R86), in two's complement. -/
def cvtFI (n : Nat) (src : Fmt) (x : Nat) (m : Rm) (sr : Nat) (ftz : Bool) : Nat × FFlags :=
  let x := flush src ftz x
  if isNaN src x then (0, ffIV)
  else if isInf src x then (low n (if fSign src x then -(2 ^ (n - 1)) else 2 ^ (n - 1) - 1), ffIV)
  else
    let v := value src x
    let k := roundQuot m v.neg v.num v.den sr
    let r : Int := if v.neg then -(k : Int) else k
    if satS n r ≠ r then (low n (satS n r), ffIV)
    else (low n r, if k * v.den ≠ v.num then ffNX else ffNone)

/-- One pass of `SRBits` (R81). -/
def srRound (v w : DWord) : DWord × DWord :=
  let v := v * 0xD1B54A32D192ED03
  let v := v ^^^ (v >>> 29)
  let v := v ^^^ w
  (v, rotl64 w 17 + v)

/-- `SRBits` of R81. -/
def srBits (k : DWord) (tensor step : BitVec 16) (row col : Word) : Nat :=
  let v : DWord := (row ++ col) ^^^ k
  let w : DWord := (tensor ++ step ++ (0 : Word)) ^^^ rotl64 k 29
  let (v, w) := srRound v w
  let (v, w) := srRound v w
  let (v, w) := srRound v w
  let (v, _) := srRound v w
  (v.extractLsb' 32 32).toNat

/-- One level of `TreeSum`: adjacent pairs through `op`, the flags gathered. -/
def treeLevel (op : Nat → Nat → Nat × FFlags) : List Nat → List Nat × FFlags
  | a :: b :: xs =>
    let (r, f) := op a b
    let (rs, g) := treeLevel op xs
    (r :: rs, f ||| g)
  | xs => (xs, ffNone)

/-- The tree of R91 over `2^k` values. -/
def treeFold (op : Nat → Nat → Nat × FFlags) : Nat → List Nat → Nat × FFlags
  | 0, xs => (xs.headD 0, ffNone)
  | k + 1, xs =>
    let (ys, f) := treeLevel op xs
    let (r, g) := treeFold op k ys
    (r, f ||| g)

end Sys2Proof.Machine
end

