-- ==== Sys2Proof/Syntax.lean ====
section
/-! DEFINITION. The instruction set Jarist (file 03) and the part's other steps: one constructor per row of
spec/opcode_table.json. Rows with an encoding carry their operand fields; rows without one (engine steps,
arrivals, timeouts, host commands) carry what names the unit concerned and what the outside world supplies. -/

namespace Sys2Proof

/-- The streams of a slot and the packet threads of the NPD, by link-word class (R25, R40). -/
inductive Cls where
  | ctl | vec | mat | ldr | str | net
  deriving DecidableEq, Repr, Inhabited

/-- Who issues instructions: a stream of a slot of a core, or a packet thread (R25, R339). -/
inductive Agent where
  | strm (core slot : Nat) (cls : Cls)
  | thread (t : Nat)
  deriving DecidableEq, Repr, Inhabited

/-- GUARD and GSENSE of the long and literal forms (R48, R50). -/
structure Guard where
  neg : Bool
  p : BitVec 4
  deriving DecidableEq, Repr

/-- Source b of an instruction that has a long and a literal form (R49): register, or the 32-bit literal. -/
inductive Src where
  | reg (r : BitVec 6)
  | lit (w : Word)
  deriving DecidableEq, Repr

/-- Offset and width of BFX and BFI (R100, R104): two registers, two immediates, or the literal's sub-fields. -/
inductive BField where
  | regs (b c : BitVec 6)
  | imm (off wid : BitVec 6)
  | lit (w : Word)
  deriving DecidableEq, Repr

/-- The second operand of PLOG (R109): a predicate, or bit 0 of the literal. -/
inductive PlogB where
  | pred (p : BitVec 4)
  | lit (w : Word)
  deriving DecidableEq, Repr

/-- A literal-form value that stands in field B of the long form. -/
inductive NSrc where
  | imm (n : BitVec 10)
  | lit (w : Word)
  deriving DecidableEq, Repr

/-- An 18-bit offset `{C, B}` of a long form, or the literal (R260). -/
inductive Off where
  | off (o : BitVec 18)
  | lit (w : Word)
  deriving DecidableEq, Repr

/-- The 28-bit immediate `{C, B, A}` of VLD and VST, or the literal (R260). -/
inductive VImm where
  | imm (o : BitVec 28)
  | lit (w : Word)
  deriving DecidableEq, Repr

/-- A count that is an immediate in B or a register (R178). -/
inductive Cnt where
  | imm (n : BitVec 10)
  | reg (r : BitVec 6)
  deriving DecidableEq, Repr

/-- A tile named by number or by a register (R207). -/
inductive TileRef where
  | imm (n : BitVec 9)
  | reg (r : BitVec 6)
  deriving DecidableEq, Repr

/-- Element types of the vector classes (R57). -/
inductive VType where
  | bf16 | fp32 | int16 | int32
  deriving DecidableEq, Repr

/-- Source a of a class 010 instruction (R51, R138). -/
inductive VSrcA where
  | reg (r : BitVec 10)
  | queue (q : BitVec 4)
  deriving DecidableEq, Repr

/-- Source b of a class 010 instruction (R49, R51, R138). -/
inductive VSrcB where
  | reg (r : BitVec 10)
  | queue (q : BitVec 4)
  | lit (w : Word)
  deriving DecidableEq, Repr

/-- The fields of a class 010 instruction (R51, R138); `c` is the addend offset of the FMA families, the
condition of VCMP and the select mask of VSEL. -/
structure VArgs where
  g : Guard
  ty : VType
  round : BitVec 3
  mask : BitVec 4
  d : BitVec 10
  a : VSrcA
  b : VSrcB
  c : BitVec 8
  deriving DecidableEq, Repr

/-- The fields shared by the read-outs ACRD and ACCVT (R223). -/
structure ReadOutArgs where
  g : Guard
  tgt : Bool
  target : BitVec 5
  bank : BitVec 2
  sig : Bool
  flag : BitVec 6
  first : BitVec 10
  rows : BitVec 8
  gang : Bool
  deriving DecidableEq, Repr

/-- The fields of KFILL (R154). -/
inductive KFillArgs where
  | long (a b : BitVec 10) (c : BitVec 8)
  | lit (w : Word)
  deriving DecidableEq, Repr

/-- The target line of SSTART (R178). -/
inductive LineRef where
  | imm (l : BitVec 14)
  | reg (r : BitVec 6)
  deriving DecidableEq, Repr

/-- The operand of UNFOLD (R178, R185). -/
inductive UnfoldArg where
  | reg (r : BitVec 6)
  | lit (w : Word)
  | off
  deriving DecidableEq, Repr

/-- The value of MPSET (R223). -/
inductive MpVal where
  | imm (v : BitVec 18)
  | lit (w : Word)
  deriving DecidableEq, Repr

/-- The live-tile mask of PPOINT, and its bit ALL, beside which the mask says nothing (R393, R398, R401). -/
inductive PMask where
  | mask (all : Bool) (m : BitVec 10)
  | lit (all : Bool) (w : Word)
  deriving DecidableEq, Repr

/-- The requesters that hold a translation cache: a core, a bay's copy engines, the NPD (R245). -/
inductive XUnit where
  | core (c : Nat)
  | bay (b : Nat)
  | npd
  deriving DecidableEq, Repr

/-- The Xiton message header of R347 with its payload, as the transport hands it over, together with the
transport facts about the packet: sender, delivery mode, sequence number and arrival time stamp. (DESIGN CHOICE, log 61) -/
structure Packet where
  peer : Nat
  rod : Bool
  psn : Nat
  stamp : DWord
  hdr : List DWord
  payload : List Byte
  deriving DecidableEq, Repr

/-- The sensor readings of one temperature sample in units of 0.25 K (R427): dies, the stack sensors, NPD. -/
structure Readings where
  dies : List Nat
  hbms : List Nat
  npd : Nat
  deriving DecidableEq, Repr

/-- The increase of the ten energy counters over a limiter tick, in nanojoules (R435, R439). (DESIGN CHOICE, log 75) -/
structure EnergyDelta where
  cd : List Nat
  npd : Nat
  hbm : Nat
  silo : Nat
  link : Nat
  chaff : Nat
  deriving DecidableEq, Repr

/-- The steps of the part, one constructor per row of spec/opcode_table.json. -/
inductive Instr where
  -- class 000 and its short forms (R100 to R109, R59, R60)
  | add (g : Guard) (d a : BitVec 6) (b : Src)
  | addShortReg (d a b : BitVec 5)
  | addShortImm (d a : BitVec 5) (i : BitVec 14)
  | addShortB (d : BitVec 5) (i : BitVec 19)
  | sub (g : Guard) (d a : BitVec 6) (b : Src)
  | subShortReg (d a b : BitVec 5)
  | mul (g : Guard) (d a : BitVec 6) (b : Src)
  | mulShortReg (d a b : BitVec 5)
  | mulh (g : Guard) (d a : BitVec 6) (b : Src)
  | mulhu (g : Guard) (d a : BitVec 6) (b : Src)
  | div (g : Guard) (d a : BitVec 6) (b : Src)
  | divu (g : Guard) (d a : BitVec 6) (b : Src)
  | rem (g : Guard) (d a : BitVec 6) (b : Src)
  | remu (g : Guard) (d a : BitVec 6) (b : Src)
  | and (g : Guard) (d a : BitVec 6) (b : Src)
  | andShortReg (d a b : BitVec 5)
  | andShortImm (d a : BitVec 5) (i : BitVec 14)
  | or (g : Guard) (d a : BitVec 6) (b : Src)
  | orShortReg (d a b : BitVec 5)
  | orShortImm (d a : BitVec 5) (i : BitVec 14)
  | xor (g : Guard) (d a : BitVec 6) (b : Src)
  | xorShortReg (d a b : BitVec 5)
  | xorShortImm (d a : BitVec 5) (i : BitVec 14)
  | andn (g : Guard) (d a : BitVec 6) (b : Src)
  | shl (g : Guard) (d a : BitVec 6) (b : Src)
  | shlShortReg (d a b : BitVec 5)
  | shlShortImm (d a : BitVec 5) (i : BitVec 14)
  | shr (g : Guard) (d a : BitVec 6) (b : Src)
  | shrShortReg (d a b : BitVec 5)
  | shrShortImm (d a : BitVec 5) (i : BitVec 14)
  | sra (g : Guard) (d a : BitVec 6) (b : Src)
  | sraShortReg (d a b : BitVec 5)
  | sraShortImm (d a : BitVec 5) (i : BitVec 14)
  | rotl (g : Guard) (d a : BitVec 6) (b : Src)
  | rotr (g : Guard) (d a : BitVec 6) (b : Src)
  | clz (g : Guard) (d a : BitVec 6)
  | ctz (g : Guard) (d a : BitVec 6)
  | popc (g : Guard) (d a : BitVec 6)
  | bfx (g : Guard) (d a : BitVec 6) (f : BField)
  | bfi (g : Guard) (d a : BitVec 6) (f : BField)
  | movi (g : Guard) (hi zx : Bool) (d : BitVec 6) (w : Word)
  | moviShort (d : BitVec 5) (i : BitVec 19)
  | lea (g : Guard) (sh : BitVec 3) (d a : BitVec 6) (b : Src)
  | min (g : Guard) (d a : BitVec 6) (b : Src)
  | minShortReg (d a b : BitVec 5)
  | max (g : Guard) (d a : BitVec 6) (b : Src)
  | maxShortReg (d a b : BitVec 5)
  | minu (g : Guard) (d a : BitVec 6) (b : Src)
  | maxu (g : Guard) (d a : BitVec 6) (b : Src)
  | cmp (g : Guard) (cond : BitVec 5) (d : BitVec 4) (a : BitVec 6) (b : Src)
  | sel (g : Guard) (pm : BitVec 4) (d a : BitVec 6) (b : Src)
  | plog (g : Guard) (table : BitVec 4) (d a : BitVec 4) (b : PlogB)
  | nop
  -- class 001 (R110 to R119)
  | br (g : Guard) (off : Word)
  | brShort (i : BitVec 19)
  | brx (g : Guard) (a : BitVec 6) (off : BitVec 18)
  | call (g : Guard) (d : BitVec 6) (off : Word)
  | callShort (d : BitVec 5) (i : BitVec 19)
  | callx (g : Guard) (d a : BitVec 6) (off : BitVec 18)
  | ret (g : Guard) (a : BitVec 6)
  | loop (g : Guard) (s1 : BitVec 3) (n : Src)
  | bloop (g : Guard) (off : Word)
  | bloopShort (i : BitVec 19)
  /-- `FWAIT fD, V`: V is the long form's 16 bits or the literal (R117). -/
  | fwait (g : Guard) (f : BitVec 6) (lit : Bool) (v : BitVec 16)
  | fwaitShort (f : BitVec 5) (v : BitVec 16)
  | fsig (g : Guard) (f : BitVec 6) (lit : Bool) (v : BitVec 16)
  | fsigShort (f : BitVec 5) (v : BitVec 16)
  | fset (g : Guard) (f : BitVec 6) (lit : Bool) (v : BitVec 16)
  | fread (g : Guard) (d : BitVec 6) (f : BitVec 6)
  | waitb (g : Guard) (lit : Bool) (n : BitVec 16)
  | shalt (g : Guard) (f : Option (BitVec 6))
  -- class 010 (R138 to R145)
  | vadd (x : VArgs)
  | vaddBf16Short (d a b : BitVec 5)
  | vaddFp32Short (d a b : BitVec 5)
  | vsub (x : VArgs)
  | vsubBf16Short (d a b : BitVec 5)
  | vmul (x : VArgs)
  | vmulBf16Short (d a b : BitVec 5)
  | vmulFp32Short (d a b : BitVec 5)
  | fma (x : VArgs)
  | fmaBf16Short (d a b : BitVec 5)
  | fmaFp32Short (d a b : BitVec 5)
  | fms (x : VArgs)
  | fnma (x : VArgs)
  | vmin (x : VArgs)
  | vminBf16Short (d a b : BitVec 5)
  | vmax (x : VArgs)
  | vmaxBf16Short (d a b : BitVec 5)
  | vminnum (x : VArgs)
  | vmaxnum (x : VArgs)
  | vabs (x : VArgs)
  | vneg (x : VArgs)
  | vand (x : VArgs)
  | vor (x : VArgs)
  | vxor (x : VArgs)
  | vshl (x : VArgs)
  | vshr (x : VArgs)
  | vsra (x : VArgs)
  | vcmp (x : VArgs)
  | vsel (x : VArgs)
  | vmov (x : VArgs)
  | vmovBf16Short (d a : BitVec 5)
  | vdiv (x : VArgs)
  | vsqrt (x : VArgs)
  -- class 011 (R146 to R154)
  | vrotRow (g : Guard) (ty : VType) (mask : BitVec 4) (d a : BitVec 10) (n : NSrc)
  | vrotCol (g : Guard) (ty : VType) (mask : BitVec 4) (d a : BitVec 10) (n : NSrc)
  | vbcastRow (g : Guard) (ty : VType) (mask : BitVec 4) (d a : BitVec 10) (n : NSrc)
  | vbcastCol (g : Guard) (ty : VType) (mask : BitVec 4) (d a : BitVec 10) (n : NSrc)
  | vredRow (g : Guard) (ty : VType) (round : BitVec 3) (mask : BitVec 4) (d a : BitVec 10) (fn : BitVec 8)
  | vredCol (g : Guard) (ty : VType) (round : BitVec 3) (mask : BitVec 4) (d a : BitVec 10) (fn : BitVec 8)
  | vcvt (g : Guard) (round : BitVec 3) (mask : BitVec 4) (d a : BitVec 10) (fmts : BitVec 8)
  | vpack (g : Guard) (round : BitVec 3) (mask : BitVec 4) (d a : BitVec 10) (fmts : BitVec 8)
  | vunpk (g : Guard) (mask : BitVec 4) (d a : BitVec 10) (fmts : BitVec 8)
  | vrgn (g : Guard) (first : BitVec 10) (count : NSrc)
  | vyield (g : Guard)
  | kand (g : Guard) (d a b : BitVec 4)
  | kor (g : Guard) (d a b : BitVec 4)
  | kxor (g : Guard) (d a b : BitVec 4)
  | kandn (g : Guard) (d a b : BitVec 4)
  | kfill (g : Guard) (d : BitVec 4) (x : KFillArgs)
  -- class 100 (R223)
  | mpset (g : Guard) (sel : BitVec 3) (v : MpVal)
  | mm (g : Guard) (bank : BitVec 2) (ovw : Bool) (sig : Option (BitVec 6))
  | mmg (g : Guard) (bank : BitVec 2) (ovw : Bool) (sig : Option (BitVec 6))
  | acrd (x : ReadOutArgs) (int lay : Bool)
  | acclr (g : Guard) (bank : BitVec 2) (sig : Option (BitVec 6))
  | accvt (x : ReadOutArgs) (round : BitVec 3) (fmt : BitVec 4)
  | mscl (g : Guard) (tabB : Bool) (q : BitVec 4)
  | mprog (g : Guard)
  -- class 101 (R260, R307)
  | ld (g : Guard) (size : BitVec 3) (d a : BitVec 6) (off : Off)
  | st (g : Guard) (size : BitVec 3) (d a : BitVec 6) (off : Off)
  | vld (g : Guard) (w : Bool) (mask : BitVec 4) (d : BitVec 10) (imm : VImm)
  | vst (g : Guard) (w : Bool) (mask : BitVec 4) (d : BitVec 10) (imm : VImm)
  | vstQ (g : Guard) (w : Bool) (q : BitVec 4) (a : BitVec 10) (fmt : BitVec 4)
  | fence (g : Guard) (scope : BitVec 3) (pred succ : BitVec 6)
  | amo (g : Guard) (op : BitVec 4) (acq rel : Bool) (scope : BitVec 3) (d a : BitVec 6) (b : Src)
  | cas (g : Guard) (acq rel : Bool) (scope : BitVec 3) (d a b c : BitVec 6)
  | vamo (g : Guard) (op : BitVec 4) (ret : Bool) (mask : BitVec 4) (d a : BitVec 10) (b : VSrcB)
  | marm (g : Guard) (d a : BitVec 6) (off : Off)
  | mwait (g : Guard) (ne : Bool) (d : BitVec 6) (b : Src)
  -- class 110, streams and queues (R178)
  | dset (g : Guard) (d : BitVec 5) (w : BitVec 3) (b : Src)
  | drld (g : Guard) (all : Bool) (d : BitVec 5)
  | sstart (g : Guard) (cls : Cls) (line : LineRef)
  | sstop (g : Guard) (cls : Cls) (sig : Option (BitVec 6))
  | qput (g : Guard) (q : BitVec 4) (d : BitVec 5) (n : Cnt)
  | qget (g : Guard) (d : BitVec 5) (q : BitVec 4) (n : Cnt)
  | wadv (g : Guard) (d : BitVec 5) (b : Src)
  | unfold (g : Guard) (d : BitVec 5) (b : UnfoldArg)
  | pswap (g : Guard)
  -- class 110, tiles (R207)
  | talloc (g : Guard) (win : Bool) (d : BitVec 6) (n : TileRef) (size : Src) (key : BitVec 6)
  | tfree (g : Guard) (n : TileRef)
  | tsetFill (g : Guard) (n : TileRef)
  | tsetFillfor (g : Guard) (n : TileRef) (b : Src)
  | tsetDrain (g : Guard) (n : TileRef)
  | tsetAbort (g : Guard) (n : TileRef)
  | tsetAdv (g : Guard) (n : TileRef)
  | tsetOrg (g : Guard) (n : TileRef) (b : Src)
  | tsetWstep (g : Guard) (n : TileRef) (b : Src)
  | tsetKey (g : Guard) (n : TileRef) (b : Src)
  | tqry (g : Guard) (d : BitVec 6) (n : TileRef) (w : BitVec 2)
  | tpost (g : Guard) (scope : BitVec 3) (n : TileRef)
  | trot (g : Guard) (dn : Bool) (dst src : BitVec 9) (mask : BitVec 6) (sig : Option (BitVec 6))
  | tres (g : Guard) (d a : BitVec 6) (core : Option (BitVec 6))
  | taddr (g : Guard) (d : BitVec 6) (n : TileRef) (b : BitVec 6) (core : Option (BitVec 6))
  -- class 110, tasks (R332)
  | enq (g : Guard) (d a : BitVec 6)
  | enqnb (g : Guard) (d a : BitVec 6)
  | split (g : Guard) (d a : BitVec 6) (n : BitVec 10)
  | srad (g : Guard) (b : Src)
  | retire (g : Guard)
  | yield (g : Guard) (d : BitVec 6)
  | glaunch (g : Guard) (d a : BitVec 6)
  | dbar (g : Guard) (nw : Bool) (d : BitVec 6)
  | pin (g : Guard) (d a : BitVec 6) (m : Src)
  | glean (g : Guard) (d a : BitVec 6)
  -- class 110, copies and near memory (R281, R291)
  | copy (g : Guard) (d t : BitVec 6) (src dst : Option (BitVec 6))
  | tmplw (g : Guard) (t : BitVec 6) (w : BitVec 3) (b : Src)
  | swait (g : Guard) (d t : BitVec 6) (b : Src)
  | nmc (g : Guard) (d a : BitVec 6)
  | nmfence (g : Guard) (d : BitVec 6)
  -- class 111, network (R370)
  | arm (g : Guard) (d a : BitVec 6) (b : Src)
  | disarm (g : Guard) (d a : BitVec 6)
  | crd (g : Guard) (d a : BitVec 6)
  | cadd (g : Guard) (d a : BitVec 6) (b : Src)
  | cwait (g : Guard) (d a : BitVec 6) (b : Src)
  | send (g : Guard) (d a : BitVec 6)
  | hret (g : Guard) (n : Option (BitVec 6))
  | rsalloc (g : Guard) (d a : BitVec 6)
  | rscon (g : Guard) (d a b c : BitVec 6)
  | rsclose (g : Guard) (drop : Bool) (d a : BitVec 6)
  | tsrd (g : Guard) (sel : BitVec 2) (d : BitVec 6)
  -- class 111, traps and system (R398)
  | trap (g : Guard) (n : NSrc)
  | tret (g : Guard) (skip : Bool)
  | sysrd (g : Guard) (d : BitVec 6) (sel : BitVec 10)
  | syswr (g : Guard) (a : BitVec 6) (sel : BitVec 10)
  | ppoint (g : Guard) (d : BitVec 6) (m : PMask)
  | xinv (g : Guard) (d a b : BitVec 6)
  | partStop (g : Guard) (d a : BitVec 6)
  | partRelease (g : Guard) (d a : BitVec 6)
  | partReset (g : Guard) (d a : BitVec 6)
  | partRequest (g : Guard) (d a : BitVec 6)
  | cryoQuery (g : Guard) (d a : BitVec 6)
  | cryoCool (g : Guard) (d a : BitVec 6)
  | cryoWarm (g : Guard) (d a : BitVec 6)
  | cryoForceRetreat (g : Guard) (d a : BitVec 6)
  | cryoReleaseRetreat (g : Guard) (d a : BitVec 6)
  | cryoClearRatev (g : Guard) (d a : BitVec 6)
  -- steps without an encoding: issue and traps
  | lineAdvance (a : Agent)
  | streamUnblock (a : Agent)
  | asyncTrapDelivery (core slot : Nat)
  | freezeStart (core : Nat)
  /-- The reply to the vector memory access number `seq` of the slot arrives (R389). -/
  | vectorReplyArrival (core slot seq : Nat)
  | freezeWatchdogExpiry (core : Nat)
  -- tasks
  | taskBinding (core slot : Nat)
  | retirementComplete (core slot : Nat)
  | launchWaitJoin (part : Nat)
  | stealRequest (core : Nat)
  | stealAnswer (thief : Nat)
  | gangBinding (bay : Nat)
  | gleaningPreemptTimeout (core slot : Nat)
  | domainStallTimeout (part level domain : Nat)
  | barrierCompletion (part level domain : Nat)
  | unitsPass (core : Nat)
  | unitIdleExpiry (core : Nat)
  | unitHoldExpiry (core : Nat)
  | gleaningDrainTimeout (core : Nat)
  -- streams, planes, matrix, rotation, placement
  | transferRowset (a : Agent)
  | planeSwap (core : Nat)
  | matrixStep (core slot : Nat)
  | readoutRowset (core slot : Nat)
  | rotationStart (bay core : Nat)
  | rotationEnd (bay core : Nat)
  | residencyViewUpdate (die core : Nat)
  -- copies, near memory, memory controllers
  | copyAdmission (bay : Nat)
  | copyExecution (bay eng : Nat)
  | copyCompletion (bay eng : Nat)
  | nmcLineUpdate (stack : Nat)
  | translationWalkComplete (u : XUnit) (part granule : Nat)
  | writeQueueDrain (ctrl : Nat)
  | countPeriodClear (part : Nat)
  /-- A CRC error on a lane of a channel; `again` says that the replay itself saw a further error (R256). -/
  | crcReplay (ctrl channel lane : Nat) (again : Bool)
  | laneRepair (ctrl channel lane : Nat)
  | patrolScrubRead (line : Nat)
  -- the NPD
  | packetReceive (p : Packet)
  | barrierArrivalMessage (p : Packet)
  | handlerStart (part : Nat)
  | eventHandlerStart (part : Nat)
  | handlerWatchdog (t : Nat)
  | counterAdvance (msg : Nat)
  | sendAcknowledged (part idx : Nat)
  | sendTimeout (part idx : Nat)
  | reductionSlotTimeout (slot : Nat)
  -- host link
  | hringResvRead (fn : Nat)
  | hringCommit (fn : Nat) (v : DWord)
  | hringEnable (fn : Nat) (v : DWord)
  | hrxEnable (fn : Nat) (v : DWord)
  | hringReset (fn : Nat)
  | hringResume (fn : Nat)
  | registerWrite (fn off : Nat) (v : DWord)
  | functionLevelResetVf (n : Nat)
  | functionLevelResetPf0
  | hostNop (fn : Nat)
  | launch (fn : Nat)
  | htod (fn : Nat)
  | dtoh (fn : Nat)
  | hostCadd (fn : Nat)
  | hostArm (fn : Nat)
  | indirect (fn : Nat)
  | domain (fn : Nat)
  | peer (fn : Nat)
  | plane (fn : Nat)
  | pcreate (fn : Nat)
  | pdestroy (fn : Nat)
  | preset (fn : Nat)
  | update (fn : Nat)
  | commandCompletion (fn ticket : Nat)
  | updateQuiesceTimeout
  | firmwareWatchdogFailover
  -- module
  | moduleColdReset
  | temperatureSample (r : Readings)
  | cryoSettleExpiry (die : Nat)
  | timingSetChange (ctrl channel : Nat)
  | limiterTick (e : EnergyDelta)
  | telemetrySample
  | translationInvalidateComplete (idx : Nat)
  | sendRetransmit (part idx : Nat)
  /-- A PTP event message: its time stamp sets the device time by the servo's correction (R350). -/
  | ptpMessageReceive (time : DWord) (locked master : Bool)
  deriving DecidableEq, Repr

end Sys2Proof
end

