-- ==== Sys2Proof/WellFormed.lean ====
section
/-! DEFINITION. Which instruction terms stand for an encoding: the field checks that R61 reports with
sub-cause 5 (`codeOk`), 6 (`limitOk`) and 7 (`guardOk`), over the operand fields that the syntax still leaves
wider than their kind allows; and, for the steps without an encoding, that they name a unit that exists. -/

namespace Sys2Proof

/-- GUARD = 0 with GSENSE = 1 is illegal (R50). -/
def Guard.ok (g : Guard) : Bool := !(g.neg && g.p == 0)

def VType.wide : VType → Bool
  | .fp32 | .int32 => true
  | .bf16 | .int16 => false

def VType.isInt : VType → Bool
  | .int16 | .int32 => true
  | .bf16 | .fp32 => false

def VType.code : VType → BitVec 2
  | .bf16 => 0 | .fp32 => 1 | .int16 => 2 | .int32 => 3

/-- A register field of an element type: a pair names an even register (R52, R57). -/
def VType.regOk (ty : VType) (r : BitVec 10) : Bool := !(ty.wide && r.getLsbD 0)

/-- How a class 010 family may use its fields (R140 to R145). -/
inductive VFam where
  /-- rounds on floating-point types, wraps or saturates on integer types: VADD, VSUB, VMUL -/
  | arith
  /-- as `arith`, with the addend offset in C: FMA, FMS, FNMA -/
  | fma
  /-- two sources, no rounding: VMIN, VMAX, the logic and shift families -/
  | plain
  /-- one source, saturating on integer types: VABS, VNEG -/
  | unarySat
  /-- one source that rounds: VSQRT -/
  | unaryRound
  | cmp
  | sel
  | mov
  deriving DecidableEq, Repr

/-- ROUND codes 0 to 4 are defined (R51). -/
def roundDefined (r : BitVec 3) : Bool := decide (r.toNat ≤ 4)

/-- The ROUND values that a family allows for a type (R51, R140, R143). -/
def VFam.roundOk (f : VFam) (ty : VType) (r : BitVec 3) : Bool :=
  match f with
  | .arith | .fma => if ty.isInt then decide (r.toNat ≤ 1) else roundDefined r
  | .unaryRound => roundDefined r
  | .unarySat => if ty.isInt then decide (r.toNat ≤ 1) else r == 0
  | .plain | .cmp | .sel | .mov => r == 0

/-- One source only: B holds no operand (R140). -/
def VFam.unary : VFam → Bool
  | .unarySat | .unaryRound => true
  | .arith | .fma | .plain | .cmp | .sel | .mov => false

/-- A literal element of a 16-bit type has its upper half zero (R49). -/
def VArgs.litOk (x : VArgs) : Bool :=
  match x.b with
  | .lit w => x.ty.wide || w.extractLsb' 16 16 == 0
  | .reg _ | .queue _ => true

/-- The codes of a class 010 instruction (R51, R138, R142, R144): sub-cause 5. -/
def VArgs.codeOk (f : VFam) (x : VArgs) : Bool :=
  f.roundOk x.ty x.round && x.litOk &&
  (match f with
   | .fma => true
   | .cmp => decide (x.c.toNat ≤ 7) && !(x.ty.isInt && decide (6 ≤ x.c.toNat))
   | .sel => decide (x.c.toNat ≤ 15)
   | .arith | .plain | .unarySat | .unaryRound | .mov => x.c == 0) &&
  (!f.unary || x.b == .reg 0) &&
  (match f, x.b with
   | .mov, .lit _ => x.a == .reg 0
   | .mov, b => b == .reg 0
   | _, _ => true)

/-- The register limits of a class 010 instruction (R52, R138, R144): sub-cause 6. -/
def VArgs.limitOk (f : VFam) (x : VArgs) : Bool :=
  (match f with
   | .cmp => decide (x.d.toNat ≤ 15)
   | _ => x.ty.regOk x.d) &&
  (match x.a with
   | .reg r => x.ty.regOk r
   | .queue _ => true) &&
  (match x.b with
   | .reg r => x.ty.regOk r
   | .queue _ | .lit _ => true) &&
  (match f with
   | .fma => !(x.ty.wide && x.c.getLsbD 0)
   | _ => true)

/-- Types that a class 010 family takes (R57): the integer-only and floating-point-only families. -/
def VArgs.intOnly (x : VArgs) : Bool := x.ty.isInt
def VArgs.fpOnly (x : VArgs) : Bool := !x.ty.isInt

/-- The value of a field that is an immediate in the long form and the whole literal otherwise. -/
def NSrc.val : NSrc → Nat
  | .imm n => n.toNat
  | .lit w => w.toNat

/-- The conversions of VCVT with the ROUND values that they allow (R150); formats `{dst, src}` (R58). -/
def vcvtOk (round : BitVec 3) (fmts : BitVec 8) : Bool :=
  match fmts.toNat with
  | 0x01 | 0x05 | 0x65 | 0x56 => round == 0
  | 0x10 | 0x15 | 0x16 | 0x06 | 0x50 | 0x51 | 0x60 | 0x61 => roundDefined round
  | _ => false

/-- The conversions of VPACK (R151). -/
def vpackOk (round : BitVec 3) (fmts : BitVec 8) : Bool :=
  match fmts.toNat with
  | 0x21 | 0x31 | 0x20 | 0x30 => roundDefined round
  | 0x45 | 0x46 => round == 0
  | _ => false

/-- The conversions of VUNPK (R152). -/
def vunpkOk (fmts : BitVec 8) : Bool :=
  match fmts.toNat with
  | 0x12 | 0x13 | 0x02 | 0x03 | 0x54 | 0x64 => true
  | _ => false

/-- A format code of R58 with 32-bit elements. -/
def fmtWide (f : BitVec 4) : Bool := f == 0 || f == 6

def fmtDst (fmts : BitVec 8) : BitVec 4 := fmts.extractLsb' 4 4
def fmtSrc (fmts : BitVec 8) : BitVec 4 := fmts.extractLsb' 0 4

def evenReg (r : BitVec 10) : Bool := !r.getLsbD 0
def quadReg (r : BitVec 10) : Bool := r.extractLsb' 0 2 == 0

/-- The function codes of VRED with the ROUND values that they allow (R149). -/
def vredOk (ty : VType) (round : BitVec 3) (fn : BitVec 8) : Bool :=
  match fn.toNat with
  | 0 => if ty.isInt then round == 0 else roundDefined round
  | 1 | 2 => round == 0
  | 3 | 4 => round == 0 && !ty.isInt
  | _ => false

def MpVal.val : MpVal → Word
  | .imm v => v.setWidth 32
  | .lit w => w

/-- MPSET values: no bit outside the field and no undefined code (R218, sub-cause 5). -/
def mpsetCode (sel : BitVec 3) (v : Word) : Bool :=
  match sel.toNat with
  | 0 => decide (v.toNat < 2 ^ 8)
  | 1 => decide (v.toNat < 2 ^ 9)
  | 2 => decide (v.toNat < 2 ^ 24)
  | 3 => decide (v.toNat < 2 ^ 8)
  | 4 => decide (v.toNat < 2 ^ 5)
  | 5 => decide (v.toNat < 2 ^ 15) && !v.getLsbD 7
  | 6 => decide (v.toNat < 2 ^ 4) && v.extractLsb' 0 2 != 3 && v.extractLsb' 2 2 != 3
  | _ => true

/-- MPSET values: the limits of R218 (sub-cause 6); a selector above 6 is outside its limit. -/
def mpsetLimit (sel : BitVec 3) (v : Word) : Bool :=
  match sel.toNat with
  | 0 => decide (v.toNat ≤ 192)
  | 1 => decide (v.toNat ≤ 384)
  | 2 | 3 | 6 => true
  | 4 => decide (1 ≤ (v.extractLsb' 3 2).toNat ∧ 1 ≤ (v.extractLsb' 0 3).toNat ∧ (v.extractLsb' 0 3).toNat ≤ 6)
  | 5 => decide ((v.extractLsb' 0 7).toNat ≤ 95)
  | _ => false

/-- Scope codes 110 and 111 are undefined (R207, R293). -/
def scopeOk (s : BitVec 3) : Bool := decide (s.toNat ≤ 5)

/-- The scope of an atomic: 000 where it neither acquires nor releases (R260). -/
def atomScopeOk (acq rel : Bool) (s : BitVec 3) : Bool := scopeOk s && (acq || rel || s == 0)

/-- FENCE sets and scope (R302, R307). -/
def fenceOk (scope : BitVec 3) (pred succ : BitVec 6) : Bool :=
  scopeOk scope && pred != 0 && succ != 0 &&
  (!(pred.getLsbD 4 || succ.getLsbD 4) || decide (4 ≤ scope.toNat))

def KFillArgs.codeOk : KFillArgs → Bool
  | .long _ b c => b.extractLsb' 7 3 == 0 && c.extractLsb' 5 3 == 0
  | .lit w => w.extractLsb' 22 10 == 0

def KFillArgs.limitOk : KFillArgs → Bool
  | .long _ b c => decide ((b.extractLsb' 0 7).toNat ≤ 64) && decide ((c.extractLsb' 0 5).toNat ≤ 16)
  | .lit w => decide ((w.extractLsb' 10 7).toNat ≤ 64) && decide ((w.extractLsb' 17 5).toNat ≤ 16)

def Src.isLit : Src → Bool
  | .reg _ => false
  | .lit _ => true

/-- The literal of a source whose bits above `n` have to be zero. -/
def Src.litBelow (n : Nat) : Src → Bool
  | .reg _ => true
  | .lit w => decide (w.toNat < 2 ^ n)

def streamCls : Cls → Bool
  | .vec | .mat | .ldr | .str => true
  | .ctl | .net => false

/-- Units that the module has: 72 cores of 4 slots, 12 bays, 4 dies, 64 partitions (R14, R18). -/
def coreOk (c : Nat) : Bool := decide (c < 72)
def slotOk (c k : Nat) : Bool := coreOk c && decide (k < 4)
def bayOk (b : Nat) : Bool := decide (b < 12)
def partOk (p : Nat) : Bool := decide (p < 64)
def ctrlOk (c : Nat) : Bool := decide (c < 16)
def Agent.ok : Agent → Bool
  | .strm c k cls => slotOk c k && (cls != .net)
  | .thread t => decide (t < 1536)
def XUnit.ok : XUnit → Bool
  | .core c => coreOk c
  | .bay b => bayOk b
  | .npd => true

/-- The selectors of R400 and R441, with the streams that hold them: the control stream, packet threads. -/
def selHeld (n : Nat) (ctl net : Bool) : Bool :=
  if n = 0x29 ∨ n = 0x4C ∨ (0x80 ≤ n ∧ n ≤ 0x91) then ctl || net
  else if 0x38 ≤ n ∧ n ≤ 0x3B then net
  else ctl && decide (n ≤ 3 ∨ (8 ≤ n ∧ n ≤ 0xB) ∨ (0x10 ≤ n ∧ n ≤ 0x14) ∨ (0x18 ≤ n ∧ n ≤ 0x19) ∨
    (0x1C ≤ n ∧ n ≤ 0x1E) ∨ (0x20 ≤ n ∧ n ≤ 0x23) ∨ n = 0x28 ∨ (0x2A ≤ n ∧ n ≤ 0x2C) ∨
    (0x30 ≤ n ∧ n ≤ 0x31) ∨ (0x40 ≤ n ∧ n ≤ 0x4B) ∨ n = 0x4D)

/-- Reserved fields and undefined codes: the checks of sub-cause 5 (R61), and units that do not exist. -/
def Instr.codeOk : Instr → Bool
  | .bfx _ _ _ f | .bfi _ _ _ f =>
    (match f with
     | .lit w => w.extractLsb' 12 20 == 0
     | .regs _ _ | .imm _ _ => true)
  | .movi _ hi zx _ _ => !(hi && zx)
  | .cmp _ cond _ _ _ => decide (cond.toNat ≤ 7)
  | .plog _ _ _ _ b =>
    (match b with
     | .lit w => decide (w.toNat < 2)
     | .pred _ => true)
  | .waitb _ lit n => n != 0 && (lit || decide (n.toNat < 1024))
  | .vadd x | .vsub x | .vmul x => x.codeOk .arith
  | .fma x | .fms x | .fnma x => x.codeOk .fma
  | .vmin x | .vmax x => x.codeOk .plain
  | .vminnum x | .vmaxnum x => x.fpOnly && x.codeOk .plain
  | .vdiv x => x.fpOnly && x.codeOk .arith
  | .vsqrt x => x.fpOnly && x.codeOk .unaryRound
  | .vand x | .vor x | .vxor x | .vshl x | .vshr x | .vsra x => x.intOnly && x.codeOk .plain
  | .vabs x | .vneg x => x.codeOk .unarySat
  | .vcmp x => x.codeOk .cmp
  | .vsel x => x.codeOk .sel
  | .vmov x => x.codeOk .mov
  | .vredRow _ ty r _ _ _ fn | .vredCol _ ty r _ _ _ fn => vredOk ty r fn
  | .vcvt _ r _ _ _ f => vcvtOk r f
  | .vpack _ r _ _ _ f => vpackOk r f
  | .vunpk _ _ _ _ f => vunpkOk f
  | .vrotRow _ _ _ _ _ n | .vbcastRow _ _ _ _ _ n =>
    (match n with
     | .lit w => decide (w.toNat < 64)
     | .imm _ => true)
  | .vrotCol _ _ _ _ _ n | .vbcastCol _ _ _ _ _ n =>
    (match n with
     | .lit w => decide (w.toNat < 16)
     | .imm _ => true)
  | .vrgn _ _ n =>
    (match n with
     | .lit w => decide (w.toNat < 2 ^ 11)
     | .imm _ => true)
  | .kfill _ _ x => x.codeOk
  | .mpset _ fld v => mpsetCode fld v.val
  | .acrd x _ _ => x.sig || x.flag == 0
  | .accvt x r f =>
    (x.sig || x.flag == 0) && decide (1 ≤ f.toNat ∧ f.toNat ≤ 5) && roundDefined r &&
    (!(f == 4 || f == 5) || r == 0)
  | .ld _ sz _ _ _ => sz != 7
  | .st _ sz _ _ _ => decide (sz.toNat ≤ 3)
  | .vstQ _ _ _ _ f => decide (f.toNat ≤ 6)
  | .fence _ sc p n => fenceOk sc p n
  | .amo _ op acq rel sc _ _ _ => decide (op.toNat ≤ 8) && atomScopeOk acq rel sc
  | .cas _ acq rel sc _ _ _ _ => atomScopeOk acq rel sc
  | .vamo _ op rt _ d _ b =>
    decide (op.toNat ≤ 8) && (rt || d == 0) &&
    (match b with
     | .queue _ => false
     | .reg _ | .lit _ => true)
  | .sstart _ cls _ | .sstop _ cls _ => streamCls cls
  | .drld _ all d => !all || d == 0
  | .qput _ _ _ n | .qget _ _ _ n => n != .imm 0
  | .unfold _ _ b =>
    (match b with
     | .lit w => decide (w.toNat < 2 ^ 20)
     | .reg _ | .off => true)
  | .talloc _ _ _ _ size key => size.litBelow 13 && (!size.isLit || key == 0)
  | .tpost _ sc _ => scopeOk sc
  | .srad _ b | .pin _ _ _ b => b.litBelow 2
  | .arm _ _ _ b => b.litBelow 16
  | .tsrd _ fld _ => fld != 3
  | .sysrd _ _ n | .syswr _ _ n => selHeld n.toNat true true
  | .ppoint _ _ m =>
    (match m with
     | .mask _ m => decide (m.toNat < 256)
     | .lit _ w => decide (w.toNat < 256))
  | .lineAdvance a | .streamUnblock a | .transferRowset a => a.ok
  | .asyncTrapDelivery c k | .taskBinding c k | .retirementComplete c k | .gleaningPreemptTimeout c k
  | .matrixStep c k | .readoutRowset c k | .vectorReplyArrival c k _ => slotOk c k
  | .freezeStart c | .freezeWatchdogExpiry c | .stealRequest c | .stealAnswer c | .unitsPass c
  | .unitIdleExpiry c | .unitHoldExpiry c | .gleaningDrainTimeout c | .planeSwap c => coreOk c
  | .launchWaitJoin p | .countPeriodClear p | .handlerStart p | .eventHandlerStart p
  | .domainStallTimeout p _ _ | .barrierCompletion p _ _ | .sendAcknowledged p _ | .sendTimeout p _
  | .sendRetransmit p _ => partOk p
  | .gangBinding b | .copyAdmission b => bayOk b
  | .rotationStart b c | .rotationEnd b c => bayOk b && coreOk c
  | .copyExecution b e | .copyCompletion b e => bayOk b && decide (e < 4)
  | .residencyViewUpdate d c => decide (d < 4) && coreOk c
  | .nmcLineUpdate h => decide (h < 8)
  | .translationWalkComplete u p _ => u.ok && partOk p
  | .writeQueueDrain c | .crcReplay c _ _ _ | .laneRepair c _ _ | .timingSetChange c _ => ctrlOk c
  | .handlerWatchdog t => decide (t < 1536)
  | .reductionSlotTimeout s => decide (s < 256)
  | .hringResvRead f | .hringCommit f _ | .hringEnable f _ | .hrxEnable f _ | .hringReset f
  | .hringResume f | .registerWrite f _ _ | .functionLevelResetVf f | .hostNop f | .launch f | .htod f
  | .dtoh f | .hostCadd f | .hostArm f | .indirect f | .domain f | .peer f | .plane f | .pcreate f
  | .pdestroy f | .preset f | .update f | .commandCompletion f _ => decide (f < 64)
  | .cryoSettleExpiry d => decide (d < 4)
  | _ => true

/-- Operand fields within their kind's limits: the checks of sub-cause 6 (R61, R52). (DEDUCED, log 22) -/
def Instr.limitOk : Instr → Bool
  | .call _ d _ | .callx _ d _ _ => d != 0
  | .callShort d _ => d != 0
  | .shlShortImm _ _ i | .shrShortImm _ _ i | .sraShortImm _ _ i => decide (i.toNat < 64)
  | .vaddFp32Short d a b | .vmulFp32Short d a b | .fmaFp32Short d a b =>
    !d.getLsbD 0 && !a.getLsbD 0 && !b.getLsbD 0
  | .vadd x | .vsub x | .vmul x | .vdiv x => x.limitOk .arith
  | .fma x | .fms x | .fnma x => x.limitOk .fma
  | .vmin x | .vmax x | .vminnum x | .vmaxnum x | .vand x | .vor x | .vxor x | .vshl x | .vshr x
  | .vsra x => x.limitOk .plain
  | .vabs x | .vneg x => x.limitOk .unarySat
  | .vsqrt x => x.limitOk .unaryRound
  | .vcmp x => x.limitOk .cmp
  | .vsel x => x.limitOk .sel
  | .vmov x => x.limitOk .mov
  | .vrotRow _ ty _ d a n | .vbcastRow _ ty _ d a n => ty.regOk d && ty.regOk a && decide (n.val < 64)
  | .vrotCol _ ty _ d a n | .vbcastCol _ ty _ d a n => ty.regOk d && ty.regOk a && decide (n.val < 16)
  | .vredRow _ ty _ _ d a _ | .vredCol _ ty _ _ d a _ => ty.regOk d && ty.regOk a
  | .vcvt _ _ _ d a f => (!fmtWide (fmtDst f) || evenReg d) && (!fmtWide (fmtSrc f) || evenReg a)
  | .vpack _ _ _ _ a f => if fmtWide (fmtSrc f) then quadReg a else evenReg a
  | .vunpk _ _ d _ f => if fmtWide (fmtDst f) then quadReg d else evenReg d
  | .vrgn _ first n =>
    decide (first.toNat + n.val ≤ 1024) && !(n == .imm 0 && first != 0)
  | .kfill _ _ x => x.limitOk
  | .mpset _ fld v => mpsetLimit fld v.val
  | .acrd x _ _ | .accvt x _ _ =>
    decide (x.first.toNat ≤ 95) && decide (1 ≤ x.rows.toNat) && decide (x.first.toNat + x.rows.toNat ≤ 96) &&
    (x.tgt || decide (x.target.toNat ≤ 15))
  | .vld _ w _ d _ | .vst _ w _ d _ => !(w && d.getLsbD 0)
  | .vstQ _ w _ a _ => !(w && a.getLsbD 0)
  | .vamo _ _ rt _ d a b =>
    !(rt && d.getLsbD 0) && evenReg a &&
    (match b with
     | .reg r => evenReg r
     | .queue _ | .lit _ => true)
  | .split _ _ _ n => decide (1 ≤ n.toNat ∧ n.toNat ≤ 6)
  | _ => true

/-- The guard of a long or literal instruction (R48). The short forms and the other steps have none. -/
def Instr.guard? : Instr → Option Guard
  | .add g .. | .sub g .. | .mul g .. | .mulh g .. | .mulhu g .. | .div g .. | .divu g .. | .rem g ..
  | .remu g .. | .and g .. | .or g .. | .xor g .. | .andn g .. | .shl g .. | .shr g .. | .sra g ..
  | .rotl g .. | .rotr g .. | .clz g .. | .ctz g .. | .popc g .. | .bfx g .. | .bfi g .. | .movi g ..
  | .lea g .. | .min g .. | .max g .. | .minu g .. | .maxu g .. | .cmp g .. | .sel g .. | .plog g ..
  | .br g .. | .brx g .. | .call g .. | .callx g .. | .ret g .. | .loop g .. | .bloop g .. | .fwait g ..
  | .fsig g .. | .fset g .. | .fread g .. | .waitb g .. | .shalt g .. => some g
  | .vadd x | .vsub x | .vmul x | .fma x | .fms x | .fnma x | .vmin x | .vmax x | .vminnum x
  | .vmaxnum x | .vabs x | .vneg x | .vand x | .vor x | .vxor x | .vshl x | .vshr x | .vsra x | .vcmp x
  | .vsel x | .vmov x | .vdiv x | .vsqrt x => some x.g
  | .vrotRow g .. | .vrotCol g .. | .vbcastRow g .. | .vbcastCol g .. | .vredRow g .. | .vredCol g ..
  | .vcvt g .. | .vpack g .. | .vunpk g .. | .vrgn g .. | .vyield g | .kand g .. | .kor g .. | .kxor g ..
  | .kandn g .. | .kfill g .. | .mpset g .. | .mm g .. | .mmg g .. | .acclr g .. | .mscl g .. | .mprog g
  | .ld g .. | .st g .. | .vld g .. | .vst g .. | .vstQ g .. | .fence g .. | .amo g .. | .cas g ..
  | .vamo g .. | .marm g .. | .mwait g .. | .dset g .. | .drld g .. | .sstart g .. | .sstop g ..
  | .qput g .. | .qget g .. | .wadv g .. | .unfold g .. | .pswap g | .talloc g .. | .tfree g ..
  | .tsetFill g .. | .tsetFillfor g .. | .tsetDrain g .. | .tsetAbort g .. | .tsetAdv g .. | .tsetOrg g ..
  | .tsetWstep g .. | .tsetKey g .. | .tqry g .. | .tpost g .. | .trot g .. | .tres g .. | .taddr g ..
  | .enq g .. | .enqnb g .. | .split g .. | .srad g .. | .retire g | .yield g .. | .glaunch g ..
  | .dbar g .. | .pin g .. | .glean g .. | .copy g .. | .tmplw g .. | .swait g .. | .nmc g .. | .nmfence g ..
  | .arm g .. | .disarm g .. | .crd g .. | .cadd g .. | .cwait g .. | .send g .. | .hret g .. | .rsalloc g ..
  | .rscon g .. | .rsclose g .. | .tsrd g .. | .trap g .. | .tret g .. | .sysrd g .. | .syswr g ..
  | .ppoint g .. | .xinv g .. | .partStop g .. | .partRelease g .. | .partReset g .. | .partRequest g ..
  | .cryoQuery g .. | .cryoCool g .. | .cryoWarm g .. | .cryoForceRetreat g .. | .cryoReleaseRetreat g ..
  | .cryoClearRatev g .. => some g
  | .acrd x .. | .accvt x .. => some x.g
  | _ => none

/-- The guard check of sub-cause 7 (R50, R61). -/
def Instr.guardOk (i : Instr) : Bool :=
  match i.guard? with
  | some g => g.ok
  | none => true

/-- A term that stands for an encoding, or for a step of a unit that exists. -/
def Instr.wf (i : Instr) : Bool := i.codeOk && i.limitOk && i.guardOk

end Sys2Proof
end

