-- ==== Sys2Proof/Decode.lean ====
section
/-! DEFINITION. Decoding (file 03): the words of a line from an instruction's first word on, to the instruction
or to the sub-cause of R61 under which it is refused; and, after it, the encoder, written from the same tables. -/

namespace Sys2Proof

/-- The fields of the long and literal forms (R48, R49). -/
structure Long where
  func : BitVec 5
  d : BitVec 10
  g : Guard
  opc : BitVec 10
  mode : BitVec 4
  c : BitVec 8
  b : BitVec 10
  a : BitVec 10
  lit : Option Word
  deriving DecidableEq, Repr

/-- Words 0 and 1 read by R48. -/
def Long.ofWords (w0 w1 : Word) (lit : Option Word) : Long :=
  { func := w0.extractLsb' 27 5, d := w0.extractLsb' 17 10,
    g := { neg := w0.getLsbD 16, p := w0.extractLsb' 12 4 },
    opc := w0.extractLsb' 2 10, mode := w1.extractLsb' 28 4, c := w1.extractLsb' 20 8,
    b := w1.extractLsb' 10 10, a := w1.extractLsb' 0 10, lit := lit }

/-- Word 0 of R48; bits [1:0] are 10 for the long form, 11 for the literal form (R45). -/
def Long.word0 (l : Long) : Word :=
  l.func ++ l.d ++ BitVec.ofBool l.g.neg ++ l.g.p ++ l.opc ++ (1#1) ++ BitVec.ofBool l.lit.isSome

/-- Word 1 of R48. -/
def Long.word1 (l : Long) : Word := l.mode ++ l.c ++ l.b ++ l.a

/-- The words of the form: two, or three with the literal. -/
def Long.words (l : Long) : List Word := l.word0 :: l.word1 :: l.lit.toList

/-- What the opcode map and an instruction's entry say of a long or literal word: the streams that may issue
it (R56), whether it has this form (sub-cause 4), its reserved fields zero (5), its operand fields within
their kind (6), and the instruction its fields name. -/
structure OpDec where
  streams : List Cls
  form : Bool
  c5 : Bool
  c6 : Bool
  ins : Instr

def sC : List Cls := [.ctl]
def sN : List Cls := [.net]
def sV : List Cls := [.vec]
def sM : List Cls := [.mat]
def sL : List Cls := [.ldr]
def sCN : List Cls := [.ctl, .net]
def sLS : List Cls := [.ldr, .str]
def sCLS : List Cls := [.ctl, .ldr, .str]
def sCLSN : List Cls := [.ctl, .ldr, .str, .net]
def sVMLS : List Cls := [.vec, .mat, .ldr, .str]
def sCVMLS : List Cls := [.ctl, .vec, .mat, .ldr, .str]
def sAll : List Cls := [.ctl, .vec, .mat, .ldr, .str, .net]

/-- A field whose value lies below `2 ^ k`. -/
def fits {n : Nat} (k : Nat) (x : BitVec n) : Bool := decide (x.toNat < 2 ^ k)

def Long.isLit (l : Long) : Bool := l.lit.isSome
/-- B is 0 where the literal takes its place (R49). -/
def Long.litB0 (l : Long) : Bool := !l.isLit || l.b == 0
def Long.d6 (l : Long) : BitVec 6 := l.d.setWidth 6
def Long.a6 (l : Long) : BitVec 6 := l.a.setWidth 6
def Long.b6 (l : Long) : BitVec 6 := l.b.setWidth 6
def Long.c6 (l : Long) : BitVec 6 := l.c.setWidth 6
def Long.d4 (l : Long) : BitVec 4 := l.d.setWidth 4
def Long.a4 (l : Long) : BitVec 4 := l.a.setWidth 4
def Long.b4 (l : Long) : BitVec 4 := l.b.setWidth 4
def Long.d5 (l : Long) : BitVec 5 := l.d.setWidth 5
def Long.a5 (l : Long) : BitVec 5 := l.a.setWidth 5
def Long.src (l : Long) : Src :=
  match l.lit with
  | some w => .lit w
  | none => .reg l.b6
/-- Source b is a scalar register within its kind, or the literal. -/
def Long.srcFits (l : Long) : Bool := l.isLit || fits 6 l.b
def Long.nsrc (l : Long) : NSrc :=
  match l.lit with
  | some w => .lit w
  | none => .imm l.b
/-- FUNC, MODE and C zero. -/
def Long.fmc0 (l : Long) : Bool := l.func == 0 && l.mode == 0 && l.c == 0
def Long.fm0 (l : Long) : Bool := l.func == 0 && l.mode == 0
def Long.litW (l : Long) : Word := l.lit.getD 0
def Long.f27 (l : Long) : Bool := l.func.getLsbD 0
def Long.f28 (l : Long) : Bool := l.func.getLsbD 1
def Long.f29 (l : Long) : Bool := l.func.getLsbD 2
def Long.f30 (l : Long) : Bool := l.func.getLsbD 3
def Long.f31 (l : Long) : Bool := l.func.getLsbD 4

/-- D, A scalar and B scalar or the literal, nothing else (R100). -/
def decAlu (mk : Guard → BitVec 6 → BitVec 6 → Src → Instr) (l : Long) : OpDec :=
  { streams := sCLSN, form := true, c5 := l.fmc0 && l.litB0,
    c6 := fits 6 l.d && fits 6 l.a && l.srcFits, ins := mk l.g l.d6 l.a6 l.src }

/-- D and A scalar, nothing else, no literal form. -/
def decDA (ss : List Cls) (mk : Guard → BitVec 6 → BitVec 6 → Instr) (l : Long) : OpDec :=
  { streams := ss, form := !l.isLit, c5 := l.fmc0 && l.b == 0, c6 := fits 6 l.d && fits 6 l.a,
    ins := mk l.g l.d6 l.a6 }

/-- D, A scalar and B scalar or the literal, for the streams named. -/
def decDAS (ss : List Cls) (mk : Guard → BitVec 6 → BitVec 6 → Src → Instr) (l : Long) : OpDec :=
  { decAlu mk l with streams := ss }

/-- No operand at all. -/
def decNone (ss : List Cls) (mk : Guard → Instr) (l : Long) : OpDec :=
  { streams := ss, form := !l.isLit, c5 := l.fmc0 && l.d == 0 && l.a == 0 && l.b == 0, c6 := true,
    ins := mk l.g }

def decBField (mk : Guard → BitVec 6 → BitVec 6 → BField → Instr) (l : Long) : OpDec :=
  { streams := sCLSN, form := true,
    c5 := l.mode == 0 && l.func.extractLsb' 1 4 == 0 &&
      (!l.isLit || (l.b == 0 && l.c == 0 && !l.f27)),
    c6 := fits 6 l.d && fits 6 l.a && (l.isLit || (fits 6 l.b && fits 6 l.c)),
    ins := mk l.g l.d6 l.a6
      (match l.lit with
       | some w => .lit w
       | none => if l.f27 then .imm l.b6 l.c6 else .regs l.b6 l.c6) }

/-- Class 000 (R100). -/
def decScalar (l : Long) : Nat → Option OpDec
  | 0x00 => some (decAlu .add l)
  | 0x01 => some (decAlu .sub l)
  | 0x02 => some (decAlu .mul l)
  | 0x03 => some (decAlu .mulh l)
  | 0x04 => some (decAlu .mulhu l)
  | 0x05 => some (decAlu .div l)
  | 0x06 => some (decAlu .divu l)
  | 0x07 => some (decAlu .rem l)
  | 0x08 => some (decAlu .remu l)
  | 0x09 => some (decAlu .and l)
  | 0x0A => some (decAlu .or l)
  | 0x0B => some (decAlu .xor l)
  | 0x0C => some (decAlu .andn l)
  | 0x0D => some (decAlu .shl l)
  | 0x0E => some (decAlu .shr l)
  | 0x0F => some (decAlu .sra l)
  | 0x10 => some (decAlu .rotl l)
  | 0x11 => some (decAlu .rotr l)
  | 0x12 => some (decDA sCLSN .clz l)
  | 0x13 => some (decDA sCLSN .ctz l)
  | 0x14 => some (decDA sCLSN .popc l)
  | 0x15 => some (decBField .bfx l)
  | 0x16 => some (decBField .bfi l)
  | 0x17 => some
    { streams := sCLSN, form := l.isLit,
      c5 := l.func.extractLsb' 2 3 == 0 && l.mode == 0 && l.c == 0 && l.b == 0 && l.a == 0,
      c6 := fits 6 l.d, ins := .movi l.g l.f28 l.f27 l.d6 l.litW }
  | 0x18 => some
    { streams := sCLSN, form := true,
      c5 := l.func == 0 && !l.mode.getLsbD 3 && l.c == 0 && l.litB0,
      c6 := fits 6 l.d && fits 6 l.a && l.srcFits,
      ins := .lea l.g (l.mode.setWidth 3) l.d6 l.a6 l.src }
  | 0x19 => some (decAlu .min l)
  | 0x1A => some (decAlu .max l)
  | 0x1B => some (decAlu .minu l)
  | 0x1C => some (decAlu .maxu l)
  | 0x1D => some
    { streams := sCLSN, form := true, c5 := l.mode == 0 && l.c == 0 && l.litB0,
      c6 := fits 4 l.d && fits 6 l.a && l.srcFits, ins := .cmp l.g l.func l.d4 l.a6 l.src }
  | 0x1E => some
    { streams := sCLSN, form := true, c5 := l.func == 0 && l.c == 0 && l.litB0,
      c6 := fits 6 l.d && fits 6 l.a && l.srcFits, ins := .sel l.g l.mode l.d6 l.a6 l.src }
  | 0x1F => some
    { streams := sCLSN, form := true, c5 := !l.f31 && l.mode == 0 && l.c == 0 && l.litB0,
      c6 := fits 4 l.d && fits 4 l.a && (l.isLit || fits 4 l.b),
      ins := .plog l.g (l.func.setWidth 4) l.d4 l.a4
        (match l.lit with
         | some w => .lit w
         | none => .pred l.b4) }
  | _ => none

/-- The flag instructions (R117). -/
def decFlag (mk : Guard → BitVec 6 → Bool → BitVec 16 → Instr) (l : Long) : OpDec :=
  { streams := sCVMLS, form := true,
    c5 := l.fm0 && l.a == 0 &&
      (match l.lit with
       | some w => l.b == 0 && l.c == 0 && w.extractLsb' 16 16 == 0
       | none => fits 6 l.c),
    c6 := fits 6 l.d,
    ins := mk l.g l.d6 l.isLit
      (match l.lit with
       | some w => w.setWidth 16
       | none => l.c6 ++ l.b) }

/-- Streams that hold no scalar registers (R111). -/
def noScalars : Option Cls → Bool
  | some .vec | some .mat => true
  | some .ctl | some .ldr | some .str | some .net | none => false

/-- Class 001 (R110 to R119). R114 gives no value to field A of LOOP's literal form: a non-zero A is illegal
there with sub-cause 5, as a field without a meaning is elsewhere. (DESIGN CHOICE, log 99) -/
def decControl (cls : Option Cls) (l : Long) : Nat → Option OpDec
  | 0x00 => some
    { streams := sAll, form := l.isLit, c5 := l.fmc0 && l.d == 0 && l.a == 0 && l.b == 0, c6 := true,
      ins := .br l.g l.litW }
  | 0x01 => some
    { streams := sAll, form := !l.isLit, c5 := l.fm0 && l.d == 0,
      c6 := fits 6 l.a && !(noScalars cls && l.a != 0), ins := .brx l.g l.a6 (l.c ++ l.b) }
  | 0x02 => some
    { streams := sCLSN, form := l.isLit, c5 := l.fmc0 && l.a == 0 && l.b == 0, c6 := fits 6 l.d,
      ins := .call l.g l.d6 l.litW }
  | 0x03 => some
    { streams := sCLSN, form := !l.isLit, c5 := l.fm0, c6 := fits 6 l.d && fits 6 l.a,
      ins := .callx l.g l.d6 l.a6 (l.c ++ l.b) }
  | 0x04 => some
    { streams := sCLSN, form := !l.isLit, c5 := l.fmc0 && l.d == 0 && l.b == 0, c6 := fits 6 l.a,
      ins := .ret l.g l.a6 }
  | 0x05 => some
    { streams := sCVMLS, form := l.isLit, c5 := l.fmc0 && l.d == 0 && l.a == 0 && l.b == 0, c6 := true,
      ins := .bloop l.g l.litW }
  | 0x06 => some
    { streams := sCVMLS, form := l.isLit || !noScalars cls,
      c5 := l.func == 0 && !l.mode.getLsbD 3 && l.c == 0 && l.d == 0 && l.b == 0 && (!l.isLit || l.a == 0),
      c6 := fits 6 l.a,
      ins := .loop l.g (l.mode.setWidth 3)
        (match l.lit with
         | some w => .lit w
         | none => .reg l.a6) }
  | 0x07 => some (decFlag .fwait l)
  | 0x08 => some (decFlag .fsig l)
  | 0x09 => some (decFlag .fset l)
  | 0x0A => some
    { streams := sCLS, form := !l.isLit, c5 := l.fmc0 && l.b == 0, c6 := fits 6 l.d && fits 6 l.a,
      ins := .fread l.g l.d6 l.a6 }
  | 0x0B => some
    { streams := sCVMLS, form := true,
      c5 := l.fmc0 && l.d == 0 && l.a == 0 &&
        (match l.lit with
         | some w => l.b == 0 && w.extractLsb' 16 16 == 0
         | none => true),
      c6 := true,
      ins := .waitb l.g l.isLit
        (match l.lit with
         | some w => w.setWidth 16
         | none => l.b.setWidth 16) }
  | 0x0C => some
    { streams := sVMLS, form := !l.isLit,
      c5 := l.func.extractLsb' 1 4 == 0 && l.mode == 0 && l.c == 0 && l.a == 0 && l.b == 0 &&
        (l.f27 || l.d == 0),
      c6 := fits 6 l.d, ins := .shalt l.g (if l.f27 then some l.d6 else none) }
  | _ => none

def vtypeOf (t : BitVec 2) : VType :=
  match t.toNat with
  | 0 => .bf16 | 1 => .fp32 | 2 => .int16 | _ => .int32

/-- The operands of a class 010 word (R51, R138). -/
def Long.vargs (l : Long) : VArgs :=
  { g := l.g, ty := vtypeOf (l.opc.setWidth 2), round := l.func.extractLsb' 2 3, mask := l.mode, d := l.d,
    a := if l.f28 then .queue l.a4 else .reg l.a,
    b := match l.lit with
         | some w => .lit w
         | none => if l.f27 then .queue l.b4 else .reg l.b,
    c := l.c }

/-- A class 010 word (R51, R138): AQ and BQ fields name ports in bits [3:0]; the literal form has BQ and B zero. -/
def decV (lit : Bool) (mk : VArgs → Instr) (l : Long) : OpDec :=
  { streams := sV, form := lit || !l.isLit, c5 := !l.isLit || (l.b == 0 && !l.f27),
    c6 := (!l.f28 || fits 4 l.a) && (l.isLit || !l.f27 || fits 4 l.b), ins := mk l.vargs }

/-- A family that takes only some types: other types are not assigned (R57, sub-cause 2). -/
def decVTy (ok : Bool) (o : OpDec) : Option OpDec := if ok then some o else none

/-- Class 010 by family (R57). -/
def decElem (l : Long) (fam : Nat) : Option OpDec :=
  let int := l.opc.getLsbD 1
  match fam with
  | 0 => some (decV true .vadd l)
  | 1 => some (decV true .vsub l)
  | 2 => some (decV true .vmul l)
  | 3 => some (decV true .fma l)
  | 4 => some (decV true .fms l)
  | 5 => some (decV true .fnma l)
  | 6 => some (decV true .vmin l)
  | 7 => some (decV true .vmax l)
  | 8 => decVTy (!int) (decV true .vminnum l)
  | 9 => decVTy (!int) (decV true .vmaxnum l)
  | 10 => some (decV false .vabs l)
  | 11 => some (decV false .vneg l)
  | 12 => decVTy int (decV true .vand l)
  | 13 => decVTy int (decV true .vor l)
  | 14 => decVTy int (decV true .vxor l)
  | 15 => decVTy int (decV true .vshl l)
  | 16 => decVTy int (decV true .vshr l)
  | 17 => decVTy int (decV true .vsra l)
  | 18 => some (decV true .vcmp l)
  | 19 => some (decV true .vsel l)
  | 20 => some (decV true .vmov l)
  | 21 => decVTy (!int) (decV true .vdiv l)
  | 22 => decVTy (!int) (decV false .vsqrt l)
  | _ => none

def Long.ty11 (l : Long) : VType := vtypeOf (l.func.setWidth 2)
def Long.round (l : Long) : BitVec 3 := l.func.extractLsb' 2 3

/-- VROT and VBCAST (R146). -/
def decRot (mk : Guard → VType → BitVec 4 → BitVec 10 → BitVec 10 → NSrc → Instr) (l : Long) : OpDec :=
  { streams := sV, form := true, c5 := l.round == 0 && l.c == 0 && l.litB0, c6 := true,
    ins := mk l.g l.ty11 l.mode l.d l.a l.nsrc }

/-- VRED (R146, R149). -/
def decRed (mk : Guard → VType → BitVec 3 → BitVec 4 → BitVec 10 → BitVec 10 → BitVec 8 → Instr) (l : Long) :
    OpDec :=
  { streams := sV, form := !l.isLit, c5 := l.b == 0, c6 := true,
    ins := mk l.g l.ty11 l.round l.mode l.d l.a l.c }

/-- VCVT and VPACK (R146). -/
def decCvt (mk : Guard → BitVec 3 → BitVec 4 → BitVec 10 → BitVec 10 → BitVec 8 → Instr) (l : Long) : OpDec :=
  { streams := sV, form := !l.isLit, c5 := l.b == 0 && !l.f27 && !l.f28, c6 := true,
    ins := mk l.g l.round l.mode l.d l.a l.c }

/-- KAND, KOR, KXOR and KANDN (R153). -/
def decK (mk : Guard → BitVec 4 → BitVec 4 → BitVec 4 → Instr) (l : Long) : OpDec :=
  { streams := sV, form := !l.isLit, c5 := l.fmc0, c6 := fits 4 l.d && fits 4 l.a && fits 4 l.b,
    ins := mk l.g l.d4 l.a4 l.b4 }

/-- Class 011 (R146). -/
def decAxis (l : Long) : Nat → Option OpDec
  | 0x00 => some (decRot .vrotRow l)
  | 0x01 => some (decRot .vrotCol l)
  | 0x02 => some (decRot .vbcastRow l)
  | 0x03 => some (decRot .vbcastCol l)
  | 0x04 => some (decRed .vredRow l)
  | 0x05 => some (decRed .vredCol l)
  | 0x06 => some (decCvt .vcvt l)
  | 0x07 => some (decCvt .vpack l)
  | 0x08 => some
    { streams := sV, form := !l.isLit, c5 := l.b == 0 && l.func == 0, c6 := true,
      ins := .vunpk l.g l.mode l.d l.a l.c }
  | 0x09 => some
    { streams := sV, form := true, c5 := l.fmc0 && l.d == 0 && l.litB0, c6 := true,
      ins := .vrgn l.g l.a l.nsrc }
  | 0x0A => some (decNone sV .vyield l)
  | 0x0B => some (decK .kand l)
  | 0x0C => some (decK .kor l)
  | 0x0D => some (decK .kxor l)
  | 0x0E => some (decK .kandn l)
  | 0x0F => some
    { streams := sV, form := true, c5 := l.fm0 && (!l.isLit || (l.a == 0 && l.b == 0 && l.c == 0)),
      c6 := fits 4 l.d,
      ins := .kfill l.g l.d4
        (match l.lit with
         | some w => .lit w
         | none => .long l.a l.b l.c) }
  | _ => none

/-- A flag in C where SIG, FUNC[28], is 1; C is 0 otherwise (R223). -/
def Long.sigC (l : Long) : Option (BitVec 6) := if l.f28 then some l.c6 else none
def Long.sigC5 (l : Long) : Bool := l.f28 || l.c == 0

def decMM (mk : Guard → BitVec 2 → Bool → Option (BitVec 6) → Instr) (l : Long) : OpDec :=
  { streams := sM, form := !l.isLit,
    c5 := l.func.extractLsb' 2 3 == 0 && l.mode == 0 && l.a == 0 && l.b == 0 && l.sigC5,
    c6 := fits 2 l.d && fits 6 l.c, ins := mk l.g (l.d.setWidth 2) l.f27 l.sigC }

/-- The read-out fields of R223. -/
def Long.readOut (l : Long) : ReadOutArgs :=
  { g := l.g, tgt := l.f27, target := l.d5, bank := l.a.setWidth 2, sig := l.a.getLsbD 2,
    flag := l.a.extractLsb' 4 6, first := l.b, rows := l.c, gang := l.f28 }

/-- Class 100 (R223). A selector of MPSET above 7 fails its own limit (sub-cause 6) and no value check, as
selector 7 does (R218). -/
def decMatrix (l : Long) : Nat → Option OpDec
  | 0x00 => some
    { streams := sM, form := true,
      c5 := l.fm0 && l.a == 0 && (!l.isLit || (l.b == 0 && l.c == 0)), c6 := fits 3 l.d,
      ins := .mpset l.g (if fits 3 l.d then l.d.setWidth 3 else 7)
        (match l.lit with
         | some w => .lit w
         | none => .imm (l.c ++ l.b)) }
  | 0x01 => some (decMM .mm l)
  | 0x02 => some (decMM .mmg l)
  | 0x03 => some
    { streams := sM, form := !l.isLit, c5 := !l.f31 && l.mode == 0 && !l.a.getLsbD 3, c6 := fits 5 l.d,
      ins := .acrd l.readOut l.f30 l.f29 }
  | 0x04 => some
    { streams := sM, form := !l.isLit,
      c5 := l.func.extractLsb' 2 3 == 0 && !l.f27 && l.mode == 0 && l.a == 0 && l.b == 0 && l.sigC5,
      c6 := fits 2 l.d && fits 6 l.c, ins := .acclr l.g (l.d.setWidth 2) l.sigC }
  | 0x05 => some
    { streams := sM, form := !l.isLit, c5 := !l.a.getLsbD 3, c6 := fits 5 l.d,
      ins := .accvt l.readOut l.round l.mode }
  | 0x06 => some
    { streams := sM, form := !l.isLit,
      c5 := l.func.extractLsb' 1 4 == 0 && l.mode == 0 && l.c == 0 && l.b == 0 && l.d == 0,
      c6 := fits 4 l.a, ins := .mscl l.g l.f27 l.a4 }
  | 0x07 => some (decNone sM .mprog l)
  | _ => none

def Long.off (l : Long) : Off :=
  match l.lit with
  | some w => .lit w
  | none => .off (l.c ++ l.b)
def Long.vimm (l : Long) : VImm :=
  match l.lit with
  | some w => .lit w
  | none => .imm (l.c ++ l.b ++ l.a)
/-- B and C zero in the literal form. -/
def Long.litBC0 (l : Long) : Bool := !l.isLit || (l.b == 0 && l.c == 0)

def decLdSt (mk : Guard → BitVec 3 → BitVec 6 → BitVec 6 → Off → Instr) (l : Long) : OpDec :=
  { streams := sCLSN, form := true, c5 := !l.f27 && !l.f28 && l.mode == 0 && l.litBC0,
    c6 := fits 6 l.d && fits 6 l.a, ins := mk l.g l.round l.d6 l.a6 l.off }

def decVmem (mk : Guard → Bool → BitVec 4 → BitVec 10 → VImm → Instr) (l : Long) : OpDec :=
  { streams := sV, form := true,
    c5 := l.round == 0 && !l.f27 && l.litBC0 && (!l.isLit || l.a == 0), c6 := true,
    ins := mk l.g l.f28 l.mode l.d l.vimm }

/-- Class 101 (R260, R307). -/
def decMemory (l : Long) : Nat → Option OpDec
  | 0x00 => some (decLdSt .ld l)
  | 0x01 => some (decLdSt .st l)
  | 0x02 => some (decVmem .vld l)
  | 0x03 => some (if l.f27 then
    { streams := sV, form := !l.isLit,
      c5 := l.round == 0 && l.mode == 0 && l.b == 0 && fits 4 l.c, c6 := fits 4 l.d,
      ins := .vstQ l.g l.f28 l.d4 l.a (l.c.setWidth 4) } else decVmem .vst l)
  | 0x04 => some
    { streams := sAll, form := !l.isLit,
      c5 := l.func == 0 && l.d == 0 && !l.mode.getLsbD 3 && l.c == 0 && fits 6 l.a && fits 6 l.b,
      c6 := true, ins := .fence l.g (l.mode.setWidth 3) l.a6 l.b6 }
  | 0x05 => some
    { streams := sCLSN, form := true, c5 := l.c == 0 && l.litB0, c6 := fits 6 l.d && fits 6 l.a && l.srcFits,
      ins := .amo l.g (l.func.extractLsb' 1 4) l.f27 (l.mode.getLsbD 3) (l.mode.setWidth 3) l.d6 l.a6 l.src }
  | 0x06 => some
    { streams := sCLSN, form := !l.isLit, c5 := l.func.extractLsb' 1 4 == 0 && fits 6 l.c,
      c6 := fits 6 l.d && fits 6 l.a && fits 6 l.b,
      ins := .cas l.g l.f27 (l.mode.getLsbD 3) (l.mode.setWidth 3) l.d6 l.a6 l.b6 l.c6 }
  | 0x07 => some
    { streams := sV, form := true, c5 := l.c == 0 && l.litB0, c6 := true,
      ins := .vamo l.g (l.func.extractLsb' 1 4) l.f27 l.mode l.d l.a
        (match l.lit with
         | some w => .lit w
         | none => .reg l.b) }
  | 0x08 => some
    { streams := sCN, form := true, c5 := l.fm0 && l.litBC0, c6 := fits 6 l.d && fits 6 l.a,
      ins := .marm l.g l.d6 l.a6 l.off }
  | 0x09 => some
    { streams := sCN, form := true,
      c5 := l.func.extractLsb' 1 4 == 0 && l.mode == 0 && l.c == 0 && l.a == 0 && l.litB0,
      c6 := fits 6 l.d && l.srcFits, ins := .mwait l.g l.f27 l.d6 l.src }
  | _ => none

def clsOf (x : BitVec 3) : Cls :=
  match x.toNat with
  | 1 => .vec | 2 => .mat | 3 => .ldr | 4 => .str | _ => .ctl

def Long.clsF (l : Long) : Cls := clsOf (l.func.setWidth 3)

/-- A tile in A: a number, or with REG a scalar register (R207). -/
def Long.tile (l : Long) : TileRef := if l.f27 then .reg l.a6 else .imm (l.a.setWidth 9)
def Long.tileFits (l : Long) : Bool := if l.f27 then fits 6 l.a else fits 9 l.a

def decQ (swap : Bool) (mk : Guard → BitVec 5 → BitVec 4 → Cnt → Instr) (l : Long) : OpDec :=
  { streams := sCLS, form := !l.isLit, c5 := l.func.extractLsb' 1 4 == 0 && l.mode == 0 && l.c == 0,
    c6 := (if swap then fits 4 l.d && fits 5 l.a else fits 5 l.d && fits 4 l.a) && (!l.f27 || fits 6 l.b),
    ins := mk l.g (if swap then l.a5 else l.d5) (if swap then l.d4 else l.a4)
      (if l.f27 then .reg l.b6 else .imm l.b) }

/-- TSET by op in FUNC[31:28] (R207, R210): ops 8 to 15 are illegal with sub-cause 5 in either form. -/
def decTset (l : Long) : OpDec :=
  let op := (l.func.extractLsb' 1 4).toNat
  let takes := op == 1 || op == 5 || op == 6 || op == 7
  { streams := sC, form := takes || !l.isLit || decide (8 ≤ op),
    c5 := l.mode == 0 && l.c == 0 && l.d == 0 && decide (op < 8) && l.litB0 && (takes || l.b == 0),
    c6 := l.tileFits && (!takes || l.srcFits),
    ins := match op with
      | 0 => .tsetFill l.g l.tile
      | 1 => .tsetFillfor l.g l.tile l.src
      | 2 => .tsetDrain l.g l.tile
      | 3 => .tsetAbort l.g l.tile
      | 4 => .tsetAdv l.g l.tile
      | 5 => .tsetOrg l.g l.tile l.src
      | 6 => .tsetWstep l.g l.tile l.src
      | _ => .tsetKey l.g l.tile l.src }

/-- Class 110 (R178, R207, R332, R281, R291). -/
def decEngine (l : Long) : Nat → Option OpDec
  | 0x00 => some
    { streams := sCLS, form := true, c5 := l.fmc0 && l.litB0, c6 := fits 5 l.d && fits 3 l.a && l.srcFits,
      ins := .dset l.g l.d5 (l.a.setWidth 3) l.src }
  | 0x01 => some
    { streams := sCLS, form := !l.isLit,
      c5 := l.func.extractLsb' 1 4 == 0 && l.mode == 0 && l.c == 0 && l.a == 0 && l.b == 0 &&
        (!l.f27 || l.d == 0),
      c6 := fits 5 l.d, ins := .drld l.g l.f27 l.d5 }
  | 0x02 => some
    { streams := sC, form := !l.isLit,
      c5 := !l.f31 && decide (1 ≤ (l.func.extractLsb' 0 3).toNat ∧ (l.func.extractLsb' 0 3).toNat ≤ 4) &&
        l.mode == 0 && l.d == 0 && (if l.f30 then l.b == 0 && l.c == 0 else l.a == 0 && fits 4 l.c),
      c6 := !l.f30 || fits 6 l.a,
      ins := .sstart l.g l.clsF (if l.f30 then .reg l.a6 else .imm (l.c.setWidth 4 ++ l.b)) }
  | 0x03 => some
    { streams := sC, form := !l.isLit,
      c5 := !l.f30 && decide (1 ≤ (l.func.extractLsb' 0 3).toNat ∧ (l.func.extractLsb' 0 3).toNat ≤ 4) &&
        l.mode == 0 && l.c == 0 && l.a == 0 && l.b == 0 && (l.f31 || l.d == 0),
      c6 := fits 6 l.d, ins := .sstop l.g l.clsF (if l.f31 then some l.d6 else none) }
  | 0x04 => some (decQ true (fun g d q n => .qput g q d n) l)
  | 0x05 => some (decQ false (fun g d q n => .qget g d q n) l)
  | 0x06 => some
    { streams := sLS, form := true, c5 := l.fmc0 && l.a == 0 && l.litB0, c6 := fits 5 l.d && l.srcFits,
      ins := .wadv l.g l.d5 l.src }
  | 0x07 => some
    { streams := sL, form := true,
      c5 := l.func.extractLsb' 1 4 == 0 && l.mode == 0 && l.c == 0 && l.a == 0 && l.litB0 &&
        (!l.f27 || (l.b == 0 && !l.isLit)),
      c6 := fits 5 l.d && l.srcFits,
      ins := .unfold l.g l.d5
        (match l.lit with
         | some w => .lit w
         | none => if l.f27 then .off else .reg l.b6) }
  | 0x08 => some (decNone sC .pswap l)
  | 0x10 => some
    { streams := sC, form := true, c5 := l.func.extractLsb' 2 3 == 0 && l.mode == 0 && l.litB0 && (!l.isLit || l.c == 0),
      c6 := fits 6 l.d && l.tileFits && l.srcFits && fits 6 l.c,
      ins := .talloc l.g l.f28 l.d6 l.tile l.src l.c6 }
  | 0x11 => some
    { streams := sC, form := !l.isLit,
      c5 := l.func.extractLsb' 1 4 == 0 && l.mode == 0 && l.c == 0 && l.d == 0 && l.b == 0, c6 := l.tileFits,
      ins := .tfree l.g l.tile }
  | 0x12 => some (decTset l)
  | 0x13 => some
    { streams := sC, form := !l.isLit, c5 := l.func.extractLsb' 1 4 == 0 && l.mode == 0 && l.c == 0,
      c6 := fits 6 l.d && l.tileFits && fits 2 l.b, ins := .tqry l.g l.d6 l.tile (l.b.setWidth 2) }
  | 0x14 => some
    { streams := sCLS, form := !l.isLit,
      c5 := l.func.extractLsb' 1 4 == 0 && !l.mode.getLsbD 3 && l.c == 0 && l.d == 0 && l.b == 0,
      c6 := l.tileFits, ins := .tpost l.g (l.mode.setWidth 3) l.tile }
  | 0x15 => some
    { streams := sC, form := !l.isLit,
      c5 := l.func.extractLsb' 2 3 == 0 && l.mode == 0 && fits 6 l.b && l.sigC5,
      c6 := fits 9 l.d && fits 9 l.a && fits 6 l.c,
      ins := .trot l.g l.f27 (l.d.setWidth 9) (l.a.setWidth 9) l.b6 l.sigC }
  | 0x16 => some
    { streams := sC, form := !l.isLit,
      c5 := l.func.extractLsb' 1 4 == 0 && l.mode == 0 && l.c == 0 && (!l.f27 || l.b == 0),
      c6 := fits 6 l.d && fits 6 l.a && fits 6 l.b,
      ins := .tres l.g l.d6 l.a6 (if l.f27 then none else some l.b6) }
  | 0x17 => some
    { streams := sC, form := !l.isLit,
      c5 := l.func.extractLsb' 2 3 == 0 && l.mode == 0 && (l.f28 || l.c == 0),
      c6 := fits 6 l.d && l.tileFits && fits 6 l.b && fits 6 l.c,
      ins := .taddr l.g l.d6 l.tile l.b6 (if l.f28 then some l.c6 else none) }
  | 0x20 => some (decDA sC .enq l)
  | 0x21 => some (decDA sC .enqnb l)
  | 0x22 => some
    { streams := sC, form := !l.isLit, c5 := l.fmc0, c6 := fits 6 l.d && fits 6 l.a,
      ins := .split l.g l.d6 l.a6 l.b }
  | 0x23 => some
    { streams := sC, form := true, c5 := l.fmc0 && l.d == 0 && l.a == 0 && l.litB0, c6 := l.srcFits,
      ins := .srad l.g l.src }
  | 0x24 => some (decNone sC .retire l)
  | 0x25 => some
    { streams := sC, form := !l.isLit, c5 := l.fmc0 && l.a == 0 && l.b == 0, c6 := fits 6 l.d,
      ins := .yield l.g l.d6 }
  | 0x26 => some (decDA sC .glaunch l)
  | 0x27 => some
    { streams := sC, form := !l.isLit,
      c5 := l.func.extractLsb' 1 4 == 0 && l.mode == 0 && l.c == 0 && l.a == 0 && l.b == 0, c6 := fits 6 l.d,
      ins := .dbar l.g l.f27 l.d6 }
  | 0x28 => some (decDAS sC .pin l)
  | 0x29 => some (decDA sC .glean l)
  | 0x30 => some
    { streams := sCLS, form := !l.isLit,
      c5 := l.func.extractLsb' 2 3 == 0 && l.mode == 0 && (l.f28 || l.b == 0) && (l.f27 || l.c == 0),
      c6 := fits 6 l.d && fits 6 l.a && fits 6 l.b && fits 6 l.c,
      ins := .copy l.g l.d6 l.a6 (if l.f28 then some l.b6 else none) (if l.f27 then some l.c6 else none) }
  | 0x31 => some
    { streams := sC, form := true, c5 := l.fmc0 && l.litB0, c6 := fits 6 l.d && fits 3 l.a && l.srcFits,
      ins := .tmplw l.g l.d6 (l.a.setWidth 3) l.src }
  | 0x32 => some (decDAS sC .swait l)
  | 0x33 => some (decDA sC .nmc l)
  | 0x34 => some
    { streams := sC, form := !l.isLit, c5 := l.fmc0 && l.a == 0 && l.b == 0, c6 := fits 6 l.d,
      ins := .nmfence l.g l.d6 }
  | _ => none

/-- The selector of SYSRD and SYSWR is one that the issuing profile holds (R400). -/
def selOk (cls : Option Cls) (n : Nat) : Bool :=
  match cls with
  | some .ctl => selHeld n true false
  | some .net => selHeld n false true
  | some .vec | some .mat | some .ldr | some .str | none => selHeld n true true

/-- PART by op in FUNC[29:27] (R403). -/
def decPart (l : Long) : OpDec :=
  let op := l.func.setWidth 3
  { streams := sCN, form := !l.isLit,
    c5 := !l.f30 && !l.f31 && decide (op.toNat < 4) && l.mode == 0 && l.c == 0 && l.b == 0,
    c6 := fits 6 l.d && fits 6 l.a,
    ins := match op.toNat with
      | 0 => .partStop l.g l.d6 l.a6
      | 1 => .partRelease l.g l.d6 l.a6
      | 2 => .partReset l.g l.d6 l.a6
      | _ => .partRequest l.g l.d6 l.a6 }

/-- Class 111 (R370, R398). CRYO decodes to its query row; the request code lies in a register (R434). -/
def decSystem (cls : Option Cls) (l : Long) : Nat → Option OpDec
  | 0x00 => some (decDAS sN .arm l)
  | 0x01 => some (decDA sN .disarm l)
  | 0x02 => some (decDA sN .crd l)
  | 0x03 => some (decDAS sN .cadd l)
  | 0x04 => some (decDAS sN .cwait l)
  | 0x05 => some (decDA sN .send l)
  | 0x06 => some
    { streams := sN, form := !l.isLit,
      c5 := l.func.extractLsb' 1 4 == 0 && l.mode == 0 && l.c == 0 && l.d == 0 && l.b == 0 &&
        (l.f27 || l.a == 0),
      c6 := fits 6 l.a, ins := .hret l.g (if l.f27 then some l.a6 else none) }
  | 0x07 => some (decDA sN .rsalloc l)
  | 0x08 => some
    { streams := sN, form := !l.isLit, c5 := l.fm0 && fits 6 l.c,
      c6 := fits 6 l.d && fits 6 l.a && fits 6 l.b, ins := .rscon l.g l.d6 l.a6 l.b6 l.c6 }
  | 0x09 => some
    { streams := sN, form := !l.isLit,
      c5 := l.func.extractLsb' 1 4 == 0 && l.mode == 0 && l.c == 0 && l.b == 0, c6 := fits 6 l.d && fits 6 l.a,
      ins := .rsclose l.g l.f27 l.d6 l.a6 }
  | 0x0A => some
    { streams := sN, form := !l.isLit,
      c5 := l.func.extractLsb' 2 3 == 0 && l.mode == 0 && l.c == 0 && l.a == 0 && l.b == 0, c6 := fits 6 l.d,
      ins := .tsrd l.g (l.func.setWidth 2) l.d6 }
  | 0x20 => some
    { streams := sCN, form := true, c5 := l.fmc0 && l.d == 0 && l.a == 0 && l.litB0, c6 := true,
      ins := .trap l.g l.nsrc }
  | 0x21 => some
    { streams := sCN, form := !l.isLit,
      c5 := l.func.extractLsb' 1 4 == 0 && l.mode == 0 && l.c == 0 && l.d == 0 && l.a == 0 && l.b == 0,
      c6 := true, ins := .tret l.g l.f27 }
  | 0x22 => some
    { streams := sCN, form := !l.isLit, c5 := l.fmc0 && l.a == 0 && selOk cls l.b.toNat, c6 := fits 6 l.d,
      ins := .sysrd l.g l.d6 l.b }
  | 0x23 => some
    { streams := sCN, form := !l.isLit, c5 := l.fmc0 && l.d == 0 && selOk cls l.b.toNat, c6 := fits 6 l.a,
      ins := .syswr l.g l.a6 l.b }
  | 0x24 => some
    { streams := sC, form := true,
      c5 := l.func.extractLsb' 1 4 == 0 && l.mode == 0 && l.c == 0 && l.a == 0 && l.litB0,
      c6 := fits 6 l.d,
      ins := .ppoint l.g l.d6
        (match l.lit with
         | some w => .lit l.f27 w
         | none => .mask l.f27 l.b) }
  | 0x25 => some
    { streams := sCN, form := !l.isLit, c5 := l.fmc0, c6 := fits 6 l.d && fits 6 l.a && fits 6 l.b,
      ins := .xinv l.g l.d6 l.a6 l.b6 }
  | 0x26 => some (decPart l)
  | 0x27 => some (decDA sCN .cryoQuery l)
  | _ => none

/-- The opcode map by class, OPC[9:7] (R48, R56). -/
def opDec (cls : Option Cls) (l : Long) : Option OpDec :=
  let n := (l.opc.extractLsb' 0 7).toNat
  match (l.opc.extractLsb' 7 3).toNat with
  | 0 => decScalar l n
  | 1 => decControl cls l n
  | 2 => decElem l (n / 4)
  | 3 => decAxis l n
  | 4 => decMatrix l n
  | 5 => decMemory l n
  | 6 => decEngine l n
  | _ => decSystem cls l n

/-- A stream may issue only what the opcode map lists for it (R55, sub-cause 3). -/
def streamMay (cls : Option Cls) (ss : List Cls) : Bool :=
  match cls with
  | some c => ss.contains c
  | none => true

/-- The checks of R61 in the order of their codes: the lowest that applies is reported. -/
def check (cls : Option Cls) (o : OpDec) : Except Nat Instr :=
  if !streamMay cls o.streams then .error 3
  else if !o.form then .error 4
  else if !(o.c5 && o.ins.codeOk) then .error 5
  else if !(o.c6 && o.ins.limitOk) then .error 6
  else if !o.ins.guardOk then .error 7
  else .ok o.ins

/-- A long or literal instruction (R48, R49, R61). -/
def decodeLong (cls : Option Cls) (l : Long) : Except Nat Instr :=
  match opDec cls l with
  | none => .error 2
  | some o => check cls o

/-- A short word with its streams, its reserved field and its instruction. -/
def short (ss : List Cls) (c5 : Bool) (i : Instr) : OpDec :=
  { streams := ss, form := true, c5 := c5, c6 := true, ins := i }

/-- Short A (R46, R59). -/
def decShortA (w : Word) : Option OpDec :=
  let d := w.extractLsb' 8 5
  let a := w.extractLsb' 13 5
  let b := w.extractLsb' 18 5
  let i : BitVec 14 := w.extractLsb' 23 9 ++ w.extractLsb' 18 5
  let z := w.extractLsb' 23 9 == 0
  match (w.extractLsb' 2 6).toNat with
  | 0x00 => some { streams := sAll, form := w == 0, c5 := true, c6 := true, ins := .nop }
  | 0x01 => some (short sCLSN z (.addShortReg d a b))
  | 0x02 => some (short sCLSN z (.subShortReg d a b))
  | 0x03 => some (short sCLSN z (.andShortReg d a b))
  | 0x04 => some (short sCLSN z (.orShortReg d a b))
  | 0x05 => some (short sCLSN z (.xorShortReg d a b))
  | 0x06 => some (short sCLSN z (.shlShortReg d a b))
  | 0x07 => some (short sCLSN z (.shrShortReg d a b))
  | 0x08 => some (short sCLSN z (.sraShortReg d a b))
  | 0x09 => some (short sCLSN z (.mulShortReg d a b))
  | 0x0A => some (short sCLSN z (.minShortReg d a b))
  | 0x0B => some (short sCLSN z (.maxShortReg d a b))
  | 0x10 => some (short sCLSN true (.addShortImm d a i))
  | 0x11 => some (short sCLSN true (.andShortImm d a i))
  | 0x12 => some (short sCLSN true (.orShortImm d a i))
  | 0x13 => some (short sCLSN true (.xorShortImm d a i))
  | 0x14 => some (short sCLSN true (.shlShortImm d a i))
  | 0x15 => some (short sCLSN true (.shrShortImm d a i))
  | 0x16 => some (short sCLSN true (.sraShortImm d a i))
  | 0x20 => some (short sV z (.vaddBf16Short d a b))
  | 0x21 => some (short sV z (.vsubBf16Short d a b))
  | 0x22 => some (short sV z (.vmulBf16Short d a b))
  | 0x23 => some (short sV z (.vminBf16Short d a b))
  | 0x24 => some (short sV z (.vmaxBf16Short d a b))
  | 0x25 => some (short sV z (.fmaBf16Short d a b))
  | 0x26 => some (short sV (z && b == 0) (.vmovBf16Short d a))
  | 0x28 => some (short sV z (.vaddFp32Short d a b))
  | 0x29 => some (short sV z (.vmulFp32Short d a b))
  | 0x2A => some (short sV z (.fmaFp32Short d a b))
  | _ => none

/-- Short B (R47, R60). -/
def decShortB (w : Word) : Option OpDec :=
  let d := w.extractLsb' 8 5
  let i := w.extractLsb' 13 19
  match (w.extractLsb' 2 6).toNat with
  | 0x01 => some (short sAll (d == 0) (.brShort i))
  | 0x02 => some (short sCVMLS (d == 0) (.bloopShort i))
  | 0x03 => some (short sCLSN true (.callShort d i))
  | 0x04 => some (short sCLSN true (.moviShort d i))
  | 0x05 => some (short sCLSN true (.addShortB d i))
  | 0x06 => some (short sCVMLS (i.extractLsb' 16 3 == 0) (.fwaitShort d (i.setWidth 16)))
  | 0x07 => some (short sCVMLS (i.extractLsb' 16 3 == 0) (.fsigShort d (i.setWidth 16)))
  | _ => none

/-- Decode the instruction whose first word stands first in `ws`, the rest of its line (R45, R61), as the
stream of class `cls` does; without a class, no stream's limits apply. -/
def decode (cls : Option Cls) (ws : List Word) : Except Nat Instr :=
  match ws with
  | [] => .error 1
  | w :: rest =>
    match (w.extractLsb' 0 2).toNat with
    | 0 =>
      match decShortA w with
      | none => .error 2
      | some o => check cls o
    | 1 =>
      match decShortB w with
      | none => .error 2
      | some o => check cls o
    | 2 =>
      match rest with
      | w1 :: _ => decodeLong cls (.ofWords w w1 none)
      | [] => .error 1
    | _ =>
      match rest with
      | w1 :: w2 :: _ => decodeLong cls (.ofWords w w1 (some w2))
      | _ => .error 1

/-- The instruction read from bits numbered as spec/opcode_table.json numbers them: 32-bit words, the first
lowest. Words that the table gives no bits are zero. -/
def decodeTableWord (nbits w : Nat) : Option Instr :=
  let v := w % 2 ^ nbits
  match decode none [BitVec.ofNat 32 v, BitVec.ofNat 32 (v >>> 32), BitVec.ofNat 32 (v >>> 64)] with
  | .ok i => some i
  | .error _ => none

/-! ## The encoder -/

/-- A long form with every field but guard and opcode zero. -/
def Long.zero (g : Guard) (opc : BitVec 10) : Long :=
  { func := 0, d := 0, g := g, opc := opc, mode := 0, c := 0, b := 0, a := 0, lit := none }

/-- Source b in field B, or as the literal with B zero (R49). -/
def Long.withSrc (l : Long) : Src → Long
  | .reg r => { l with b := r.setWidth 10 }
  | .lit w => { l with lit := some w }

def Long.withN (l : Long) : NSrc → Long
  | .imm n => { l with b := n }
  | .lit w => { l with lit := some w }

def encAlu (opc : BitVec 10) (g : Guard) (d a : BitVec 6) (b : Src) : Long :=
  ({ Long.zero g opc with d := d.setWidth 10, a := a.setWidth 10 } : Long).withSrc b

def encDA (opc : BitVec 10) (g : Guard) (d a : BitVec 6) : Long :=
  { Long.zero g opc with d := d.setWidth 10, a := a.setWidth 10 }

def encBField (opc : BitVec 10) (g : Guard) (d a : BitVec 6) : BField → Long
  | .regs b c => { encDA opc g d a with b := b.setWidth 10, c := c.setWidth 8 }
  | .imm b c => { encDA opc g d a with func := 1, b := b.setWidth 10, c := c.setWidth 8 }
  | .lit w => { encDA opc g d a with lit := some w }

/-- `{C, B}` of an 18-bit field (R48). -/
def Long.withCB (l : Long) (o : BitVec 18) : Long :=
  { l with c := o.extractLsb' 10 8, b := o.extractLsb' 0 10 }

/-- V of the flag instructions: `{C[5:0], B}`, or the literal (R117). -/
def encFlag (opc : BitVec 10) (g : Guard) (f : BitVec 6) (lit : Bool) (v : BitVec 16) : Long :=
  if lit then { Long.zero g opc with d := f.setWidth 10, lit := some (v.setWidth 32) }
  else { Long.zero g opc with
    d := f.setWidth 10, c := (v.extractLsb' 10 6).setWidth 8, b := v.extractLsb' 0 10 }

def optReg (r : Option (BitVec 6)) : BitVec 10 := (r.getD 0).setWidth 10
def optC (r : Option (BitVec 6)) : BitVec 8 := (r.getD 0).setWidth 8
def bit (n : Nat) (b : Bool) : BitVec 5 := if b then BitVec.ofNat 5 (2 ^ n) else 0

/-- Class 010: the opcode is 0x100 + 4 × FAMILY + TYPE (R57). -/
def encV (fam : Nat) (x : VArgs) : Long :=
  let (aq, a) : Bool × BitVec 10 := match x.a with
    | .reg r => (false, r)
    | .queue q => (true, q.setWidth 10)
  let (bq, b, lit) : Bool × BitVec 10 × Option Word := match x.b with
    | .reg r => (false, r, none)
    | .queue q => (true, q.setWidth 10, none)
    | .lit w => (false, 0, some w)
  { func := x.round ++ BitVec.ofBool aq ++ BitVec.ofBool bq, d := x.d, g := x.g,
    opc := BitVec.ofNat 10 (0x100 + 4 * fam + x.ty.code.toNat), mode := x.mask, c := x.c, b := b, a := a,
    lit := lit }

/-- Class 011 with a type (R146). -/
def enc11 (opc : BitVec 10) (g : Guard) (ty : VType) (round : BitVec 3) (mask : BitVec 4) (d a : BitVec 10)
    (c : BitVec 8) : Long :=
  { Long.zero g opc with func := round ++ ty.code, mode := mask, d := d, a := a, c := c }

def encMM (opc : BitVec 10) (g : Guard) (bank : BitVec 2) (ovw : Bool) (sig : Option (BitVec 6)) : Long :=
  { Long.zero g opc with func := bit 1 sig.isSome ||| bit 0 ovw, d := bank.setWidth 10, c := optC sig }

def encReadOut (opc : BitVec 10) (x : ReadOutArgs) (func : BitVec 5) (mode : BitVec 4) : Long :=
  { Long.zero x.g opc with
    func := func ||| bit 1 x.gang ||| bit 0 x.tgt, mode := mode, d := x.target.setWidth 10,
    a := x.flag ++ (0#1) ++ BitVec.ofBool x.sig ++ x.bank, b := x.first, c := x.rows }

def Long.withOff (l : Long) : Off → Long
  | .off o => l.withCB o
  | .lit w => { l with lit := some w }

def Long.withVImm (l : Long) : VImm → Long
  | .imm o => { l with c := o.extractLsb' 20 8, b := o.extractLsb' 10 10, a := o.extractLsb' 0 10 }
  | .lit w => { l with lit := some w }

def encLdSt (opc : BitVec 10) (g : Guard) (size : BitVec 3) (d a : BitVec 6) (o : Off) : Long :=
  ({ encDA opc g d a with func := size ++ (0#2) } : Long).withOff o

def encVmem (opc : BitVec 10) (g : Guard) (w : Bool) (mask : BitVec 4) (d : BitVec 10) (i : VImm) : Long :=
  ({ Long.zero g opc with func := bit 1 w, mode := mask, d := d } : Long).withVImm i

def encCls : Cls → BitVec 5
  | .vec => 1 | .mat => 2 | .ldr => 3 | .str => 4 | .ctl | .net => 0

def Long.withTile (l : Long) : TileRef → Long
  | .imm n => { l with a := n.setWidth 10 }
  | .reg r => { l with func := l.func ||| 1, a := r.setWidth 10 }

def Long.withCnt (l : Long) : Cnt → Long
  | .imm n => { l with b := n }
  | .reg r => { l with func := 1, b := r.setWidth 10 }

def encTset (op : BitVec 4) (g : Guard) (n : TileRef) : Long :=
  ({ Long.zero g 0x312 with func := op ++ (0#1) } : Long).withTile n

/-- The long or literal fields of an instruction that has them (R48, R49, R56 and each entry's table). -/
def Instr.long? : Instr → Option Long
  | .add g d a b => some (encAlu 0x000 g d a b)
  | .sub g d a b => some (encAlu 0x001 g d a b)
  | .mul g d a b => some (encAlu 0x002 g d a b)
  | .mulh g d a b => some (encAlu 0x003 g d a b)
  | .mulhu g d a b => some (encAlu 0x004 g d a b)
  | .div g d a b => some (encAlu 0x005 g d a b)
  | .divu g d a b => some (encAlu 0x006 g d a b)
  | .rem g d a b => some (encAlu 0x007 g d a b)
  | .remu g d a b => some (encAlu 0x008 g d a b)
  | .and g d a b => some (encAlu 0x009 g d a b)
  | .or g d a b => some (encAlu 0x00A g d a b)
  | .xor g d a b => some (encAlu 0x00B g d a b)
  | .andn g d a b => some (encAlu 0x00C g d a b)
  | .shl g d a b => some (encAlu 0x00D g d a b)
  | .shr g d a b => some (encAlu 0x00E g d a b)
  | .sra g d a b => some (encAlu 0x00F g d a b)
  | .rotl g d a b => some (encAlu 0x010 g d a b)
  | .rotr g d a b => some (encAlu 0x011 g d a b)
  | .clz g d a => some (encDA 0x012 g d a)
  | .ctz g d a => some (encDA 0x013 g d a)
  | .popc g d a => some (encDA 0x014 g d a)
  | .bfx g d a f => some (encBField 0x015 g d a f)
  | .bfi g d a f => some (encBField 0x016 g d a f)
  | .movi g hi zx d w =>
    some { Long.zero g 0x017 with func := bit 1 hi ||| bit 0 zx, d := d.setWidth 10, lit := some w }
  | .lea g sh d a b => some { encAlu 0x018 g d a b with mode := sh.setWidth 4 }
  | .min g d a b => some (encAlu 0x019 g d a b)
  | .max g d a b => some (encAlu 0x01A g d a b)
  | .minu g d a b => some (encAlu 0x01B g d a b)
  | .maxu g d a b => some (encAlu 0x01C g d a b)
  | .cmp g cond d a b => some { encAlu 0x01D g (d.setWidth 6) a b with func := cond }
  | .sel g pm d a b => some { encAlu 0x01E g d a b with mode := pm }
  | .plog g table d a b =>
    let l : Long := { Long.zero g 0x01F with func := table.setWidth 5, d := d.setWidth 10, a := a.setWidth 10 }
    some (match b with
      | .pred p => { l with b := p.setWidth 10 }
      | .lit w => { l with lit := some w })
  | .br g w => some { Long.zero g 0x080 with lit := some w }
  | .brx g a o => some (({ Long.zero g 0x081 with a := a.setWidth 10 } : Long).withCB o)
  | .call g d w => some { Long.zero g 0x082 with d := d.setWidth 10, lit := some w }
  | .callx g d a o => some ((encDA 0x083 g d a).withCB o)
  | .ret g a => some { Long.zero g 0x084 with a := a.setWidth 10 }
  | .bloop g w => some { Long.zero g 0x085 with lit := some w }
  | .loop g s1 n =>
    let l : Long := { Long.zero g 0x086 with mode := s1.setWidth 4 }
    some (match n with
      | .reg r => { l with a := r.setWidth 10 }
      | .lit w => { l with lit := some w })
  | .fwait g f lit v => some (encFlag 0x087 g f lit v)
  | .fsig g f lit v => some (encFlag 0x088 g f lit v)
  | .fset g f lit v => some (encFlag 0x089 g f lit v)
  | .fread g d f => some (encDA 0x08A g d f)
  | .waitb g lit n =>
    some (if lit then { Long.zero g 0x08B with lit := some (n.setWidth 32) }
      else { Long.zero g 0x08B with b := n.setWidth 10 })
  | .shalt g f => some { Long.zero g 0x08C with func := bit 0 f.isSome, d := optReg f }
  | .vadd x => some (encV 0 x)
  | .vsub x => some (encV 1 x)
  | .vmul x => some (encV 2 x)
  | .fma x => some (encV 3 x)
  | .fms x => some (encV 4 x)
  | .fnma x => some (encV 5 x)
  | .vmin x => some (encV 6 x)
  | .vmax x => some (encV 7 x)
  | .vminnum x => some (encV 8 x)
  | .vmaxnum x => some (encV 9 x)
  | .vabs x => some (encV 10 x)
  | .vneg x => some (encV 11 x)
  | .vand x => some (encV 12 x)
  | .vor x => some (encV 13 x)
  | .vxor x => some (encV 14 x)
  | .vshl x => some (encV 15 x)
  | .vshr x => some (encV 16 x)
  | .vsra x => some (encV 17 x)
  | .vcmp x => some (encV 18 x)
  | .vsel x => some (encV 19 x)
  | .vmov x => some (encV 20 x)
  | .vdiv x => some (encV 21 x)
  | .vsqrt x => some (encV 22 x)
  | .vrotRow g ty m d a n => some ((enc11 0x180 g ty 0 m d a 0).withN n)
  | .vrotCol g ty m d a n => some ((enc11 0x181 g ty 0 m d a 0).withN n)
  | .vbcastRow g ty m d a n => some ((enc11 0x182 g ty 0 m d a 0).withN n)
  | .vbcastCol g ty m d a n => some ((enc11 0x183 g ty 0 m d a 0).withN n)
  | .vredRow g ty r m d a fn => some (enc11 0x184 g ty r m d a fn)
  | .vredCol g ty r m d a fn => some (enc11 0x185 g ty r m d a fn)
  | .vcvt g r m d a f => some (enc11 0x186 g .bf16 r m d a f)
  | .vpack g r m d a f => some (enc11 0x187 g .bf16 r m d a f)
  | .vunpk g m d a f => some (enc11 0x188 g .bf16 0 m d a f)
  | .vrgn g first n => some (({ Long.zero g 0x189 with a := first } : Long).withN n)
  | .vyield g => some (Long.zero g 0x18A)
  | .kand g d a b => some { Long.zero g 0x18B with d := d.setWidth 10, a := a.setWidth 10, b := b.setWidth 10 }
  | .kor g d a b => some { Long.zero g 0x18C with d := d.setWidth 10, a := a.setWidth 10, b := b.setWidth 10 }
  | .kxor g d a b => some { Long.zero g 0x18D with d := d.setWidth 10, a := a.setWidth 10, b := b.setWidth 10 }
  | .kandn g d a b => some { Long.zero g 0x18E with d := d.setWidth 10, a := a.setWidth 10, b := b.setWidth 10 }
  | .kfill g d x =>
    let l : Long := { Long.zero g 0x18F with d := d.setWidth 10 }
    some (match x with
      | .long a b c => { l with a := a, b := b, c := c }
      | .lit w => { l with lit := some w })
  | .mpset g fld v =>
    let l : Long := { Long.zero g 0x200 with d := fld.setWidth 10 }
    some (match v with
      | .imm v => l.withCB v
      | .lit w => { l with lit := some w })
  | .mm g bank ovw sig => some (encMM 0x201 g bank ovw sig)
  | .mmg g bank ovw sig => some (encMM 0x202 g bank ovw sig)
  | .acrd x int lay => some (encReadOut 0x203 x (bit 3 int ||| bit 2 lay) 0)
  | .acclr g bank sig => some (encMM 0x204 g bank false sig)
  | .accvt x r f => some (encReadOut 0x205 x (r ++ (0#2)) f)
  | .mscl g tabB q => some { Long.zero g 0x206 with func := bit 0 tabB, a := q.setWidth 10 }
  | .mprog g => some (Long.zero g 0x207)
  | .ld g sz d a o => some (encLdSt 0x280 g sz d a o)
  | .st g sz d a o => some (encLdSt 0x281 g sz d a o)
  | .vld g w m d i => some (encVmem 0x282 g w m d i)
  | .vst g w m d i => some (encVmem 0x283 g w m d i)
  | .vstQ g w q a f =>
    some { Long.zero g 0x283 with func := bit 1 w ||| 1, d := q.setWidth 10, a := a, c := f.setWidth 8 }
  | .fence g sc p n =>
    some { Long.zero g 0x284 with mode := sc.setWidth 4, a := p.setWidth 10, b := n.setWidth 10 }
  | .amo g op acq rel sc d a b =>
    some { encAlu 0x285 g d a b with func := op ++ BitVec.ofBool acq, mode := BitVec.ofBool rel ++ sc }
  | .cas g acq rel sc d a b c =>
    some { encDA 0x286 g d a with
      func := bit 0 acq, mode := BitVec.ofBool rel ++ sc, b := b.setWidth 10, c := c.setWidth 8 }
  | .vamo g op rt m d a b =>
    let l : Long := { Long.zero g 0x287 with func := op ++ BitVec.ofBool rt, mode := m, d := d, a := a }
    some (match b with
      | .reg r => { l with b := r }
      | .queue q => { l with b := q.setWidth 10 }
      | .lit w => { l with lit := some w })
  | .marm g d a o => some ((encDA 0x288 g d a).withOff o)
  | .mwait g ne d b =>
    some (({ Long.zero g 0x289 with func := bit 0 ne, d := d.setWidth 10 } : Long).withSrc b)
  | .dset g d w b =>
    some (({ Long.zero g 0x300 with d := d.setWidth 10, a := w.setWidth 10 } : Long).withSrc b)
  | .drld g all d => some { Long.zero g 0x301 with func := bit 0 all, d := if all then 0 else d.setWidth 10 }
  | .sstart g cls line =>
    let l : Long := { Long.zero g 0x302 with func := encCls cls }
    some (match line with
      | .imm x => { l with c := (x.extractLsb' 10 4).setWidth 8, b := x.extractLsb' 0 10 }
      | .reg r => { l with func := encCls cls ||| bit 3 true, a := r.setWidth 10 })
  | .sstop g cls sig =>
    some { Long.zero g 0x303 with func := encCls cls ||| bit 4 sig.isSome, d := optReg sig }
  | .qput g q d n => some (({ Long.zero g 0x304 with d := q.setWidth 10, a := d.setWidth 10 } : Long).withCnt n)
  | .qget g d q n => some (({ Long.zero g 0x305 with d := d.setWidth 10, a := q.setWidth 10 } : Long).withCnt n)
  | .wadv g d b => some (({ Long.zero g 0x306 with d := d.setWidth 10 } : Long).withSrc b)
  | .unfold g d b =>
    let l : Long := { Long.zero g 0x307 with d := d.setWidth 10 }
    some (match b with
      | .reg r => { l with b := r.setWidth 10 }
      | .lit w => { l with lit := some w }
      | .off => { l with func := 1 })
  | .pswap g => some (Long.zero g 0x308)
  | .talloc g win d n size key =>
    some ((({ Long.zero g 0x310 with func := bit 1 win, d := d.setWidth 10, c := key.setWidth 8 } : Long).withTile
      n).withSrc size)
  | .tfree g n => some ((Long.zero g 0x311).withTile n)
  | .tsetFill g n => some (encTset 0 g n)
  | .tsetFillfor g n b => some ((encTset 1 g n).withSrc b)
  | .tsetDrain g n => some (encTset 2 g n)
  | .tsetAbort g n => some (encTset 3 g n)
  | .tsetAdv g n => some (encTset 4 g n)
  | .tsetOrg g n b => some ((encTset 5 g n).withSrc b)
  | .tsetWstep g n b => some ((encTset 6 g n).withSrc b)
  | .tsetKey g n b => some ((encTset 7 g n).withSrc b)
  | .tqry g d n w =>
    some (({ Long.zero g 0x313 with d := d.setWidth 10, b := w.setWidth 10 } : Long).withTile n)
  | .tpost g sc n => some (({ Long.zero g 0x314 with mode := sc.setWidth 4 } : Long).withTile n)
  | .trot g dn dst src m sig =>
    some { Long.zero g 0x315 with
      func := bit 1 sig.isSome ||| bit 0 dn, d := dst.setWidth 10, a := src.setWidth 10, b := m.setWidth 10,
      c := optC sig }
  | .tres g d a core => some { encDA 0x316 g d a with func := bit 0 core.isNone, b := optReg core }
  | .taddr g d n b core =>
    some (({ Long.zero g 0x317 with
      func := bit 1 core.isSome, d := d.setWidth 10, b := b.setWidth 10, c := optC core } : Long).withTile n)
  | .enq g d a => some (encDA 0x320 g d a)
  | .enqnb g d a => some (encDA 0x321 g d a)
  | .split g d a n => some { encDA 0x322 g d a with b := n }
  | .srad g b => some ((Long.zero g 0x323).withSrc b)
  | .retire g => some (Long.zero g 0x324)
  | .yield g d => some { Long.zero g 0x325 with d := d.setWidth 10 }
  | .glaunch g d a => some (encDA 0x326 g d a)
  | .dbar g nw d => some { Long.zero g 0x327 with func := bit 0 nw, d := d.setWidth 10 }
  | .pin g d a m => some (encAlu 0x328 g d a m)
  | .glean g d a => some (encDA 0x329 g d a)
  | .copy g d t src dst =>
    some { encDA 0x330 g d t with
      func := bit 1 src.isSome ||| bit 0 dst.isSome, b := optReg src, c := optC dst }
  | .tmplw g t w b =>
    some (({ Long.zero g 0x331 with d := t.setWidth 10, a := w.setWidth 10 } : Long).withSrc b)
  | .swait g d t b => some (encAlu 0x332 g d t b)
  | .nmc g d a => some (encDA 0x333 g d a)
  | .nmfence g d => some { Long.zero g 0x334 with d := d.setWidth 10 }
  | .arm g d a b => some (encAlu 0x380 g d a b)
  | .disarm g d a => some (encDA 0x381 g d a)
  | .crd g d a => some (encDA 0x382 g d a)
  | .cadd g d a b => some (encAlu 0x383 g d a b)
  | .cwait g d a b => some (encAlu 0x384 g d a b)
  | .send g d a => some (encDA 0x385 g d a)
  | .hret g n => some { Long.zero g 0x386 with func := bit 0 n.isSome, a := optReg n }
  | .rsalloc g d a => some (encDA 0x387 g d a)
  | .rscon g d a b c => some { encDA 0x388 g d a with b := b.setWidth 10, c := c.setWidth 8 }
  | .rsclose g drop d a => some { encDA 0x389 g d a with func := bit 0 drop }
  | .tsrd g s d => some { Long.zero g 0x38A with func := s.setWidth 5, d := d.setWidth 10 }
  | .trap g n => some ((Long.zero g 0x3A0).withN n)
  | .tret g skip => some { Long.zero g 0x3A1 with func := bit 0 skip }
  | .sysrd g d n => some { Long.zero g 0x3A2 with d := d.setWidth 10, b := n }
  | .syswr g a n => some { Long.zero g 0x3A3 with a := a.setWidth 10, b := n }
  | .ppoint g d m =>
    let l : Long := { Long.zero g 0x3A4 with d := d.setWidth 10 }
    some (match m with
      | .mask all b => { l with func := bit 0 all, b := b }
      | .lit all w => { l with func := bit 0 all, lit := some w })
  | .xinv g d a b => some { encDA 0x3A5 g d a with b := b.setWidth 10 }
  | .partStop g d a => some (encDA 0x3A6 g d a)
  | .partRelease g d a => some { encDA 0x3A6 g d a with func := 1 }
  | .partReset g d a => some { encDA 0x3A6 g d a with func := 2 }
  | .partRequest g d a => some { encDA 0x3A6 g d a with func := 3 }
  | .cryoQuery g d a | .cryoCool g d a | .cryoWarm g d a | .cryoForceRetreat g d a
  | .cryoReleaseRetreat g d a | .cryoClearRatev g d a => some (encDA 0x3A7 g d a)
  | _ => none

/-- A short A word (R46): register form, and immediate form with imm14 split over [31:23] and [22:18]. -/
def encSA (maj : BitVec 6) (d a b : BitVec 5) : Word := (0#9) ++ b ++ a ++ d ++ maj ++ (0#2)
def encSAI (maj : BitVec 6) (d a : BitVec 5) (i : BitVec 14) : Word :=
  i.extractLsb' 5 9 ++ i.extractLsb' 0 5 ++ a ++ d ++ maj ++ (0#2)
/-- A short B word (R47). -/
def encSB (maj : BitVec 6) (d : BitVec 5) (i : BitVec 19) : Word := i ++ d ++ maj ++ (1#2)

/-- The word of a short form (R59, R60). -/
def Instr.short? : Instr → Option Word
  | .nop => some 0
  | .addShortReg d a b => some (encSA 0x01 d a b)
  | .subShortReg d a b => some (encSA 0x02 d a b)
  | .andShortReg d a b => some (encSA 0x03 d a b)
  | .orShortReg d a b => some (encSA 0x04 d a b)
  | .xorShortReg d a b => some (encSA 0x05 d a b)
  | .shlShortReg d a b => some (encSA 0x06 d a b)
  | .shrShortReg d a b => some (encSA 0x07 d a b)
  | .sraShortReg d a b => some (encSA 0x08 d a b)
  | .mulShortReg d a b => some (encSA 0x09 d a b)
  | .minShortReg d a b => some (encSA 0x0A d a b)
  | .maxShortReg d a b => some (encSA 0x0B d a b)
  | .addShortImm d a i => some (encSAI 0x10 d a i)
  | .andShortImm d a i => some (encSAI 0x11 d a i)
  | .orShortImm d a i => some (encSAI 0x12 d a i)
  | .xorShortImm d a i => some (encSAI 0x13 d a i)
  | .shlShortImm d a i => some (encSAI 0x14 d a i)
  | .shrShortImm d a i => some (encSAI 0x15 d a i)
  | .sraShortImm d a i => some (encSAI 0x16 d a i)
  | .vaddBf16Short d a b => some (encSA 0x20 d a b)
  | .vsubBf16Short d a b => some (encSA 0x21 d a b)
  | .vmulBf16Short d a b => some (encSA 0x22 d a b)
  | .vminBf16Short d a b => some (encSA 0x23 d a b)
  | .vmaxBf16Short d a b => some (encSA 0x24 d a b)
  | .fmaBf16Short d a b => some (encSA 0x25 d a b)
  | .vmovBf16Short d a => some (encSA 0x26 d a 0)
  | .vaddFp32Short d a b => some (encSA 0x28 d a b)
  | .vmulFp32Short d a b => some (encSA 0x29 d a b)
  | .fmaFp32Short d a b => some (encSA 0x2A d a b)
  | .brShort i => some (encSB 0x01 0 i)
  | .bloopShort i => some (encSB 0x02 0 i)
  | .callShort d i => some (encSB 0x03 d i)
  | .moviShort d i => some (encSB 0x04 d i)
  | .addShortB d i => some (encSB 0x05 d i)
  | .fwaitShort f v => some (encSB 0x06 f (v.setWidth 19))
  | .fsigShort f v => some (encSB 0x07 f (v.setWidth 19))
  | _ => none

/-- The words of an instruction; a step without an encoding has none. -/
def encode (i : Instr) : List Word :=
  match i.short? with
  | some w => [w]
  | none =>
    match i.long? with
    | some l => l.words
    | none => []

/-- How many words an instruction takes in its line (R45). -/
def Instr.words (i : Instr) : Nat := (encode i).length

/-- The instruction that the words of `i` decode to: the six CRYO rows share one encoding, because the request
code is a register's value (R434). Every other encodable instruction decodes to itself. -/
def Instr.decoded : Instr → Instr
  | .cryoCool g d a | .cryoWarm g d a | .cryoForceRetreat g d a | .cryoReleaseRetreat g d a
  | .cryoClearRatev g d a => .cryoQuery g d a
  | i => i

end Sys2Proof
end

