-- ==== Sys2Proof/Config.lean ====
section
/-! DEFINITION. What an implementation of the part fixes, and the values that the spec leaves free: opaque
constants without a body, so that nothing can be proved of a value of theirs. -/

namespace Sys2Proof

/-- Whose turn a step is: a stream or packet thread issues, or a step without an encoding takes place. (DESIGN CHOICE, log 1) -/
inductive Turn where
  | agent (a : Agent)
  | event (i : Instr)
  deriving DecidableEq, Repr, Inhabited

namespace Config

/-- Free: the turn of step `n` where the state's agenda names none; the agents run in no fixed order. -/
opaque schedule : Nat → Turn

/-- Free: the core cycles that step `n` takes (R96, R126: not architectural). -/
opaque stepCycles : Nat → Nat

/-- Free: whether the host's bus answers an access to a bus address, in a step, with an error (R410, R413). -/
opaque busError : Nat → Nat → Bool

/-- Free: SHAKE256 digests of 32 bytes, and the verification of an XMSS signature over a message under a public
key (R423). The primitives are named, not given, by the spec. -/
opaque shake256 : List Byte → BitVec 256
opaque xmssVerify : List Byte → List Byte → List Byte → Bool

/-- Free: what is burnt into the fuses and flash of this module (R423, R425): revoked key slots, fused key
hashes, the fused SVN count, the module limits record when it verifies, the boot image. -/
opaque fuseRevoked : Nat → Bool
opaque fuseKeyHash : Nat → BitVec 256
opaque fuseSvn : Nat
opaque limitsRecord : Option (DWord × DWord)
opaque bootImage : List Byte

/-- Free: where the firmware's own boot code puts the page table root of partition 0 (R241 says only that it does). -/
opaque firmwareRoot : Nat

/-- Free: where in partition 0's memory the firmware keeps its state table, by line of the near tier, and its size in bytes (R424 says
only that it is there). -/
opaque stateTable : Nat
opaque stateTableSize : Nat

/-- Free: whether by the end of step `n` the active complex services its watchdog (R424), and whether it has the attestation key sign
a report (R423): what software does. -/
opaque serves : Nat → Bool
opaque signs : Nat → Bool

/-- Free: spare lanes of a near-tier channel (R256 gives no number). -/
opaque spareLanes : Nat

/-- Free: the line of DRAM, by its number, whose cells an error strikes by the end of step `n`, and whether it is past
correction (R253 to R254). (DESIGN CHOICE, log 93) -/
opaque upset : Nat → Option (Nat × Bool)

/-- Free: an unstated value, drawn in order. -/
opaque freeWord : Nat → DWord

end Config
end Sys2Proof
end

