-- ==== Sys2Proof/Machine/State.lean ====
section
/-! DEFINITION. The state of the part: everything the spec gives the machine, as plain data, with the model's
own scheduling fields; the reasons a step can stop; the state right after reset. -/

namespace Sys2Proof.Machine

/-- Why the machine stops without a next state. No meaning of this model raises one: the part answers every
condition with a trap, a status, an event record or a block. Safe. -/
inductive Fault where
  /-- Reserved for a stop that the spec itself would leave without any state; raised by no meaning. Safe. -/
  | none
  deriving DecidableEq, Repr

/-- Why an instruction has no meaning. -/
inductive Refusal where
  /-- An instruction still rejected by name in Dispatch.lean. Safe: the machine stops where the part goes on. -/
  | notModelled (mnemonic : String)
  deriving DecidableEq, Repr

/-- A byte-addressed memory: listed cells by strictly rising address, unlisted addresses read 0. -/
abbrev Memory := List Host.Cell

/-! # A context slot -/

/-- What a stream does when its turn comes: R27 (blocked), R119 (halted), R130, R182 (drains its results, then halts
and signals each of `sigs`). -/
inductive SMode where
  | halted
  | running
  | blocked
  | draining (sigs : List Nat)
  deriving DecidableEq, Repr

/-- A queue entry (R164). -/
structure QEntry where
  rows : RowSet
  side : BitVec 1024
  pad : Bool
  last : Bool
  scv : Bool
  fmt : Nat
  deriving DecidableEq, Repr

/-- A QPUT or QGET in progress (R183), its pc still at the instruction. -/
structure Xfer where
  put : Bool
  q : Nat
  d : Nat
  left : Nat
  /-- The flush bit of the class as it stood at issue (R75). -/
  ftz : Bool
  /-- The row-set that a QPUT has formed, with the flags it raises, and for which its queue still has to free an entry (R183). -/
  formed : Option (QEntry × BitVec 5)
  /-- A row-set is part-way: it is formed, or an access of one of its segments is held (R175). -/
  mid : Bool
  deriving DecidableEq, Repr

/-- What a blocked MWAIT or SWAIT has last read (R265, R284): the place of its doubleword, and the saves of the piece and the
writes there by then. -/
structure Watch where
  place : Nat
  saves : Nat
  writes : Nat
  deriving DecidableEq, Repr

/-- One instruction stream of a slot (R25, R93), or a packet thread's instruction state (R341). `word` 0: the
line is still to be reached; 16: past its last word. -/
structure Stream where
  mode : SMode
  line : Int
  word : Nat
  /-- The plane in which the current line was reached (R175). -/
  plane : Nat
  /-- The line has passed its link-word checks (R41) and may wait on its flag (R42). -/
  reached : Bool
  /-- The wait of the line's link word has held on this entry to the line and is not tested again (R42). -/
  passed : Bool
  /-- The next instruction issues as one whose guard fails (TRET.skip, R387). -/
  skip : Bool
  /-- Beats still to issue of WAITB (R118); of VYIELD, 1 while its wait beats run (R137). -/
  waitLeft : Nat
  xfer : Option Xfer
  /-- Row-sets, or the lowest element, of an instruction that a trap return re-issues (R172, R387). -/
  again : Option Nat
  /-- The number of the request on which the stream waits: an invalidation, an enqueue, an epoch. -/
  token : Option Nat
  /-- The value already fixed for the blocked instruction (a COPY's sequence number, a DBAR's epoch). -/
  held : DWord
  /-- What a blocked MWAIT or SWAIT has read. -/
  watch : Option Watch
  regs : Tbl DWord
  preds : BitVec 16
  ecnt : BitVec 4
  lcnt : Word
  deriving DecidableEq, Repr

/-- A stream before it starts (R95). -/
def Stream.reset : Stream :=
  { mode := .halted, line := 0, word := 0, plane := 0, reached := false, passed := false, skip := false, waitLeft := 0,
    xfer := none, again := none, token := none, held := 0, watch := none, regs := [], preds := 1, ecnt := 0, lcnt := 0 }

/-- Where a vector result goes: physical registers with their cells, or a lane mask (R127, R128). -/
inductive VDest where
  | regs (ws : List (Nat × RowSet))
  | mask (k : Nat) (bits : Mask)
  | none
  deriving DecidableEq, Repr

/-- A vector result in flight (R127), to be written as the instruction of beat `due` issues; `landing`: it stands in the
landing buffer (R385). -/
structure InFlight where
  ix : Nat
  due : Nat
  issued : Nat
  line : Int
  word : Nat
  dest : VDest
  lanes : Mask
  flags : BitVec 5
  /-- The reply has arrived (always so for a result that is no memory access). -/
  arrived : Bool
  /-- A faulting reply (R389): sub-cause of R258, address, element. -/
  fault : Option (Nat × DWord × Nat)
  addr : DWord
  /-- Of a VAMO, its lowest element whose old value is still to come (R383). -/
  elem : Option Nat
  landing : Bool
  deriving DecidableEq, Repr

/-- A flag change that waits for earlier results of its stream (R98): `ixs` vector results or `mseq` matrix
operations issued before `after`. -/
structure PendSig where
  vec : Bool
  flag : Nat
  set : Bool
  val : BitVec 16
  after : Nat
  deriving DecidableEq, Repr

/-- The vector stream's registers and results (R120 to R131). -/
structure VecState where
  regs : Tbl RowSet
  masks : Tbl Mask
  vrgn : DWord
  beat : Nat
  nextIx : Nat
  inflight : List InFlight
  deriving DecidableEq, Repr

def VecState.reset : VecState := { regs := [], masks := [], vrgn := 0, beat := 0, nextIx := 1, inflight := [] }

/-- A row of an accumulator bank: 128 cells of 32 bits, column 0 lowest (R215). -/
abbrev AccRow := BitVec 4096

/-- A matrix parameter set (R218). -/
structure MatParams where
  m : Nat
  n : Nat
  k : Nat
  qa : Nat
  qb : Nat
  gr : Nat
  gc : Nat
  acol : Nat
  arow : Nat
  sca : Nat
  scb : Nat
  tabA : Tbl Word
  tabB : Tbl Word
  deriving DecidableEq, Repr

def MatParams.reset : MatParams :=
  { m := 0, n := 0, k := 0, qa := 0, qb := 0, gr := 1, gc := 1, acol := 0, arow := 0, sca := 0, scb := 0,
    tabA := [], tabB := [] }

/-- Where an operation of a matrix path stands: not yet started, running, or stopped with CAUSE (R235). -/
inductive OpStat where
  | waiting
  | running
  | stopped (cause : Nat)
  deriving DecidableEq, Repr

/-- What runs on the compute path (R224, R226, R227). -/
inductive CKind where
  | mm | mmg | acclr
  deriving DecidableEq, Repr

/-- The operation, or the stopped record, of a slot's compute path (R216, R235). In a gang product every member
holds one; `share` gives its member number and its rows and columns. -/
structure ComputeOp where
  kind : CKind
  seq : Nat
  bank : Nat
  ovw : Bool
  sig : Option Nat
  stat : OpStat
  /-- SYS.MPROGC.STEPS. -/
  steps : Nat
  member : Nat
  ml : Nat
  nl : Nat
  /-- The FMT tags that this operation's A and B row-sets carry (R221). -/
  fmts : Option (Nat × Nat)
  /-- Of an MMG: it has started in its leader, and every member has its share (R227). -/
  placed : Bool
  /-- The operation, or the member's share, has started: it has waited for its path and its bank (R216, R224). -/
  begun : Bool
  /-- FTZMAT of the issuing slot as it stood at issue (R75, R227). -/
  ftz : Bool
  deriving DecidableEq, Repr

/-- The operation, or the stopped record, of a slot's read-out path (R230, R235). -/
structure ReadOp where
  seq : Nat
  cvt : Bool
  gang : Bool
  tgt : Bool
  target : Nat
  bank : Nat
  sig : Option Nat
  first : Nat
  rows : Nat
  int : Bool
  lay : Bool
  round : Nat
  fmt : Nat
  stat : OpStat
  /-- Rows written: SYS.MPROGR.DONE. -/
  done : Nat
  /-- The first row-set of a LAY 1 group has been put. -/
  half : Bool
  member : Nat
  roff : Nat
  coff : Nat
  /-- Of a ganged read-out: it has started in its leader, and the members have their parts (R233). -/
  placed : Bool
  /-- The read-out, or the member's part, has started: it has waited for its path and its bank (R216). -/
  begun : Bool
  /-- What ACCVT and ACRD take from the issuing slot at issue: FTZMAT (R75), SYS.SRCTX, SYS.SRBASE, and the stochastic
  key and tensor of the descriptor that SRCTX names (R82, R400). (DEDUCED, log 91) -/
  ftz : Bool
  srctx : DWord
  srbase : DWord
  srkey : DWord
  srtensor : BitVec 16
  deriving DecidableEq, Repr

/-- A follow-on that has not yet started (R280). -/
structure FollowOn where
  mmg : Bool
  bank : Nat
  ovw : Bool
  sig : Option Nat
  seq : Nat
  /-- FTZMAT as it stood when the follow-on was issued (R75, R280). -/
  ftz : Bool
  deriving DecidableEq, Repr

/-- A ganged read-out that has started, in its leader: its number there, its bank, and the parts that have neither completed
nor stopped (R233). -/
structure GangRead where
  seq : Nat
  bank : Nat
  tgt : Bool
  left : Nat
  deriving DecidableEq, Repr

/-- The matrix stream's registers and operations (R215 to R238). -/
structure MatState where
  acc : Tbl AccRow
  active : MatParams
  shadow : MatParams
  dirty : Bool
  cop : Option ComputeOp
  rop : Option ReadOp
  /-- An ACCLR that waits for its bank: it holds the compute path, and leaves a stopped record where it is (R226, R235). -/
  clr : Option ComputeOp
  gread : Option GangRead
  followOns : List FollowOn
  /-- Shares of a ganged product and of a ganged read-out that wait for this member's path (R227, R233). -/
  share : Option ComputeOp
  shareR : Option ReadOp
  nextSeq : Nat
  /-- SYS.GSTAT OP and MST (R229). -/
  gop : Bool
  mst : BitVec 12
  lastAdvance : Nat
  deriving DecidableEq, Repr

def MatState.reset : MatState :=
  { acc := [], active := .reset, shadow := .reset, dirty := false, cop := none, rop := none, clr := none, gread := none, followOns := [], share := none,
    shareR := none, nextSeq := 1, gop := false, mst := 0, lastAdvance := 0 }

/-- A stream descriptor (R158) with its walk position and what R170 and R180 hold about it: the class whose
transfer holds it, and the classes whose DRLDs wait for that transfer. -/
structure Desc where
  dw : BitVec 512
  i0 : Nat
  i1 : Nat
  i2 : Nat
  i3 : Nat
  holder : Option Cls
  reload : List Cls
  deriving DecidableEq, Repr

def Desc.reset : Desc := { dw := 0, i0 := 0, i1 := 0, i2 := 0, i3 := 0, holder := none, reload := [] }

/-- A queue (R164, R165): configuration, position of the head in its area, entries from the head on. -/
structure Queue where
  cfg : DWord
  head : Nat
  entries : List QEntry
  /-- Puts and pops of the present core cycle: a pop takes no entry that the same cycle adds, and a put takes no room that
  the same cycle makes (R167). -/
  puts : Nat
  pops : Nat
  deriving DecidableEq, Repr

def Queue.reset : Queue := { cfg := 0, head := 0, entries := [], puts := 0, pops := 0 }

/-- A trap that is due or held (R381): its frame values. `strm`: the link-word class it names; `sync`: it is the synchronous
trap of an instruction of the control stream that has issued already, a TROT's (R203, R378). -/
structure HeldTrap where
  cause : Nat
  sub : Nat
  strm : Nat
  addr : DWord
  info : DWord
  line : Int
  word : Nat
  beats : Nat
  sync : Bool := false
  deriving DecidableEq, Repr

/-- Where the control stream stood when another stream's trap, or its own, took it to the handler (R379): it goes on
there with its transfer and its wait, unless the handler writes another place to the frame. (DEDUCED, log 31) -/
structure CtlSave where
  /-- The place that the frame shows. -/
  shown : Nat × Nat
  line : Int
  word : Nat
  plane : Nat
  passed : Bool
  skip : Bool
  waitLeft : Nat
  xfer : Option Xfer
  again : Option Nat
  token : Option Nat
  held : DWord
  deriving DecidableEq, Repr

/-- The trap registers of a slot (R382, R384). -/
structure TrapRegs where
  tcause : DWord
  tpc : DWord
  taddr : DWord
  tinfo : DWord
  trows : DWord
  /-- The stream whose stopped transfer SYS.TROWS counts (R172, R387). -/
  trow : Option Cls
  tvec : DWord
  intrap : Bool
  pend : List HeldTrap
  /-- Traps of the present core cycle that are raised in the one after it: cause 11 (R430). -/
  arriving : List HeldTrap
  tscr0 : DWord
  tscr1 : DWord
  tscr2 : DWord
  tscr3 : DWord
  ctl : Option CtlSave
  deriving DecidableEq, Repr

def TrapRegs.reset : TrapRegs :=
  { tcause := 0, tpc := 0, taddr := 0, tinfo := 0, trows := 0, trow := none, tvec := 0, intrap := false, pend := [], arriving := [],
    tscr0 := 0, tscr1 := 0, tscr2 := 0, tscr3 := 0, ctl := none }

/-- What kind of work a piece or queue entry is (R312, R31). -/
inductive WorkKind where
  | normal | gleaning
  deriving DecidableEq, Repr

/-- A gang member's place: the gang's ticket, its member number and the gang's slots in member order (R30). -/
structure GangRef where
  ticket : Nat
  member : Nat
  slots : List (Nat × Nat)
  deriving DecidableEq, Repr

/-- A piece of a range task (R22) with its copy of the header, and what counts for it while it lives. -/
structure Piece where
  uid : Nat
  part : Nat
  kind : WorkKind
  hdr : List DWord
  lo : DWord
  hi : DWord
  id : Word
  pin : Nat
  gang : Option GangRef
  /-- EPOCHX of the barrier at which it has arrived (R331, R337). -/
  arrived : Option Nat
  deriving DecidableEq, Repr

/-- Life of a slot (R35, R309): a retiring slot waits at step 2 to 5 of R36; a restoring one reads its record. -/
inductive SlotPhase where
  | free
  | reserved (ticket : Nat)
  | running
  | retiring
  | restoring
  deriving DecidableEq, Repr

/-- A copy command: the template's doublewords, its SEQ set, and for whom it runs (R271, R283). -/
structure CopyCmd where
  t : BitVec 512
  part : Nat
  /-- The commanding piece and its slot; `none`: a fired copy, or one of the host. -/
  who : Option (Nat × Nat × Nat)
  cls : Cls
  host : Option (Nat × Nat)
  deriving DecidableEq, Repr

/-- The registers of a slot that are read and written whole (files 04, 10, 13, 15). -/
structure SlotRegs where
  fpstat : DWord
  fpctl : DWord
  srctx : DWord
  srbase : DWord
  vbase : DWord
  mon : DWord
  nmstat : DWord
  itlo : DWord
  ithi : DWord
  itgrain : DWord
  dom : DWord
  /-- SYS.PSTAT.REQ and SAVES. -/
  req : BitVec 2
  saves : BitVec 16
  deriving DecidableEq, Repr

def SlotRegs.reset : SlotRegs :=
  { fpstat := 0, fpctl := 0, srctx := 0, srbase := 0, vbase := 0, mon := 0, nmstat := 0, itlo := 0, ithi := 0,
    itgrain := 0, dom := 0, req := 0, saves := 0 }

/-- An enqueue whose target queue is at its limit (R316, R319): its instruction's number, the piece, the core or bay that
placement chose, and whether R318 has failed it. -/
structure EnqWait where
  tag : Nat
  piece : Piece
  target : Option Nat
  failed : Bool
  /-- Core cycle in which it issued. -/
  issued : Nat
  deriving DecidableEq, Repr

/-- What the present core cycle does to a flag (R97): the FSET of highest priority (the class code of its stream, and its
value), and the sum of the increments. -/
structure FlagCyc where
  set : Option (Nat × BitVec 16)
  inc : BitVec 16
  deriving DecidableEq, Repr

/-- A stop that is still to be made (R397): whether the piece is then held, and, where a save has been abandoned, the number
of crib records that its partition had gained by then. -/
structure StopWait where
  held : Bool
  after : Option Nat
  deriving DecidableEq, Repr

/-- A context slot (R309). -/
structure Slot where
  phase : SlotPhase
  piece : Option Piece
  ctl : Stream
  vec : Stream
  mat : Stream
  ldr : Stream
  str : Stream
  /-- f0 to f63 as they stood at the end of the core cycle before (R97). -/
  flags : Tbl (BitVec 16)
  /-- The flags that the present core cycle changes (R97). -/
  flagCyc : Tbl FlagCyc
  /-- The bits of SYS.FPSTAT that results of the present core cycle have raised (R74). -/
  fpNew : DWord
  sigs : List PendSig
  v : VecState
  m : MatState
  descs : Tbl Desc
  queues : Tbl Queue
  trap : TrapRegs
  regs : SlotRegs
  /-- Commands waiting in the slot's admission buffer (R268). -/
  adm : List CopyCmd
  /-- Copies whose COPY, by its number, waits for room there (R283). -/
  copyWaits : List (Nat × CopyCmd)
  /-- A stop that waits for a free crib record (R397), or for the next issue boundary. -/
  stopping : Option StopWait
  /-- Pieces that blocked enqueues of the control stream have still to queue. -/
  enq : List EnqWait
  /-- Core cycle since which the control stream holds in a blocking enqueue (R318). -/
  enqSince : Option Nat
  /-- Core cycle since which a normal task waits for this gleaning piece's slot (R31). -/
  gleanSince : Option Nat
  deriving DecidableEq, Repr

/-- A free slot, every register at its reset value. -/
def Slot.reset : Slot :=
  { phase := .free, piece := none, ctl := .reset, vec := .reset, mat := .reset, ldr := .reset, str := .reset,
    flags := [], flagCyc := [], fpNew := 0, sigs := [], v := .reset, m := .reset, descs := [], queues := [], trap := .reset,
    regs := .reset, adm := [], copyWaits := [], stopping := none, enq := [], enqSince := none, gleanSince := none }

/-! # A core -/

/-- A tile table entry (R191); every field 0 while the entry is FREE. -/
structure Tile where
  state : Nat
  win : Bool
  baseg : Nat
  sizeg : Nat
  prod : Nat
  cons : Nat
  key : Word
  widx : BitVec 16
  origin : DWord
  wstep : DWord
  /-- A live claim of a saved piece (R393): the piece that keeps it, as producer or as consumer. -/
  claimP : Option Nat
  claimC : Option Nat
  deriving DecidableEq, Repr

def Tile.free : Tile :=
  { state := 0, win := false, baseg := 0, sizeg := 0, prod := 0, cons := 0, key := 0, widx := 0, origin := 0,
    wstep := 0, claimP := none, claimC := none }

/-- A pending TROT in a core's rotation unit (R203). -/
structure Rot where
  src : Nat
  dst : Nat
  mask : Nat
  dn : Bool
  slot : Nat
  uid : Nat
  sig : Option Nat
  started : Bool
  /-- Where the TROT stands. -/
  line : Int
  word : Nat
  deriving DecidableEq, Repr

/-- An entry of a task queue (R312): a task, or a saved piece with the number of its crib record; its place in the spill
ring, where it stands there. -/
structure TaskEntry where
  piece : Piece
  saved : Option Nat
  ring : Option Nat
  deriving DecidableEq, Repr

/-- Ownership of the vector and matrix units (R134, R136). -/
structure Units where
  valid : Bool
  owner : Nat
  /-- A slot has held the units since module cold reset. -/
  ever : Bool
  since : Nat
  lastIssue : Nat
  /-- The owner's VYIELD has completed (condition 1 of R134). -/
  offer : Bool
  /-- Core cycle since which a normal slot requests of a gleaning owner (R135). -/
  askedAt : Option Nat
  deriving DecidableEq, Repr

/-- Freeze state of a core (R388, R390): `since` is the core cycle in which the present freeze began. -/
structure Frz where
  since : Option Nat
  limit : BitVec 4
  count : BitVec 16
  last : Word
  deriving DecidableEq, Repr

/-- A core: its slots and what they share. -/
structure Core where
  slots : Tbl Slot
  units : Units
  frz : Frz
  scratch : Memory
  /-- How often each doubleword of the scratchpad for which a stream waits has been written (R265, R284). -/
  watch : Tbl Nat
  tiles : Tbl Tile
  /-- The entries that earlier steps of the present core cycle have changed, as they stood at its start, each with the
  number of the step that changed it (R197). -/
  tilesWas : Tbl (Tile × Nat)
  rot : Option Rot
  plane0 : Memory
  plane1 : Memory
  activePlane : Nat
  tokens : Nat
  swaps : BitVec 16
  templates : Tbl (BitVec 512)
  /-- Task queue, oldest first: on chip and ring (R312). -/
  queue : List TaskEntry
  ringlog : Nat
  rfault : Bool
  /-- An invalidation has completed since: the held enqueue tries its write again (R319). -/
  rtry : Bool
  /-- A refill from the spill ring has faulted and waits for an invalidation (R319). -/
  rstall : Bool
  range : BitVec 2
  lfsr : BitVec 16
  /-- Victim of the steal request outstanding, and the cycle before which no further one is sent (R322). -/
  steal : Option Nat
  stealAt : Nat
  deriving DecidableEq, Repr

def Units.reset : Units :=
  { valid := false, owner := 0, ever := false, since := 0, lastIssue := 0, offer := false, askedAt := none }

def Frz.reset : Frz := { since := none, limit := 10, count := 0, last := 0 }

/-- Core `c` after module cold reset. -/
def Core.reset (c : Nat) : Core :=
  { slots := [], units := .reset, frz := .reset, scratch := [], watch := [], tiles := [], tilesWas := [], rot := none, plane0 := [],
    plane1 := [], activePlane := 0, tokens := 0, swaps := 0, templates := [], queue := [], ringlog := 0,
    rfault := false, rtry := false, rstall := false, range := 0, lfsr := BitVec.ofNat 16 (c + 1), steal := none, stealAt := 0 }

/-! # A bay and its copy engines -/

/-- How far the copy being performed has come (R273, R279). -/
inductive CopyPhase where
  | moving
  | complete
  deriving DecidableEq, Repr

/-- The copy that an engine performs: row and byte within it, tiles it claimed or wrote as producer. -/
structure CopyRun where
  cmd : CopyCmd
  row : Nat
  pos : Nat
  tiles : List (Nat × Nat)
  phase : CopyPhase
  /-- CLASS, SUB and faulting address of R278. -/
  err : Option (Nat × Nat × DWord)
  /-- Step 2 of R279 has been taken. -/
  followed : Bool
  deriving DecidableEq, Repr

/-- A copy engine (R267): on-chip queue, spill ring, stall of R269. -/
structure Engine where
  queue : List CopyCmd
  ring : List CopyCmd
  /-- Place of the ring's head among its 1,024. -/
  rhead : Nat
  stalled : Bool
  /-- The requester whose spill has faulted, to be tried again (R269). -/
  spillBy : Option Nat
  run : Option CopyRun
  deriving DecidableEq, Repr

def Engine.reset : Engine := { queue := [], ring := [], rhead := 0, stalled := false, spillBy := none, run := none }

/-- A gang in a bay's gang queue (R327). -/
structure Gang where
  ticket : Nat
  piece : Piece
  /-- Members that are to bind. -/
  size : Nat
  /-- The older gang that has to bind before this one takes a slot again (R328). -/
  after : Option Nat
  /-- Slots that it holds reserved. -/
  slots : List (Nat × Nat)
  /-- Crib records of its members when the gang was saved by a stop (R397). -/
  saved : List Nat
  deriving DecidableEq, Repr

structure Bay where
  /-- The partition that holds the bay (R19). -/
  owner : Option Nat
  engines : Tbl Engine
  /-- The NPD requester's buffer (R268). -/
  npdBuf : List CopyCmd
  /-- Weighted round robin (R268): requester being visited, commands it has had admitted in this visit. -/
  rrPos : Nat
  rrCnt : Nat
  gangs : List Gang
  deriving DecidableEq, Repr

def Bay.reset : Bay := { owner := none, engines := [], npdBuf := [], rrPos := 0, rrCnt := 0, gangs := [] }

/-- What a dispatcher's view holds of a core (R205, R320): granules by key, and the load. -/
structure CoreView where
  res : Tbl (Nat × Nat × Nat)
  load : Nat
  queued : Nat
  free : Nat
  /-- Core cycle in which the view was taken (R205). -/
  at1 : Nat
  deriving DecidableEq, Repr

def CoreView.reset : CoreView := { res := [], load := 0, queued := 0, free := 4, at1 := 0 }

/-- A die's task dispatcher (R320, R327). -/
structure Die where
  ptr : Nat
  gptr : Nat
  view : Tbl CoreView
  deriving DecidableEq, Repr

def Die.reset : Die := { ptr := 0, gptr := 0, view := [] }

/-! # The network processor -/

/-- A triggered-operation entry (R352): its eight doublewords, the next rank of R363, and the tiles that its
deliveries since the last firing filled (R357). -/
structure TotEntry where
  dw : BitVec 512
  rank : Nat
  tiles : List (Nat × Nat)
  deriving DecidableEq, Repr

def TotEntry.reset : TotEntry := { dw := 0, rank := 0, tiles := [] }

/-- Stage at which a message stands (R20): looped back and still to be matched (R348), its delivery not finished, held for its rank (R363), waiting
for a handler start (R342), in its handler, ready for its advance, or past stage 4 without one (R344). -/
inductive MsgStage where
  | arrived
  | deliver
  | ranked
  | start
  | handler
  | advance
  | passed
  deriving DecidableEq, Repr

/-- A message between stages 2 and 4; `done`: payload bytes written; `amt`: advance that HRET.n names (R375). -/
structure Msg where
  id : Nat
  /-- Its place among the messages that have entered stage 2. -/
  order : Nat
  part : Nat
  entry : Nat
  /-- The entry as it stood at the match (R353, R361). -/
  dw : BitVec 512
  pkt : Packet
  loop : Bool
  stage : MsgStage
  done : Nat
  wrote : Bool
  tiles : List (Nat × Nat)
  amt : Option DWord
  deriving DecidableEq, Repr

/-- What a packet thread runs (R341): the handler of a message, an event's handler, or, on the active complex, the firmware's
own code from the entry line of its image (R422, R423). -/
inductive Job where
  | msg (id : Nat)
  | event (kind : Nat)
  | boot
  deriving DecidableEq, Repr

/-- A packet thread (R339, R341); `start` in core cycles. -/
structure Thread where
  part : Nat
  job : Job
  strm : Stream
  mon : DWord
  start : Nat
  stamp : DWord
  deriving DecidableEq, Repr

/-- A send outstanding (R374, R440). -/
structure Send where
  idx : Nat
  block : DWord
  peer : Nat
  rod : Bool
  cen : Option Nat
  hdr : List DWord
  payload : List Byte
  first : Nat
  tries : Nat
  /-- It has reached its receiver, which is still to acknowledge it. -/
  arrived : Bool
  deriving DecidableEq, Repr

/-- A weighted round robin among partitions (R420): the one that it served last, and how often in a row. -/
structure Arb where
  last : Nat
  used : Nat
  deriving DecidableEq, Repr

def Arb.reset : Arb := { last := 0, used := 0 }

/-- A reduction slot (R364 to R368); `gen` outlives its allocations. -/
structure RSlot where
  isOpen : Bool
  part : Nat
  gen : BitVec 16
  op : Nat
  ty : Nat
  ncon : Nat
  scope : Nat
  count : Nat
  dcnt : Nat
  dest : DWord
  acc : Tbl Word
  marks : BitVec 1024
  bitmap : DWord
  nan : Bool
  dup : Bool
  flags : BitVec 5
  deadline : Option Nat
  /-- Closed, its result write held under R249: TO and FORCED of the record. -/
  closing : Option (Bool × Bool)
  deriving DecidableEq, Repr

def RSlot.reset : RSlot :=
  { isOpen := false, part := 0, gen := 0, op := 0, ty := 0, ncon := 0, scope := 0, count := 0, dcnt := 0,
    dest := 0, acc := [], marks := 0, bitmap := 0, nan := false, dup := false, flags := 0, deadline := none,
    closing := none }

/-- An action whose read waits under R249 (R358). -/
structure Firing where
  part : Nat
  entry : Nat
  act : Nat
  arg : DWord
  amt : DWord
  depth : Nat
  deriving DecidableEq, Repr

/-- The network processor die (file 14). (DEDUCED, log 62) -/
structure Npd where
  entries : Tbl TotEntry
  counters : Tbl DWord
  threads : Tbl Thread
  handlers : Memory
  msgs : List Msg
  nextMsg : Nat
  rslots : Tbl RSlot
  firings : List Firing
  /-- Transport sequence numbers already received (R346). -/
  seen : List (Nat × Bool × Nat)
  /-- Packets sent by ROD that found no room: partition, peer, sequence number (R342, R346, R363). -/
  refused : List (Nat × Nat × Nat)
  /-- The arbiter of thread starts (R420). -/
  starts : Arb
  /-- Device time in nanoseconds: an offset to the time counted from cold reset; PTP LOCKED and MASTER (R350). -/
  timeOff : DWord
  locked : Bool
  master : Bool
  /-- Messages discarded at stage 1 (R347: firmware statistics). -/
  discarded : Nat
  deriving DecidableEq, Repr

def Npd.reset : Npd :=
  { entries := [], counters := [], threads := [], handlers := [], msgs := [], nextMsg := 0, rslots := [],
    firings := [], seen := [], refused := [], starts := .reset, timeOff := 0, locked := false, master := false, discarded := 0 }

/-! # Partitions -/

/-- A domain record (R330) with the sums of R331: arrivals at the current barrier, and retirements. -/
structure Domain where
  level : Nat
  unit : Nat
  counter : Nat
  expect : DWord
  peers : Nat
  epochx : DWord
  phase : Bool
  retired : Nat
  /-- A member has arrived or retired since the last completion. -/
  stir : Bool
  /-- Peer group: the arrival for the current barrier has been sent. -/
  sent : Bool
  deriving DecidableEq, Repr

/-- A saved piece and its crib record (R392, R394): the slot's state, the slot-private bytes, the core it ran on;
`held`: it waits for PART op 001 (R397). The bytes of the record stand in memory; what they say stands here. (DESIGN
CHOICE, log 53) -/
structure SavedPiece where
  slot : Slot
  priv : Memory
  core : Nat
  held : Bool
  gang : Option Nat
  deriving DecidableEq, Repr

/-- A launch that waits on the NPD for a full queue (R316). -/
structure WaitLaunch where
  piece : Piece
  /-- Target core, or for a gang its bay. -/
  target : Nat
  gang : Bool
  /-- Of a host command: its function, ticket and index (R412, R415). -/
  host : Option (Nat × Nat × Nat)
  deriving DecidableEq, Repr

/-- An event record (R369). -/
structure Event where
  kind : Nat
  sub : Nat
  index : Nat
  info1 : DWord
  info2 : DWord
  time : DWord
  lost : Nat
  deriving DecidableEq, Repr

/-- A partition (R417): what its block names, and what the device keeps for it. -/
structure Part where
  live : Bool
  /-- In state RESET (R420, R421). -/
  inReset : Bool
  qosw : Nat
  txcap : Nat
  nvec : Nat
  npart0 : DWord
  npart1 : DWord
  npart2 : DWord
  npart3 : DWord
  root : Option Nat
  key : Option Nat
  crib : DWord
  hotcfg : DWord
  tqring : DWord
  cpring : DWord
  ticket : Nat
  nextId : Nat
  doms : Tbl Domain
  peers : Tbl (BitVec 256)
  events : List Event
  lost : Nat
  recs : Tbl SavedPiece
  /-- How often the crib has gained a free record (R397). -/
  gains : Nat
  waits : List WaitLaunch
  sends : List Send
  nextSend : Nat
  deriving DecidableEq, Repr

def Part.reset : Part :=
  { live := false, inReset := false, qosw := 0, txcap := 0, nvec := 0, npart0 := 0, npart1 := 0, npart2 := 0,
    npart3 := 0, root := none, key := none, crib := 0, hotcfg := 0, tqring := 0, cpring := 0, ticket := 0,
    nextId := 0, doms := [], peers := [], events := [], lost := 0, recs := [], gains := 0, waits := [], sends := [],
    nextSend := 0 }

/-! # Memory tiers and translation -/

/-- The state of a stored line beside its bytes (R253): sound, one symbol wrong, or failing its tag. -/
inductive LineCond where
  | sound | symbol | bad
  deriving DecidableEq, Repr

/-- A write in a controller's queue (R255): line address, bytes with their mask, and the key. -/
structure QWrite where
  line : Nat
  data : BitVec 512
  bm : BitVec 64
  key : Nat
  deriving DecidableEq, Repr

/-- A leaf entry as the walk read it (R242, R243). -/
structure Leaf where
  pa : Nat
  key : Nat
  m : Bool
  cnt : Bool
  nm : Bool
  w : Bool
  deriving DecidableEq, Repr

/-- An entry of a translation cache (R245): the page of `2^bits` bytes at `base`. -/
structure TlbEntry where
  unit : XUnit
  part : Nat
  base : Nat
  bits : Nat
  leaf : Leaf
  deriving DecidableEq, Repr

/-- Whose access waits on a walk (R245). -/
inductive Requester where
  | agent (a : Agent)
  | engine (bay eng : Nat)
  | transfer (core slot : Nat) (cls : Cls)
  | readout (core slot : Nat)
  | npd
  deriving DecidableEq, Repr

/-- A pending walk with the requests attached to it (R245). -/
structure Walk where
  unit : XUnit
  part : Nat
  granule : Nat
  who : List Requester
  deriving DecidableEq, Repr

/-- The fault that a walk found for an attached request (R247). -/
structure WalkFault where
  who : Requester
  granule : Nat
  sub : Nat
  deriving DecidableEq, Repr

/-- A translation invalidation that has not completed (R246, R402). -/
structure Inval where
  idx : Nat
  part : Nat
  base : Nat
  bits : Nat
  deriving DecidableEq, Repr

structure Xlate where
  tlb : List TlbEntry
  walks : List Walk
  faults : List WalkFault
  invals : List Inval
  next : Nat
  deriving DecidableEq, Repr

/-- A key of the controllers (R252): its owner, and how often its material was drawn. -/
structure KeyRec where
  owner : Option Nat
  gen : Nat
  deriving DecidableEq, Repr

/-- A target line that a near-memory command has still to update: its number in the array, and where the line and the
source line that it takes lie, with key and CNT of their leaves (R287). -/
structure NmLine where
  ix : Nat
  tpa : Nat
  tkey : Nat
  tcnt : Bool
  apa : Nat
  akey : Nat
  acnt : Bool
  deriving DecidableEq, Repr

/-- A near-memory command under way (R288): its block, its slot's piece, the lines left, the flags so far (R289). -/
structure NmCmd where
  block : List DWord
  part : Nat
  uid : Nat
  left : List NmLine
  flags : BitVec 5
  deriving DecidableEq, Repr

/-- Who refreshes a channel's DRAM: nobody, its controller, or the DRAM itself (R257, R433). -/
inductive Refresh where
  | off
  | on
  | self
  deriving DecidableEq, Repr

/-- A channel's state (R256, R257, R431): CRC error counts of its lanes, lanes whose replay is outstanding, lanes that wait
for their repair, the spare that each repaired lane has moved to, spares left. -/
structure Channel where
  fenced : Bool
  lanes : Tbl Nat
  replays : List Nat
  repair : List Nat
  map : Tbl Nat
  spares : Option Nat
  slow : Bool
  /-- Timing set that the channel has still to take. -/
  want : Option Bool
  /-- Core cycle since which it waits for the window in which it takes it (R431). -/
  wantAt : Nat
  refresh : Refresh
  deriving DecidableEq, Repr

def Channel.reset : Channel :=
  { fenced := false, lanes := [], replays := [], repair := [], map := [], spares := none, slow := true, want := none, wantAt := 0, refresh := .on }

/-- Both tiers and their controllers (file 10). -/
structure Dram where
  cells : Memory
  /-- Key and generation under which a line was last written whole (R254). -/
  lineKey : Tbl (Nat × Nat)
  cond : Tbl LineCond
  keys : Tbl KeyRec
  /-- The access count of a frame (R248), and the partition that owns the key of its page. -/
  counts : Tbl (Nat × BitVec 16)
  queues : Tbl (List QWrite)
  chans : Tbl Channel
  /-- Memory event records not yet taken by the NPD, by controller, and the number dropped (R248, R251). -/
  events : Tbl (List (DWord × DWord))
  dropped : Tbl Nat
  nm : List NmCmd
  /-- How often each doubleword for which a stream or thread waits has been written (R265, R284). -/
  watch : Tbl Nat
  deriving DecidableEq, Repr

def Dram.reset : Dram :=
  { cells := [], lineKey := [], cond := [], keys := [], counts := [], queues := [], chans := [], events := [],
    dropped := [], nm := [], watch := [] }

/-! # Host link, firmware, temperature and power -/

/-- A frame of an indirect buffer being run (R415). -/
structure IFrame where
  addr : Nat
  left : Nat
  deriving DecidableEq, Repr

/-- A top-level host command that has issued and not completed (R411, R412): `subs` counts its parts that run on;
`index` the commands of its buffers so far. -/
structure HostCmd where
  ticket : Nat
  tag : Word
  irq : Bool
  status : Nat
  detail : Nat
  subs : Nat
  index : Nat
  issuing : Bool
  deriving DecidableEq, Repr

/-- A host data transfer, plane write or partition request under way. -/
structure HostJob where
  fn : Nat
  ticket : Nat
  op : Nat
  a1 : DWord
  a2 : DWord
  a3 : DWord
  index : Nat
  done : Nat
  tiles : List (Nat × Nat)
  deriving DecidableEq, Repr

/-- The registers and rings of one PCIe function (R407 to R416, R420). -/
structure HostFn where
  ringBase : DWord
  ringEn : Bool
  rlog : Nat
  cqBase : DWord
  next : Nat
  head : Nat
  doneT : Nat
  fault : Bool
  depth : Nat
  badc : Nat
  commits : List Nat
  cmds : List HostCmd
  frames : List IFrame
  resetting : Bool
  rxBase : DWord
  rxEn : Bool
  xlog : Nat
  tail : DWord
  rxHead : DWord
  /-- MSI-X vectors raised, each with how often. -/
  vectors : Tbl Nat
  deriving DecidableEq, Repr

def HostFn.reset : HostFn :=
  { ringBase := 0, ringEn := false, rlog := 0, cqBase := 0, next := 0, head := 0, doneT := 0, fault := false,
    depth := 0, badc := 0, commits := [], cmds := [], frames := [], resetting := false, rxBase := 0, rxEn := false,
    xlog := 0, tail := 0, rxHead := 0, vectors := [] }

/-- A live update under way (R424): its command, its step, its start, the image it brings. -/
structure Update where
  fn : Nat
  ticket : Nat
  index : Nat
  start : Nat
  tabv : Nat
  ver : Word
  img : List Byte
  deriving DecidableEq, Repr

/-- The firmware complexes (R422 to R424): `img` and `sbyImg` are the images that the active one and the standby hold. -/
structure Firmware where
  complexB : Bool
  sby : Bool
  up : Bool
  berr : Nat
  faults : Nat
  ver : Word
  sbyVer : Word
  img : List Byte
  sbyImg : List Byte
  /-- Next leaf of the module's attestation key: a monotonic fuse counter (R423). -/
  leaf : Nat
  served : Nat
  update : Option Update
  deriving DecidableEq, Repr

/-- (DESIGN CHOICE, log 8) -/
def Firmware.reset : Firmware :=
  { complexB := false, sby := false, up := true, berr := 0, faults := 0, ver := 0, sbyVer := 0, img := [], sbyImg := [], leaf := 0, served := 0,
    update := none }

/-- Cryogenic state (R427 to R434). `since d`: cycle since which the die's reading holds the lower band that its
state waits for (R430). `trace`: recent samples of each die, newest first (R428). `replace`: dies that have entered
retreat and whose queues are still to be re-placed (R315, R321). `halted`: the module's
halt signal on the management connector, and with it the end of every clock (R433). -/
structure Cryo where
  tband : DWord
  temp : DWord
  mstate : Nat
  forced : BitVec 4
  ratev : Bool
  dstate : Tbl Nat
  band : Tbl Nat
  since : Tbl (Option Nat)
  trace : Tbl (List (Nat × Nat))
  replace : List Nat
  halted : Bool
  deriving DecidableEq, Repr

/-- SYS.TBAND at reset: HYST 8, TH5 400, TH4 380, TH3 360, TH2 340, TH1 312, SETTLE 100 (R427). -/
def tbandReset : DWord :=
  (8 : BitVec 4) ++ (400 : BitVec 10) ++ (380 : BitVec 10) ++ (360 : BitVec 10) ++ (340 : BitVec 10) ++
    (312 : BitVec 10) ++ (100 : BitVec 10)

def Cryo.reset : Cryo :=
  { tband := tbandReset, temp := 0, mstate := 0, forced := 0, ratev := false, dstate := [], band := [],
    since := [], trace := [], replace := [], halted := false }

/-- The limiter, its counters and the telemetry (R435 to R440). -/
structure Power where
  limpwr : DWord
  limlink : DWord
  pwrcfg : DWord
  e : Nat
  d : Int
  duty : Nat
  /-- The cores on which chaff runs, and the core from which the next tick counts them (R437). -/
  chaffOn : List Nat
  cptr : Nat
  energy : Tbl DWord
  telcfg : DWord
  telSeq : Word
  telLost : Nat
  telStart : DWord
  emax : Nat
  emin : Nat
  thr : Nat
  short : Nat
  /-- Records that wait for the transport (R440). -/
  telWait : List (List DWord)
  deriving DecidableEq, Repr

/-- SYS.LIMPWR at reset: PCAP 2,200, RAMP 100, HALTK 110; SYS.LIMLINK: 128 for each port (R425). -/
def limpwrReset : DWord := (2200 : BitVec 16) ++ (100 : BitVec 16) ++ (110 : BitVec 8) ++ (0 : BitVec 24)
def limlinkReset : DWord := 0x8080808080808080
/-- SYS.PWRCFG at reset: 100, 2,200, 400, 12,000 (R438). -/
def pwrcfgReset : DWord := (100 : BitVec 16) ++ (2200 : BitVec 16) ++ (400 : BitVec 16) ++ (12000 : BitVec 16)

def Power.reset : Power :=
  { limpwr := limpwrReset, limlink := limlinkReset, pwrcfg := pwrcfgReset, e := 400000, d := 0, duty := 256,
    chaffOn := [], cptr := 0, energy := [], telcfg := 0, telSeq := 0, telLost := 0, telStart := 0,
    emax := 400000, emin := 400000, thr := 0, short := 0, telWait := [] }

/-! # The machine -/

/-- The whole part. `agent` executes; `agenda` lists the turns of the next steps, and where it is empty the free
schedule names one; `cycle` counts core cycles, `stepNo` steps, `uid` the pieces made so far; `rank` is the place, in the
order of R197, R272 and R315, of the last turn of the present core cycle. (DESIGN CHOICE, log 3) -/
structure State where
  agent : Agent
  agenda : List Turn
  stepNo : Nat
  cycle : Nat
  rank : Nat
  uid : Nat
  free : Nat
  cores : Tbl Core
  bays : Tbl Bay
  dies : Tbl Die
  parts : Tbl Part
  npd : Npd
  dram : Dram
  xl : Xlate
  host : Tbl HostFn
  hostMem : Memory
  jobs : List HostJob
  /-- The arbiter of the host link (R420). -/
  link : Arb
  fw : Firmware
  cryo : Cryo
  power : Power
  deriving DecidableEq, Repr

/-- Partition 0 as the boot leaves it for the firmware (R422): it exists, holds key 0 (R252) and the root that the
firmware keeps. (DEDUCED, log 7) -/
def Part.reset0 : Part := { Part.reset with live := true, qosw := 255, key := some 0 }

def Dram.boot : Dram := { Dram.reset with keys := [(0, { owner := some 0, gen := 0 })] }

def Xlate.reset : Xlate := { tlb := [], walks := [], faults := [], invals := [], next := 0 }

/-- The machine right after module cold reset. -/
def State.reset : State :=
  { agent := .strm 0 0 .ctl, agenda := [], stepNo := 0, cycle := 0, rank := 0, uid := 0, free := 0, cores := [], bays := [],
    dies := [], parts := [(0, Part.reset0)], npd := .reset, dram := .boot, xl := .reset, host := [],
    hostMem := [], jobs := [], link := .reset, fw := .reset, cryo := .reset, power := .reset }

end Sys2Proof.Machine

/-- Free: the lines of a crib record that a save writes, by number within the record, with their bytes; the layout within a
record is not architectural (R394). (DESIGN CHOICE, log 53) -/
opaque Sys2Proof.Config.cribLines : Sys2Proof.Machine.Slot → Sys2Proof.Machine.Memory → List (Nat × BitVec 512)

/-- Free: the 256 bytes of a task queue entry in the spill ring; their layout is not architectural (R312). (DESIGN CHOICE,
log 53) -/
opaque Sys2Proof.Config.taskBytes : Sys2Proof.Machine.TaskEntry → BitVec 2048

/-- Free: the 64 bytes of a copy command in an engine's spill ring; their layout is not given (R267). (DESIGN CHOICE, log 53) -/
opaque Sys2Proof.Config.copyBytes : Sys2Proof.Machine.CopyCmd → BitVec 512
end

