-- ==== Sys2Proof/Machine/Ops.lean ====
section
/-! DEFINITION. The named operations over the state: reading and updating its parts, scalar registers and
predicates, the moves of a program counter, events, completion flags, and the landing of vector results. -/

namespace Sys2Proof.Machine

/-! ## Parts of the state -/

def State.core (s : State) (c : Nat) : Core := Tbl.get (Core.reset c) s.cores c
def State.setCore (s : State) (c : Nat) (x : Core) : State := { s with cores := Tbl.set s.cores c x }
def State.updCore (s : State) (c : Nat) (f : Core → Core) : State := s.setCore c (f (s.core c))

def Core.slot (x : Core) (k : Nat) : Slot := Tbl.get Slot.reset x.slots k
def Core.setSlot (x : Core) (k : Nat) (y : Slot) : Core := { x with slots := Tbl.set x.slots k y }

def State.slot (s : State) (c k : Nat) : Slot := (s.core c).slot k
def State.setSlot (s : State) (c k : Nat) (x : Slot) : State := s.setCore c ((s.core c).setSlot k x)
def State.updSlot (s : State) (c k : Nat) (f : Slot → Slot) : State := s.setSlot c k (f (s.slot c k))

def State.bay (s : State) (b : Nat) : Bay := Tbl.get Bay.reset s.bays b
def State.setBay (s : State) (b : Nat) (x : Bay) : State := { s with bays := Tbl.set s.bays b x }
def State.updBay (s : State) (b : Nat) (f : Bay → Bay) : State := s.setBay b (f (s.bay b))

def State.die (s : State) (d : Nat) : Die := Tbl.get Die.reset s.dies d
def State.updDie (s : State) (d : Nat) (f : Die → Die) : State := { s with dies := Tbl.set s.dies d (f (s.die d)) }

def State.part (s : State) (p : Nat) : Part := Tbl.get Part.reset s.parts p
def State.setPart (s : State) (p : Nat) (x : Part) : State := { s with parts := Tbl.set s.parts p x }
def State.updPart (s : State) (p : Nat) (f : Part → Part) : State := s.setPart p (f (s.part p))

def State.hostFn (s : State) (n : Nat) : HostFn := Tbl.get HostFn.reset s.host n
def State.updHost (s : State) (n : Nat) (f : HostFn → HostFn) : State :=
  { s with host := Tbl.set s.host n (f (s.hostFn n)) }

/-- A thread that does not run holds no job. -/
def Thread.reset : Thread :=
  { part := 0, job := .event 0, strm := .reset, mon := 0, start := 0, stamp := 0 }
def State.thread (s : State) (t : Nat) : Thread := Tbl.get Thread.reset s.npd.threads t
def State.updThread (s : State) (t : Nat) (f : Thread → Thread) : State :=
  { s with npd := { s.npd with threads := Tbl.set s.npd.threads t (f (s.thread t)) } }

/-- The geography of R11 and R14: six cores to a bay, three bays to a die. -/
def bayOf (c : Nat) : Nat := c / 6
def dieOf (c : Nat) : Nat := c / 18
def baySlots (b : Nat) : List Nat := (List.range 6).map (6 * b + ·)

/-- The cores of the bays that a partition holds (R19). -/
def State.holdsBay (s : State) (p b : Nat) : Bool := decide (b < 12) && (s.bay b).owner == some p
def State.holdsCore (s : State) (p c : Nat) : Bool := decide (c < 72) && s.holdsBay p (bayOf c)
def State.coresOf (s : State) (p : Nat) : List Nat := (List.range 72).filter (s.holdsCore p)
def State.baysOf (s : State) (p : Nat) : List Nat := (List.range 12).filter (s.holdsBay p)

/-- NPD cycles counted from cold reset: 2.1 GHz to the core clock's 1.7 GHz (R17). -/
def npdCycles (coreCycles : Nat) : Nat := coreCycles * 21 / 17
/-- Device time (R350): nanoseconds from cold reset, moved by the servo. -/
def State.time (s : State) : DWord := BitVec.ofNat 64 (s.cycle * 10 / 17) + s.npd.timeOff

/-! ## Streams -/

/-- (DESIGN CHOICE, log 89) -/
def Slot.strm (x : Slot) : Cls → Stream
  | .ctl => x.ctl
  | .vec => x.vec
  | .mat => x.mat
  | .ldr => x.ldr
  | .str => x.str
  | .net => x.ctl

def Slot.setStrm (x : Slot) (cls : Cls) (t : Stream) : Slot :=
  match cls with
  | .ctl => { x with ctl := t }
  | .vec => { x with vec := t }
  | .mat => { x with mat := t }
  | .ldr => { x with ldr := t }
  | .str => { x with str := t }
  | .net => x

def State.strm (s : State) : Agent → Stream
  | .strm c k cls => (s.slot c k).strm cls
  | .thread t => (s.thread t).strm

def State.updStrm (s : State) (a : Agent) (f : Stream → Stream) : State :=
  match a with
  | .strm c k cls => s.updSlot c k (fun x => x.setStrm cls (f (x.strm cls)))
  | .thread t => s.updThread t (fun x => { x with strm := f x.strm })

def agentCls : Agent → Cls
  | .strm _ _ cls => cls
  | .thread _ => .net

/-- Link-word class code of R40. -/
def clsCode : Cls → Nat
  | .ctl => 0 | .vec => 1 | .mat => 2 | .ldr => 3 | .str => 4 | .net => 5

/-- The partition for which an agent acts. -/
def State.partOf (s : State) : Agent → Nat
  | .strm c k _ =>
    match (s.slot c k).piece with
    | some p => p.part
    | none => 0
  | .thread t => (s.thread t).part

/-- Scalar register `r` of the issuing set; s0 reads 0 (R94). -/
def Stream.reg (t : Stream) (r : BitVec 6) : DWord := if r = 0 then 0 else Tbl.get 0 t.regs r.toNat
/-- A write; one to s0 is discarded (R53). -/
def Stream.setReg (t : Stream) (r : BitVec 6) (v : DWord) : Stream :=
  if r = 0 then t else { t with regs := Tbl.set t.regs r.toNat v }
/-- Guard predicate `p`; p0 reads 1 (R94). -/
def Stream.pred (t : Stream) (p : BitVec 4) : Bool := p == 0 || t.preds.getLsbD p.toNat
def Stream.setPred (t : Stream) (p : BitVec 4) (v : Bool) : Stream :=
  if p = 0 then t
  else { t with preds := setField t.preds p.toNat (BitVec.ofBool v) }

def State.reg (s : State) (a : Agent) (r : BitVec 6) : DWord := (s.strm a).reg r
def State.setReg (s : State) (a : Agent) (r : BitVec 6) (v : DWord) : State := s.updStrm a (·.setReg r v)

/-- The guard acts (R48, R50); an instruction that TRET.skip passes over acts as one whose guard fails (R387). -/
def State.acts (s : State) (a : Agent) (g : Guard) : Bool :=
  !(s.strm a).skip && ((s.strm a).pred g.p != g.neg)

/-! ## Events for a partition (R369) -/

def Part.hsize (x : Part) : Nat := fieldNat x.npart3 37 14

/-- An event enters its partition's queue, or counts as lost. (DESIGN CHOICE, log 70) -/
def State.event (s : State) (p kind sub index : Nat) (i1 i2 : DWord) : State :=
  s.updPart p (fun x =>
    if x.hsize = 0 ∨ 256 ≤ x.events.length then { x with lost := x.lost + 1 }
    else
      let e : Event :=
        { kind := kind, sub := sub, index := index, info1 := i1, info2 := i2, time := s.time, lost := x.lost }
      { x with lost := 0, events := x.events ++ [e] })

/-! ## Completion flags (R97) -/

/-- Flag `f` as every read of it in the present core cycle sees it: its value at the end of the cycle before (R97). -/
def Slot.flag (x : Slot) (f : Nat) : BitVec 16 := Tbl.get 0 x.flags f

def FlagCyc.none : FlagCyc := { set := Option.none, inc := 0 }
/-- What the present core cycle does to flag `f`. -/
def Slot.flagCycOf (x : Slot) (f : Nat) : FlagCyc := Tbl.get FlagCyc.none x.flagCyc f
/-- The base, that of the FSET or else the value before the cycle, and the sum of the increments (R97). -/
def FlagCyc.value (c : FlagCyc) (was : BitVec 16) : BitVec 16 :=
  (match c.set with
   | some (_, v) => v
   | Option.none => was) + c.inc
/-- Flag `f` with the changes of the present core cycle: the value that the next cycle reads. -/
def Slot.flagNow (x : Slot) (f : Nat) : BitVec 16 := (x.flagCycOf f).value (x.flag f)

/-! ## Traps that wait (R381) -/

def TrapRegs.en (r : TrapRegs) : Bool := r.tvec.getLsbD 63
def TrapRegs.exc (r : TrapRegs) : Bool := r.tvec.getLsbD 62

/-- The place of a held trap in the order of R381: watchdog, deferred vector memory fault, control stream, matrix fault,
excursion. -/
def HeldTrap.rank (h : HeldTrap) : Nat :=
  if h.cause = 10 then 1 else if h.sync then 3 else if h.strm = 1 then 2 else if h.strm = 2 then 5 else 8

/-- A trap joins those held, by R381. -/
def holdTrap (hs : List HeldTrap) (h : HeldTrap) : List HeldTrap :=
  let (before, after) := hs.partition (fun g => decide (g.rank ≤ h.rank))
  before ++ h :: after

def Slot.hold (x : Slot) (h : HeldTrap) : Slot := { x with trap := { x.trap with pend := holdTrap x.trap.pend h } }

/-- The traps of the cycle that ends: raised where SYS.TVEC.EXC is 1, a newer cause 11 in place of one still held (R381, R430).
(DEDUCED, log 118) -/
def Slot.raiseArriving (x : Slot) : Slot :=
  x.trap.arriving.foldl (fun (y : Slot) h =>
      if y.trap.exc then Slot.hold { y with trap := { y.trap with pend := y.trap.pend.filter (fun g => g.cause != h.cause) } } h else y)
    { x with trap := { x.trap with arriving := [] } }

/-! ## The changes of a core cycle -/

def Slot.putCyc (x : Slot) (f : Nat) (c : FlagCyc) : Slot := { x with flagCyc := Tbl.set x.flagCyc f c }
/-- The FSET of a stream of class code `pri`: it gives the base unless one of higher priority does (R97); of two of one stream
the later issued does. (DESIGN CHOICE, log 108) -/
def FlagCyc.write (c : FlagCyc) (pri : Nat) (v : BitVec 16) : FlagCyc :=
  { c with set := if c.set.all (fun (q, _) => decide (pri ≤ q)) then some (pri, v) else c.set }
def Slot.setFlag (x : Slot) (pri f : Nat) (v : BitVec 16) : Slot := x.putCyc f ((x.flagCycOf f).write pri v)
/-- An increment: FSIG, SHALT, and every advance by an engine or unit (R97). -/
def Slot.addFlag (x : Slot) (f : Nat) (n : BitVec 16) : Slot :=
  x.putCyc f { x.flagCycOf f with inc := (x.flagCycOf f).inc + n }
/-- The core cycle ends: its changes are the flags' values (R97), its puts and pops are over (R167), and its arriving traps are
raised (R430). -/
def Slot.newCycle (x : Slot) : Slot :=
  let y := x.raiseArriving
  { y with flags := x.flagCyc.foldl (fun t (f, c) => Tbl.set t f (c.value (x.flag f))) x.flags, flagCyc := [], fpNew := 0,
           queues := x.queues.map (fun (n, q) => (n, { q with puts := 0, pops := 0 })) }

def Slot.applySig (x : Slot) (p : PendSig) : Slot :=
  if p.set then x.setFlag (if p.vec then 1 else 2) p.flag p.val else x.addFlag p.flag p.val

/-- A matrix operation that a signal still waits for (R98): any but one stopped with CAUSE 10 or 11. -/
def OpStat.pending : OpStat → Bool
  | .waiting | .running => true
  | .stopped c => c == 1

def MatState.pendingBefore (m : MatState) (q : Nat) : Bool :=
  (match m.cop with
   | some o => o.stat.pending && decide (o.seq < q) && (o.kind != CKind.mmg || o.member == 0)
   | none => false) ||
  (match m.rop with
   | some o => o.stat.pending && decide (o.seq < q) && (!o.gang || o.member == 0)
   | none => false) ||
  m.clr.any (fun o => decide (o.seq < q)) || m.gread.any (fun g => decide (g.seq < q)) ||
  m.followOns.any (fun o => decide (o.seq < q))

/-- Whether a waiting signal may take effect. A vector signal waits for no result that has left the list in flight: one whose
reply faulted, or was abandoned, is written by no beat. (DESIGN CHOICE, log 109) -/
def Slot.sigReady (x : Slot) (p : PendSig) : Bool :=
  if p.vec then !x.v.inflight.any (fun r => decide (r.ix < p.after)) else !x.m.pendingBefore p.after

/-- Every waiting signal whose earlier results are written takes effect, in order of issue (R98). -/
def Slot.runSigs (x : Slot) : Slot :=
  x.sigs.foldl (fun y p => if y.sigReady p then y.applySig p else { y with sigs := y.sigs ++ [p] })
    { x with sigs := [] }

/-- A flag change by a stream: at once, or in the vector and matrix streams after their earlier results (R98). -/
def Slot.signal (x : Slot) (cls : Cls) (f : Nat) (set : Bool) (v : BitVec 16) : Slot :=
  match cls with
  | .vec => Slot.runSigs { x with sigs := x.sigs ++ [⟨true, f, set, v, x.v.nextIx⟩] }
  | .mat => Slot.runSigs { x with sigs := x.sigs ++ [⟨false, f, set, v, x.m.nextSeq⟩] }
  | .ctl | .ldr | .str | .net => if set then x.setFlag (clsCode cls) f v else x.addFlag f v

/-! ## Vector results (R127 to R131) -/

def VecState.reg (v : VecState) (r : Nat) : RowSet := Tbl.get 0 v.regs r
def VecState.mask (v : VecState) (k : Nat) : Mask := if k = 0 then BitVec.allOnes 1024 else Tbl.get 0 v.masks k

/-- `new` in the cells that the lanes allow, `old` elsewhere. -/
def mergeCells (lanes : Mask) (old new : RowSet) : RowSet :=
  if lanes = BitVec.allOnes 1024 then new
  else rowOfCells (((maskLanes lanes).zip ((rowCells old).zip (rowCells new))).map (fun (l, o, n) => if l then n else o))

/-- A result is written to its destination (R127, R128). -/
def VecState.land (v : VecState) (r : InFlight) : VecState :=
  match r.dest with
  | .regs ws => { v with regs := ws.foldl (fun t (i, x) =>
      Tbl.set t i (mergeCells r.lanes (Tbl.get 0 t i) x)) v.regs }
  | .mask k b =>
    if k = 0 then v
    else { v with masks := Tbl.set v.masks k ((b &&& r.lanes) ||| (v.mask k &&& ~~~r.lanes)) }
  | .none => v

/-- A group of SYS.FPSTAT, at bit `lo`, gathers a result's flags (R73, R74). -/
def orFlags (x : DWord) (lo : Nat) (f : BitVec 5) : DWord := x ||| (f.setWidth 64 <<< lo)
def Slot.raiseFp (x : Slot) (lo : Nat) (f : BitVec 5) : Slot :=
  { x with regs := { x.regs with fpstat := orFlags x.regs.fpstat lo f }, fpNew := orFlags x.fpNew lo f }

/-- A result in its place by the beat at which it becomes visible, after those issued before it (R127, R128). -/
def insertDue (r : InFlight) : List InFlight → List InFlight
  | [] => [r]
  | x :: xs => if r.due < x.due then r :: x :: xs else x :: insertDue r xs

/-- The beat before which results may be written: that of the first missing reply, which holds its own and every later
beat (R388), or `beat` itself and all before. -/
def landLimit (rs : List InFlight) (beat : Nat) : Nat :=
  rs.foldl (fun n r => if r.arrived then n else min n r.due) (beat + 1)

/-- The results to be written by `beat`, in the order in which they land: beat by beat, and within a beat in order of
issue (R127, R128). -/
def VecState.dueBy (v : VecState) (beat : Nat) : List InFlight :=
  (v.inflight.filter (fun r => decide (r.due < landLimit v.inflight beat) && r.fault.isNone)).foldl
    (fun l r => insertDue r l) []

/-- Every result due at or before `beat` is written and raises its flags (R74, R127). -/
def Slot.landDue (x : Slot) (beat : Nat) : Slot :=
  let lim := landLimit x.v.inflight beat
  let y := (x.v.dueBy beat).foldl (fun (y : Slot) (r : InFlight) => Slot.raiseFp { y with v := y.v.land r } 0 r.flags) x
  let left := x.v.inflight.filter (fun r => !(decide (r.due < lim) && r.fault.isNone))
  Slot.runSigs { y with v := { y.v with inflight := left } }

/-- The vector file and masks as the instruction of the present beat reads them: with every result due by then, which is
written as that instruction issues (R127). -/
def VecState.seen (v : VecState) : VecState := (v.dueBy v.beat).foldl VecState.land v
def Slot.seen (x : Slot) : Slot := { x with v := x.v.seen }

/-- One issue-beat of the vector stream passes: what is visible to it is written (R126, R127). -/
def Slot.beat (x : Slot) : Slot :=
  let y := x.landDue x.v.beat
  { y with v := { y.v with beat := x.v.beat + 1 } }

/-- The results in flight are written as though wait beats passed until none remained (R130). -/
def Slot.flushResults (x : Slot) : Slot :=
  if x.v.inflight.isEmpty then x
  else
    let last := x.v.inflight.foldl (fun n r => max n r.due) x.v.beat
    let y := x.landDue last
    { y with v := { y.v with beat := last + 1 } }

/-! ## The program counter -/

/-- The issue of an instruction: in the vector stream an issue-beat passes; a vector or matrix issue counts for
condition 2 of R134. -/
def State.issued (s : State) (a : Agent) : State :=
  match a with
  | .strm c k .vec => (s.updSlot c k Slot.beat).updCore c (fun x => { x with units := { x.units with lastIssue := s.cycle, offer := false } })
  | .strm c _ .mat => s.updCore c (fun x => { x with units := { x.units with lastIssue := s.cycle, offer := false } })
  | .strm _ _ .ctl | .strm _ _ .ldr | .strm _ _ .str | .strm _ _ .net | .thread _ => s

/-- The stream's own marks of an instruction that has ended. -/
def Stream.done (t : Stream) : Stream :=
  { t with mode := .running, skip := false, waitLeft := 0, xfer := none, again := none, token := none, held := 0, watch := none }

/-- Past an instruction of `n` words, taking its issue-beat. -/
def State.advance (s : State) (a : Agent) (n : Nat) : State :=
  (s.updStrm a (fun t => { t.done with word := t.word + n })).issued a

/-- To line `l`, still to be reached (R41, R110). -/
def Stream.goto (t : Stream) (l : Int) : Stream := { t.done with line := l, word := 0, reached := false, passed := false }
def State.branch (s : State) (a : Agent) (l : Int) : State := (s.updStrm a (·.goto l)).issued a

/-- The stream blocks where it stands (R27). -/
def State.block (s : State) (a : Agent) : State := s.updStrm a (fun t => { t with mode := .blocked })

/-- The common frame of a meaning: `body` where the guard acts, else only the issue (R50). -/
def State.guarded (s : State) (g : Guard) (n : Nat) (body : State → State) :
    Host.Outcome State Fault Refusal :=
  .next (if s.acts s.agent g then body s else s.advance s.agent n)

/-- A short form: no guard, one word; only TRET.skip passes it over. -/
def State.short (s : State) (body : State → State) : Host.Outcome State Fault Refusal :=
  .next (if (s.strm s.agent).skip then s.advance s.agent 1 else body s)

/-! ## Where a piece is (R396) -/

/-- The slot to which the piece is bound; while its record is still being read, the piece counts as saved (R395, R396). -/
def State.findPiece (s : State) (uid : Nat) : Option (Nat × Nat) :=
  s.cores.findSome? (fun (c, x) => x.slots.findSome? (fun (k, y) =>
    match y.piece with
    | some p => if p.uid = uid ∧ y.phase ≠ .restoring then some (c, k) else none
    | none => none))

/-- The partition and crib record in which the piece is saved. -/
def State.findSaved (s : State) (uid : Nat) : Option (Nat × Nat) :=
  s.parts.findSome? (fun (p, x) => x.recs.findSome? (fun (r, y) =>
    match y.slot.piece with
    | some q => if q.uid = uid then some (p, r) else none
    | none => none))

/-- A change to the state of a piece, bound or saved; none where it no longer lives (R99, R396). -/
def State.updPiece (s : State) (uid : Nat) (f : Slot → Slot) : State :=
  match s.findPiece uid with
  | some (c, k) => s.updSlot c k f
  | none =>
    match s.findSaved uid with
    | some (p, r) => s.updPart p (fun x => { x with recs := x.recs.map (fun (i, y) =>
        (i, if i = r then { y with slot := f y.slot } else y)) })
    | none => s

def State.uidAt (s : State) (c k : Nat) : Nat :=
  match (s.slot c k).piece with
  | some p => p.uid
  | none => 0

end Sys2Proof.Machine
end

