-- ==== Sys2Proof/Machine/Memory.lean ====
section
/-! DEFINITION. Bytes in a memory; the lines of both tiers under their keys, the write queues, the access counts
and the memory event records of the controllers (R240, R248, R251 to R256). -/

namespace Sys2Proof.Machine

/-! ## A memory of bytes -/

/-- The byte at `a`; an unlisted address reads 0. (DESIGN CHOICE, log 6) -/
def memGet : Memory → Nat → Byte
  | [], _ => 0
  | (i, b) :: t, a => if i = a then b else memGet t a

/-- A byte other than 0 listed at its place among rising addresses. -/
def memIns : Memory → Nat → Byte → Memory
  | [], a, b => [(a, b)]
  | (i, x) :: t, a, b =>
    if a < i then (a, b) :: (i, x) :: t
    else if i = a then (a, b) :: t
    else (i, x) :: memIns t a b
/-- `b` written at `a`, in canonical form: rising addresses, no listed zero. -/
def memPut (m : Memory) (a : Nat) (b : Byte) : Memory :=
  if b = 0 then m.filter (fun (i, _) => i != a) else memIns m a b

/-- Every listed address lies at or above `lo`, they rise strictly, and no listed byte is 0. -/
def memWfFrom : Nat → Memory → Bool
  | _, [] => true
  | lo, (i, b) :: t => decide (lo ≤ i) && b != 0 && memWfFrom (i + 1) t
def memWf (m : Memory) : Bool := memWfFrom 0 m

def memRead (m : Memory) (a : Nat) : Nat → List Byte
  | 0 => []
  | n + 1 => memGet m a :: memRead m (a + 1) n
def memWrite (m : Memory) (a : Nat) : List Byte → Memory
  | [] => m
  | b :: bs => memWrite (memPut m a b) (a + 1) bs
/-- Every byte from `a` on, below `a + n`, becomes 0. -/
def memClear (m : Memory) (a n : Nat) : Memory := m.filter (fun (i, _) => !(decide (a ≤ i) && decide (i < a + n)))
/-- The bytes from `a` on, below `a + n`, at offsets from 0. -/
def memSlice (m : Memory) (a n : Nat) : Memory :=
  (m.filter (fun (i, _) => decide (a ≤ i) && decide (i < a + n))).map (fun (i, b) => (i - a, b))

/-- A code line's word, or a doubleword, little-endian (R4). -/
def memWord (m : Memory) (a : Nat) : Word := BitVec.ofNat 32 (leNat (memRead m a 4))
def memDWord (m : Memory) (a : Nat) : DWord := BitVec.ofNat 64 (leNat (memRead m a 8))

/-! ## Doublewords on which a stream or thread waits (R265, R284) -/

/-- A write that meets the doublewords of `hit`: each of those waited on counts it. -/
def touch (hit : Nat → Bool) (w : Tbl Nat) : Tbl Nat := w.map (fun (k, n) => (k, if hit k then n + 1 else n))

/-- A doubleword is waited on from now on. -/
def watching (w : Tbl Nat) (k : Nat) : Tbl Nat := if w.any (fun (i, _) => i == k) then w else Tbl.set w k 0

/-- Bytes written to a core's scratchpad. -/
def Core.write (x : Core) (off : Nat) (bs : List Byte) : Core :=
  { x with scratch := memWrite x.scratch off bs,
           watch := touch (fun k => decide (off < 8 * k + 8) && decide (8 * k < off + bs.length)) x.watch }

/-! ## Physical addresses (R240) -/

inductive Tier where
  | near | silo
  deriving DecidableEq, Repr

def tierOf (pa : Nat) : Option Tier :=
  if pa < 0x8000000000 then some .near
  else if 0x20000000000 ≤ pa ∧ pa < 0x40000000000 then some .silo
  else none

def unitOf (pa : Nat) : Nat := pa / 2 ^ 12 % 8
def chanOf (pa : Nat) : Nat := if pa < 0x8000000000 then pa / 2 ^ 15 % 32 else pa / 2 ^ 15 % 16
/-- Controllers 0 to 7 serve the stacks, 8 to 15 the silo packages. -/
def ctrlOf (pa : Nat) : Nat := unitOf pa + (if pa < 0x8000000000 then 0 else 8)
/-- The table of channels: 32 numbers to a controller. -/
def chanNo (ctrl ch : Nat) : Nat := 32 * ctrl + ch

def Dram.chan (d : Dram) (n : Nat) : Channel := Tbl.get Channel.reset d.chans n
def Dram.updChan (d : Dram) (n : Nat) (f : Channel → Channel) : Dram := { d with chans := Tbl.set d.chans n (f (d.chan n)) }
/-- The channel has waited 4,096 memory cycles, 1,638.4 ns, for the window in which it takes its timing set: its controller
holds new accesses (R431). -/
def Channel.overdue (x : Channel) (now : Nat) : Bool := x.want.isSome && decide (x.wantAt + 2786 ≤ now)
def Dram.holds (d : Dram) (pa now : Nat) : Bool := (d.chan (chanNo (ctrlOf pa) (chanOf pa))).overdue now
def Dram.fenced (d : Dram) (pa : Nat) : Bool := (d.chan (chanNo (ctrlOf pa) (chanOf pa))).fenced
def Dram.key (d : Dram) (k : Nat) : KeyRec := Tbl.get { owner := none, gen := 0 } d.keys k

/-! ## Memory event records (R251) -/

def memRecord (kind part line count unit : Nat) (silo : Bool) (ch : Nat) : DWord × DWord :=
  (BitVec.ofNat 64 (kind * 2 ^ 62 + part * 2 ^ 56 + line * 2 ^ 6),
   BitVec.ofNat 64 (count * 2 ^ 48 + unit * 2 ^ 37 + b2n silo * 2 ^ 36 + ch * 2 ^ 31))

def Dram.pushEvent (d : Dram) (ctrl : Nat) (r : DWord × DWord) : Dram :=
  { d with events := Tbl.set d.events ctrl (Tbl.get [] d.events ctrl ++ [r]) }

def Dram.roomFor (d : Dram) (ctrl : Nat) : Bool := decide ((Tbl.get [] d.events ctrl).length < 256)

/-- The record of a line: KIND 01 is dropped and counted while the queue is full; KIND 10 and 11 stand beyond 256 entries
then. (DESIGN CHOICE, log 94) -/
def Dram.lineEvent (d : Dram) (kind pa key : Nat) : Dram :=
  let c := ctrlOf pa
  let part := ((d.key key).owner).getD 0
  let mk (n : Nat) := memRecord kind part (pa / 64) n (unitOf pa) (decide (8 ≤ c)) (chanOf pa)
  if kind = 1 then
    if d.roomFor c then { d.pushEvent c (mk (Tbl.get 0 d.dropped c + 1)) with dropped := Tbl.set d.dropped c 0 }
    else { d with dropped := Tbl.set d.dropped c (Tbl.get 0 d.dropped c + 1) }
  else d.pushEvent c (mk 1)

/-- A channel is fenced, and firmware is told once (R256); KIND 11 is never dropped. (DESIGN CHOICE, log 94) -/
def Dram.fence (d : Dram) (ctrl ch : Nat) : Dram :=
  let n := chanNo ctrl ch
  if (d.chan n).fenced then d
  else (d.updChan n (fun x => { x with fenced := true })).pushEvent ctrl
    (memRecord 3 0 0 1 (ctrl % 8) (decide (8 ≤ ctrl)) ch)

/-! ## Lines -/

def lineOf (pa : Nat) : Nat := pa / 64 * 64

/-- An error of the cells of a line: one symbol wrong, or past correction (R253, R254). (DESIGN CHOICE, log 93) -/
def Dram.upset (d : Dram) : Option (Nat × Bool) → Dram
  | none => d
  | some (l, past) =>
    { d with cond := Tbl.set d.cond l (if past ∨ Tbl.get .sound d.cond l = .bad then .bad else .symbol) }

/-- Whether a stored line verifies under a key (R253, R254). (DESIGN CHOICE, log 16) -/
def Dram.verifies (d : Dram) (pa key : Nat) : Bool :=
  Tbl.get (0, 0) d.lineKey (pa / 64) == (key, (d.key key).gen) &&
  Tbl.get .sound d.cond (pa / 64) != .bad

/-- Resolution of a line read (R253): a wrong symbol is corrected and written back, an integrity fault told. -/
def Dram.resolve (d : Dram) (pa key : Nat) : Dram × Bool :=
  if d.verifies pa key then
    (if Tbl.get .sound d.cond (pa / 64) = .symbol then
      Dram.lineEvent { d with cond := Tbl.erase d.cond (pa / 64) } 1 pa key else d, true)
  else (d.lineEvent 2 pa key, false)

/-- The bytes of a queued write that its mask covers, over the line `old`. -/
def blend (bm : BitVec 64) (new old : List Byte) : List Byte :=
  ((List.range 64).zip (new.zip old)).map (fun (i, n, o) => if bm.getLsbD i then n else o)

/-- A queued write reaches DRAM (R254 to R256): whole lines replace, partial ones need the line; on a fenced channel
the data is lost. -/
def Dram.perform (d : Dram) (w : QWrite) : Dram :=
  let a := w.line * 64
  let bs := leBytes 64 w.data.toNat
  if d.fenced a then d
  else if w.bm = BitVec.allOnes 64 then
    { d with cells := memWrite d.cells a bs, cond := Tbl.erase d.cond w.line,
             lineKey := Tbl.set d.lineKey w.line (w.key, (d.key w.key).gen) }
  else
    match d.resolve a w.key with
    | (d, true) => { d with cells := memWrite d.cells a (blend w.bm bs (memRead d.cells a 64)) }
    | (d, false) => d

def Dram.queue (d : Dram) (ctrl : Nat) : List QWrite := Tbl.get [] d.queues ctrl

/-- The oldest queued write of a controller drains (R255). -/
def Dram.drainOldest (d : Dram) (ctrl : Nat) : Dram :=
  match d.queue ctrl with
  | [] => d
  | w :: ws => Dram.perform { d with queues := Tbl.set d.queues ctrl ws } w

/-- Every queued write to a line drains, in order. -/
def Dram.drainLine (d : Dram) (pa : Nat) : Dram :=
  let c := ctrlOf pa
  let (mine, rest) := (d.queue c).partition (fun w => w.line == pa / 64)
  mine.foldl Dram.perform (if mine.isEmpty then d else { d with queues := Tbl.set d.queues c rest })

/-- The byte mask of `n` bytes from `pa` within its line. -/
def byteMask (pa n : Nat) : BitVec 64 := BitVec.ofNat 64 ((2 ^ n - 1) * 2 ^ (pa % 64))

/-- A read is served from the youngest queued write that overlaps it, when that covers it (R255). -/
def Dram.forward (d : Dram) (pa n key : Nat) : Option (List Byte) :=
  match (d.queue (ctrlOf pa)).reverse.find? (fun w => w.line == pa / 64 && w.bm &&& byteMask pa n != 0) with
  | none => none
  | some w =>
    if w.key = key ∧ w.bm &&& byteMask pa n = byteMask pa n then
      some (leBytes n (w.data.toNat >>> (8 * (pa % 64))))
    else none

/-- One access more on a line's frame (R248), through a leaf whose CNT is `cnt`; with HOT 0 the 16 bits wrap. (DESIGN
CHOICE, log 95) -/
def State.count (s : State) (pa key : Nat) (cnt : Bool) : State :=
  if !cnt then s
  else
    let f := pa / 2 ^ 16
    let d := s.dram
    let p := ((d.key key).owner).getD 0
    let hot := fieldNat (s.part p).hotcfg 32 16
    let old := (Tbl.get (p, 0) d.counts f).2
    let n := if hot ≠ 0 ∧ hot ≤ old.toNat then old else old + 1
    let c := ctrlOf pa
    if hot ≠ 0 ∧ hot ≤ n.toNat ∧ d.roomFor c then
      let r := memRecord 0 p (f * 2 ^ 10) hot (unitOf pa) (decide (8 ≤ c)) (chanOf pa)
      { s with dram := Dram.pushEvent { d with counts := Tbl.erase d.counts f } c r }
    else { s with dram := { d with counts := Tbl.set d.counts f (p, n) } }

/-- Read `n` bytes of one line; `none`: an integrity fault (R253, R255). -/
def State.readPhys (s : State) (pa n key : Nat) (cnt : Bool) : State × Option (List Byte) :=
  match s.dram.forward pa n key with
  | some bs => (s, some bs)
  | none =>
    let (d, ok) := (s.dram.drainLine pa).resolve (lineOf pa) key
    let s := State.count { s with dram := d } pa key cnt
    (s, if ok then some (memRead s.dram.cells pa n) else none)

/-- A queued or direct write has come: the doublewords of its mask that are waited on count it. -/
def Dram.touched (d : Dram) (w : QWrite) : Dram :=
  { d with watch := touch (fun k => k / 8 == w.line && w.bm.extractLsb' (8 * (k % 8)) 8 != 0) d.watch }

/-- Queue a write; a full queue drains its oldest line first (R255). -/
def Dram.push (d : Dram) (w : QWrite) : Dram :=
  let c := ctrlOf (w.line * 64)
  let d := if 64 ≤ (d.queue c).length then d.drainOldest c else d
  Dram.touched { d with queues := Tbl.set d.queues c (d.queue c ++ [w]) } w

/-- The line read that a write of part of a line needs (R254): `false` is the integrity fault. -/
def State.readForWrite (s : State) (pa n key : Nat) : State × Bool :=
  if n = 64 then (s, true)
  else
    let (d, ok) := (s.dram.drainLine pa).resolve (lineOf pa) key
    ({ s with dram := d }, ok)

/-- Write bytes of one line whose checks have passed. -/
def State.writePhys (s : State) (pa key : Nat) (cnt : Bool) (bs : List Byte) : State :=
  let w : QWrite :=
    { line := pa / 64, data := BitVec.ofNat 512 (leNat bs <<< (8 * (pa % 64))), bm := byteMask pa bs.length,
      key := key }
  State.count { s with dram := s.dram.push w } pa key cnt

/-- An atomic's or near-memory command's write, straight to a drained line. -/
def State.writeDirect (s : State) (pa key : Nat) (bs : List Byte) : State :=
  let w : QWrite :=
    { line := pa / 64, data := BitVec.ofNat 512 (leNat bs <<< (8 * (pa % 64))), bm := byteMask pa bs.length,
      key := key }
  { s with dram := (s.dram.perform w).touched w }

end Sys2Proof.Machine
end

