-- ==== Sys2Proof/Machine/Access.lean ====
section
/-! DEFINITION. The helpers of R259: address spaces and translation (R239 to R249), scratchpad addresses and tile
states (R188, R189, R195), the check of an access as a whole, and its reads and writes line by line. -/

namespace Sys2Proof.Machine

/-- What an access that cannot proceed raises: cause and sub-cause of R378, address and the INFO of R383. -/
structure Exc where
  cause : Nat
  sub : Nat
  addr : DWord
  info : DWord
  deriving DecidableEq, Repr

def Exc.of (cause sub : Nat) : Exc := { cause := cause, sub := sub, addr := 0, info := 0 }

/-- The kinds of access of R259. -/
inductive AKind where
  | rd | wr | at | nm | nmw
  deriving DecidableEq, Repr

/-- The space that an access's addresses lie in (R239). -/
inductive Space where
  | any | flat | virt
  deriving DecidableEq, Repr

/-- For whom an access is made: partition and agent code (R192), the own core (R188), the slot whose private area it
reaches (R189), the requester of walks and its translation caches (R245); `sync`: the requester waits out its walk
within its step; `claims`: an EMPTY tile is claimed (R196); `uid`: the piece whose saved claims it serves (R393). -/
structure Acc where
  part : Nat
  code : Nat
  own : Option Nat
  priv : Option (Nat × Nat)
  who : Requester
  unit : XUnit
  sync : Bool
  claims : Bool
  uid : Option Nat
  space : Space
  deriving DecidableEq, Repr

/-- The code of a slot; that of NPD deliveries, threads, fired actions and the host; a rotation's (R192). -/
def slotCode (c k : Nat) : Nat := 0x200 + 4 * c + k
def npdCode : Nat := 0x400
def rotCode : Nat := 0x600
/-- No agent's code: copies of a saved piece act under it (R393). -/
def savedCode : Nat := 0x7FF

def State.accOf (s : State) (a : Agent) : Acc :=
  match a with
  | .strm c k _ =>
    { part := s.partOf a, code := slotCode c k, own := some c, priv := some (c, k), who := .agent a, unit := .core c,
      sync := false, claims := false, uid := none, space := .any }
  | .thread _ =>
    { part := s.partOf a, code := npdCode, own := none, priv := none, who := .agent a, unit := .npd, sync := false,
      claims := false, uid := none, space := .any }

/-- An access of the NPD on a partition's behalf (R343). -/
def npdAcc (p : Nat) : Acc :=
  { part := p, code := npdCode, own := none, priv := none, who := .npd, unit := .npd, sync := true, claims := false,
    uid := none, space := .any }

/-! ## Page tables -/

/-- A table read (R241, R246): sub-cause 7 of R247 in no tier, 8 on a fenced channel or where the line fails. -/
def State.readTable (s : State) (pa : Nat) : State × Except Nat DWord :=
  if (tierOf pa).isNone then (s, .error 7)
  else if s.dram.fenced pa then (s, .error 8)
  else
    match s.readPhys pa 8 0 false with
    | (s, some bs) => (s, .ok (BitVec.ofNat 64 (leNat bs)))
    | (s, none) => (s, .error 8)

/-- Reserved bits of a leaf, and every bit of a pointer but V, T and PA (R242). -/
def pteBad (e : DWord) : Bool :=
  e.extractLsb' 42 16 != 0 || e.extractLsb' 8 4 != 0 ||
    (e.getLsbD 1 && (e.extractLsb' 58 6 != 0 || e.extractLsb' 2 6 != 0))

/-- Page bits of a leaf by level and SZ (R243). -/
def leafBits (level sz : Nat) : Option Nat :=
  match level, sz with
  | 0, 0 => some 12
  | 0, 1 => some 16
  | 1, 0 => some 21
  | 1, 1 => some 26
  | 2, 0 => some 30
  | _, _ => none

/-- The walk from the table at `table` (R241): the leaf and its page bits, or the sub-cause of R247. -/
def State.walk (s : State) (va : Nat) : Nat → Nat → State × Except Nat (Leaf × Nat)
  | level, table =>
    match s.readTable (table + 8 * (va / 2 ^ (12 + 9 * level) % 512)) with
    | (s, .error n) => (s, .error n)
    | (s, .ok e) =>
      let pa := fieldNat e 12 30 * 2 ^ 12
      if !e.getLsbD 0 then (s, .error 2)
      else if pteBad e then (s, .error 3)
      else if e.getLsbD 1 then
        match level with
        | 0 => (s, .error 3)
        | l + 1 => State.walk s va l pa
      else
        match leafBits level (fieldNat e 6 2) with
        | none => (s, .error 3)
        | some bits =>
          (s, .ok ({ pa := pa / 2 ^ bits * 2 ^ bits, key := fieldNat e 58 6, m := e.getLsbD 5, cnt := e.getLsbD 4,
                     nm := e.getLsbD 3, w := e.getLsbD 2 }, bits))

/-- The whole walk of a partition's address. -/
def State.walkFor (s : State) (p va : Nat) : State × Except Nat (Leaf × Nat) :=
  match (s.part p).root with
  | none => (s, .error 2)
  | some r => s.walk va 3 r

def XEntry (u : XUnit) (p va : Nat) (leaf : Leaf) (bits : Nat) : TlbEntry :=
  { unit := u, part := p, base := va / 2 ^ bits * 2 ^ bits, bits := bits, leaf := leaf }

def TlbEntry.covers (e : TlbEntry) (u : XUnit) (p va : Nat) : Bool :=
  e.unit == u && e.part == p && va / 2 ^ e.bits * 2 ^ e.bits == e.base

/-- The page of an entry, or a granule, meets the region of an invalidation. (DEDUCED, log 80) -/
def Inval.meets (v : Inval) (p base bits : Nat) : Bool :=
  v.part == p && decide (v.base < base + 2 ^ bits) && decide (base < v.base + 2 ^ v.bits)
/-- The page of `2^bits` bytes at `va` lies under an invalidation that has not completed (R246). -/
def Xlate.under (x : Xlate) (p va bits : Nat) : Bool := x.invals.any (fun v => v.meets p (va / 2 ^ bits * 2 ^ bits) bits)

/-- What a leaf gives one access (R247 to R249): a held access, a fault, or a physical address with its key. -/
inductive XRes where
  | ok (pa key : Nat) (cnt : Bool)
  | fault (sub : Nat)
  | hold
  | miss
  deriving DecidableEq, Repr

def State.useLeaf (s : State) (p va : Nat) (kind : AKind) (leaf : Leaf) (bits : Nat) : XRes :=
  let pa := leaf.pa + va % 2 ^ bits
  if leaf.m then .hold
  else if (kind == .wr || kind == .at || kind == .nmw) && !leaf.w then .fault 4
  else if (kind == .nm || kind == .nmw) && !leaf.nm then .fault 5
  else if (s.dram.key leaf.key).owner ≠ some p ∨ (leaf.key = 0 ∧ p ≠ 0) then .fault 6
  else if (tierOf pa).isNone then .fault 7
  else .ok pa leaf.key leaf.cnt

/-- Translate of R259 through the unit's cache; a miss, or with `sync` the walk itself. (DEDUCED, log 15) -/
def State.translate (s : State) (x : Acc) (va : Nat) (kind : AKind) : State × XRes :=
  match s.xl.faults.find? (fun f => f.who == x.who && f.granule == va / 4096) with
  | some f => (s, .fault f.sub)
  | none =>
    match s.xl.tlb.find? (fun e => e.covers x.unit x.part va) with
    | some e => (s, s.useLeaf x.part va kind e.leaf e.bits)
    | none =>
      if (s.part x.part).root.isNone then (s, .fault 2)
      else if x.sync then
        match s.walkFor x.part va with
        | (s, .error n) => (s, if s.xl.under x.part va 12 then .hold else .fault n)
        | (s, .ok (leaf, bits)) =>
          if s.xl.under x.part va bits then (s, .hold)
          else ({ s with xl := { s.xl with tlb := XEntry x.unit x.part va leaf bits :: s.xl.tlb } },
                s.useLeaf x.part va kind leaf bits)
      else (s, .miss)

/-- The die whose walker runs a unit's walks; those of the NPD take no place of a die's. (DEDUCED, log 15) -/
def walkerOf : XUnit → Option Nat
  | .core c => some (dieOf c)
  | .bay b => some (b / 3)
  | .npd => none

/-- A pending entry is free for a unit's walk, and a place in its die's walker (R245). -/
def Xlate.roomFor (x : Xlate) (u : XUnit) : Bool :=
  let mine := (x.walks.filter (fun w => w.unit == u)).length
  let die := (x.walks.filter (fun w => walkerOf w.unit == walkerOf u)).length
  (match u with
   | .core _ => decide (mine < 64)
   | .bay _ | .npd => true) && ((walkerOf u).isNone || decide (die < 1024)) && decide (x.walks.length < 4096)

/-- Attach a request to the pending walk of a granule, or start one; where every place is in use the request waits (R245). -/
def Xlate.attach (x : Xlate) (u : XUnit) (p granule : Nat) (who : Requester) : Xlate :=
  if x.walks.any (fun w => w.unit == u && w.part == p && w.granule == granule) then
    { x with walks := x.walks.map (fun w =>
        if w.unit == u && w.part == p && w.granule == granule && !w.who.contains who
        then { w with who := w.who ++ [who] } else w) }
  else if x.roomFor u then { x with walks := x.walks ++ [{ unit := u, part := p, granule := granule, who := [who] }] }
  else x

/-! ## Scratchpad addresses and tiles -/

/-- Where bytes of one line lie. -/
inductive Loc where
  | sp (core off : Nat)
  | pa (pa key : Nat) (cnt : Bool)
  deriving DecidableEq, Repr

/-- The decision for the bytes of one line (R189, R195, R247). -/
inductive PRes where
  | ok (l : Loc) (claim : Option (Nat × Nat))
  | exc (e : Exc)
  | race (core tile agent : Nat)
  | hold (miss : Option Nat)
  deriving DecidableEq, Repr

def Tile.at (t : Tile) (off : Nat) : Bool :=
  t.state != 0 && decide (t.baseg ≤ off / 2048) && decide (off / 2048 < t.baseg + t.sizeg)

def Core.tile (x : Core) (n : Nat) : Tile := Tbl.get Tile.free x.tiles n
def Core.setTile (x : Core) (n : Nat) (t : Tile) : Core := { x with tiles := Tbl.set x.tiles n t }

/-- Entry `n` at the end of the core cycle before. -/
def Core.tileOld (x : Core) (n : Nat) : Tile := (Tbl.get (x.tile n, 0) x.tilesWas n).1
/-- A transition of entry `n` by step `no`, in the present core cycle (R197). -/
def Core.putTile (x : Core) (no n : Nat) (t : Tile) : Core :=
  { x.setTile n t with tilesWas := Tbl.set x.tilesWas n (x.tileOld n, no) }
def State.putTile (s : State) (c n : Nat) (t : Tile) : State := s.updCore c (fun x => x.putTile s.stepNo n t)

/-- Entry `n` as an access of step `no` sees it: before every transition of this core cycle but its own (R195, R197). -/
def Core.tileSeen (x : Core) (no n : Nat) (t : Tile) : Tile :=
  match x.tilesWas.find? (fun (i, _) => i == n) with
  | some (_, old, r) => if r = no then t else old
  | none => t
/-- The allocated tile that holds a byte of the shared tile area, as such an access sees it. -/
def Core.tileAt (x : Core) (no off : Nat) : Option (Nat × Tile) :=
  (x.tiles.map (fun (n, t) => (n, x.tileSeen no n t))).find? (fun (_, t) => t.at off)

/-- R195 by state, agent and kind. A saved piece's own copies meet its live claims as its own (R393); a copy's or a delivery's
write into a DRAINING tile races whoever drains it (R275, R343). -/
inductive TileSay where
  | go | claim | wait | race | refuse
  deriving DecidableEq, Repr

def tileSay (t : Tile) (x : Acc) (kind : AKind) : TileSay :=
  let prod := t.prod == x.code || (x.uid.isSome && t.claimP == x.uid)
  let cons := t.cons == x.code || (x.uid.isSome && t.claimC == x.uid)
  let rd := kind == .rd
  match t.state with
  | 1 => if rd then .wait else if x.claims then .claim else .refuse
  | 2 => if prod then .go else if rd && (t.cons == 0 || cons) then .wait else .race
  | 3 => if rd then .go else .refuse
  | 4 => if cons && (rd || !x.claims) then .go else .race
  | _ => .refuse

def privBase (k : Nat) : Nat := 0x800000 + k * 0x100000

/-- The queue whose area holds an offset of a slot-private area (R164). -/
def queueAt (off : Nat) : Option Nat := if 0x74000 ≤ off then some ((off - 0x74000) / 0x8C00) else none

/-- A queue configuration counts as enabled only with its reserved bits 0 (R165). -/
def Queue.en (q : Queue) : Bool := q.cfg.getLsbD 0 && q.cfg.extractLsb' 5 59 == 0
def Slot.queue (x : Slot) (n : Nat) : Queue := Tbl.get Queue.reset x.queues n

/-- The access as core `c` meets it: in a bay that firmware partition 0 does not hold it carries the code of an NPD delivery
(R189, R192). -/
def State.accAt (s : State) (x : Acc) (c : Nat) : Acc :=
  if s.holdsCore x.part c then x else { x with code := npdCode, priv := none, uid := none }

def State.flatAt (s : State) (x : Acc) (a : Nat) (kind : AKind) : PRes :=
  let bad (n : Nat) : PRes := .exc { cause := 4, sub := n, addr := BitVec.ofNat 64 a, info := 0 }
  let loc := a / 2 ^ 31 % 2 = 1
  let cf := a / 2 ^ 24 % 128
  let off := a % 2 ^ 24
  if 2 ^ 32 ≤ a ∨ 71 < cf ∨ (loc ∧ (cf ≠ 0 ∨ x.own.isNone)) ∨ 0xC00000 ≤ off then bad 1
  else
    let c := if loc then x.own.getD 0 else cf
    if !s.holdsCore x.part c && x.part != 0 then bad 2
    else
      let x := s.accAt x c
      if 0x800000 ≤ off then
        let k := (off - 0x800000) / 0x100000
        if x.priv ≠ some (c, k) then bad 3
        else
          match queueAt (off % 0x100000) with
          | none => .ok (.sp c off) none
          | some q =>
            if ((s.slot c k).queue q).en then .exc { cause := 3, sub := 6, addr := BitVec.ofNat 64 a, info := 0 }
            else .ok (.sp c off) none
      else
        match (s.core c).tileAt s.stepNo off with
        | none => bad 4
        | some (n, t) =>
          match tileSay t x kind with
          | .go => .ok (.sp c off) none
          | .claim => if ((s.core c).tile n).state = 1 then .ok (.sp c off) (some (c, n)) else .hold none
          | .wait => .hold none
          | .refuse => bad 5
          | .race => .race c n (if t.state = 2 then t.prod else t.cons)

/-- The decision for bytes of one line of an access. (DEDUCED, log 41) -/
def State.decideAt (s : State) (x : Acc) (a : Nat) (kind : AKind) : State × PRes :=
  let xf (n : Nat) : PRes := .exc { cause := 6, sub := n, addr := BitVec.ofNat 64 a, info := 0 }
  if x.space = .flat ∨ (x.space = .any ∧ a < 2 ^ 32) then (s, s.flatAt x a kind)
  else if 2 ^ 48 ≤ a ∨ a < 2 ^ 32 then (s, xf 1)
  else
    match s.translate x a kind with
    | (s, .ok pa key cnt) => (s, if s.dram.holds pa s.cycle then .hold none else .ok (.pa pa key cnt) none)
    | (s, .fault n) => (s, xf n)
    | (s, .hold) => (s, .hold none)
    | (s, .miss) => (s, .hold (some (a / 4096)))

/-! ## An access as a whole -/

/-- The parts of `n` bytes from `a`, each within a line, addresses modulo 2^64. -/
def splitLines : Nat → Nat → Nat → List (Nat × Nat)
  | 0, _, _ => []
  | fuel + 1, a, n =>
    if n = 0 then []
    else
      let k := min n (64 - a % 64)
      (a, k) :: splitLines fuel ((a + k) % 2 ^ 64) (n - k)

def pieces (a n : Nat) : List (Nat × Nat) := splitLines (n / 64 + 2) (a % 2 ^ 64) n

/-- A part of an access that may proceed. -/
structure Part1 where
  addr : Nat
  len : Nat
  loc : Loc
  deriving DecidableEq, Repr

/-- The outcome of `Check`. -/
inductive Chk where
  | ok (ps : List Part1) (claims : List (Nat × Nat))
  | exc (e : Exc)
  | hold (misses : List Nat)
  deriving DecidableEq, Repr

def State.decideAll (s : State) (x : Acc) (kind : AKind) :
    List (Nat × Nat) → State × List (Nat × Nat × PRes)
  | [] => (s, [])
  | (a, n) :: r =>
    let (s, p) := s.decideAt x a kind
    let (s, ps) := State.decideAll s x kind r
    (s, (a, n, p) :: ps)

/-- The lowest sub-cause of a cause among the parts' faults. -/
def lowestExc (cause : Nat) (ps : List (Nat × Nat × PRes)) : Option Exc :=
  ps.foldl (fun m (_, _, p) =>
    match p with
    | .exc e => if e.cause ≠ cause then m else
        match m with
        | some f => if e.sub < f.sub then some e else m
        | none => some e
    | .ok _ _ | .race _ _ _ | .hold _ => m) none

def raceExc (a core tile agent : Nat) : Exc :=
  { cause := 5, sub := 0, addr := BitVec.ofNat 64 a, info := BitVec.ofNat 64 (agent * 2 ^ 32 + core * 2 ^ 16 + tile) }

def firstRace (ps : List (Nat × Nat × PRes)) : Option Exc :=
  ps.findSome? (fun (a, _, p) =>
    match p with
    | .race c t g => some (raceExc a c t g)
    | .ok _ _ | .exc _ | .hold _ => none)

def fencedExc (d : Dram) (ps : List (Nat × Nat × PRes)) : Option Exc :=
  ps.findSome? (fun (a, _, p) =>
    match p with
    | .ok (.pa pa _ _) _ =>
      if d.fenced pa then some { cause := 7, sub := 3, addr := BitVec.ofNat 64 a, info := 0 } else none
    | .ok (.sp _ _) _ | .exc _ | .race _ _ _ | .hold _ => none)

/-- The granules whose walks parts of the access still await. -/
def missesOf (ps : List (Nat × Nat × PRes)) : List Nat :=
  ps.filterMap (fun (_, _, p) =>
    match p with
    | .hold m => m
    | .ok _ _ | .exc _ | .race _ _ _ => none)

/-- Decided as a whole (R189, R259): refusals before races, races before blocks, each at its lowest; a translation fault once
no walk can give a lower sub-cause (R247). (DEDUCED, log 14) -/
def State.judge (s : State) (chan : Bool) (ps : List (Nat × Nat × PRes)) : Chk :=
  let orElse (o : Option Exc) (c : Chk) : Chk :=
    match o with
    | some e => .exc e
    | none => c
  if (lowestExc 6 ps).any (fun e => decide (1 < e.sub)) && !(missesOf ps).isEmpty then .hold (missesOf ps)
  else
  orElse (lowestExc 6 ps) (orElse (lowestExc 4 ps) (orElse (lowestExc 3 ps) (orElse (firstRace ps)
    (orElse (if chan then fencedExc s.dram ps else none)
      (if ps.any (fun (_, _, p) => match p with | .hold _ => true | .ok _ _ | .exc _ | .race _ _ _ => false) then
        .hold (missesOf ps)
      else
        .ok (ps.filterMap (fun (a, n, p) =>
            match p with
            | .ok l _ => some { addr := a, len := n, loc := l }
            | .exc _ | .race _ _ _ | .hold _ => none))
          (ps.filterMap (fun (_, _, p) =>
            match p with
            | .ok _ c => c
            | .exc _ | .race _ _ _ | .hold _ => none)).dedup)))))

/-- Faults that walks reported to this requester are spent once its access fails, or another instruction begins. -/
def State.spent (s : State) (who : Requester) : State :=
  { s with xl := { s.xl with faults := s.xl.faults.filter (fun f => f.who != who) } }

/-- `Check` of R259 over the lines of a list of parts; a held access is attached to the walks it misses. -/
def State.checkParts (s : State) (x : Acc) (kind : AKind) (chan : Bool) (ps : List (Nat × Nat)) : State × Chk :=
  let (s, rs) := s.decideAll x kind ps
  match s.judge chan rs with
  | .hold ms =>
    ({ s with xl := ms.foldl (fun l g => l.attach x.unit x.part g x.who) s.xl }, .hold ms)
  | .exc e => (s.spent x.who, .exc e)
  | .ok ps cs => (s, .ok ps cs)

/-- (DESIGN CHOICE, log 12) -/
def State.check (s : State) (x : Acc) (a n : Nat) (kind : AKind) : State × Chk :=
  s.checkParts x kind true (pieces a n)

/-! ## Reading and writing checked parts -/

def memExc (sub a : Nat) : Exc := { cause := 7, sub := sub, addr := BitVec.ofNat 64 a, info := 0 }

/-- The bytes of one part, or the fault of its line. -/
def State.readPart (s : State) (p : Part1) : State × Except Exc (List Byte) :=
  match p.loc with
  | .sp c off => (s, .ok (memRead (s.core c).scratch off p.len))
  | .pa pa key cnt =>
    if s.dram.fenced pa then (s, .error (memExc 3 p.addr))
    else
      match s.readPhys pa p.len key cnt with
      | (s, some bs) => (s, .ok bs)
      | (s, none) => (s, .error (memExc 2 p.addr))

def State.readParts (s : State) : List Part1 → State × Except Exc (List Byte)
  | [] => (s, .ok [])
  | p :: ps =>
    match s.readPart p with
    | (s, .error e) => (s, .error e)
    | (s, .ok bs) =>
      match State.readParts s ps with
      | (s, .error e) => (s, .error e)
      | (s, .ok r) => (s, .ok (bs ++ r))

/-- The line read that a part's write needs (R254); one that fails is no access of its frame. (DESIGN CHOICE, log 96) -/
def State.primePart (s : State) (p : Part1) : State × Option Exc :=
  match p.loc with
  | .sp _ _ => (s, none)
  | .pa pa key _ =>
    if s.dram.fenced pa then (s, some (memExc 3 p.addr))
    else
      match s.readForWrite pa p.len key with
      | (s, true) => (s, none)
      | (s, false) => (s, some (memExc 2 p.addr))

def State.primeParts (s : State) : List Part1 → State × Option Exc
  | [] => (s, none)
  | p :: ps =>
    match s.primePart p with
    | (s, some e) => (s, some e)
    | (s, none) => State.primeParts s ps

/-- One part written. -/
def State.writePart (s : State) (p : Part1) (bs : List Byte) : State :=
  match p.loc with
  | .sp c off => s.updCore c (fun x => x.write off bs)
  | .pa pa key cnt => s.writePhys pa key cnt bs

/-- Every line checked before any is written: ST and the other short writes (R259). -/
def State.writeAll (s : State) : List Part1 → List Byte → State
  | [], _ => s
  | p :: ps, bs => State.writeAll (s.writePart p (bs.take p.len)) ps (bs.drop p.len)

/-- A longer write, line by line in increasing address: a failing line and those after it stay unwritten (R259).
Answers the fault and the bytes that were written before it. -/
def State.writeLines (s : State) (done : Nat) : List Part1 → List Byte → State × Option (Exc × Nat)
  | [], _ => (s, none)
  | p :: ps, bs =>
    match s.primePart p with
    | (s, some e) => (s, some (e, done))
    | (s, none) => State.writeLines (s.writePart p (bs.take p.len)) (done + p.len) ps (bs.drop p.len)

/-- What an access gives its agent. -/
inductive Got (α : Type) where
  | ok (x : α)
  | exc (e : Exc)
  | hold
  deriving Repr

/-- `ReadMem` (R259). (DESIGN CHOICE, log 13) -/
def State.readMem (s : State) (x : Acc) (a n : Nat) : State × Got (List Byte) :=
  match s.check x a n .rd with
  | (s, .exc e) => (s, .exc e)
  | (s, .hold _) => (s, .hold)
  | (s, .ok ps _) =>
    match s.readParts ps with
    | (s, .error e) => (s, .exc e)
    | (s, .ok bs) => (s, .ok bs)

/-- A tile passes to FILLING for an access that claims it (R196); for a saved piece's copy as its live claim (R393). -/
def State.claim (s : State) (x : Acc) (cs : List (Nat × Nat)) : State :=
  cs.foldl (fun s (c, n) =>
    let x := s.accAt x c
    let saved := x.code == savedCode
    s.putTile c n { (s.core c).tile n with
      state := 2, prod := if saved then 0 else x.code, cons := 0, claimC := none,
      claimP := if saved then x.uid else none }) s

/-- `WriteMem` of a short write: all or nothing (R259). -/
def State.writeMem (s : State) (x : Acc) (a : Nat) (bs : List Byte) : State × Got Unit :=
  match s.check x a bs.length .wr with
  | (s, .exc e) => (s, .exc e)
  | (s, .hold _) => (s, .hold)
  | (s, .ok ps cs) =>
    match s.primeParts ps with
    | (s, some e) => (s, .exc e)
    | (s, none) => ((s.claim x cs).writeAll ps bs, .ok ())

/-- `AtomicMem` of R259 on `n` bytes, one naturally aligned unit: the old value. -/
def State.atomicMem (s : State) (x : Acc) (a n : Nat) (f : Nat → Nat) : State × Got Nat :=
  if a % n ≠ 0 then (s, .exc (memExc 1 a))
  else
    match s.check x a n .at with
    | (s, .exc e) => (s, .exc e)
    | (s, .hold _) => (s, .hold)
    | (s, .ok ps _) =>
      match ps with
      | [] => (s, .ok 0)
      | p :: _ =>
        match p.loc with
        | .sp c off =>
          let old := leNat (memRead (s.core c).scratch off n)
          (s.updCore c (fun y => y.write off (leBytes n (f old))), .ok old)
        | .pa pa key cnt =>
          let s := { s with dram := s.dram.drainLine pa }
          match s.readPhys pa n key cnt with
          | (s, none) => (s, .exc (memExc 2 a))
          | (s, some bs) =>
            (s.writeDirect pa key (leBytes n (f (leNat bs))), .ok (leNat bs))

end Sys2Proof.Machine
end

