-- ==== Sys2Proof/Machine/Fetch.lean ====
section
/-! DEFINITION. Code stores, lines and words (R39 to R45, R339): where a stream's next instruction stands, the checks
of a line that is reached, and the decoding of the words from there on. -/

namespace Sys2Proof.Machine

def Core.plane (x : Core) (n : Nat) : Memory := if n = 0 then x.plane0 else x.plane1
def Core.setPlane (x : Core) (n : Nat) (m : Memory) : Core :=
  if n = 0 then { x with plane0 := m } else { x with plane1 := m }

/-- Offset and lines of the store that serves a class (R39, R173). -/
def storeAt : Cls → Nat × Nat
  | .ctl | .vec | .mat => (0, 4096)
  | .ldr => (0x40000, 1024)
  | .str => (0x50000, 1024)
  | .net => (0, 8192)

/-- A partition's window of the handler store (R340). -/
def Part.hbase (x : Part) : Nat := fieldNat x.npart3 51 13

/-! ## Firmware images (R423) -/

def imgWord (img : List Byte) (i : Nat) : DWord := BitVec.ofNat 64 (leNat ((img.drop (8 * i)).take 8))
def imgLen (img : List Byte) : Nat := fieldNat (imgWord img 0) 0 32
/-- The line at which the image's code is entered. -/
def imgEntry (img : List Byte) : Nat := fieldNat (imgWord img 3) 0 32
/-- Word `w` of line `l` of the code, which follows the 192 bytes of the header. -/
def imgCode (img : List Byte) (l w : Nat) : Word :=
  if l * 64 + 4 * w < imgLen img then BitVec.ofNat 32 (leNat ((img.drop (192 + l * 64 + 4 * w)).take 4)) else 0

/-! ## Lines and words -/

/-- The line lies in the store of its stream (R41, R339); the firmware's own code lies in its image (R422). -/
def State.lineIn (s : State) (a : Agent) (l : Int) : Bool :=
  match a with
  | .strm _ _ cls => decide (0 ≤ l) && decide (l < (storeAt cls).2)
  | .thread t =>
    let p := s.part (s.partOf a)
    if (s.thread t).job = .boot then decide (0 ≤ l) && decide (l.toNat * 64 < imgLen s.fw.img) else
    decide ((p.hbase : Int) ≤ l) && decide (l < (p.hbase + p.hsize : Nat))

/-- Word `w` of a line (R40). -/
def State.codeWord (s : State) (a : Agent) (plane : Nat) (l : Int) (w : Nat) : Word :=
  match a with
  | .strm c _ cls => memWord ((s.core c).plane plane) ((storeAt cls).1 + l.toNat * 64 + 4 * w)
  | .thread t =>
    if (s.thread t).job = .boot then imgCode s.fw.img l.toNat w else memWord s.npd.handlers (l.toNat * 64 + 4 * w)

/-- The plane from which a stream fetches a line that it reaches now (R175). -/
def State.planeOf (s : State) : Agent → Nat
  | .strm c _ _ => (s.core c).activePlane
  | .thread _ => 0

def linkClass (w : Word) : Nat := fieldNat w 29 3
def linkWaits (w : Word) : Bool := w.getLsbD 28
def linkFlag (w : Word) : Nat := fieldNat w 22 6
def linkVal (w : Word) : Nat := fieldNat w 16 6
def linkNext (w : Word) : Int := (w.extractLsb' 0 16).toInt

/-- The sub-cause of R44 that a line meets as it is reached. (DEDUCED, log 24) -/
def State.reachFault (s : State) (a : Agent) (l : Int) : Option Nat :=
  if !s.lineIn a l then some 1
  else
    let w := s.codeWord a (s.planeOf a) l 0
    if 6 ≤ linkClass w then some 2
    else if linkClass w ≠ clsCode (agentCls a) then some 3
    else if linkWaits w && linkClass w = 5 then some 4
    else none

/-- NEXT of the line where the stream stands, in the plane in which it was reached. -/
def State.nextOf (s : State) (a : Agent) : Int :=
  let t := s.strm a
  linkNext (s.codeWord a t.plane t.line 0)

/-- The words from the stream's position to the end of its line. -/
def State.wordsAt (s : State) (a : Agent) : List Word :=
  let t := s.strm a
  (List.range (16 - t.word)).map (fun i => s.codeWord a t.plane t.line (t.word + i))

/-- The instruction at the stream's position, or the sub-cause of R61. -/
def State.decodeAt (s : State) (a : Agent) : Except Nat Instr := decode (some (agentCls a)) (s.wordsAt a)

/-- The stream stands at an instruction: not before a line's link word, not past its last word. -/
def Stream.inLine (t : Stream) : Bool := decide (1 ≤ t.word) && decide (t.word ≤ 15)

/-- The line that NEXT names: a signed sum of 16 bits (R41). -/
def nextLine (l off : Int) : Int := (BitVec.ofInt 16 (l + off)).toInt

/-- Line and word, from 1 to 15, of the instruction at which a stream goes on, as a trap frame shows them (R382): before a
line's link word its first, past the last word that of the next line, or the last again where NEXT is 0. (DEDUCED, log 31) -/
def State.shownAt (s : State) (a : Agent) : Nat × Nat :=
  let t := s.strm a
  if t.word < 16 then (low 16 t.line, max t.word 1)
  else if s.nextOf a = 0 then (low 16 t.line, 15)
  else (low 16 (nextLine t.line (s.nextOf a)), 1)

end Sys2Proof.Machine
end

