-- ==== Sys2Proof/Machine/Tiles.lean ====
section
/-! DEFINITION. The tile table: transitions of R196, claims at retirement and save (R36, R393), residency (R204). -/

namespace Sys2Proof.Machine

def tileFree : Nat := 0
def tileEmpty : Nat := 1
def tileFilling : Nat := 2
def tileReady : Nat := 3
def tileDraining : Nat := 4

/-- FILLING to EMPTY, or DRAINING to EMPTY. -/
def Tile.toEmpty (t : Tile) : Tile := { t with state := 1, prod := 0, cons := 0, claimP := none, claimC := none }
/-- FILLING to READY: the agent fields stay, a saved producer among them (R196, R393). -/
def Tile.toReady (t : Tile) : Tile := { t with state := 3 }
/-- DRAINING to READY, CONS any. -/
def Tile.unDrain (t : Tile) : Tile := { t with state := 3, cons := 0, claimC := none }
/-- EMPTY to FILLING for a claimer, with its consumer. -/
def Tile.fill (t : Tile) (prod cons : Nat) : Tile :=
  { t with state := 2, prod := prod, cons := cons, claimP := none, claimC := none }
/-- READY to DRAINING for a claimer. -/
def Tile.drain (t : Tile) (cons : Nat) : Tile := { t with state := 4, cons := cons, claimC := none }

/-- What the end of an agent's claims does to one tile: retirement of its piece, or a claim that is not live at a
save (R196, R393). -/
def Tile.release (t : Tile) (code : Nat) : Tile :=
  if t.state = 2 ∧ t.prod = code then t.toEmpty
  else if t.state = 2 ∧ t.cons = code then { t with cons := 0 }
  else if t.state = 4 ∧ t.cons = code then t.unDrain
  else t

/-- A live claim at a save (R393). A named consumer of a FILLING tile reads as none and is kept for the restore. (DEDUCED, log 43) -/
def Tile.keep (t : Tile) (code uid : Nat) : Tile :=
  let t := if t.state = 2 ∧ t.prod = code then { t with prod := 0, claimP := some uid } else t
  if (t.state = 2 ∨ t.state = 4) ∧ t.cons = code then { t with cons := 0, claimC := some uid } else t

/-- A restored piece's live claims take the code of its new slot (R393). -/
def Tile.restore (t : Tile) (code uid : Nat) : Tile :=
  let t := if t.claimP = some uid then { t with prod := code, claimP := none } else t
  if t.claimC = some uid then { t with cons := code, claimC := none } else t

/-- The claims of an abandoned saved piece end as at a retirement. -/
def Tile.abandon (t : Tile) (uid : Nat) : Tile :=
  if t.state = 2 ∧ t.claimP = some uid then t.toEmpty
  else if t.state = 2 ∧ t.claimC = some uid then { t with claimC := none }
  else if t.state = 4 ∧ t.claimC = some uid then { t.unDrain with claimP := if t.claimP = some uid then none else t.claimP }
  else if t.claimP = some uid then { t with claimP := none }
  else t

/-- A change of every entry that it changes, by step `no` (R197). -/
def Core.mapTiles (x : Core) (no : Nat) (f : Tile → Tile) : Core :=
  { x with tiles := x.tiles.map (fun (n, t) => (n, f t)),
           tilesWas := x.tiles.foldl (fun w (n, t) => if f t = t then w else Tbl.set w n (x.tileOld n, no)) x.tilesWas }
def State.mapTiles (s : State) (f : Tile → Tile) : State :=
  { s with cores := s.cores.map (fun (c, x) => (c, x.mapTiles s.stepNo f)) }

/-- The agent of an access is the tile's producer, or its piece the one whose claim is kept (R393). -/
def Tile.filledBy (t : Tile) (x : Acc) : Bool := t.prod == x.code || (x.uid.isSome && t.claimP == x.uid)

/-- Tiles that a copy or delivery filled pass to READY, where the filler still is their producer (R196). -/
def State.readyTiles (s : State) (x : Acc) (ts : List (Nat × Nat)) : State :=
  ts.foldl (fun s (c, n) =>
    let t := (s.core c).tile n
    if t.state = 2 ∧ t.filledBy (s.accAt x c) then s.putTile c n t.toReady else s) s

/-- The FILLING tiles of an agent that a run of bytes touches: what a copy or delivery has to make READY. -/
def State.filling (s : State) (x : Acc) (ps : List Part1) : List (Nat × Nat) :=
  (ps.filterMap (fun p =>
    match p.loc with
    | .sp c off =>
      if 0x800000 ≤ off then none
      else
        match (s.core c).tileAt s.stepNo off with
        | some (n, t) => if t.state = 2 && t.filledBy (s.accAt x c) then some (c, n) else none
        | none => none
    | .pa _ _ _ => none)).dedup

def addTiles (ts us : List (Nat × Nat)) : List (Nat × Nat) := ts ++ us.filter (fun u => !ts.contains u)

/-! ## Granules and residency -/

/-- The granules of a core that allocated tiles hold, as intervals. -/
def Core.runs (x : Core) : List (Nat × Nat) :=
  x.tiles.filterMap (fun (_, t) => if t.state = 0 then none else some (t.baseg, t.sizeg))

/-- No allocated tile meets granules `[g, g + n)`. -/
def Core.runFree (x : Core) (g n : Nat) : Bool :=
  decide (g + n ≤ 4096) && x.runs.all (fun (b, k) => decide (g + n ≤ b) || decide (b + k ≤ g))

/-- The lowest granule that begins a free run of `n` (R194): 0 or the end of some tile. -/
def Core.findRun (x : Core) (n : Nat) : Option Nat :=
  (0 :: x.runs.map (fun (b, k) => b + k)).foldl (fun m g =>
    if x.runFree g n && (match m with | some k => decide (g < k) | none => true) then some g else m) none

/-- Granules free from `g` on: up to the next tile, or the area's end. -/
def Core.freeFrom (x : Core) (g : Nat) : Nat :=
  if x.runs.any (fun (b, k) => decide (b ≤ g) && decide (g < b + k)) then 0
  else (x.runs.filterMap (fun (b, _) => if g < b then some (b - g) else none)).foldl min (4096 - g)

/-- SYS.TAREA (R193). -/
def Core.tarea (x : Core) : DWord :=
  let used := x.runs.foldl (fun n (_, k) => n + k) 0
  let run := (0 :: x.runs.map (fun (b, k) => b + k)).foldl (fun m g => max m (x.freeFrom g)) 0
  BitVec.ofNat 64 ((4096 - used) * 2 ^ 48 + run * 2 ^ 32 + x.runs.length)

/-- A core's residency of a key: resident and filling granules, entries (R204). -/
def Core.residency (x : Core) (key : Nat) : Nat × Nat × Nat :=
  x.tiles.foldl (fun (r, f, n) (_, t) =>
    if t.state = 0 || t.key.toNat != key || key == 0 then (r, f, n)
    else if t.state = 3 || t.state = 4 then (r + t.sizeg, f, n + 1)
    else if t.state = 2 then (r, f + t.sizeg, n + 1)
    else (r, f, n + 1)) (0, 0, 0)

end Sys2Proof.Machine
end

