-- ==== Sys2Proof/Machine/Rings.lean ====
section
/-! DEFINITION. Task queues and their spill rings (R312 to R314, R319): where entries stand, how one joins, how the ring
refills the places on chip. -/

namespace Sys2Proof.Machine

/-! ## The queue (R312) -/

/-- Entries that the ring holds. -/
def Core.ringCap (x : Core) : Nat := if x.ringlog = 0 then 0 else 2 ^ x.ringlog
/-- The queue's limit. -/
def Core.limit (x : Core) : Nat := 32 + x.ringCap
def Core.full (x : Core) : Bool := decide (x.limit ≤ x.queue.length)
/-- SYS.TQ.RINGCNT and ONCHIP (R314). -/
def Core.ringed (x : Core) : Nat := (x.queue.filter (fun e => e.ring.isSome)).length
def Core.onchip (x : Core) : Nat := (x.queue.filter (fun e => e.ring.isNone)).length

/-- The lowest place of the ring that no entry takes. (DEDUCED, log 54) -/
def Core.ringPlace (x : Core) : Nat :=
  ((List.range (x.queue.length + 1)).find? (fun i => !x.queue.any (fun e => e.ring == some i))).getD x.queue.length

/-- Where a place of a core's ring lies (R417), and an access to it for the partition. -/
def State.ringAddr (s : State) (p c i : Nat) : Nat :=
  let x := s.part p
  fieldNat x.tqring 12 52 * 2 ^ 12 + c * 2 ^ ((s.core c).ringlog + 8) + i * 256
def ringAcc (p : Nat) (u : XUnit) : Acc :=
  { part := p, code := npdCode, own := none, priv := none, who := .npd, unit := u, sync := true, claims := false,
    uid := none, space := .virt }

/-- What an attempt to join a queue gives; `held`: the ring's page is held by an invalidation (R249). -/
inductive Join where
  | joined
  | full
  | held
  | ring (e : Exc)
  deriving DecidableEq, Repr

def State.ringFaultEvent (s : State) (p c : Nat) (e : Exc) : State := s.event p 7 e.sub c e.addr 0

/-- An entry stands at the queue's tail. -/
def State.pushEntry (s : State) (c : Nat) (e : TaskEntry) : State :=
  s.updCore c (fun x => { x with queue := x.queue ++ [e] })

/-- The spilling write of an entry to place `i` of the ring. -/
def State.spill (s : State) (c i : Nat) (e : TaskEntry) : State × Got Unit :=
  let p := e.piece.part
  match s.writeMem (ringAcc p (.core c)) (s.ringAddr p c i) (leBytes 256 (Config.taskBytes e).toNat) with
  | (s, .ok _) => (s, .ok ())
  | (s, .exc x) => (s, .exc x)
  | (s, .hold) => (s, .hold)

/-- A new entry goes on chip: the ring is empty and a place is free there. -/
def Core.roomOnChip (x : Core) : Bool := decide (x.onchip < 32) && x.ringed == 0

/-- An enqueue waits on a fault of the ring (R319): RFAULT; and that wait's end when a write succeeds. -/
def Core.ringBlocked (x : Core) : Bool := x.rfault && !x.rtry
/-- The spill ring that the next entry of a queue has to pass is held on a fault (R319). -/
def Core.ringStuck (x : Core) : Bool := x.ringBlocked && !x.roomOnChip
def Core.ringFails (x : Core) : Core := { x with rfault := true, rtry := false }
def Core.ringHeals (x : Core) : Core := { x with rfault := false, rtry := false }

/-- An entry joins the tail of a core's queue, on chip or through the spill ring. -/
def State.joinQueue (s : State) (c : Nat) (e : TaskEntry) : State × Join :=
  let x := s.core c
  if x.full then (s, .full)
  else if x.roomOnChip then ((s.pushEntry c { e with ring := none }).updCore c (·.ringHeals), .joined)
  else
    let e := { e with ring := some x.ringPlace }
    match s.spill c x.ringPlace e with
    | (s, .exc ex) => (s, .ring ex)
    | (s, .hold) => (s, .held)
    | (s, .ok _) => ((s.pushEntry c e).updCore c (·.ringHeals), .joined)

/-- A saved piece joins the tail of its core's queue, and a re-placed task that of another, whatever the queue holds: at the
limit it stands beyond it, and a spill that faults is told and not made. (DESIGN CHOICE, log 92) -/
def State.joinSaved (s : State) (c : Nat) (e : TaskEntry) : State :=
  let x := s.core c
  if x.roomOnChip then s.pushEntry c { e with ring := none }
  else
    let e := { e with ring := some x.ringPlace }
    if x.ringCap ≤ x.ringPlace then s.pushEntry c e
    else
      match s.spill c x.ringPlace e with
      | (s, .exc ex) => (s.ringFaultEvent e.piece.part c ex).pushEntry c e
      | (s, .hold) => s.pushEntry c e
      | (s, .ok _) => s.pushEntry c e

/-- The read of an entry in the ring; one that faults is told, and waits for an invalidation (R319). -/
def State.readEntry (s : State) (c : Nat) (e : TaskEntry) : State × Bool :=
  match e.ring with
  | none => (s, true)
  | some i =>
    if (s.core c).rstall then (s, false)
    else if (s.core c).ringCap ≤ i then (s, true)
    else
      let p := e.piece.part
      match s.readMem (ringAcc p (.core c)) (s.ringAddr p c i) 256 with
      | (s, .exc ex) => ((s.ringFaultEvent p c ex).updCore c (fun x => { x with rstall := true }), false)
      | (s, .hold) => (s, false)
      | (s, .ok _) => (s, true)

/-- The oldest entries of the ring refill the free places on chip (R312). -/
def State.refill (s : State) (c : Nat) : Nat → State
  | 0 => s
  | n + 1 =>
    let x := s.core c
    if 32 ≤ x.onchip then s
    else
      match x.queue.findIdx? (fun e => e.ring.isSome) with
      | none => s
      | some i =>
        match (x.queue[i]?).map (s.readEntry c) with
        | none => s
        | some (s, false) => s
        | some (s, true) =>
          State.refill (s.updCore c (fun x => { x with queue := x.queue.modify i (fun e => { e with ring := none }) })) c n

/-- The entry at position `i` leaves the queue. -/
def State.takeEntry (s : State) (c i : Nat) : State :=
  (s.updCore c (fun x => { x with queue := x.queue.eraseIdx i })).refill c 32

end Sys2Proof.Machine
end

