-- ==== Sys2Proof/Machine/Save.lean ====
section
/-! DEFINITION. Saving a piece (R392 to R394), stopping it (R397), and the release of its slot. -/

namespace Sys2Proof.Machine

/-! ## The units (R132 to R134) -/

/-- The slot gives the units up without a drain point; OWNER stays as the slot that held them last (R136). -/
def Core.dropUnits (x : Core) (k : Nat) : Core :=
  if x.units.valid && x.units.owner == k then
    { x with units := { x.units with valid := false, offer := false, askedAt := none } }
  else x

/-- The slot becomes free: every register at its reset value; commands in its admission buffer stay (R268). -/
def State.freeSlot (s : State) (c k : Nat) : State :=
  (s.updSlot c k (fun x => { Slot.reset with adm := x.adm })).updCore c (·.dropUnits k)

/-! ## Traps that wait -/

/-- The deferred fault of a faulting reply (R389). -/
def InFlight.heldFault (r : InFlight) (beat : Nat) (sub : Nat) (addr : DWord) (el : Nat) : HeldTrap :=
  { cause := 7, sub := sub, strm := 1, addr := addr, info := BitVec.ofNat 64 el, line := r.line, word := r.word,
    beats := beat - r.issued - 1 }

/-- Results in flight pass to the landing buffer; one whose reply is still to come enters when it does, and a faulting reply
becomes the deferred fault (R385). -/
def Slot.landing (x : Slot) : Slot :=
  x.v.inflight.foldl (fun (y : Slot) r =>
      let kept := { y with v := { y.v with inflight := y.v.inflight ++ [{ r with landing := r.arrived }] } }
      match r.fault with
      | some (n, a, el) => if r.arrived then y.hold (r.heldFault x.v.beat n a el) else kept
      | none => kept)
    { x with v := { x.v with inflight := [] } }

/-- A save waits for the replies that are still to come (R385). -/
def Slot.awaitReplies (x : Slot) : Slot :=
  { x with v := { x.v with inflight := x.v.inflight.map (fun (r : InFlight) => { r with arrived := true }) } }

/-! ## Descriptors that transfers hold (R170, R180) -/

/-- The image of descriptor `n` in the active plane (R173). -/
def Core.descImage (x : Core) (n : Nat) : BitVec 512 :=
  BitVec.ofNat 512 (leNat (memRead (x.plane x.activePlane) (0x60000 + 64 * n) 64))

/-- A descriptor with `dw` at the origin of its walk. -/
def Desc.load (d : Desc) (dw : BitVec 512) : Desc := { d with dw := dw, i0 := 0, i1 := 0, i2 := 0, i3 := 0 }

/-- The holding transfer completes or stops: a reload that waited takes effect. -/
def Desc.letGo (d : Desc) (image : BitVec 512) : Desc :=
  let d := { d with holder := none }
  if d.reload.isEmpty then d else { d.load image with reload := [] }

/-- Every descriptor that satisfies `p` is let go. -/
def State.letGo (s : State) (c k : Nat) (p : Desc → Bool) : State :=
  let x := s.core c
  s.updSlot c k (fun y => { y with descs := y.descs.map (fun (n, d) =>
    (n, if d.holder.isSome && p d then d.letGo (x.descImage n) else d)) })

/-- A transfer stops at the boundary before the row-set that is under way: its instruction is to be issued again for the
row-sets still to move, and a row-set that is formed and not put is formed anew (R172). -/
def Stream.stopXfer (t : Stream) : Stream :=
  match t.xfer with
  | some f => { t with xfer := none, again := some f.left }
  | none => t
def CtlSave.stopXfer (t : CtlSave) : CtlSave :=
  match t.xfer with
  | some f => { t with xfer := none, again := some f.left }
  | none => t
def Slot.stopXfers (x : Slot) : Slot :=
  { x with ctl := x.ctl.stopXfer, ldr := x.ldr.stopXfer, str := x.str.stopXfer,
           trap := { x.trap with ctl := x.trap.ctl.map CtlSave.stopXfer } }

/-- Transfers of the slot's streams stop at a row-set boundary (R172); a read-out keeps its descriptor. -/
def State.stopTransfers (s : State) (c k : Nat) : State :=
  (s.letGo c k (fun d => d.holder != some .mat)).updSlot c k Slot.stopXfers

/-- Steps 1 and 2 of R392 take effect before a record is claimed: transfers stop at a row-set boundary, and every result in
flight stands in the landing buffer, its reply having come (R385). -/
def State.enterSave (s : State) (c k : Nat) : State := (s.stopTransfers c k).updSlot c k (fun x => x.awaitReplies.landing)

/-! ## The crib -/

def Part.cribCount (x : Part) : Nat := fieldNat x.crib 52 12
def Part.cribBase (x : Part) : Nat := fieldNat x.crib 22 26 * 2 ^ 22

/-- The lowest free record (R394). -/
def Part.freeRec (x : Part) : Option Nat :=
  (List.range x.cribCount).find? (fun i => !x.recs.any (fun (j, _) => j == i))

/-- SYS.PSTAT.CRIBFREE (R391). -/
def Part.cribFree (x : Part) : Nat :=
  x.cribCount - (x.recs.filter (fun (j, _) => decide (j < x.cribCount))).length

/-- An access of the slot's piece that waits out its walks within its step. -/
def State.slotSync (s : State) (c k : Nat) : Acc :=
  { s.accOf (.strm c k .ctl) with sync := true, space := .virt }

/-- What the stores or loads of a crib record meet. -/
inductive CribSay where
  | ok
  | fault (e : Exc)
  | hold
  deriving DecidableEq, Repr

/-- The stores of a save to its record, line by line from address `base` on (R392). -/
def State.storeRec (s : State) (x : Acc) (base : Nat) : List (Nat × BitVec 512) → State × CribSay
  | [] => (s, .ok)
  | (i, w) :: r =>
    match s.writeMem x (base + 64 * (i % 65536)) (leBytes 64 w.toNat) with
    | (s, .ok _) => State.storeRec s x base r
    | (s, .exc e) => (s, .fault e)
    | (s, .hold) => (s, .hold)

/-- The loads of a restore from its record (R395). -/
def State.loadRec (s : State) (x : Acc) (base : Nat) : List (Nat × BitVec 512) → State × CribSay
  | [] => (s, .ok)
  | (i, _) :: r =>
    match s.readMem x (base + 64 * (i % 65536)) 64 with
    | (s, .ok _) => State.loadRec s x base r
    | (s, .exc e) => (s, .fault e)
    | (s, .hold) => (s, .hold)

/-- The address of record `r` of a partition's crib (R394). -/
def Part.recAt (x : Part) (r : Nat) : Nat := x.cribBase + r * 2 ^ 22

/-- A record becomes free (R394, R397). -/
def Part.freeRecord (x : Part) (r : Nat) : Part := { x with recs := Tbl.erase x.recs r, gains := x.gains + 1 }

/-- What becomes of a save. -/
inductive SaveRes where
  | saved (rec : Nat)
  | abandoned
  | held
  deriving DecidableEq, Repr

/-- Matrix operations stop between steps, and read-outs between row-sets, with CAUSE 01 (R235). -/
def OpStat.stop1 : OpStat → OpStat
  | .running => .stopped 1
  | o => o

def MatState.stop1 (m : MatState) : MatState :=
  { m with cop := m.cop.map (fun o => { o with stat := o.stat.stop1 }),
           rop := m.rop.map (fun o => { o with stat := o.stat.stop1 }) }

/-- The state of a slot as a save leaves it in its record (R392). -/
def Slot.context (x : Slot) : Slot :=
  { x with m := x.m.stop1, adm := [], stopping := none, enqSince := none, gleanSince := none,
           regs := { x.regs with req := 0, saves := x.regs.saves + 1 } }

/-- Step 6 of R392, the record being written; a piece that is not held joins the tail of its core's queue (R312). -/
def State.saveInto (s : State) (c k p uid r : Nat) (live : Tile → Bool) (held : Bool) (gang : Option Nat) : State :=
  let code := slotCode c k
  let s := s.mapTiles (fun t => if live t then t.keep code uid else t.release code)
  let x := s.slot c k
  let rec1 : SavedPiece :=
    { slot := x.context, priv := memSlice (s.core c).scratch (privBase k) 0x100000, core := c, held := held, gang := gang }
  let s := (s.updPart p (fun z => { z with recs := Tbl.set z.recs r rec1 })).freeSlot c k
  match x.piece with
  | some q => if held then s else s.joinSaved c { piece := q, saved := some r, ring := none }
  | none => s

/-- A save of one slot from step 3 of R392 on: `abandoned` with event kind 11, `held` while the record's pages hold. -/
def State.saveSlot (s : State) (c k : Nat) (live : Tile → Bool) (held : Bool) (gang : Option Nat) :
    State × SaveRes :=
  match (s.slot c k).piece with
  | none => (s, .abandoned)
  | some q =>
    let full (s : State) := s.event q.part 11 0 0 (BitVec.ofNat 64 (4 * c + k)) 0
    match (s.part q.part).freeRec with
    | none => (full s, .abandoned)
    | some r =>
      let lines := Config.cribLines (s.slot c k).context (memSlice (s.core c).scratch (privBase k) 0x100000)
      match s.storeRec (s.slotSync c k) ((s.part q.part).recAt r) lines with
      | (s, .ok) => (s.saveInto c k q.part q.uid r live held gang, .saved r)
      | (s, .fault _) => (full s, .abandoned)
      | (s, .hold) => (s, .held)

/-- Members of a gang that still run: those that a stop saves (R36, R397). -/
def State.gangRunning (s : State) (g : GangRef) : List (Nat × Nat) :=
  g.slots.filter (fun (c, k) => (s.slot c k).phase == .running &&
    ((s.slot c k).piece.bind (·.gang)).map (·.ticket) == some g.ticket)

/-- The events of `t`, and the bytes that its stores have left, over `s`: what an abandoned save leaves. -/
def State.abandonedAs (s t : State) : State :=
  { s with parts := s.parts.map (fun (i, x) => (i, { x with events := (t.part i).events, lost := (t.part i).lost })),
           dram := t.dram, xl := t.xl }

/-- Every running member of a gang, saved together and held (R397); the record of the member at `(c, k)`. None is saved
while the core of one is frozen (R389). -/
def State.saveGang (s : State) (g : GangRef) (c k : Nat) : State × SaveRes :=
  let ms := s.gangRunning g
  if ms.any (fun (d, _) => (s.core d).frz.since.isSome) then (s, .held)
  else
    let s := ms.foldl (fun (s : State) (d, j) => s.enterSave d j) s
    let go := ms.foldl (fun (acc : State × Option SaveRes × Nat) (d, j) =>
      match acc with
      | (s, some bad, n) => (s, some bad, n)
      | (s, none, n) =>
        match s.saveSlot d j (fun _ => true) true (some g.ticket) with
        | (s, .saved r) => (s, none, if d = c ∧ j = k then r else n)
        | (s, bad) => (s, some bad, n)) (s, none, 0)
    match go with
    | (t, none, r) => (t, .saved r)
    | (t, some .held, _) => (s.abandonedAs t, .held)
    | (t, some _, _) => (s.abandonedAs t, .abandoned)

/-- A stop (R397): every claim live; a gang member's stop stops every member. -/
def State.stopPiece (s : State) (c k : Nat) (held : Bool) : State × SaveRes :=
  match (s.slot c k).piece with
  | some q =>
    match q.gang with
    | some g => s.saveGang g c k
    | none => (s.enterSave c k).saveSlot c k (fun _ => true) held none
  | none => (s, .abandoned)

end Sys2Proof.Machine
end

