-- ==== Sys2Proof/Machine/Trap.lean ====
section
/-! DEFINITION. Taking a trap (R378 to R385), the stop of R380, the end of a packet thread by a fault (R344), and the
return from a trap (R386, R387). -/

namespace Sys2Proof.Machine

/-! ## The frame (R382) -/

def frameCause (h : HeldTrap) (async : Bool) : DWord :=
  BitVec.ofNat 64 (h.cause * 2 ^ 56 + h.sub * 2 ^ 48 + h.strm * 2 ^ 45 + b2n async * 2 ^ 44)

def framePc (ctl : Nat × Nat) (h : HeldTrap) : DWord :=
  BitVec.ofNat 64 (ctl.1 * 2 ^ 48 + ctl.2 * 2 ^ 44 + h.beats % 32 * 2 ^ 32 + low 16 h.line * 2 ^ 16 + h.word % 16)

/-- The frame of a trap, over the place `ctl` at which the control stream resumes; `rows`: a stopped transfer's stream, and
its row-sets still to move. -/
def TrapRegs.frame (r : TrapRegs) (ctl : Nat × Nat) (h : HeldTrap) (async : Bool) (rows : Option (Cls × Nat)) : TrapRegs :=
  { r with tcause := frameCause h async, tpc := framePc ctl h, taddr := h.addr, tinfo := h.info,
           trows := BitVec.ofNat 64 ((rows.map (·.2)).getD 0), trow := rows.map (·.1) }

def TrapRegs.line (r : TrapRegs) : Nat := fieldNat r.tvec 0 12
/-- The place at which the control stream resumes, of the frame as it stands. -/
def TrapRegs.cplace (r : TrapRegs) : Nat × Nat := (fieldNat r.tpc 48 16, fieldNat r.tpc 44 4)

def Stream.ctlSave (t : Stream) (shown : Nat × Nat) : CtlSave :=
  { shown := shown, line := t.line, word := t.word, plane := t.plane, passed := t.passed, skip := t.skip,
    waitLeft := t.waitLeft, xfer := t.xfer, again := t.again, token := t.token, held := t.held }

/-- The control stream back at an instruction that it has issued (R378: the trap comes before that instruction). -/
def CtlSave.back (v : CtlSave) (h : HeldTrap) : CtlSave :=
  { v with shown := (low 16 h.line, h.word), line := h.line, word := h.word, passed := true, skip := false, waitLeft := 0,
           xfer := none, again := none, token := none, held := 0 }

/-- Row-sets still to move of a transfer that runs, or that has been stopped and is to be issued again (R172). -/
def xferRows (f : Option Xfer) (again : Option Nat) : Option Nat :=
  match f with
  | some f => some f.left
  | none => again

/-- The transfer that a trap stops: the first of the control stream, the loader and the storer that has one, with its
row-sets still to move (R172). (DESIGN CHOICE, log 97) -/
def Slot.stoppedRows (x : Slot) : Option (Cls × Nat) :=
  let ctl : Option Nat :=
    if x.trap.intrap then x.trap.ctl.bind (fun (v : CtlSave) => xferRows v.xfer v.again) else xferRows x.ctl.xfer x.ctl.again
  match ctl, xferRows x.ldr.xfer x.ldr.again, xferRows x.str.xfer x.str.again with
  | some n, _, _ => some (.ctl, n)
  | none, some n, _ => some (.ldr, n)
  | none, none, some n => some (.str, n)
  | none, none, none => none

/-- A trap is taken (R379): landing buffer, frame, INTRAP, and the control stream at the handler's line. `ctl`: where the
control stream stands; `rows`: the transfer of the trapping instruction. From within TRET (INTRAP is 1) the place where the
control stream was stopped first is still the one to resume. -/
def Slot.takeTrap (x : Slot) (ctl : Nat × Nat) (h : HeldTrap) (async : Bool) (rows : Option (Cls × Nat)) : Slot :=
  let first := if x.trap.intrap then x.trap.ctl.getD (x.ctl.ctlSave x.trap.cplace) else x.ctl.ctlSave ctl
  let save := if h.sync then first.back h else first
  let at1 := if h.sync then save.shown else if x.trap.intrap then x.trap.cplace else ctl
  let rows := if rows.isSome then rows else x.stoppedRows
  let y := x.landing
  { y with trap := { (y.trap.frame at1 h async rows) with intrap := true, ctl := some save },
           ctl := x.ctl.goto x.trap.line }

/-- A stop that R397 tries again still waits for a free record. -/
def State.stopWaits (s : State) (c k : Nat) : Bool :=
  let x := s.slot c k
  match x.piece, x.stopping with
  | some p, some w =>
    (match w.after with
     | some n => decide ((s.part p.part).gains ≤ n)
     | none => false)
  | _, _ => false

/-- A stop by R31, R135 or R380 of a piece that runs, not of one that retires (R35, R36): it is queued or held; where that is abandoned it runs on, and the stop is made
again once its crib gains a free record (R397). -/
def State.tryStop (s : State) (c k : Nat) (held : Bool) : State :=
  if s.stopWaits c k ∨ (s.slot c k).phase ≠ .running then s
  else
    let wait (s : State) (n : Option Nat) : State := s.updSlot c k (fun x => { x with stopping := some { held := held, after := n } })
    match s.stopPiece c k held with
    | (s, .saved _) => s
    | (s, .abandoned) => wait s (some (s.part (s.partOf (.strm c k .ctl))).gains)
    | (s, .held) => wait s none

/-- The piece is stopped and held, and the firmware told (R380, R395). (DEDUCED, log 30) -/
def State.stopAndHold (s : State) (c k : Nat) : State :=
  if s.stopWaits c k then s
  else (s.event 0 16 0 0 (BitVec.ofNat 64 (4 * c + k)) (s.slot c k).trap.tcause).tryStop c k true

/-- A trap falls due in a slot: taken, or where no handler may run the piece is stopped (R380). -/
def State.trapAt (s : State) (c k : Nat) (h : HeldTrap) (async : Bool) (rows : Option (Cls × Nat)) : State :=
  let x := s.slot c k
  let at1 := s.shownAt (.strm c k .ctl)
  if x.phase ≠ .running then s
  else if x.trap.en && !x.trap.intrap then (s.stopTransfers c k).updSlot c k (fun x => x.takeTrap at1 h async rows)
  else
    let rows := if rows.isSome then rows else x.stoppedRows
    (s.updSlot c k (fun x => { x with trap := x.trap.frame at1 h async rows })).stopAndHold c k

/-! ## Packet threads -/

/-- Class of R369 for a fault of a thread. -/
def threadClass (cause : Nat) : Nat :=
  match cause with
  | 1 => 1 | 2 => 2 | 6 => 3 | 7 => 4 | 4 => 5 | 5 => 6 | 9 => 9 | n => n

/-- A thread's place becomes free. -/
def State.endThread (s : State) (t : Nat) : State :=
  { s with npd := { s.npd with threads := Tbl.erase s.npd.threads t } }

def Npd.msg (n : Npd) (id : Nat) : Option Msg := n.msgs.find? (fun m => m.id == id)
def Npd.dropMsg (n : Npd) (id : Nat) : Npd := { n with msgs := n.msgs.filter (fun m => m.id != id) }
def Npd.updMsg (n : Npd) (id : Nat) (f : Msg → Msg) : Npd :=
  { n with msgs := n.msgs.map (fun m => if m.id = id then f m else m) }

/-- A fault ends the thread (R344): event kind 9, or to the firmware kind 18; a matched message passes without an
advance. Firmware's own code counts in FAULTS (R422). -/
def State.threadFault (s : State) (t : Nat) (cls : Nat) (sub : Nat) (addr : DWord) : State :=
  let x := s.thread t
  let at1 := BitVec.ofNat 64 (low 16 x.strm.line * 16 + x.strm.word % 16)
  let s := if x.part = 0 then { s with fw := { s.fw with faults := s.fw.faults + 1 } } else s
  match x.job with
  | .msg id =>
    let entry := match s.npd.msg id with | some m => m.entry | none => 0
    let s := s.event x.part 9 (cls * 16 + sub) entry at1 addr
    let n := match s.npd.msg id with
      | some m => if m.loop then s.npd.updMsg id (fun m => { m with stage := .passed }) else s.npd.dropMsg id
      | none => s.npd
    State.endThread { s with npd := n } t
  | .event _ =>
    (if x.part = 0 then s else s.event 0 18 (cls * 16 + sub) 0 at1 addr).endThread t
  | .boot => s.endThread t

/-! ## Synchronous traps -/

/-- The agent's present instruction raises `e` before it has any effect (R378); `rows`: row-sets still to move of a
transfer (R172). (DEDUCED, log 29) -/
def State.raiseRows (s : State) (a : Agent) (e : Exc) (rows : Nat) : State :=
  match a with
  | .thread t => s.threadFault t (threadClass e.cause) (e.sub % 16) e.addr
  | .strm c k cls =>
    let at1 := s.shownAt a
    let s := s.updStrm a (fun t => { t with mode := .running })
    s.trapAt c k { cause := e.cause, sub := e.sub, strm := clsCode cls, addr := e.addr, info := e.info, line := at1.1,
                   word := at1.2, beats := 0 } false (if rows = 0 then none else some (cls, rows))

def State.raise (s : State) (a : Agent) (e : Exc) : State := s.raiseRows a e 0

/-- The frame of XINV, PART and CRYO, which a tenant's stream refuses at decode, whatever the guard (R398, R62). (DEDUCED, log 32) -/
def State.firmwareOnly (s : State) (g : Guard) (body : State → State) : Host.Outcome State Fault Refusal :=
  if s.partOf s.agent ≠ 0 then
    .next (if (s.strm s.agent).skip then s.advance s.agent 2 else s.raise s.agent (Exc.of 1 3))
  else s.guarded g 2 body

/-! ## Asynchronous traps -/

/-- A deferred vector memory fault whose beat has come (R389). -/
def Slot.dueFault (x : Slot) : Option HeldTrap :=
  x.v.inflight.findSome? (fun r =>
    match r.fault with
    | some (n, a, el) => if r.due ≤ x.v.beat ∧ r.arrived then some (r.heldFault x.v.beat n a el) else none
    | none => none)

/-- Every due deferred fault joins the held traps. -/
def Slot.holdDue (x : Slot) : Slot :=
  x.v.inflight.foldl (fun (y : Slot) (r : InFlight) =>
      let kept := { y with v := { y.v with inflight := y.v.inflight ++ [r] } }
      match r.fault with
      | some (n, a, el) => if r.due ≤ x.v.beat ∧ r.arrived then y.hold (r.heldFault x.v.beat n a el) else kept
      | none => kept)
    { x with v := { x.v with inflight := [] } }

/-- What of the frame is fixed only when the trap is taken: LINE and WORD of the trapping stream's next instruction; `ctl`:
the place at which the control stream resumes, which cause 11 shows (R382). -/
def State.placed (s : State) (c k : Nat) (ctl : Nat × Nat) (h : HeldTrap) : HeldTrap :=
  let at1 (p : Nat × Nat) : HeldTrap := { h with line := p.1, word := p.2 }
  if h.sync then h
  else if h.cause = 11 ∨ h.strm = 0 then at1 ctl
  else if h.strm = 2 then at1 (s.shownAt (.strm c k .mat))
  else if h.cause = 10 then at1 (s.shownAt (.strm c k .vec))
  else h

/-- Takes the first held trap, already known to be there. -/
def State.takeHeld (s : State) (c k : Nat) : State :=
  let x := s.slot c k
  let ctl := if x.trap.intrap then x.trap.cplace else s.shownAt (.strm c k .ctl)
  match x.trap.pend with
  | [] => s
  | h :: hs =>
    let h := s.placed c k ctl h
    (s.stopTransfers c k).updSlot c k (fun x =>
      Slot.takeTrap { x with trap := { x.trap with pend := hs } } ctl h (!h.sync) none)

/-- The first held trap is not taken: its frame is written, and the piece stopped (R380). -/
def State.holdHeld (s : State) (c k : Nat) : State :=
  let x := s.slot c k
  let ctl := s.shownAt (.strm c k .ctl)
  match x.trap.pend with
  | [] => s
  | h :: hs =>
    let h := s.placed c k ctl h
    (s.updSlot c k (fun x =>
      { x with trap := { (x.trap.frame ctl h (!h.sync) x.stoppedRows) with pend := hs } })).stopAndHold c k

/-- ASYNC_TRAP_DELIVERY: due faults join the held traps, and the first of R381 is taken. -/
def State.asyncTrap (s : State) (c k : Nat) : State :=
  let x := s.slot c k
  if x.phase ≠ .running ∨ x.trap.intrap then s
  else
    let s := s.setSlot c k x.holdDue
    if x.trap.en then s.takeHeld c k else s.holdHeld c k

/-! ## Return (R387) -/

def clsOfCode : Nat → Cls
  | 0 => .ctl | 1 => .vec | 2 => .mat | 3 => .ldr | 4 => .str | _ => .net

/-- A stream moved to (line, word) of a frame, where that is another place than the one at which it stands. -/
def Stream.moved (t : Stream) (p : Nat × Nat) (plane : Nat) : Stream :=
  { t.goto p.1 with word := p.2, reached := decide (p.2 ≠ 0), passed := true, plane := plane }

/-- The control stream at (CLINE, CWORD): with its transfer and its wait, where the frame still shows the place at which it
was stopped. -/
def Stream.resumeCtl (t : Stream) (c : Option CtlSave) (p : Nat × Nat) (plane : Nat) : Stream :=
  match c with
  | some v =>
    if v.shown = p then
      { t with mode := .running, skip := v.skip, line := v.line, word := v.word, plane := v.plane,
               reached := decide (v.word ≠ 0), passed := v.passed, waitLeft := v.waitLeft, xfer := v.xfer, again := v.again,
               token := v.token, held := v.held }
    else t.moved p plane
  | none => t.moved p plane

/-- The instruction at which the stream stands is re-issued for `n` row-sets, or from element `n` on (R172, R264). -/
def Stream.reissued (t : Stream) (n : Nat) : Stream := { t with xfer := none, again := some n }

/-- The lowest element that a re-issued VAMO performs (R387): [9:0] of SYS.TINFO, but where those name a tile (R383).
(DEDUCED, log 98) -/
def TrapRegs.element (r : TrapRegs) : Nat := if fieldNat r.tcause 56 8 = 5 then 0 else fieldNat r.tinfo 0 10

/-- The transfer that the trap stopped is to move the row-sets of SYS.TROWS, as long as its stream still stands at it (R172). -/
def Slot.withRows (x : Slot) : Slot :=
  let n := some x.trap.trows.toNat
  let f (t : Stream) : Stream := if t.again.isSome then { t with again := n } else t
  match x.trap.trow with
  | some .ctl =>
    { x with trap := { x.trap with ctl := x.trap.ctl.map (fun v => if v.again.isSome then { v with again := n } else v) } }
  | some .ldr => { x with ldr := f x.ldr }
  | some .str => { x with str := f x.str }
  | some .vec | some .mat | some .net | none => x

/-- The return of a trap: every stream resumes, the one whose transfer the trap stopped for the row-sets of SYS.TROWS. -/
def State.tret (s : State) (c k : Nat) (skip : Bool) : State :=
  let s := s.updSlot c k Slot.withRows
  let x := s.slot c k
  if x.trap.pend ≠ [] ∧ x.trap.en then s.takeHeld c k
  else
    let plane := (s.core c).activePlane
    let strm := clsOfCode (fieldNat x.trap.tcause 45 3)
    let async := x.trap.tcause.getLsbD 44
    let p := (fieldNat x.trap.tpc 16 16, fieldNat x.trap.tpc 0 4)
    let same := if strm = .ctl then x.trap.ctl.any (fun v => v.shown == x.trap.cplace) else s.shownAt (.strm c k strm) == p
    let back (t : Stream) : Stream :=
      let t := if strm = .ctl ∨ same then t else t.moved p plane
      let t := if strm = .vec then t.reissued x.trap.element else t
      { t with skip := skip }
    let y : Slot :=
      { x with ctl := x.ctl.resumeCtl x.trap.ctl x.trap.cplace plane,
               trap := { x.trap with intrap := false, ctl := none, trow := none } }
    s.setSlot c k (if async then y else y.setStrm strm (back (y.strm strm)))

end Sys2Proof.Machine
end

