-- ==== Sys2Proof/Machine/Operands.lean ====
section
/-! DEFINITION. Operand forms (R46 to R54): the value and the length that each way of writing an operand gives. -/

namespace Sys2Proof.Machine

/-- What a meaning answers. -/
abbrev Out := Host.Outcome State Fault Refusal

/-- Words of a long or a literal form (R45). -/
def formWords (lit : Bool) : Nat := if lit then 3 else 2

def srcLit : Src → Bool
  | .lit _ => true
  | .reg _ => false
def srcWords (b : Src) : Nat := formWords (srcLit b)
/-- Source b: the register, or the literal sign-extended (R49). -/
def State.src (s : State) (a : Agent) : Src → DWord
  | .reg r => s.reg a r
  | .lit w => w.signExtend 64
/-- Source b where the entry says zero-extended. -/
def State.srcZ (s : State) (a : Agent) : Src → DWord
  | .reg r => s.reg a r
  | .lit w => w.setWidth 64

def nsrcWords : NSrc → Nat
  | .imm _ => 2
  | .lit _ => 3
/-- A value that stands in B or in the literal, zero-extended. -/
def nsrcNat : NSrc → Nat
  | .imm n => n.toNat
  | .lit w => w.toNat

def offWords : Off → Nat
  | .off _ => 2
  | .lit _ => 3
/-- The offset of LD, ST and MARM: {C, B} sign-extended as R260 says, or the literal. -/
def offVal : Off → DWord
  | .off o => o.signExtend 64
  | .lit w => w.signExtend 64

def vimmWords : VImm → Nat
  | .imm _ => 2
  | .lit _ => 3

def cntWords : Cnt → Nat
  | .imm _ => 2
  | .reg _ => 2
/-- The count of QPUT and QGET (R183). -/
def State.cnt (s : State) (a : Agent) : Cnt → Nat
  | .imm n => n.toNat
  | .reg r => (s.reg a r).toNat

/-- The tile number of R207; `none` above 511. -/
def State.tileNo (s : State) (a : Agent) : TileRef → Option Nat
  | .imm n => some n.toNat
  | .reg r => if (s.reg a r).toNat ≤ 511 then some (s.reg a r).toNat else none

/-- The short forms' 5-bit fields name s0 to s31 and f0 to f31 (R52). -/
def wide5 (r : BitVec 5) : BitVec 6 := r.setWidth 6

/-- Offset and width of BFX and BFI (R100, R104). -/
def State.bfield (s : State) (a : Agent) : BField → Nat × Nat
  | .regs b c => ((s.reg a b).toNat, (s.reg a c).toNat)
  | .imm off wid => (off.toNat, wid.toNat)
  | .lit w => (fieldNat w 0 6, fieldNat w 6 6)
def bfieldWords : BField → Nat
  | .regs _ _ => 2
  | .imm _ _ => 2
  | .lit _ => 3

/-- The second operand of PLOG (R109). -/
def State.plogB (s : State) (a : Agent) : PlogB → Bool
  | .pred p => (s.strm a).pred p
  | .lit w => w.getLsbD 0
def plogWords : PlogB → Nat
  | .pred _ => 2
  | .lit _ => 3

/-- The slot of an issuing stream; a packet thread has none. -/
def State.own (s : State) : Agent → Slot
  | .strm c k _ => s.slot c k
  | .thread _ => Slot.reset
def State.updOwn (s : State) (a : Agent) (f : Slot → Slot) : State :=
  match a with
  | .strm c k _ => s.updSlot c k f
  | .thread _ => s
def agentCore : Agent → Nat
  | .strm c _ _ => c
  | .thread _ => 72
def agentSlot : Agent → Nat
  | .strm _ k _ => k
  | .thread _ => 0

/-- The predicate set read as a 16-bit value (R114): p0 reads 1. -/
def State.setPred (s : State) (a : Agent) (p : BitVec 4) (v : Bool) : State := s.updStrm a (·.setPred p v)

/-- The store of a result in sD and the move past the instruction. -/
def State.result (s : State) (a : Agent) (d : BitVec 6) (v : DWord) (n : Nat) : State := (s.setReg a d v).advance a n

end Sys2Proof.Machine
end

