-- ==== Sys2Proof/Machine/Flags.lean ====
section
/-! DEFINITION. Flag computations: the exception flag groups of SYS.FPSTAT (R73, R74), the conditions of CMP and VCMP
(R107, R144), minimum and maximum (R145). -/

namespace Sys2Proof.Machine

/-- Lowest bit of a stream's group in SYS.FPSTAT (R73). -/
def flagGroup : Cls → Nat
  | .vec => 0 | .mat => 5 | .ldr => 10 | .str => 15 | .ctl => 10 | .net => 10

/-- Flags are raised in a group. -/
def Slot.raiseFlags (x : Slot) (lo : Nat) (f : FFlags) : Slot :=
  x.raiseFp lo f

/-- The flush bits of SYS.FPCTL (R75). -/
def Slot.ftzVec (x : Slot) : Bool := x.regs.fpctl.getLsbD 0
def Slot.ftzMat (x : Slot) : Bool := x.regs.fpctl.getLsbD 1
def Slot.ftzLdr (x : Slot) : Bool := x.regs.fpctl.getLsbD 2
def Slot.ftzStr (x : Slot) : Bool := x.regs.fpctl.getLsbD 3

/-- CMP's condition (R107); decode refuses codes 8 to 31. -/
def cmpHolds (cond : BitVec 5) (a b : DWord) : Bool :=
  match cond.toNat with
  | 0 => a == b
  | 1 => a != b
  | 2 => a.slt b
  | 3 => b.sle a
  | 4 => a.ult b
  | 5 => b.ule a
  | 6 => a &&& b != 0
  | 7 => a &&& b == 0
  | _ => false

/-- Order of two floating-point values, no NaN among them: a zero equals a zero of either sign. -/
def fLess (f : Fmt) (a b : Nat) : Bool :=
  let key (x : Nat) : Int := if fSign f x then -(fAbs f x : Int) else (fAbs f x : Int)
  decide (key a < key b)
def fEqual (f : Fmt) (a b : Nat) : Bool := (isZero f a && isZero f b) || a == b

/-- VCMP on floating-point elements (R144); the operands after any flush of R76. -/
def fCmp (f : Fmt) (cond a b : Nat) : Bool × FFlags :=
  let nan := isNaN f a || isNaN f b
  let snan := isSNaN f a || isSNaN f b
  let quietFlag := if snan then ffIV else ffNone
  let anyFlag := if nan then ffIV else ffNone
  match cond with
  | 0 => (!nan && fEqual f a b, quietFlag)
  | 1 => (nan || !fEqual f a b, quietFlag)
  | 2 => (!nan && fLess f a b, anyFlag)
  | 3 => (!nan && (fLess f a b || fEqual f a b), anyFlag)
  | 4 => (!nan && fLess f b a, anyFlag)
  | 5 => (!nan && (fLess f b a || fEqual f a b), anyFlag)
  | 6 => (nan, quietFlag)
  | _ => (!nan, quietFlag)

/-- VCMP on integer elements, signed. -/
def iCmp (cond : Nat) (a b : Int) : Bool :=
  match cond with
  | 0 => a == b
  | 1 => a != b
  | 2 => decide (a < b)
  | 3 => decide (a ≤ b)
  | 4 => decide (b < a)
  | 5 => decide (b ≤ a)
  | _ => false

/-- minimum and maximum with −0 below +0, no NaN among the operands (R145). -/
def fMinOrd (f : Fmt) (a b : Nat) : Nat :=
  if isZero f a && isZero f b then (if fSign f a then a else b) else if fLess f b a then b else a
def fMaxOrd (f : Fmt) (a b : Nat) : Nat :=
  if isZero f a && isZero f b then (if fSign f a then b else a) else if fLess f a b then b else a

/-- VMIN and VMAX, VMINNUM and VMAXNUM on flushed operands (R145). -/
def minOp (f : Fmt) (isMax num : Bool) (a b : Nat) : Nat × FFlags :=
  let ord := if isMax then fMaxOrd f a b else fMinOrd f a b
  let iv := if isSNaN f a || isSNaN f b then ffIV else ffNone
  if num && (isNaN f a != isNaN f b) then (if isNaN f a then b else a, iv)
  else
    match pickNaN f [a, b] with
    | some r => r
    | none => (ord, ffNone)

end Sys2Proof.Machine
end

