-- ==== Sys2Proof/Machine/Scalar.lean ====
section
/-! DEFINITION. Class 000 and its short forms (R100 to R109, R59, R60): scalar arithmetic, logic, shifts, fields,
constants, comparisons and predicates. -/

namespace Sys2Proof.Machine

/-! ## The operations -/

def mulHigh (a b : DWord) : DWord := ((a.signExtend 128 * b.signExtend 128).extractLsb' 64 64)
def mulHighU (a b : DWord) : DWord := ((a.setWidth 128 * b.setWidth 128).extractLsb' 64 64)
/-- Truncated division with the borderline results of R102. -/
def divS (a b : DWord) : DWord := if b = 0 then BitVec.allOnes 64 else a.sdiv b
def divU (a b : DWord) : DWord := if b = 0 then BitVec.allOnes 64 else a / b
def remS (a b : DWord) : DWord := if b = 0 then a else a.srem b
def remU (a b : DWord) : DWord := if b = 0 then a else a % b
/-- Shifts by the whole unsigned count (R103). -/
def shlBy (a b : DWord) : DWord := if 64 ≤ b.toNat then 0 else a <<< b.toNat
def shrBy (a b : DWord) : DWord := if 64 ≤ b.toNat then 0 else a >>> b.toNat
def sraBy (a b : DWord) : DWord := a.sshiftRight (min b.toNat 63)
def rotlBy (a b : DWord) : DWord := rotl64 a b.toNat
def rotrBy (a b : DWord) : DWord := rotr64 a b.toNat
def leadZeros (a : DWord) : Nat := if a = 0 then 64 else 63 - a.toNat.log2
def trailZeros (a : DWord) : Nat := ((List.range 64).find? (fun i => a.getLsbD i)).getD 64
def popCount (a : DWord) : Nat := ((List.range 64).filter (fun i => a.getLsbD i)).length
def minS (a b : DWord) : DWord := if a.slt b then a else b
def maxS (a b : DWord) : DWord := if a.slt b then b else a
def minU (a b : DWord) : DWord := if a.ult b then a else b
def maxU (a b : DWord) : DWord := if a.ult b then b else a
/-- Bits that exist of a field (R104). -/
def fieldBits (off wid : Nat) : Nat := if wid ≠ 0 ∧ off < 64 then min wid (64 - off) else 0
def bfxOf (a : DWord) (off wid : Nat) : DWord := BitVec.ofNat 64 (a.toNat >>> (min off 64) % 2 ^ fieldBits off wid)
def bfiOf (old a : DWord) (off wid : Nat) : DWord :=
  let m : DWord := BitVec.ofNat 64 ((2 ^ fieldBits off wid - 1) * 2 ^ (min off 63))
  (old &&& ~~~m) ||| ((a <<< (min off 63)) &&& m)

/-! ## The frames -/

/-- Two sources, one result (R100). -/
def State.alu (s : State) (g : Guard) (d a : BitVec 6) (b : Src) (f : DWord → DWord → DWord) : Out :=
  s.guarded g (srcWords b) (fun s => s.result s.agent d (f (s.reg s.agent a) (s.src s.agent b)) (srcWords b))

/-- The short register form (R59). -/
def State.aluReg (s : State) (d a b : BitVec 5) (f : DWord → DWord → DWord) : Out :=
  s.short (fun s => s.result s.agent (wide5 d) (f (s.reg s.agent (wide5 a)) (s.reg s.agent (wide5 b))) 1)

/-- The short immediate form: imm14 sign-extended (R46). -/
def State.aluImm (s : State) (d a : BitVec 5) (i : BitVec 14) (f : DWord → DWord → DWord) : Out :=
  s.short (fun s => s.result s.agent (wide5 d) (f (s.reg s.agent (wide5 a)) (i.signExtend 64)) 1)

/-- One source. -/
def State.unary (s : State) (g : Guard) (d a : BitVec 6) (f : DWord → DWord) : Out :=
  s.guarded g 2 (fun s => s.result s.agent d (f (s.reg s.agent a)) 2)

/-! ## The instructions -/

/-- ADD (R101). -/
def execAdd (g : Guard) (d a : BitVec 6) (b : Src) (s : State) : Out := s.alu g d a b (· + ·)
/-- SUB (R101). -/
def execSub (g : Guard) (d a : BitVec 6) (b : Src) (s : State) : Out := s.alu g d a b (· - ·)
/-- MUL (R101). -/
def execMul (g : Guard) (d a : BitVec 6) (b : Src) (s : State) : Out := s.alu g d a b (· * ·)
/-- MULH (R101). -/
def execMulh (g : Guard) (d a : BitVec 6) (b : Src) (s : State) : Out := s.alu g d a b mulHigh
/-- MULHU (R101). -/
def execMulhu (g : Guard) (d a : BitVec 6) (b : Src) (s : State) : Out := s.alu g d a b mulHighU
/-- DIV (R102). -/
def execDiv (g : Guard) (d a : BitVec 6) (b : Src) (s : State) : Out := s.alu g d a b divS
/-- DIVU (R102). -/
def execDivu (g : Guard) (d a : BitVec 6) (b : Src) (s : State) : Out := s.alu g d a b divU
/-- REM (R102). -/
def execRem (g : Guard) (d a : BitVec 6) (b : Src) (s : State) : Out := s.alu g d a b remS
/-- REMU (R102). -/
def execRemu (g : Guard) (d a : BitVec 6) (b : Src) (s : State) : Out := s.alu g d a b remU
/-- AND (R101). -/
def execAnd (g : Guard) (d a : BitVec 6) (b : Src) (s : State) : Out := s.alu g d a b (· &&& ·)
/-- OR (R101). -/
def execOr (g : Guard) (d a : BitVec 6) (b : Src) (s : State) : Out := s.alu g d a b (· ||| ·)
/-- XOR (R101). -/
def execXor (g : Guard) (d a : BitVec 6) (b : Src) (s : State) : Out := s.alu g d a b (· ^^^ ·)
/-- ANDN (R101). -/
def execAndn (g : Guard) (d a : BitVec 6) (b : Src) (s : State) : Out := s.alu g d a b (fun x y => x &&& ~~~y)
/-- SHL (R103). -/
def execShl (g : Guard) (d a : BitVec 6) (b : Src) (s : State) : Out := s.alu g d a b shlBy
/-- SHR (R103). -/
def execShr (g : Guard) (d a : BitVec 6) (b : Src) (s : State) : Out := s.alu g d a b shrBy
/-- SRA (R103). -/
def execSra (g : Guard) (d a : BitVec 6) (b : Src) (s : State) : Out := s.alu g d a b sraBy
/-- ROTL (R103). -/
def execRotl (g : Guard) (d a : BitVec 6) (b : Src) (s : State) : Out := s.alu g d a b rotlBy
/-- ROTR (R103). -/
def execRotr (g : Guard) (d a : BitVec 6) (b : Src) (s : State) : Out := s.alu g d a b rotrBy
/-- MIN (R101). -/
def execMin (g : Guard) (d a : BitVec 6) (b : Src) (s : State) : Out := s.alu g d a b minS
/-- MAX (R101). -/
def execMax (g : Guard) (d a : BitVec 6) (b : Src) (s : State) : Out := s.alu g d a b maxS
/-- MINU (R101). -/
def execMinu (g : Guard) (d a : BitVec 6) (b : Src) (s : State) : Out := s.alu g d a b minU
/-- MAXU (R101). -/
def execMaxu (g : Guard) (d a : BitVec 6) (b : Src) (s : State) : Out := s.alu g d a b maxU

/-- ADD, short register form (R59). -/
def execAddShortReg (d a b : BitVec 5) (s : State) : Out := s.aluReg d a b (· + ·)
/-- SUB, short register form (R59). -/
def execSubShortReg (d a b : BitVec 5) (s : State) : Out := s.aluReg d a b (· - ·)
/-- MUL, short register form (R59). -/
def execMulShortReg (d a b : BitVec 5) (s : State) : Out := s.aluReg d a b (· * ·)
/-- AND, short register form (R59). -/
def execAndShortReg (d a b : BitVec 5) (s : State) : Out := s.aluReg d a b (· &&& ·)
/-- OR, short register form (R59). -/
def execOrShortReg (d a b : BitVec 5) (s : State) : Out := s.aluReg d a b (· ||| ·)
/-- XOR, short register form (R59). -/
def execXorShortReg (d a b : BitVec 5) (s : State) : Out := s.aluReg d a b (· ^^^ ·)
/-- SHL, short register form (R59). -/
def execShlShortReg (d a b : BitVec 5) (s : State) : Out := s.aluReg d a b shlBy
/-- SHR, short register form (R59). -/
def execShrShortReg (d a b : BitVec 5) (s : State) : Out := s.aluReg d a b shrBy
/-- SRA, short register form (R59). -/
def execSraShortReg (d a b : BitVec 5) (s : State) : Out := s.aluReg d a b sraBy
/-- MIN, short register form (R59). -/
def execMinShortReg (d a b : BitVec 5) (s : State) : Out := s.aluReg d a b minS
/-- MAX, short register form (R59). -/
def execMaxShortReg (d a b : BitVec 5) (s : State) : Out := s.aluReg d a b maxS
/-- ADD, short immediate form (R59). -/
def execAddShortImm (d a : BitVec 5) (i : BitVec 14) (s : State) : Out := s.aluImm d a i (· + ·)
/-- AND, short immediate form (R59). -/
def execAndShortImm (d a : BitVec 5) (i : BitVec 14) (s : State) : Out := s.aluImm d a i (· &&& ·)
/-- OR, short immediate form (R59). -/
def execOrShortImm (d a : BitVec 5) (i : BitVec 14) (s : State) : Out := s.aluImm d a i (· ||| ·)
/-- XOR, short immediate form (R59). -/
def execXorShortImm (d a : BitVec 5) (i : BitVec 14) (s : State) : Out := s.aluImm d a i (· ^^^ ·)
/-- SHL, short immediate form (R59). -/
def execShlShortImm (d a : BitVec 5) (i : BitVec 14) (s : State) : Out := s.aluImm d a i shlBy
/-- SHR, short immediate form (R59). -/
def execShrShortImm (d a : BitVec 5) (i : BitVec 14) (s : State) : Out := s.aluImm d a i shrBy
/-- SRA, short immediate form (R59). -/
def execSraShortImm (d a : BitVec 5) (i : BitVec 14) (s : State) : Out := s.aluImm d a i sraBy
/-- ADD sD, imm19 (R60): sD is also the source. -/
def execAddShortB (d : BitVec 5) (i : BitVec 19) (s : State) : Out :=
  s.short (fun s => s.result s.agent (wide5 d) (s.reg s.agent (wide5 d) + i.signExtend 64) 1)

/-- CLZ (R103). -/
def execClz (g : Guard) (d a : BitVec 6) (s : State) : Out := s.unary g d a (fun x => BitVec.ofNat 64 (leadZeros x))
/-- CTZ (R103). -/
def execCtz (g : Guard) (d a : BitVec 6) (s : State) : Out := s.unary g d a (fun x => BitVec.ofNat 64 (trailZeros x))
/-- POPC (R103). -/
def execPopc (g : Guard) (d a : BitVec 6) (s : State) : Out := s.unary g d a (fun x => BitVec.ofNat 64 (popCount x))

/-- BFX (R104). -/
def execBfx (g : Guard) (d a : BitVec 6) (f : BField) (s : State) : Out :=
  s.guarded g (bfieldWords f) (fun s =>
    let w := s.bfield s.agent f
    s.result s.agent d (bfxOf (s.reg s.agent a) w.1 w.2) (bfieldWords f))
/-- BFI (R104): sD is also read. -/
def execBfi (g : Guard) (d a : BitVec 6) (f : BField) (s : State) : Out :=
  s.guarded g (bfieldWords f) (fun s =>
    let w := s.bfield s.agent f
    s.result s.agent d (bfiOf (s.reg s.agent d) (s.reg s.agent a) w.1 w.2) (bfieldWords f))

/-- MOVI, MOVI.zx, MOVI.hi (R105). -/
def execMovi (g : Guard) (hi zx : Bool) (d : BitVec 6) (w : Word) (s : State) : Out :=
  s.guarded g 3 (fun s =>
    let v : DWord :=
      if hi then w ++ (s.reg s.agent d).extractLsb' 0 32
      else if zx then w.setWidth 64 else w.signExtend 64
    s.result s.agent d v 3)
/-- MOVI, short B form (R105). -/
def execMoviShort (d : BitVec 5) (i : BitVec 19) (s : State) : Out :=
  s.short (fun s => s.result s.agent (wide5 d) (i.signExtend 64) 1)

/-- LEA (R106). -/
def execLea (g : Guard) (sh : BitVec 3) (d a : BitVec 6) (b : Src) (s : State) : Out :=
  s.alu g d a b (fun x y => x + (y <<< sh.toNat))

/-- CMP (R107). -/
def execCmp (g : Guard) (cond : BitVec 5) (d : BitVec 4) (a : BitVec 6) (b : Src) (s : State) : Out :=
  s.guarded g (srcWords b) (fun s =>
    (s.setPred s.agent d (cmpHolds cond (s.reg s.agent a) (s.src s.agent b))).advance s.agent (srcWords b))

/-- SEL (R108). -/
def execSel (g : Guard) (pm : BitVec 4) (d a : BitVec 6) (b : Src) (s : State) : Out :=
  s.guarded g (srcWords b) (fun s =>
    s.result s.agent d (if (s.strm s.agent).pred pm then s.reg s.agent a else s.src s.agent b) (srcWords b))

/-- PLOG (R109). -/
def execPlog (g : Guard) (table : BitVec 4) (d a : BitVec 4) (b : PlogB) (s : State) : Out :=
  s.guarded g (plogWords b) (fun s =>
    let i := 2 * b2n ((s.strm s.agent).pred a) + b2n (s.plogB s.agent b)
    (s.setPred s.agent d (table.getLsbD i)).advance s.agent (plogWords b))

/-- NOP (R43): no issue, no beat, only the next word. -/
def execNop (s : State) : Out := .next (s.updStrm s.agent (fun t => { t with word := t.word + 1, skip := false }))

end Sys2Proof.Machine
end

