-- ==== Sys2Proof/Machine/Control.lean ====
section
/-! DEFINITION. Class 001 and its short forms (R110 to R119): branches, calls, hardware loops, completion flags, waits
and the halt of a stream. -/

namespace Sys2Proof.Machine

/-! ## Branches and calls -/

/-- The line that holds the present instruction. -/
def State.here (s : State) : Int := (s.strm s.agent).line

/-- BR, literal form (R111). -/
def execBr (g : Guard) (off : Word) (s : State) : Out :=
  s.guarded g 3 (fun s => s.branch s.agent (s.here + off.toInt))
/-- BR, short B form. -/
def execBrShort (i : BitVec 19) (s : State) : Out := s.short (fun s => s.branch s.agent (s.here + i.toInt))
/-- BRX (R111): the register, 0 where the stream has none, plus {C, B}. -/
def execBrx (g : Guard) (a : BitVec 6) (off : BitVec 18) (s : State) : Out :=
  s.guarded g 2 (fun s => s.branch s.agent ((s.reg s.agent a).toNat + off.toNat : Nat))

/-- The return line L + NEXT; all ones when NEXT is 0 (R112). (DEDUCED, log 23) -/
def State.returnLine (s : State) : DWord :=
  let n := s.nextOf s.agent
  if n = 0 then BitVec.allOnes 64 else BitVec.ofInt 64 (s.here + n)

/-- CALL, literal form (R112). -/
def execCall (g : Guard) (d : BitVec 6) (off : Word) (s : State) : Out :=
  s.guarded g 3 (fun s => (s.setReg s.agent d s.returnLine).branch s.agent (s.here + off.toInt))
/-- CALL, short B form. -/
def execCallShort (d : BitVec 5) (i : BitVec 19) (s : State) : Out :=
  s.short (fun s => (s.setReg s.agent (wide5 d) s.returnLine).branch s.agent (s.here + i.toInt))
/-- CALLX (R112): the target is computed before the link is written. -/
def execCallx (g : Guard) (d a : BitVec 6) (off : BitVec 18) (s : State) : Out :=
  s.guarded g 2 (fun s =>
    let l : Int := ((s.reg s.agent a).toNat + off.toNat : Nat)
    (s.setReg s.agent d s.returnLine).branch s.agent l)
/-- RET (R112). -/
def execRet (g : Guard) (a : BitVec 6) (s : State) : Out :=
  s.guarded g 2 (fun s => s.branch s.agent ((s.reg s.agent a).toNat : Nat))

/-! ## Hardware loops -/

/-- PR[15:8] set, PR[7:0] kept. -/
def Stream.stagePreds (t : Stream) (hi : BitVec 8) : Stream := { t with preds := hi ++ t.preds.extractLsb' 0 8 }

/-- LOOP (R114); a field A of its literal form other than 0 is illegal, sub-cause 5. (DESIGN CHOICE, log 99) -/
def execLoop (g : Guard) (s1 : BitVec 3) (n : Src) (s : State) : Out :=
  s.guarded g (srcWords n) (fun s =>
    let trips := min (s.srcZ s.agent n).toNat (2 ^ 32)
    let set (t : Stream) : Stream :=
      if trips = 0 then { (t.stagePreds 0) with lcnt := 0, ecnt := 1 }
      else { (t.stagePreds 1) with lcnt := BitVec.ofNat 32 (trips - 1), ecnt := BitVec.ofNat 4 (s1.toNat + 1) }
    (s.updStrm s.agent set).advance s.agent (srcWords n))

/-- A pass of BLOOP (R115): the loop state, whether the predicates rotate and with what fill, whether it is taken. -/
def Stream.bloop (t : Stream) : Stream × Bool × Bool :=
  let rot (t : Stream) (fill : BitVec 1) : Stream := t.stagePreds (t.preds.extractLsb' 8 7 ++ fill)
  if t.lcnt ≠ 0 then (rot { t with lcnt := t.lcnt - 1 } 1, true, true)
  else if 1 < t.ecnt.toNat then (rot { t with ecnt := t.ecnt - 1 } 0, true, true)
  else if t.ecnt = 1 then (rot { t with ecnt := 0 } 0, true, false)
  else (t, false, false)

/-- Fields of SYS.VRGN (R123). -/
def VecState.size (v : VecState) : Nat := fieldNat v.vrgn 42 11
def VecState.start (v : VecState) : Nat := fieldNat v.vrgn 32 10
def VecState.rot (v : VecState) : Nat := fieldNat v.vrgn 0 10
def VecState.setRegion (v : VecState) (size start rot : Nat) : VecState :=
  { v with vrgn := BitVec.ofNat 64 (size * 2 ^ 42 + start * 2 ^ 32 + rot) }
/-- base := (base − 1) mod size. -/
def VecState.turn (v : VecState) : VecState :=
  if v.size = 0 then v else v.setRegion v.size v.start ((v.rot + v.size - 1) % v.size)

def State.bloopTo (s : State) (a : Agent) (n : Nat) (l : Int) : State :=
  let (t, rot, taken) := (s.strm a).bloop
  let s := s.updStrm a (fun _ => t)
  let s := if rot && agentCls a == .vec then s.updOwn a (fun x => { x with v := x.v.turn }) else s
  if taken then s.branch a l else s.advance a n

/-- BLOOP, literal form (R115). -/
def execBloop (g : Guard) (off : Word) (s : State) : Out :=
  s.guarded g 3 (fun s => s.bloopTo s.agent 3 (s.here + off.toInt))
/-- BLOOP, short B form. -/
def execBloopShort (i : BitVec 19) (s : State) : Out := s.short (fun s => s.bloopTo s.agent 1 (s.here + i.toInt))

/-! ## Completion flags -/

/-- FWAIT's test (R117): on, or blocked. -/
def State.fwait (s : State) (f v n : Nat) : State :=
  if v ≤ ((s.own s.agent).flag f).toNat then s.advance s.agent n else s.block s.agent

/-- FWAIT, long and literal forms. -/
def execFwait (g : Guard) (f : BitVec 6) (lit : Bool) (v : BitVec 16) (s : State) : Out :=
  s.guarded g (formWords lit) (fun s => s.fwait f.toNat v.toNat (formWords lit))
/-- FWAIT, short B form. -/
def execFwaitShort (f : BitVec 5) (v : BitVec 16) (s : State) : Out := s.short (fun s => s.fwait f.toNat v.toNat 1)

/-- FSIG and FSET (R97, R98): the change is ordered after the results of earlier instructions. -/
def State.flagOp (s : State) (f : Nat) (set : Bool) (v : BitVec 16) (n : Nat) : State :=
  (s.updOwn s.agent (fun x => x.signal (agentCls s.agent) f set v)).advance s.agent n

/-- FSIG, long and literal forms (R117). -/
def execFsig (g : Guard) (f : BitVec 6) (lit : Bool) (v : BitVec 16) (s : State) : Out :=
  s.guarded g (formWords lit) (fun s => s.flagOp f.toNat false v (formWords lit))
/-- FSIG, short B form. -/
def execFsigShort (f : BitVec 5) (v : BitVec 16) (s : State) : Out := s.short (fun s => s.flagOp f.toNat false v 1)
/-- FSET (R117). -/
def execFset (g : Guard) (f : BitVec 6) (lit : Bool) (v : BitVec 16) (s : State) : Out :=
  s.guarded g (formWords lit) (fun s => s.flagOp f.toNat true v (formWords lit))
/-- FREAD (R117). -/
def execFread (g : Guard) (d f : BitVec 6) (s : State) : Out :=
  s.guarded g 2 (fun s => s.result s.agent d (((s.own s.agent).flag f.toNat).setWidth 64) 2)

/-! ## Waits and halts -/

/-- WAITB (R118): one wait beat a step. -/
def execWaitb (g : Guard) (lit : Bool) (n : BitVec 16) (s : State) : Out :=
  s.guarded g (formWords lit) (fun s =>
    let left := if (s.strm s.agent).waitLeft = 0 then n.toNat else (s.strm s.agent).waitLeft
    if left ≤ 1 then s.advance s.agent (formWords lit)
    else (s.updStrm s.agent (fun t => { t with mode := .running, waitLeft := left - 1 })).issued s.agent)

/-- A halted vector stream's results in flight are written (R130); a faulting one becomes the deferred fault. -/
def Slot.drained (x : Slot) : Slot := x.flushResults.holdDue

/-- Flags signalled by 1, at once (R97). -/
def Slot.signalAll (x : Slot) (fs : List Nat) : Slot := fs.foldl (fun y f => y.addFlag f 1) x

/-- The signals that a draining vector stream still owes at its halt. -/
def Stream.owedSigs (t : Stream) : List Nat :=
  match t.mode with
  | .draining fs => fs
  | .halted | .running | .blocked => []

/-- The halt of a stream, with flags that it signals when it has halted (R119, R130, R182): a vector stream that still
awaits replies drains first. -/
def Slot.haltStream (x : Slot) (cls : Cls) (fs : List Nat) : Slot :=
  let fs := (x.strm cls).owedSigs ++ fs
  let stop (x : Slot) : Slot := x.setStrm cls { (x.strm cls).done with mode := .halted }
  if cls = .vec ∧ x.v.inflight.any (fun r => !r.arrived) then
    x.setStrm cls { (x.strm cls).done with mode := .draining fs }
  else if cls = .vec then (stop x.drained).signalAll fs
  else (stop x).signalAll fs

/-- SHALT's halt: its signal has the timing of R98, so that one of the matrix stream waits for its operations. -/
def Slot.shalt (x : Slot) (cls : Cls) (f : Option Nat) : Slot :=
  match cls, f with
  | .mat, some f => (x.haltStream .mat []).signal .mat f false 1
  | _, f => x.haltStream cls f.toList

/-- SHALT (R119): its own issue-beat, then the halt. -/
def execShalt (g : Guard) (f : Option (BitVec 6)) (s : State) : Out :=
  s.guarded g 2 (fun s => (s.advance s.agent 2).updOwn s.agent (fun x => x.shalt (agentCls s.agent) (f.map (·.toNat))))

end Sys2Proof.Machine
end

