-- ==== Sys2Proof/Machine/Units.lean ====
section
/-! DEFINITION. Ownership of a core's vector and matrix units (R132 to R137, R217): requests, drain points, passes. -/

namespace Sys2Proof.Machine

/-! ## What a slot's matrix operations need -/

/-- Not yet complete and not ended by a stop of cause 10 or 11: waiting, running, or stopped with CAUSE 01. -/
def OpStat.live : OpStat → Bool
  | .waiting | .running => true
  | .stopped c => c == 1

def ComputeOp.live (o : ComputeOp) : Bool := o.stat.live
def ReadOp.live (o : ReadOp) : Bool := o.stat.live

/-- An operation on one of the slot's paths, or for one of them, that still has to complete. -/
def MatState.opsBusy (m : MatState) : Bool :=
  m.cop.any ComputeOp.live || m.rop.any ReadOp.live || m.clr.isSome || !m.followOns.isEmpty ||
    m.share.any ComputeOp.live || m.shareR.any ReadOp.live

/-- An operation of the slot, a ganged read-out with all its parts, that still has to complete (R36, R233). -/
def MatState.busy (m : MatState) : Bool := m.opsBusy || m.gread.isSome

/-- A ganged operation pending, a follow-on MMG among them (R280), or stopped by a pass (R217). -/
def MatState.gangBusy (m : MatState) : Bool :=
  m.followOns.any (fun f => f.mmg) || m.cop.any (fun o => o.live && o.kind == .mmg) || m.rop.any (fun o => o.live && o.gang) ||
    m.share.any ComputeOp.live || m.shareR.any ReadOp.live

/-- The slot wants the units (R132, R217, R36); while INTRAP is 1 its streams count as halted (R379). -/
def Slot.wants (x : Slot) : Bool :=
  (x.phase == .running &&
    ((!x.trap.intrap && (x.vec.mode == .running || x.mat.mode == .running)) || x.m.gangBusy)) ||
  (x.phase == .retiring && x.m.opsBusy)

def Core.owns (x : Core) (k : Nat) : Bool := x.units.valid && x.units.owner == k
def Core.requests (x : Core) (k : Nat) : Bool := !x.owns k && (x.slot k).wants

def Slot.gleaning (x : Slot) : Bool :=
  match x.piece with
  | some p => p.kind == .gleaning
  | none => false

/-- Requesting slots bound to a normal piece, and those bound to a gleaning one. -/
def Core.normalAsks (x : Core) : List Nat := (List.range 4).filter (fun k => x.requests k && !(x.slot k).gleaning)
def Core.gleanAsks (x : Core) : List Nat := (List.range 4).filter (fun k => x.requests k && (x.slot k).gleaning)

/-- The slot that a grant goes to (R134): owner + 1 first, from slot 0 while none has held the units. -/
def Core.grantee (x : Core) : Option Nat :=
  let from0 := if x.units.ever then x.units.owner + 1 else 0
  let order := (List.range 4).map (fun i => (from0 + i) % 4)
  match order.find? (fun k => x.normalAsks.contains k) with
  | some k => some k
  | none => order.find? (fun k => x.gleanAsks.contains k)

def Core.ownerSlot (x : Core) : Slot := x.slot x.units.owner

/-- No result of the owner's vector stream is in flight (R133); one in the landing buffer counts as in flight. (DESIGN CHOICE,
log 111) -/
def Core.drained (x : Core) : Bool := x.ownerSlot.v.inflight.isEmpty

/-- The four conditions of R134, at core cycle `now`. (DEDUCED, log 34) -/
def Core.idle64 (x : Core) (now : Nat) : Bool :=
  decide (x.units.lastIssue + 64 ≤ now) &&
    (!x.ownerSlot.m.opsBusy || decide (x.ownerSlot.m.lastAdvance + 64 ≤ now))
def Core.held4096 (x : Core) (now : Nat) : Bool := decide (x.units.since + 4096 ≤ now) && !x.normalAsks.isEmpty
def Core.displaced (x : Core) : Bool := x.ownerSlot.gleaning && !x.normalAsks.isEmpty
/-- The offer of a completed VYIELD, while another slot requests (R137). -/
def Core.offered (x : Core) : Bool := x.units.offer && (!x.normalAsks.isEmpty || !x.gleanAsks.isEmpty)

/-- One of the four conditions holds. -/
def Core.passCond (x : Core) (now : Nat) : Bool := x.offered || x.displaced || x.held4096 now || x.idle64 now

/-- The units are due to pass: the owner stands at a drain point, another slot requests, and R134 lets them go; or they are
free and a slot requests them. -/
def Core.passDue (x : Core) (now : Nat) : Bool :=
  x.frz.since.isNone && x.grantee.isSome && (!x.units.valid || (x.drained && x.passCond now))

/-! ## Stops and resumptions at a pass -/

/-- Every slot that takes part in the ganged operations of a slot: the members of its piece's gang. -/
def State.gangOf (s : State) (c k : Nat) : List (Nat × Nat) :=
  match (s.slot c k).piece with
  | some p => match p.gang with | some g => g.slots | none => []
  | none => []

/-- The slot still holds a member of the gang of those slots: another piece binds to the slot of a member that has retired. -/
def Slot.inGang (x : Slot) (gs : List (Nat × Nat)) : Bool := (x.piece.bind (·.gang)).map (·.slots) == some gs

/-- The members of the piece's gang that have not retired. -/
def State.membersOf (s : State) (c k : Nat) : List (Nat × Nat) :=
  let gs := s.gangOf c k
  gs.filter (fun (d, j) => (s.slot d j).inGang gs)

def MatState.mapCop (m : MatState) (f : ComputeOp → ComputeOp) : MatState := { m with cop := m.cop.map f }
def MatState.mapRop (m : MatState) (f : ReadOp → ReadOp) : MatState := { m with rop := m.rop.map f }
def Slot.mapCop (x : Slot) (f : ComputeOp → ComputeOp) : Slot := { x with m := x.m.mapCop f }
def Slot.mapRop (x : Slot) (f : ReadOp → ReadOp) : Slot := { x with m := x.m.mapRop f }
/-- A change of status in the ganged products of some slots. -/
def State.setGangStat (s : State) (ms : List (Nat × Nat)) (f : OpStat → OpStat) : State :=
  ms.foldl (fun s (d, j) => s.updSlot d j (fun x => x.mapCop (fun (o : ComputeOp) =>
    if o.kind = CKind.mmg then { o with stat := f o.stat } else o))) s

/-- The slot's share of a ganged product is running. -/
def Slot.gangRuns (x : Slot) : Bool :=
  match x.m.cop with
  | some o => o.kind == CKind.mmg && o.stat == OpStat.running
  | none => false

/-- The slot loses the units: its operations stop with CAUSE 01, a ganged product on every member (R228, R235). -/
def State.stopOps1 (s : State) (c k : Nat) : State :=
  let ms : List (Nat × Nat) := if (s.slot c k).gangRuns then s.membersOf c k else []
  (s.updSlot c k (fun x => { x with m := x.m.stop1 })).setGangStat ms OpStat.stop1

def OpStat.go1 : OpStat → OpStat
  | .stopped 1 => .running
  | o => o

/-- Operations stopped with CAUSE 01 go on now that the slot owns the units; a ganged product once every member's
slot does (R228, R235). -/
def State.resumeOps (s : State) (c k : Nat) : State :=
  let gs := s.membersOf c k
  let all := gs.all (fun (d, j) => (s.core d).owns j && (s.slot d j).phase != .free)
  let s := s.updSlot c k (fun x =>
    (x.mapCop (fun (o : ComputeOp) => if o.kind = CKind.mmg then o else { o with stat := o.stat.go1 })).mapRop
      (fun (o : ReadOp) => { o with stat := o.stat.go1 }))
  if all then s.setGangStat gs OpStat.go1 else s

/-- The grant to a requesting slot (R134): the new owner may first issue four core cycles later. -/
def State.grant (s : State) (c k : Nat) : State :=
  (s.updCore c (fun x => { x with units :=
    { valid := true, owner := k, ever := true, since := s.cycle, lastIssue := s.cycle + 4, offer := false,
      askedAt := none } })).resumeOps c k

/-- The units pass, when a slot requests them and they are free or the owner stands at a drain point under `cond`. -/
def State.passUnits (s : State) (c : Nat) (cond : Core → Bool) : State :=
  let x := s.core c
  if x.frz.since.isSome then s
  else
    match x.grantee with
    | none => s
    | some k =>
      if !x.units.valid then s.grant c k
      else if x.drained && cond x then (s.stopOps1 c x.units.owner).grant c k
      else s

/-- SYS.VUNIT (R136); HELD is 0 while VALID is 0. (DESIGN CHOICE, log 112) -/
def Core.vunit (x : Core) (now : Nat) : DWord :=
  let held := if x.units.valid then min (now - x.units.since) 0xFFFF else 0
  let req := ((List.range 4).filter x.requests).foldl (fun n k => n + 2 ^ k) 0
  BitVec.ofNat 64 (held * 2 ^ 32 + req * 2 ^ 8 + b2n x.units.valid * 16 + x.units.owner % 4)

end Sys2Proof.Machine
end

