-- ==== Sys2Proof/Machine/Clock.lean ====
section
/-! DEFINITION. Die states and clock enables (R429, R436), freezes of a core (R388), and what the passing of time does to
the counts of cycles that a core holds (R31, R134, R135, R390). -/

namespace Sys2Proof.Machine

/-! ## Die states (R429) -/

def State.dstate (s : State) (d : Nat) : Nat := Tbl.get s.cryo.mstate s.cryo.dstate d
def State.band (s : State) (d : Nat) : Nat := Tbl.get 0 s.cryo.band d

/-- Cold running or excursion: binding and placement go on. -/
def State.dieRuns (s : State) (d : Nat) : Bool := s.dstate d == 2 || s.dstate d == 3
/-- The die counts as in retreat for R313, R320, R321. -/
def State.retreats (s : State) (d : Nat) : Bool := !s.dieRuns d

/-- Clock-enable cap of a die. -/
def State.dieCap (s : State) (d : Nat) : Nat :=
  match s.dstate d with
  | 2 | 3 => 256
  | 4 => if s.band d ≤ 3 then 256 else if s.band d = 4 then 128 else 0
  | _ => 0

/-- A die's clock-enable duty (R435). -/
def State.duty (s : State) (d : Nat) : Nat := min s.power.duty (s.dieCap d)

/-- The clock enable in core cycle `k` under duty `d` (R436). -/
def enabled (k d : Nat) : Bool := decide (k * d % 256 < d)
/-- Enabled cycles among the first `k`. -/
def enabledBefore (k d : Nat) : Nat := (k * d + 255) / 256

/-- The core takes part in core cycle `k`: its clock is enabled and it is not frozen; and in the present one. -/
def State.clockAt (s : State) (c k : Nat) : Bool := enabled k (s.duty (dieOf c)) && (s.core c).frz.since.isNone
def State.clockOn (s : State) (c : Nat) : Bool := s.clockAt c s.cycle

/-! ## Counts of cycles -/

/-- `n` frozen cycles are no part of what R31, R134, R135 and SYS.VUNIT.HELD count; R318 counts them. -/
def Core.skipCycles (x : Core) (n : Nat) : Core :=
  let u := x.units
  { x with units := { u with since := u.since + n, lastIssue := u.lastIssue + n, askedAt := u.askedAt.map (· + n) },
           slots := x.slots.map (fun (k, y) =>
             (k, { y with gleanSince := y.gleanSince.map (· + n), m := { y.m with lastAdvance := y.m.lastAdvance + n } })) }

/-- Since when a normal slot requests of a gleaning owner (R135). -/
def Core.markAsked (x : Core) (now : Nat) : Core :=
  let asks := x.units.valid && x.displaced
  { x with units := { x.units with askedAt := if asks then some (x.units.askedAt.getD now) else none } }

/-- A gleaning piece's wait counts from the cycle in which a normal task first waits (R31), and its pre-emption is
requested (R391). (DEDUCED, log 35) -/
def Slot.markGlean (x : Slot) (waits : Bool) (now : Nat) : Slot :=
  if waits && x.gleaning && x.phase == .running then
    { x with gleanSince := some (x.gleanSince.getD now),
             regs := { x.regs with req := if x.regs.req = 0 then 1 else x.regs.req } }
  else { x with gleanSince := none }

/-! ## Freezes (R388, R390) -/

/-- A freeze begins (COUNT of SYS.FRZ). -/
def Core.freeze (x : Core) (now : Nat) : Core :=
  if x.frz.since.isSome then x else { x with frz := { x.frz with since := some now, count := x.frz.count + 1 } }

/-- The freeze ends: LAST of SYS.FRZ. (DEDUCED, log 26) -/
def Core.thaw (x : Core) (now : Nat) : Core :=
  match x.frz.since with
  | none => x
  | some b => { x with frz := { x.frz with since := none, last := BitVec.ofNat 32 (min (now - b) (2 ^ 32 - 1)) } }

/-! ## The end of a core cycle -/

/-- What the changes of one core cycle become at its end: flags take their values (R97), and every access sees the tiles
as they now stand (R197). -/
def Core.newCycle (x : Core) : Core :=
  { x with tilesWas := [], slots := x.slots.map (fun (k, y) => (k, y.newCycle)) }

/-- The same of a saved piece's record (R396). -/
def Part.newCycle (x : Part) : Part :=
  { x with recs := x.recs.map (fun (i, y) => (i, { y with slot := y.slot.newCycle })) }

end Sys2Proof.Machine
end

