-- ==== Sys2Proof/Machine/Vector.lean ====
section
/-! DEFINITION. Class 010 and its short forms (R138 to R145): element-wise instructions of the vector stream, with
their operands from registers, queues and literals, and the issue of a result with its latency (R123 to R129). -/

namespace Sys2Proof.Machine

/-! ## Names and elements -/

/-- The physical register of a logical one (R124). -/
def VecState.phys (v : VecState) (l : Nat) : Nat :=
  if v.size ≠ 0 ∧ v.start ≤ l ∧ l < v.start + v.size then v.start + (l - v.start + v.rot) % v.size else l

/-- A logical register read. -/
def VecState.log (v : VecState) (l : Nat) : RowSet := v.reg (v.phys (l % 1024))

/-- WBASE of the short forms (R54). -/
def VecState.wbase (v : VecState) (n : BitVec 5) : BitVec 10 :=
  BitVec.ofNat 10 ((if v.size = 0 then 0 else v.start) + n.toNat)

def vWide : VType → Bool
  | .fp32 | .int32 => true
  | .bf16 | .int16 => false
def vInt : VType → Bool
  | .int16 | .int32 => true
  | .bf16 | .fp32 => false
def vBits (ty : VType) : Nat := if vWide ty then 32 else 16

/-- Elements of one register or of a pair, the odd register holding the upper halves (R120). -/
def elems1 (x : RowSet) : List Nat := rowCells x
def elems2 (lo hi : RowSet) : List Nat := (rowCells lo).zipWith (fun a b => a + b <<< 16) (rowCells hi)
def VecState.elems (v : VecState) (wide : Bool) (r : Nat) : List Nat :=
  if wide then elems2 (v.log r) (v.log (r + 1)) else elems1 (v.log r)

/-- The registers that hold a list of elements. -/
def lowHalf (xs : List Nat) : RowSet := rowOfCells (xs.map (· % 65536))
def highHalf (xs : List Nat) : RowSet := rowOfCells (xs.map (· >>> 16))
def VecState.dest (v : VecState) (wide : Bool) (d : Nat) (xs : List Nat) : List (Nat × RowSet) :=
  if wide then [(v.phys (d % 1024), lowHalf xs), (v.phys ((d + 1) % 1024), highHalf xs)]
  else [(v.phys (d % 1024), lowHalf xs)]

/-! ## Issue of a result (R127) -/

/-- The result of the instruction being issued joins those in flight. -/
def Slot.issue (x : Slot) (lat : Nat) (dest : VDest) (lanes : Mask) (flags : FFlags) : Slot :=
  let r : InFlight :=
    { ix := x.v.nextIx, due := x.v.beat + lat, issued := x.v.beat, line := x.vec.line, word := x.vec.word,
      dest := dest, lanes := lanes, flags := flags, arrived := true, fault := none, addr := 0, elem := none, landing := false }
  { x with v := { x.v with nextIx := x.v.nextIx + 1, inflight := x.v.inflight ++ [r] } }

/-! ## Queue sources (R138, R166, R167) -/

/-- The queue serves the vector stream as consumer. -/
def Queue.popBy (q : Queue) (cons : Nat) : Bool := q.en && fieldNat q.cfg 3 2 == cons
def Queue.putBy (q : Queue) (prod : Nat) : Bool := q.en && fieldNat q.cfg 1 2 == prod
/-- Entries that a pop finds: none that the same core cycle has put (R167). -/
def Queue.ready (q : Queue) : Nat := q.entries.length - q.puts
/-- Room that a put finds: none that a pop of the same core cycle has made. -/
def Queue.room (q : Queue) : Nat := 16 - (q.entries.length + q.pops)
/-- The head entry leaves. -/
def Queue.pop (q : Queue) : Queue := { q with head := (q.head + 1) % 16, entries := q.entries.drop 1, pops := q.pops + 1 }
def Slot.setQueue (x : Slot) (n : Nat) (q : Queue) : Slot := { x with queues := Tbl.set x.queues n q }
def Slot.popQ (x : Slot) (n k : Nat) : Slot :=
  match k with
  | 0 => x
  | j + 1 => Slot.popQ (x.setQueue n (x.queue n).pop) n j
def Slot.headRows (x : Slot) (n i : Nat) : RowSet :=
  match (x.queue n).entries[i]? with
  | some e => e.rows
  | none => 0

/-- A queue source: port and row-sets; none for a register or a literal. -/
def qOfA (wide : Bool) : VSrcA → Option (Nat × Nat)
  | .reg _ => none
  | .queue q => some (q.toNat, if wide then 2 else 1)
def qOfB (wide : Bool) : VSrcB → Option (Nat × Nat)
  | .reg _ => none
  | .queue q => some (q.toNat, if wide then 2 else 1)
  | .lit _ => none

/-- What the queue sources of an instruction allow. -/
inductive QSay where
  | go | wait | bad
  deriving DecidableEq, Repr

def Slot.qSay (x : Slot) (needs : List (Nat × Nat)) (cons : Nat) : QSay :=
  if needs.any (fun (q, _) => !(x.queue q).popBy cons) then .bad
  else if needs.all (fun (q, _) =>
      decide ((needs.filter (fun (r, _) => r == q)).foldl (fun n (_, k) => n + k) 0 ≤ (x.queue q).ready)) then .go
  else .wait

/-- The elements of source a, and the slot after its pop. -/
def Slot.srcA (x : Slot) (wide : Bool) : VSrcA → List Nat × Slot
  | .reg r => (x.v.elems wide r.toNat, x)
  | .queue q =>
    if wide then (elems2 (x.headRows q.toNat 0) (x.headRows q.toNat 1), x.popQ q.toNat 2)
    else (elems1 (x.headRows q.toNat 0), x.popQ q.toNat 1)

/-- The literal as one element (R49). -/
def litElem (wide : Bool) (w : Word) : Nat := if wide then w.toNat else w.toNat % 65536

def Slot.srcB (x : Slot) (wide : Bool) : VSrcB → List Nat × Slot
  | .reg r => (x.v.elems wide r.toNat, x)
  | .queue q =>
    if wide then (elems2 (x.headRows q.toNat 0) (x.headRows q.toNat 1), x.popQ q.toNat 2)
    else (elems1 (x.headRows q.toNat 0), x.popQ q.toNat 1)
  | .lit w => (List.replicate 1024 (litElem wide w), x)

/-! ## Stochastic rounding (R82) -/

def Slot.desc (x : Slot) (n : Nat) : Desc := Tbl.get Desc.reset x.descs n
def Desc.key (d : Desc) : DWord := d.dw.extractLsb' 448 64
def Desc.tensor (d : Desc) : BitVec 16 := d.dw.extractLsb' 416 16

/-- The random bits of the element at (row, col) of the destination; 0 where the mode takes none. -/
def Slot.srAt (x : Slot) (round : BitVec 3) (row col : Nat) : Nat :=
  if round = 4 then
    let d := x.desc (fieldNat x.regs.srctx 48 5)
    srBits d.key d.tensor (x.regs.srctx.extractLsb' 32 16)
      (BitVec.ofNat 32 (fieldNat x.regs.srbase 32 32 + row)) (BitVec.ofNat 32 (fieldNat x.regs.srbase 0 32 + col))
  else 0

/-! ## The common frame of class 010 (R139) -/

/-- Numbered elements through an operation, the lanes that the mask leaves out untouched and without flags. -/
def laneMap (lanes : List Bool) (es : List (Nat × Nat × Nat × Nat)) (op : Nat → Nat → Nat → Nat → Nat × FFlags) :
    List Nat × FFlags :=
  let rs := (lanes.zip es).map (fun (l, e, a, b, c) => if l then op e a b c else (0, ffNone))
  (rs.map (·.1), rs.foldl (fun f r => f ||| r.2) ffNone)

def zip3 (a b c : List Nat) : List (Nat × Nat × Nat × Nat) := (List.range 1024).zip (a.zip (b.zip c))

def vsrcBWords : VSrcB → Nat
  | .reg _ => 2
  | .queue _ => 2
  | .lit _ => 3

/-- An element-wise instruction: `op` takes the element's index and a, b, c; `z` says that the addend is read; `k` is
the destination mask of VCMP. -/
def State.velem (s : State) (x : VArgs) (lat16 lat32 : Nat) (z : Bool) (k : Option Nat)
    (op : Slot → Nat → Nat → Nat → Nat → Nat × FFlags) : Out :=
  s.guarded x.g (vsrcBWords x.b) (fun s =>
    let a := s.agent
    let me := (s.own a).seen
    let wide := vWide x.ty
    match me.qSay ((qOfA wide x.a).toList ++ (qOfB wide x.b).toList) 3 with
    | .bad => s.raise a (Exc.of 3 3)
    | .wait => s.block a
    | .go =>
      let (xs, y) := me.srcA wide x.a
      let (ys, y) := y.srcB wide x.b
      let zs := if z then me.v.elems wide (x.d.toNat + 1024 + x.c.toInt.toNat - (-x.c.toInt).toNat) else []
      let mask := me.v.mask x.mask.toNat
      let (rs, fl) := laneMap (maskLanes mask) (zip3 xs ys (if z then zs else List.replicate 1024 0)) (op me)
      let lat := if wide then lat32 else lat16
      let dest : VDest :=
        match k with
        | some n => .mask n (maskOfLanes (rs.map (· == 1)))
        | none => .regs (me.v.dest wide x.d.toNat rs)
      (s.updOwn a (fun z => Slot.issue { y with v := z.v } lat dest mask fl)).advance a (vsrcBWords x.b))

/-! ## Element operations -/

def fmtOf (ty : VType) : Fmt := if vWide ty then .fp32 else .bf16

/-- The exact integer result brought to the type's width: wrap-around or saturation (R143). -/
def intRed (n : Nat) (sat : Bool) (x : Int) : Nat := if sat then low n (satS n x) else low n x

/-- An operation that rounds on floating-point types and is exact on integer ones. -/
def arith (x : VArgs) (fp : Fmt → Nat → Nat → Nat → Rm → Nat → Bool → Nat × FFlags) (int : Int → Int → Int → Int)
    (me : Slot) (e a b c : Nat) : Nat × FFlags :=
  if vInt x.ty then
    let n := vBits x.ty
    (intRed n (x.round == 1) (int (sext n a) (sext n b) (sext n c)), ffNone)
  else
    let f := fmtOf x.ty
    let fl (v : Nat) := flush f me.ftzVec v
    fp f (fl a) (fl b) (fl c) (Rm.ofCode x.round.toNat) (me.srAt x.round (e / 64) (e % 64)) me.ftzVec

/-- An operation on the bits of the elements, no flag. -/
def bitwise (f : Nat → Nat → Nat) (_ : Slot) (_ a b _ : Nat) : Nat × FFlags := (f a b, ffNone)

/-- Minimum and maximum (R145), signed on integers. -/
def minMax (x : VArgs) (isMax num : Bool) (me : Slot) (_ a b _ : Nat) : Nat × FFlags :=
  if vInt x.ty then
    let n := vBits x.ty
    let less := decide (sext n a < sext n b)
    (if less = isMax then b else a, ffNone)
  else
    let f := fmtOf x.ty
    minOp f isMax num (flush f me.ftzVec a) (flush f me.ftzVec b)

/-- Shifts by an unsigned n-bit count (R143). -/
def shiftOp (x : VArgs) (kind : Nat) (a b : Nat) : Nat :=
  let n := vBits x.ty
  match kind with
  | 0 => if n ≤ b then 0 else low n ((a : Int) * 2 ^ b)
  | 1 => if n ≤ b then 0 else a >>> b
  | _ => low n (sext n a / 2 ^ (min b (n - 1)))

/-- |a| and −a: the sign bit on floating-point types, exact on integers (R141, R143). -/
def absOp (x : VArgs) (me : Slot) (e a b c : Nat) : Nat × FFlags :=
  if vInt x.ty then arith x (fun _ _ _ _ _ _ _ => (0, ffNone)) (fun a _ _ => if a < 0 then -a else a) me e a b c
  else (fAbs (fmtOf x.ty) a, ffNone)
def negElem (x : VArgs) (me : Slot) (e a b c : Nat) : Nat × FFlags :=
  if vInt x.ty then arith x (fun _ _ _ _ _ _ _ => (0, ffNone)) (fun a _ _ => -a) me e a b c
  else (a ^^^ 2 ^ (vBits x.ty - 1), ffNone)

/-- VCMP (R144): 1 or 0 as the mask bit. -/
def cmpElem (x : VArgs) (me : Slot) (_ a b _ : Nat) : Nat × FFlags :=
  let cond := x.c.toNat
  if vInt x.ty then
    let n := vBits x.ty
    (b2n (iCmp cond (sext n a) (sext n b)), ffNone)
  else
    let f := fmtOf x.ty
    let (r, fl) := fCmp f cond (flush f me.ftzVec a) (flush f me.ftzVec b)
    (b2n r, fl)

def addE (x : VArgs) := arith x (fun f a b _ m sr z => addOp f a b m sr z) (fun a b _ => a + b)
def subE (x : VArgs) := arith x (fun f a b _ m sr z => addOp f a (negOp f b) m sr z) (fun a b _ => a - b)
def mulE (x : VArgs) := arith x (fun f a b _ m sr z => mulOp f a b m sr z) (fun a b _ => a * b)
def fmaE (x : VArgs) := arith x (fun f a b c m sr z => fmaOp f a b c m sr z) (fun a b c => a * b + c)
def fmsE (x : VArgs) := arith x (fun f a b c m sr z => fmaOp f a b (negOp f c) m sr z) (fun a b c => a * b - c)
def fnmaE (x : VArgs) := arith x (fun f a b c m sr z => fmaOp f (negOp f a) b c m sr z) (fun a b c => -(a * b) + c)
def divE (x : VArgs) := arith x (fun f a b _ m sr z => divOp f a b m sr z) (fun a _ _ => a)
def sqrtE (x : VArgs) := arith x (fun f a _ _ m sr z => sqrtOp f a m sr z) (fun a _ _ => a)

/-! ## The instructions -/

/-- VADD (R140, R141, R143). -/
def execVadd (x : VArgs) (s : State) : Out := s.velem x 3 4 false none (addE x)
/-- VSUB (R140). -/
def execVsub (x : VArgs) (s : State) : Out := s.velem x 3 4 false none (subE x)
/-- VMUL (R140). -/
def execVmul (x : VArgs) (s : State) : Out := s.velem x 4 5 false none (mulE x)
/-- FMA (R84, R138, R140). -/
def execFma (x : VArgs) (s : State) : Out := s.velem x 4 6 true none (fmaE x)
/-- FMS (R84, R140). -/
def execFms (x : VArgs) (s : State) : Out := s.velem x 4 6 true none (fmsE x)
/-- FNMA (R84, R140). -/
def execFnma (x : VArgs) (s : State) : Out := s.velem x 4 6 true none (fnmaE x)
/-- VMIN (R145). -/
def execVmin (x : VArgs) (s : State) : Out := s.velem x 2 3 false none (minMax x false false)
/-- VMAX (R145). -/
def execVmax (x : VArgs) (s : State) : Out := s.velem x 2 3 false none (minMax x true false)
/-- VMINNUM (R145). -/
def execVminnum (x : VArgs) (s : State) : Out := s.velem x 2 3 false none (minMax x false true)
/-- VMAXNUM (R145). -/
def execVmaxnum (x : VArgs) (s : State) : Out := s.velem x 2 3 false none (minMax x true true)
/-- VABS (R141, R143). -/
def execVabs (x : VArgs) (s : State) : Out := s.velem x 1 2 false none (absOp x)
/-- VNEG (R141, R143). -/
def execVneg (x : VArgs) (s : State) : Out := s.velem x 1 2 false none (negElem x)
/-- VAND (R140). -/
def execVand (x : VArgs) (s : State) : Out := s.velem x 1 2 false none (bitwise (· &&& ·))
/-- VOR (R140). -/
def execVor (x : VArgs) (s : State) : Out := s.velem x 1 2 false none (bitwise (· ||| ·))
/-- VXOR (R140). -/
def execVxor (x : VArgs) (s : State) : Out := s.velem x 1 2 false none (bitwise (· ^^^ ·))
/-- VSHL (R143). -/
def execVshl (x : VArgs) (s : State) : Out := s.velem x 2 2 false none (bitwise (shiftOp x 0))
/-- VSHR (R143). -/
def execVshr (x : VArgs) (s : State) : Out := s.velem x 2 2 false none (bitwise (shiftOp x 1))
/-- VSRA (R143). -/
def execVsra (x : VArgs) (s : State) : Out := s.velem x 2 2 false none (bitwise (shiftOp x 2))
/-- VDIV (R83, R141). -/
def execVdiv (x : VArgs) (s : State) : Out := s.velem x 12 24 false none (divE x)
/-- VSQRT (R141). -/
def execVsqrt (x : VArgs) (s : State) : Out := s.velem x 12 24 false none (sqrtE x)
/-- VCMP (R144): writes mask kD. -/
def execVcmp (x : VArgs) (s : State) : Out := s.velem x 2 3 false (some x.d.toNat) (cmpElem x)
/-- VSEL (R142): the select mask stands in C. -/
def execVsel (x : VArgs) (s : State) : Out :=
  s.velem x 1 2 false none (fun me e a b _ => (if (me.v.mask x.c.toNat).getLsbD e then a else b, ffNone))
/-- VMOV (R142): a, or in the literal form the literal. -/
def execVmov (x : VArgs) (s : State) : Out :=
  match x.b with
  | .lit w => s.velem x 1 2 false none (fun _ _ _ _ _ => (litElem (vWide x.ty) w, ffNone))
  | .reg _ | .queue _ => s.velem x 1 2 false none (fun _ _ a _ _ => (a, ffNone))

/-! ## Short forms (R54, R59) -/

/-- The long instruction that a short form names: guard p0, mask k0, RNE, window-relative registers. -/
def State.shortArgs (s : State) (ty : VType) (d a b : BitVec 5) : VArgs :=
  let v := (s.own s.agent).v
  { g := { neg := false, p := 0 }, ty := ty, round := 0, mask := 0, d := v.wbase d, a := .reg (v.wbase a),
    b := .reg (v.wbase b), c := 0 }

/-- As the long instruction with the short form's length. With an odd START the pair of an fp32 form, whose 5-bit fields are
even (R52, R138), begins at an odd logical register and runs as it stands. (DESIGN CHOICE, log 110) -/
def State.velemShort (s : State) (x : VArgs) (lat16 lat32 : Nat) (z : Bool)
    (op : VArgs → Slot → Nat → Nat → Nat → Nat → Nat × FFlags) : Out :=
  s.short (fun s =>
    let a := s.agent
    let me := (s.own a).seen
    let wide := vWide x.ty
    let (xs, _) := me.srcA wide x.a
    let (ys, _) := me.srcB wide x.b
    let zs := if z then me.v.elems wide x.d.toNat else List.replicate 1024 0
    let (rs, fl) := laneMap (List.replicate 1024 true) (zip3 xs ys zs) (op x me)
    let lat := if wide then lat32 else lat16
    (s.updOwn a (fun y => y.issue lat (.regs (me.v.dest wide x.d.toNat rs)) (BitVec.allOnes 1024) fl)).advance a 1)

/-- VADD.bf16, short form. -/
def execVaddBf16Short (d a b : BitVec 5) (s : State) : Out := s.velemShort (s.shortArgs .bf16 d a b) 3 4 false addE
/-- VADD.fp32, short form. -/
def execVaddFp32Short (d a b : BitVec 5) (s : State) : Out := s.velemShort (s.shortArgs .fp32 d a b) 3 4 false addE
/-- VSUB.bf16, short form. -/
def execVsubBf16Short (d a b : BitVec 5) (s : State) : Out := s.velemShort (s.shortArgs .bf16 d a b) 3 4 false subE
/-- VMUL.bf16, short form. -/
def execVmulBf16Short (d a b : BitVec 5) (s : State) : Out := s.velemShort (s.shortArgs .bf16 d a b) 4 5 false mulE
/-- VMUL.fp32, short form. -/
def execVmulFp32Short (d a b : BitVec 5) (s : State) : Out := s.velemShort (s.shortArgs .fp32 d a b) 4 5 false mulE
/-- FMA.bf16, short form. -/
def execFmaBf16Short (d a b : BitVec 5) (s : State) : Out := s.velemShort (s.shortArgs .bf16 d a b) 4 6 true fmaE
/-- FMA.fp32, short form. -/
def execFmaFp32Short (d a b : BitVec 5) (s : State) : Out := s.velemShort (s.shortArgs .fp32 d a b) 4 6 true fmaE
/-- VMIN.bf16, short form. -/
def execVminBf16Short (d a b : BitVec 5) (s : State) : Out := s.velemShort (s.shortArgs .bf16 d a b) 2 3 false (fun x => minMax x false false)
/-- VMAX.bf16, short form. -/
def execVmaxBf16Short (d a b : BitVec 5) (s : State) : Out := s.velemShort (s.shortArgs .bf16 d a b) 2 3 false (fun x => minMax x true false)
/-- VMOV.bf16, short form. -/
def execVmovBf16Short (d a : BitVec 5) (s : State) : Out :=
  s.velemShort (s.shortArgs .bf16 d a 0) 1 2 false (fun _ _ _ a _ _ => (a, ffNone))

end Sys2Proof.Machine
end

