-- ==== Sys2Proof/Machine/VAxis.lean ====
section
/-! DEFINITION. Class 011 (R146 to R154, R125, R137): axis moves and reductions, conversions and packing, the rotating
region, the yield of the units and the mask instructions. -/

namespace Sys2Proof.Machine

/-! ## Axis moves (R147, R148) -/

/-- Elements taken from element `src r c` of the source, row by row. -/
def pick (xs : List Nat) (src : Nat → Nat → Nat × Nat) : List Nat :=
  let t := xs.toArray
  (List.range 1024).map (fun e => let (r, c) := src (e / 64) (e % 64); (t[64 * r + c]?).getD 0)

/-- A result over whole elements, one source register or pair. -/
def State.vaxis (s : State) (g : Guard) (wide : Bool) (mask : BitVec 4) (d a : BitVec 10) (n lat : Nat)
    (f : Slot → List Nat → List Nat × FFlags) (all : Bool) : Out :=
  s.guarded g n (fun s =>
    let ag := s.agent
    let me := (s.own ag).seen
    let (rs, fl) := f me (me.v.elems wide a.toNat)
    let lanes := if all then BitVec.allOnes 1024 else me.v.mask mask.toNat
    (s.updOwn ag (fun x => x.issue lat (.regs (me.v.dest wide d.toNat rs)) lanes fl)).advance ag n)

/-- VROT.row (R147). -/
def execVrotRow (g : Guard) (ty : VType) (mask : BitVec 4) (d a : BitVec 10) (n : NSrc) (s : State) : Out :=
  s.vaxis g (vWide ty) mask d a (nsrcWords n) 2 (fun _ xs => (pick xs (fun r c => (r, (c + nsrcNat n) % 64)), ffNone)) false
/-- VROT.col (R147). -/
def execVrotCol (g : Guard) (ty : VType) (mask : BitVec 4) (d a : BitVec 10) (n : NSrc) (s : State) : Out :=
  s.vaxis g (vWide ty) mask d a (nsrcWords n) 4 (fun _ xs => (pick xs (fun r c => ((r + nsrcNat n) % 16, c)), ffNone)) false
/-- VBCAST.row (R148). -/
def execVbcastRow (g : Guard) (ty : VType) (mask : BitVec 4) (d a : BitVec 10) (n : NSrc) (s : State) : Out :=
  s.vaxis g (vWide ty) mask d a (nsrcWords n) 2 (fun _ xs => (pick xs (fun r _ => (r, nsrcNat n)), ffNone)) false
/-- VBCAST.col (R148). -/
def execVbcastCol (g : Guard) (ty : VType) (mask : BitVec 4) (d a : BitVec 10) (n : NSrc) (s : State) : Out :=
  s.vaxis g (vWide ty) mask d a (nsrcWords n) 4 (fun _ xs => (pick xs (fun _ c => (nsrcNat n, c)), ffNone)) false

/-! ## Reductions (R91, R149) -/

/-- The identity of a function and type. -/
def redIdentity (ty : VType) (fn : Nat) : Nat :=
  match ty, fn with
  | .bf16, 0 => 0x8000 | .fp32, 0 => 0x80000000 | .int16, 0 => 0 | .int32, 0 => 0
  | .bf16, 1 | .bf16, 3 => 0xFF80 | .bf16, _ => 0x7F80
  | .fp32, 1 | .fp32, 3 => 0xFF800000 | .fp32, _ => 0x7F800000
  | .int16, 1 => 0x8000 | .int16, _ => 0x7FFF
  | .int32, 1 => 0x80000000 | .int32, _ => 0x7FFFFFFF

/-- A node of the tree. -/
def redNode (ty : VType) (round : BitVec 3) (fn : Nat) (ftz : Bool) (sr a b : Nat) : Nat × FFlags :=
  let n := vBits ty
  if vInt ty then
    (match fn with
     | 0 => low n (sext n a + sext n b)
     | 1 => if sext n a < sext n b then b else a
     | _ => if sext n b < sext n a then b else a, ffNone)
  else
    let f := fmtOf ty
    let x := flush f ftz a
    let y := flush f ftz b
    match fn with
    | 0 => addOp f x y (Rm.ofCode round.toNat) sr ftz
    | 1 => minOp f true false x y
    | 2 => minOp f false false x y
    | 3 => minOp f true true x y
    | _ => minOp f false true x y

/-- The reduction of every row or column, its source lanes from the mask. -/
def vred (row : Bool) (ty : VType) (round : BitVec 3) (mask : BitVec 4) (fn : Nat) (me : Slot) (xs : List Nat) :
    List Nat × FFlags :=
  let ident := redIdentity ty fn
  let ys := ((maskLanes (me.v.mask mask.toNat)).zipWith (fun l x => if l then x else ident) xs).toArray
  let at2 (r c : Nat) := (ys[64 * r + c]?).getD 0
  let one (i : Nat) : Nat × FFlags :=
    if row then
      treeFold (redNode ty round fn me.ftzVec (me.srAt round i 0)) 6 ((List.range 64).map (at2 i))
    else
      treeFold (redNode ty round fn me.ftzVec (me.srAt round 0 i)) 4 ((List.range 16).map (fun r => at2 r i))
  let res := (List.range (if row then 16 else 64)).map one
  let vals := (res.map (·.1)).toArray
  ((List.range 1024).map (fun e => (vals[if row then e / 64 else e % 64]?).getD 0),
   res.foldl (fun f r => f ||| r.2) ffNone)

/-- VRED.row (R149): every destination cell is written. -/
def execVredRow (g : Guard) (ty : VType) (round : BitVec 3) (mask : BitVec 4) (d a : BitVec 10) (fn : BitVec 8)
    (s : State) : Out :=
  s.vaxis g (vWide ty) mask d a 2 (if vWide ty then 8 else 6) (vred true ty round mask fn.toNat) true
/-- VRED.col (R149). -/
def execVredCol (g : Guard) (ty : VType) (round : BitVec 3) (mask : BitVec 4) (d a : BitVec 10) (fn : BitVec 8)
    (s : State) : Out :=
  s.vaxis g (vWide ty) mask d a 2 (if vWide ty then 10 else 8) (vred false ty round mask fn.toNat) true

/-! ## Conversions (R150 to R152, R92) -/

/-- A format of R58. -/
inductive EFmt where
  | fp (f : Fmt)
  | int (n : Nat)
  deriving DecidableEq, Repr

def efmt (code : Nat) : EFmt :=
  match code with
  | 0 => .fp .fp32 | 1 => .fp .bf16 | 2 => .fp .e4m3 | 3 => .fp .e5m2 | 4 => .int 8 | 5 => .int 16 | _ => .int 32

/-- Bytes of an element (R58). -/
def EFmt.size : EFmt → Nat
  | .fp .fp32 => 4 | .fp .bf16 => 2 | .fp .e4m3 => 1 | .fp .e5m2 => 1 | .int n => n / 8

/-- `Convert` of R92: floating point by R85, to integers by R86, from integers through Round, integers saturating. -/
def convert (dst src : EFmt) (x : Nat) (m : Rm) (sr : Nat) (ftz : Bool) : Nat × FFlags :=
  match dst, src with
  | .fp f, .fp g => cvtFF f g x m sr ftz
  | .fp f, .int n => cvtIF f (sext n x) m sr ftz
  | .int n, .fp g => cvtFI n g x m sr ftz
  | .int n, .int k => (low n (satS n (sext k x)), ffNone)

/-- A conversion of numbered elements; lanes left out raise nothing. -/
def cvtLanes (lanes : List Bool) (xs : List Nat) (op : Nat → Nat → Nat × FFlags) : List Nat × FFlags :=
  let rs := (lanes.zip ((List.range 1024).zip xs)).map (fun (l, e, x) => if l then op e x else (0, ffNone))
  (rs.map (·.1), rs.foldl (fun f r => f ||| r.2) ffNone)

def cvtDst (fmts : BitVec 8) : EFmt := efmt (fieldNat fmts 4 4)
def cvtSrc (fmts : BitVec 8) : EFmt := efmt (fieldNat fmts 0 4)

/-- VCVT (R150). -/
def execVcvt (g : Guard) (round : BitVec 3) (mask : BitVec 4) (d a : BitVec 10) (fmts : BitVec 8) (s : State) : Out :=
  s.guarded g 2 (fun s =>
    let ag := s.agent
    let me := (s.own ag).seen
    let dst := cvtDst fmts
    let src := cvtSrc fmts
    let lanes := me.v.mask mask.toNat
    let (rs, fl) := cvtLanes (maskLanes lanes) (me.v.elems (src.size == 4) a.toNat)
      (fun e x => convert dst src x (Rm.ofCode round.toNat) (me.srAt round (e / 64) (e % 64)) me.ftzVec)
    (s.updOwn ag (fun x => x.issue 4 (.regs (me.v.dest (dst.size == 4) d.toNat rs)) lanes fl)).advance ag 2)

/-- VPACK (R151): two register widths into the bytes of one register. -/
def execVpack (g : Guard) (round : BitVec 3) (mask : BitVec 4) (d a : BitVec 10) (fmts : BitVec 8) (s : State) : Out :=
  s.guarded g 2 (fun s =>
    let ag := s.agent
    let me := (s.own ag).seen
    let dst := cvtDst fmts
    let src := cvtSrc fmts
    let wide := src.size == 4
    let lanes := me.v.mask mask.toNat
    let half (i : Nat) (xs : List Nat) := cvtLanes (maskLanes lanes) xs
      (fun e x => convert dst src x (Rm.ofCode round.toNat) (me.srAt round (e / 64) (2 * (e % 64) + i)) me.ftzVec)
    let (lo, f0) := half 0 (me.v.elems wide a.toNat)
    let (hi, f1) := half 1 (me.v.elems wide (a.toNat + if wide then 2 else 1))
    let rs := lo.zipWith (fun l h => l % 256 + h % 256 * 256) hi
    (s.updOwn ag (fun x => x.issue 4 (.regs (me.v.dest false d.toNat rs)) lanes (f0 ||| f1))).advance ag 2)

/-- VUNPK (R152). -/
def execVunpk (g : Guard) (mask : BitVec 4) (d a : BitVec 10) (fmts : BitVec 8) (s : State) : Out :=
  s.guarded g 2 (fun s =>
    let ag := s.agent
    let me := (s.own ag).seen
    let dst := cvtDst fmts
    let src := cvtSrc fmts
    let wide := dst.size == 4
    let lanes := me.v.mask mask.toNat
    let half (xs : List Nat) := cvtLanes (maskLanes lanes) xs (fun _ x => convert dst src x .rne 0 me.ftzVec)
    let cells := me.v.elems false a.toNat
    let (lo, f0) := half (cells.map (· % 256))
    let (hi, f1) := half (cells.map (· / 256))
    let ws := me.v.dest wide d.toNat lo ++ me.v.dest wide (d.toNat + if wide then 2 else 1) hi
    (s.updOwn ag (fun x => x.issue 3 (.regs ws) lanes (f0 ||| f1))).advance ag 2)

/-! ## Region and yield -/

/-- VRGN (R125). -/
def execVrgn (g : Guard) (first : BitVec 10) (count : NSrc) (s : State) : Out :=
  s.guarded g (nsrcWords count) (fun s =>
    (s.updOwn s.agent (fun x => { x with v := x.v.setRegion (nsrcNat count) first.toNat 0 })).advance s.agent
      (nsrcWords count))

/-- VYIELD (R137): its beat, wait beats until no result is in flight, then the offer, which lapses where no other slot
requests. -/
def execVyield (g : Guard) (s : State) : Out :=
  s.guarded g 2 (fun s =>
    let a := s.agent
    let me := s.own a
    if (s.strm a).waitLeft = 0 ∨ !me.v.inflight.isEmpty then
      (s.updStrm a (fun t => { t with mode := .running, waitLeft := 1 })).issued a
    else
      let s := s.updStrm a (fun t => { t.done with word := t.word + 2 })
      let c := agentCore a
      s.updCore c (fun x => { x with units := { x.units with
        offer := x.owns (agentSlot a) && (!x.normalAsks.isEmpty || !x.gleanAsks.isEmpty) } }))

/-! ## Masks (R153, R154) -/

def State.kop (s : State) (g : Guard) (d : BitVec 4) (f : VecState → Mask) : Out :=
  s.guarded g 2 (fun s =>
    let a := s.agent
    (s.updOwn a (fun x => x.issue 1 (.mask d.toNat (f x.v.seen)) (BitVec.allOnes 1024) ffNone)).advance a 2)

/-- KAND (R153). -/
def execKand (g : Guard) (d a b : BitVec 4) (s : State) : Out :=
  s.kop g d (fun v => v.mask a.toNat &&& v.mask b.toNat)
/-- KOR (R153). -/
def execKor (g : Guard) (d a b : BitVec 4) (s : State) : Out :=
  s.kop g d (fun v => v.mask a.toNat ||| v.mask b.toNat)
/-- KXOR (R153). -/
def execKxor (g : Guard) (d a b : BitVec 4) (s : State) : Out :=
  s.kop g d (fun v => v.mask a.toNat ^^^ v.mask b.toNat)
/-- KANDN (R153). -/
def execKandn (g : Guard) (d a b : BitVec 4) (s : State) : Out :=
  s.kop g d (fun v => v.mask a.toNat &&& ~~~v.mask b.toNat)

/-- The bounds of KFILL: c0, c1, r0, r1 (R154). -/
def kfillBounds : KFillArgs → Nat × Nat × Nat × Nat
  | .long a b c => (fieldNat a 0 6, fieldNat b 0 7, fieldNat a 6 4, fieldNat c 0 5)
  | .lit w => (fieldNat w 0 6, fieldNat w 10 7, fieldNat w 6 4, fieldNat w 17 5)
def kfillWords : KFillArgs → Nat
  | .long _ _ _ => 2
  | .lit _ => 3

/-- KFILL (R154). -/
def execKfill (g : Guard) (d : BitVec 4) (k : KFillArgs) (s : State) : Out :=
  s.guarded g (kfillWords k) (fun s =>
    let a := s.agent
    let (c0, c1, r0, r1) := kfillBounds k
    let m := maskOfLanes ((List.range 1024).map (fun e =>
      decide (r0 ≤ e / 64) && decide (e / 64 < r1) && decide (c0 ≤ e % 64) && decide (e % 64 < c1)))
    (s.updOwn a (fun x => x.issue 1 (.mask d.toNat m) (BitVec.allOnes 1024) ffNone)).advance a (kfillWords k))

end Sys2Proof.Machine
end

