-- ==== Sys2Proof/Machine/Streams.lean ====
section
/-! DEFINITION. Stream descriptors, transfers, queues and configuration planes (R155 to R186). -/

namespace Sys2Proof.Machine

/-! ## Descriptor fields (R158) -/

def Desc.fld (d : Desc) (w lo k : Nat) : Nat := fieldNat d.dw (64 * w + lo) k
def Desc.sfld (d : Desc) (w lo k : Nat) : Int := (d.dw.extractLsb' (64 * w + lo) k).toInt

def Desc.base (d : Desc) : Nat := d.fld 0 0 64
def Desc.unf (d : Desc) : Bool := d.dw.getLsbD (64 * 4 + 29)
def Desc.count (d : Desc) (l : Nat) : Nat := d.fld 3 (16 * l) 16
def Desc.scmode (d : Desc) : Nat := d.fld 4 18 2
def Desc.round (d : Desc) : BitVec 3 := d.dw.extractLsb' (64 * 4 + 14) 3
def Desc.qfmt (d : Desc) : Nat := d.fld 4 10 4
def Desc.mfmt (d : Desc) : Nat := d.fld 4 6 4
def Desc.space (d : Desc) : Nat := d.fld 4 4 2
def Desc.seglen (d : Desc) : Nat := 2 ^ (d.fld 4 0 4 + 3)
/-- Bytes of a segment in the queue (R159). -/
def Desc.clen (d : Desc) : Nat := d.seglen * (efmt d.qfmt).size / (efmt d.mfmt).size
def Desc.segs (d : Desc) : Nat := 2048 / d.clen
def Desc.ohpos (d : Desc) : Nat := d.fld 6 48 16

def Desc.put (d : Desc) (lo : Nat) {k : Nat} (v : BitVec k) : Desc := { d with dw := setField d.dw lo v }
def Desc.origin (d : Desc) : Desc := { d with i0 := 0, i1 := 0, i2 := 0, i3 := 0 }

/-- The conversion of a pair of formats is one of VCVT, VPACK or VUNPK, or the identity, with a ROUND it allows
(R160). -/
def pairOk (dst src : Nat) (round : BitVec 3) : Bool :=
  let fm : BitVec 8 := BitVec.ofNat 8 (dst * 16 + src)
  decide (dst ≤ 6) && decide (src ≤ 6) &&
  (if dst = src then round == 0 else
    vcvtOk round fm || vpackOk round fm || (vunpkOk fm && round == 0))

/-- The walk moves bytes from a queue to the space (R160): a storer's does, a loader's does not, and any other's by its
instruction. -/
def toSpace (get : Bool) (cls : Cls) : Bool := cls == .str || (get && cls != .ldr)

/-- The checks of R162, R160, R161 and R174 on a descriptor that `cls` walks; `get`: along a QGET or a read-out. (DEDUCED, log 38)
A plane descriptor with a conversion, a scale or unfolding (R174) fails here too, with the sub-cause of this check. (DESIGN
CHOICE, log 113) -/
def Desc.sound (d : Desc) (get : Bool) (cls : Cls) : Bool :=
  let dst := if toSpace get cls then d.mfmt else d.qfmt
  let src := if toSpace get cls then d.qfmt else d.mfmt
  d.fld 4 52 12 == 0 && d.fld 4 30 2 == 0 && d.fld 4 17 1 == 0 && (d.unf || d.ohpos == 0) &&
  decide (d.fld 4 0 4 ≤ 8) && d.space != 3 && d.scmode != 3 && pairOk dst src d.round &&
  decide (2 ≤ d.clen) && decide (d.clen ≤ 2048) &&
  (d.scmode == 0 || (d.clen == 64 && (d.qfmt == 2 || d.qfmt == 3))) &&
  d.count 0 != 0 && d.count 1 != 0 && d.count 2 != 0 && d.count 3 != 0 &&
  (cls != .str || d.scmode == 0) && (cls == .ldr || !d.unf) &&
  (d.space != 2 || (d.mfmt == d.qfmt && d.scmode == 0 && !d.unf))

/-! ## A walk (R159 to R163) -/

/-- The segment at the walk's position: its address, or none for padding of an unfolded input (R163). -/
def Desc.seg (d : Desc) : Option Nat :=
  let addr (x : Int) : Nat := low 64 ((d.base : Int) + x)
  if d.unf then
    let x : Int := d.i3 * (d.fld 4 32 3 + 1) + d.i1 * (d.fld 4 38 3 + 1) - d.fld 4 44 4
    let y : Int := d.ohpos * (d.fld 4 35 3 + 1) + d.i2 * (d.fld 4 41 3 + 1) - d.fld 4 48 4
    if x < 0 ∨ (d.fld 2 32 16 : Int) ≤ x ∨ y < 0 ∨ (d.fld 2 48 16 : Int) ≤ y then none
    else some (addr (d.i0 * d.sfld 1 0 32 + x * d.sfld 1 32 32 + y * d.sfld 2 0 32))
  else some (addr (d.i0 * d.sfld 1 0 32 + d.i1 * d.sfld 1 32 32 + d.i2 * d.sfld 2 0 32 + d.i3 * d.sfld 2 32 32))

def Desc.level (d : Desc) (l : Nat) : Nat :=
  match l with
  | 0 => d.i0 | 1 => d.i1 | 2 => d.i2 | _ => d.i3

/-- The address of the segment's scale (R161). -/
def Desc.saddr (d : Desc) : Nat :=
  low 64 ((d.fld 5 0 64 : Int) + (d.level (d.fld 4 22 2) >>> d.fld 4 26 3 : Nat) * d.sfld 6 0 32 +
    (d.level (d.fld 4 20 2) >>> d.fld 4 24 2 : Nat) * 4)

/-- The next position, and whether the segment just left was the walk's last. -/
def Desc.step (d : Desc) : Desc × Bool :=
  if d.i0 + 1 < d.count 0 then ({ d with i0 := d.i0 + 1 }, false)
  else if d.i1 + 1 < d.count 1 then ({ d with i0 := 0, i1 := d.i1 + 1 }, false)
  else if d.i2 + 1 < d.count 2 then ({ d with i0 := 0, i1 := 0, i2 := d.i2 + 1 }, false)
  else if d.i3 + 1 < d.count 3 then ({ d with i0 := 0, i1 := 0, i2 := 0, i3 := d.i3 + 1 }, false)
  else (d.origin, true)

/-- A segment of the row-set being moved: address, scale address, coordinates of its rounding (R160). -/
structure Seg where
  addr : Option Nat
  saddr : Nat
  step : Nat
  row : Nat
  deriving DecidableEq, Repr

/-- The segments of one row-set, at most `n`; the position after them; whether the last of the walk is among them. -/
def Desc.take (d : Desc) : Nat → List Seg × Desc × Bool
  | 0 => ([], d, false)
  | n + 1 =>
    let g : Seg := { addr := d.seg, saddr := d.saddr, step := d.i3 % 65536,
                     row := (d.i0 + d.count 0 * (d.i1 + d.count 1 * d.i2)) % 2 ^ 32 }
    match d.step with
    | (e, true) => ([g], e, true)
    | (e, false) =>
      let (gs, f, last) := Desc.take e n
      (g :: gs, f, last)

/-- Elements of a run of bytes, and back. -/
def elemsOf (size : Nat) (bs : List Byte) : List Nat := unpackNat (8 * size) (bs.length / size) (leNat bs)
def bytesOf (size : Nat) (xs : List Nat) : List Byte := leBytes (size * xs.length) (packNat (8 * size) xs)

/-- A segment's elements converted (R160). -/
def Desc.cvt (d : Desc) (dst src : Nat) (g : Seg) (ftz : Bool) (xs : List Nat) : List Nat × FFlags :=
  if dst = src then (xs, ffNone)
  else
    let rs := (List.range xs.length).zipWith (fun e x =>
      let sr := if d.round = 4 then
        srBits d.key d.tensor (BitVec.ofNat 16 g.step) (BitVec.ofNat 32 g.row) (BitVec.ofNat 32 e) else 0
      convert (efmt dst) (efmt src) x (Rm.ofCode d.round.toNat) sr ftz) xs
    (rs.map (·.1), rs.foldl (fun f r => f ||| r.2) ffNone)

/-- Space of a walk's addresses. -/
def Desc.spaceOf (d : Desc) : Space := if d.space = 0 then .flat else .virt

/-- The access of a transfer, or of a read-out, for its slot. -/
def State.xferAcc (s : State) (c k : Nat) (who : Requester) (d : Desc) : Acc :=
  { s.accOf (.strm c k .ctl) with who := who, space := d.spaceOf }

/-- Split a run of bytes by lengths. -/
def splitBy : List Nat → List Byte → List (List Byte)
  | [], _ => []
  | n :: ns, bs => bs.take n :: splitBy ns (bs.drop n)

/-- What one row-set's move gives. -/
inductive Move where
  | ok (e : QEntry) (d : Desc) (fl : FFlags)
  | exc (e : Exc)
  | hold
  deriving Repr

/-- Form the next row-set of a walk (R159 to R161). (DEDUCED, log 39) -/
def State.formRows (s : State) (x : Acc) (d : Desc) (ftz : Bool) : State × Move :=
  let (gs, d', last) := d.take d.segs
  let reads := gs.filterMap (fun g => g.addr.map (fun a => (a, d.seglen)))
  let scales := if d.scmode = 0 then [] else gs.filterMap (fun g => g.addr.map (fun _ => (g.saddr, 4)))
  match s.checkParts x .rd true ((reads ++ scales).flatMap (fun (a, n) => pieces a n)) with
  | (s, .exc e) => (s, .exc e)
  | (s, .hold _) => (s, .hold)
  | (s, .ok ps _) =>
    match s.readParts ps with
    | (s, .error e) => (s, .exc e)
    | (s, .ok bs) =>
      let runs := splitBy ((reads ++ scales).map (·.2)) bs
      let size := (efmt d.mfmt).size
      -- each segment takes the next run of bytes, a padded one zeros
      let segs := (gs.foldl (fun (acc : List (Seg × List Byte) × List (List Byte)) g =>
          match g.addr with
          | none => (acc.1 ++ [(g, List.replicate d.seglen 0)], acc.2)
          | some _ => (acc.1 ++ [(g, acc.2.headD [])], acc.2.drop 1)) ([], runs))
      let cv := segs.1.map (fun (g, b) =>
        if g.addr.isSome then d.cvt d.qfmt d.mfmt g ftz (elemsOf size b)
        else (List.replicate (d.seglen / size) 0, ffNone))
      let out := cv.flatMap (fun (xs, _) => bytesOf (efmt d.qfmt).size xs)
      let sc := (gs.foldl (fun (acc : List Nat × List (List Byte)) g =>
          if d.scmode = 0 then (acc.1 ++ [0], acc.2)
          else
            match g.addr with
            | none => (acc.1 ++ [0], acc.2)
            | some _ => (acc.1 ++ [leNat (acc.2.headD [])], acc.2.drop 1)) ([], segs.2)).1
      let e : QEntry :=
        { rows := rowOfBytes out, side := BitVec.ofNat 1024 (packNat 32 sc), pad := decide (gs.length < d.segs),
          last := last, scv := d.scmode != 0, fmt := d.qfmt }
      (s, .ok e d' (cv.foldl (fun f r => f ||| r.2) ffNone))

/-! ## Queues (R164 to R167) -/

def queueArea (k n pos : Nat) : Nat := privBase k + 0x74000 + n * 0x8C00 + pos % 16 * 0x8C0

/-- The bytes of an entry in its queue's area (R164). -/
def QEntry.bytes (e : QEntry) : List Byte :=
  rowBytes e.rows ++ leBytes 128 e.side.toNat ++
    leBytes 8 (b2n e.pad * 128 + b2n e.last * 64 + b2n e.scv * 32 + e.fmt) ++ List.replicate 56 0

/-- A put at the tail, with the entry's bytes in the queue's area. -/
def State.putQ (s : State) (c k n : Nat) (e : QEntry) : State :=
  let q := (s.slot c k).queue n
  let at1 := queueArea k n (q.head + q.entries.length)
  (s.updSlot c k (fun x => x.setQueue n { q with entries := q.entries ++ [e], puts := q.puts + 1 })).updCore c
    (fun x => x.write at1 e.bytes)

/-- SYS.QOCCLO and SYS.QOCCHI (R168). -/
def Slot.qocc (x : Slot) (h : Nat) : DWord :=
  BitVec.ofNat 64 (packNat 8 ((List.range 8).map (fun i => (x.queue (8 * h + i)).entries.length)))

/-! ## Writes along a walk (R183, R174) -/

/-- What writing one row-set gives: the descriptor after it, or what stopped it. -/
inductive Wrote where
  | ok (d : Desc) (fl : FFlags)
  | exc (e : Exc)
  | hold
  deriving Repr

/-- The queue bytes of each segment, converted for the space. -/
def Desc.outSegs (d : Desc) (e : QEntry) (ftz : Bool) : List (Seg × List Byte) × Desc × FFlags :=
  let (gs, d', _) := d.take d.segs
  let runs := splitBy (gs.map (fun _ => d.clen)) (rowBytes e.rows)
  let cv := gs.zipWith (fun g b =>
    let r := d.cvt d.mfmt d.qfmt g ftz (elemsOf (efmt d.qfmt).size b)
    (g, bytesOf (efmt d.mfmt).size r.1, r.2)) runs
  (cv.map (fun (g, b, _) => (g, b)), d', cv.foldl (fun f r => f ||| r.2.2) ffNone)

/-- The write of a row-set to the shadow plane of a core (R174, R175). (DEDUCED, log 40) -/
def State.writePlane (s : State) (c : Nat) (segs : List (Seg × List Byte)) : State × Option Exc :=
  let far := segs.any (fun (g, b) => decide (0x60880 < g.addr.getD 0 + b.length))
  if far then (s, some (Exc.of 3 2))
  else
    (s.updCore c (fun x =>
      let n := 1 - x.activePlane
      x.setPlane n (segs.foldl (fun m (g, b) => memWrite m (g.addr.getD 0) b) (x.plane n))), none)

/-- A host command writes the shadow plane of a core (R414). -/
def State.planeWrite (s : State) (c : Nat) : Bool := s.jobs.any (fun j => j.fn < 64 && j.op == 0x09 && j.a2.toNat % 128 == c)

/-- Write a row-set along the walk of `d` (R183). -/
def State.writeRows (s : State) (x : Acc) (c : Nat) (d : Desc) (e : QEntry) (ftz : Bool) : State × Wrote :=
  let (segs, d', fl) := d.outSegs e ftz
  if d.space = 2 then
    if (s.core c).tokens ≠ 0 ∨ s.planeWrite c then (s, .hold)
    else
      match s.writePlane c segs with
      | (s, some ex) => (s, .exc ex)
      | (s, none) => (s, .ok d' fl)
  else
    let parts := segs.flatMap (fun (g, b) => pieces (g.addr.getD 0) b.length)
    match s.checkParts x .wr true parts with
    | (s, .exc ex) => (s, .exc ex)
    | (s, .hold _) => (s, .hold)
    | (s, .ok ps _) =>
      match s.writeLines 0 ps (segs.flatMap (·.2)) with
      | (s, some (ex, _)) => (s, .exc ex)
      | (s, none) => (s, .ok d' fl)

/-! ## QPUT, QGET and their row-sets (R162, R166, R170, R172, R183) -/

/-- Producer code of a stream that puts, consumer code of one that pops (R165). -/
def prodCode : Cls → Nat
  | .ldr => 0 | .ctl => 1 | .mat => 2 | .vec => 3 | .str => 4 | .net => 4
def consCode : Cls → Nat
  | .str => 0 | .ctl => 1 | .mat => 2 | .vec => 3 | .ldr => 4 | .net => 4

/-- The descriptor is free for the stream (R170), no reload of its own waiting (R180). -/
def Desc.freeFor (d : Desc) (cls : Cls) : Bool :=
  (d.holder.isNone || d.holder == some cls) && !d.reload.contains cls

def Slot.setDesc (x : Slot) (n : Nat) (d : Desc) : Slot := { x with descs := Tbl.set x.descs n d }
def State.updDesc (s : State) (a : Agent) (n : Nat) (f : Desc → Desc) : State :=
  s.updOwn a (fun x => x.setDesc n (f (x.desc n)))

/-- The lowest stream fault that a transfer meets as it begins (R177). -/
def Slot.xferFault (x : Slot) (put : Bool) (q : Nat) (d : Desc) (cls : Cls) : Option Nat :=
  let role := if put then (x.queue q).putBy (prodCode cls) else (x.queue q).popBy (consCode cls)
  if !d.sound (!put) cls then some 1
  else if d.space = 2 ∧ (cls = .ldr ∨ cls = .ctl) then some 2
  else if !role then some 3
  else none

/-- The flush bit and flag group of a transfer (R160). -/
def Slot.xferFtz (x : Slot) (put : Bool) : Bool := if put then x.ftzLdr else x.ftzStr
def xferGroup (put : Bool) : Nat := if put then 10 else 15

/-- A transfer begins: the checks, then the hold of its descriptor. -/
def State.beginXfer (s : State) (put : Bool) (q d n : Nat) : State :=
  let a := s.agent
  let me := s.own a
  let cls := agentCls a
  let n := ((s.strm a).again).getD n
  if n = 0 then s.advance a 2
  else if !(me.desc d).freeFor cls then s.block a
  else
    match me.xferFault put q (me.desc d) cls with
    | some f => s.raiseRows a (Exc.of 3 f) n
    | none =>
      (s.updDesc a d (fun x => { x with holder := some cls })).updStrm a (fun t =>
        { t with mode := .running,
                 xfer := some { put := put, q := q, d := d, left := n, ftz := me.xferFtz put, formed := none, mid := false } })

/-- QPUT (R183). -/
def execQput (g : Guard) (q : BitVec 4) (d : BitVec 5) (n : Cnt) (s : State) : Out :=
  s.guarded g (cntWords n) (fun s => s.beginXfer true q.toNat d.toNat (s.cnt s.agent n))
/-- QGET (R183). -/
def execQget (g : Guard) (d : BitVec 5) (q : BitVec 4) (n : Cnt) (s : State) : Out :=
  s.guarded g (cntWords n) (fun s => s.beginXfer false q.toNat d.toNat (s.cnt s.agent n))

/-- One row-set has moved: the transfer goes on, or completes and lets its descriptor go. -/
def State.moved (s : State) (a : Agent) (x : Xfer) (d : Desc) (fl : FFlags) : State :=
  let s := (s.updDesc a x.d (fun y => { y with i0 := d.i0, i1 := d.i1, i2 := d.i2, i3 := d.i3 })).updOwn a
    (fun y => y.raiseFlags (xferGroup x.put) fl)
  if x.left ≤ 1 then
    let cls := agentCls a
    (s.letGo (agentCore a) (agentSlot a) (fun y => y.holder == some cls)).advance a 2
  else s.updStrm a (fun t => { t with mode := .running, xfer := some { x with left := x.left - 1, formed := none, mid := false } })

/-- A fault stops the transfer with its row-sets still to move (R172). -/
def State.xferTrap (s : State) (a : Agent) (x : Xfer) (e : Exc) : State :=
  let cls := agentCls a
  let s := s.letGo (agentCore a) (agentSlot a) (fun y => y.holder == some cls)
  (s.updStrm a (fun t => { t with xfer := none, again := some x.left })).raiseRows a e x.left

/-- The stream blocks within its transfer; `mid`: part-way through a row-set (R175). -/
def State.blockXfer (s : State) (a : Agent) (x : Xfer) (mid : Bool) : State :=
  s.updStrm a (fun t => { t with mode := .blocked, xfer := some { x with mid := mid } })

/-- The row-set that a QPUT has formed goes to its queue, once that has a free entry (R183). -/
def State.putFormed (s : State) (a : Agent) (x : Xfer) (e : QEntry) (d' : Desc) (fl : FFlags) : State :=
  if ((s.own a).queue x.q).room = 0 then s.blockXfer a { x with formed := some (e, fl) } true
  else (s.putQ (agentCore a) (agentSlot a) x.q e).moved a x d' fl

/-- The next row-set of a transfer under way. -/
def State.moveRows (s : State) (a : Agent) (x : Xfer) : State :=
  let c := agentCore a
  let k := agentSlot a
  let cls := agentCls a
  let me := s.own a
  let d := me.desc x.d
  let q := me.queue x.q
  if d.holder.isSome ∧ d.holder ≠ some cls then s.block a
  else
    let s := s.updDesc a x.d (fun y => { y with holder := some cls })
    let acc := s.xferAcc c k (.transfer c k cls) d
    if x.put then
      match x.formed with
      | some (e, fl) => s.putFormed a x e (d.take d.segs).2.1 fl
      | none =>
        match s.formRows acc d x.ftz with
        | (s, .exc e) => s.xferTrap a x e
        | (s, .hold) => s.blockXfer a x true
        | (s, .ok e d' fl) => s.putFormed a x e d' fl
    else
      match q.entries with
      | [] => s.block a
      | e :: _ =>
        if q.ready = 0 then s.block a
        else if e.fmt ≠ d.qfmt then s.xferTrap a x (Exc.of 3 4)
        else
          match s.writeRows acc c d e x.ftz with
          | (s, .exc ex) => s.xferTrap a x ex
          | (s, .hold) => s.blockXfer a x (d.space != 2)
          | (s, .ok d' fl) => (s.updOwn a (fun y => y.popQ x.q 1)).moved a x d' fl

/-- TRANSFER_ROWSET (R183): the stream's transfer moves one row-set once its queue has an entry or room. -/
def execTransferRowset (a : Agent) (s : State) : Out :=
  .next (match (s.strm a).xfer with
    | some x => s.moveRows a x
    | none => s)

/-! ## Descriptor instructions (R179, R180, R184, R185) -/

/-- An instruction that waits for its descriptor under R170 and then changes it. -/
def State.descOp (s : State) (d n : Nat) (f : Desc → Desc) : State :=
  let a := s.agent
  if ((s.own a).desc d).freeFor (agentCls a) then (s.updDesc a d (fun x => (f x).origin)).advance a n else s.block a

/-- DSET (R179). -/
def execDset (g : Guard) (d : BitVec 5) (w : BitVec 3) (b : Src) (s : State) : Out :=
  s.guarded g (srcWords b) (fun s =>
    s.descOp d.toNat (srcWords b) (fun x => x.put (64 * w.toNat) (s.src s.agent b)))

/-- A reload: at once where no transfer holds the descriptor, else when that transfer ends. -/
def State.reload (s : State) (a : Agent) (n : Nat) : State :=
  let image := (s.core (agentCore a)).descImage n
  s.updDesc a n (fun d => if d.holder.isSome then { d with reload := agentCls a :: d.reload } else d.load image)

/-- DRLD and DRLD.all (R180); one that names a descriptor whose reload by this stream is still to take effect waits for it. -/
def execDrld (g : Guard) (all : Bool) (d : BitVec 5) (s : State) : Out :=
  s.guarded g 2 (fun s =>
    let a := s.agent
    let ds := if all then List.range 32 else [d.toNat]
    if ds.any (fun n => ((s.own a).desc n).reload.contains (agentCls a)) then s.block a
    else (ds.foldl (fun s n => s.reload a n) s).advance a 2)

/-- WADV (R184). -/
def execWadv (g : Guard) (d : BitVec 5) (b : Src) (s : State) : Out :=
  s.guarded g (srcWords b) (fun s =>
    let v := s.src s.agent b
    s.descOp d.toNat (srcWords b) (fun x =>
      if x.unf then x.put (64 * 6 + 48) (BitVec.ofNat 16 (x.ohpos + v.toNat))
      else x.put 0 (x.dw.extractLsb' 0 64 + v)))

def unfoldWords : UnfoldArg → Nat
  | .reg _ => 2
  | .lit _ => 3
  | .off => 2

/-- UNFOLD and UNFOLD.off (R185): the wait of R170 stands before the check of the value. -/
def execUnfold (g : Guard) (d : BitVec 5) (b : UnfoldArg) (s : State) : Out :=
  s.guarded g (unfoldWords b) (fun s =>
    let a := s.agent
    let set (v : Nat) (x : Desc) : Desc :=
      ((x.put (64 * 4 + 32) (BitVec.ofNat 20 v)).put (64 * 4 + 29) (1 : BitVec 1)).put (64 * 6 + 48) (0 : BitVec 16)
    match b with
    | .off => s.descOp d.toNat 2 (fun x => x.put (64 * 4 + 29) (0 : BitVec 1))
    | .lit w => s.descOp d.toNat 3 (set w.toNat)
    | .reg r =>
      let v := (s.reg a r).toNat
      if 2 ^ 20 ≤ v ∧ ((s.own a).desc d.toNat).freeFor (agentCls a) then s.raise a (Exc.of 3 5)
      else s.descOp d.toNat 2 (set v))

/-! ## Starting and stopping streams (R181, R182) -/

/-- The stream runs from a line, keeping its registers, predicates and loop state. -/
def Stream.start (t : Stream) (l : Int) : Stream := t.goto l

def lineVal (s : State) : LineRef → Nat
  | .imm l => l.toNat
  | .reg r => (s.reg s.agent r).toNat

/-- SSTART (R181). -/
def execSstart (g : Guard) (cls : Cls) (line : LineRef) (s : State) : Out :=
  s.guarded g 2 (fun s =>
    let a := s.agent
    if ((s.own a).strm cls).mode ≠ .halted then s.block a
    else
      let l := lineVal s line
      (s.updOwn a (fun x => x.setStrm cls ((x.strm cls).start l))).advance a 2)

/-- Matrix operations that an SSTOP of the issuing stream stops with CAUSE 10 (R235). -/
def OpStat.stop2 (o : OpStat) : OpStat := if o.live then .stopped 2 else o

/-- The bits of MST for a member (R229). -/
def MatState.setMst (m : MatState) (i v : Nat) : MatState :=
  { m with mst := setField m.mst (2 * i) (BitVec.ofNat 2 v) }
/-- Members marked `v` become marked `w`. -/
def MatState.remark (m : MatState) (v w : Nat) : MatState :=
  (List.range 6).foldl (fun m i => if fieldNat m.mst (2 * i) 2 = v then m.setMst i w else m) m

/-- MST of every member. -/
def State.setMsts (s : State) (gs : List (Nat × Nat)) (f : MatState → MatState) : State :=
  gs.foldl (fun s (c, k) => s.updSlot c k (fun x => { x with m := f x.m })) s

/-- The next operation that waits for a path: a member's share or part, once no operation holds the path; one that was stopped
while it waited becomes the record there, where none stands (R216, R227, R233). -/
def MatState.nextC (m : MatState) : MatState :=
  match m.share with
  | some o =>
    if m.cop.any ComputeOp.live ∨ m.clr.isSome ∨ (m.cop.isSome ∧ !o.live) ∨ m.followOns.any (fun f => decide (f.seq < o.seq)) then m
    else { m with cop := some o, share := none }
  | none => m
def MatState.nextR (m : MatState) : MatState :=
  match m.shareR with
  | some o => if m.rop.any ReadOp.live ∨ (m.rop.isSome ∧ !o.live) then m else { m with rop := some o, shareR := none }
  | none => m
def MatState.next (m : MatState) : MatState := m.nextC.nextR

/-- What an SSTOP stops in a slot: the operations of its own that satisfy `pc` and `pr`, and shares and parts that wait. -/
def MatState.stop2 (m : MatState) (pc : ComputeOp → Bool) (pr : ReadOp → Bool) : MatState :=
  let fc (o : ComputeOp) : ComputeOp := if pc o then { o with stat := o.stat.stop2 } else o
  let fr (o : ReadOp) : ReadOp := if pr o then { o with stat := o.stat.stop2 } else o
  { m with cop := m.cop.map fc, rop := m.rop.map fr, share := m.share.map fc, shareR := m.shareR.map fr }

/-- A stopped read-out holds no descriptor (R170). -/
def State.letGoRead (s : State) (c k : Nat) : State :=
  if (s.slot c k).m.rop.any ReadOp.live then s else s.letGo c k (fun d => d.holder == some .mat)

/-- SSTOP of the operations of one slot that satisfy `pc` and `pr`: a stopped read-out lets its descriptor go, and then what
waits for a path takes it (R170, R216). -/
def State.stopOps2 (s : State) (c k : Nat) (pc : ComputeOp → Bool) (pr : ReadOp → Bool) : State :=
  ((s.updSlot c k (fun x => { x with m := x.m.stop2 pc pr })).letGoRead c k).updSlot c k (fun x =>
    Slot.runSigs { x with m := x.m.next })

/-- SSTOP of a slot's matrix stream (R235): its own operations, but for an ACCLR (R226); as a gang's leader, its ganged
operations on every member. A follow-on that has not started stays pending. (DESIGN CHOICE, log 115) -/
def State.stopMatrix (s : State) (c k : Nat) : State :=
  let x := s.slot c k
  let lead := (x.piece.bind (·.gang)).any (fun g => g.member == 0)
  let gc := lead && x.m.cop.any (fun o => o.kind == .mmg && o.member == 0 && o.live)
  let gr := x.m.gread.isSome
  let s := s.stopOps2 c k (fun o => o.kind != .mmg || o.member == 0) (fun o => !o.gang || o.member == 0)
  if gc || gr then
    let ms := s.membersOf c k
    let s := ms.foldl (fun s (d, j) => s.stopOps2 d j (fun o => gc && o.kind == .mmg) (fun o => gr && o.gang)) s
    (s.setMsts ms (fun m => m.remark 1 3)).updSlot c k (fun x => { x with m := { x.m with gread := none } })
  else s

/-- SSTOP (R182). -/
def execSstop (g : Guard) (cls : Cls) (sig : Option (BitVec 6)) (s : State) : Out :=
  s.guarded g 2 (fun s =>
    let a := s.agent
    let c := agentCore a
    let k := agentSlot a
    let fs := (sig.map (·.toNat)).toList
    let s :=
      if ((s.own a).strm cls).mode = .halted then s.updOwn a (·.signalAll fs)
      else
        let s := if cls = .mat then s.stopMatrix c k else s
        let s := s.letGo c k (fun d => d.holder == some cls && cls != .mat)
        s.updOwn a (fun x => Slot.runSigs (x.haltStream cls fs))
    s.advance a 2)

/-! ## Planes (R173 to R176, R186) -/

/-- PSWAP (R186). -/
def execPswap (g : Guard) (s : State) : Out :=
  s.guarded g 2 (fun s =>
    let a := s.agent
    let c := agentCore a
    if 3 ≤ (s.core c).tokens then s.block a
    else (s.updCore c (fun x => { x with tokens := x.tokens + 1 })).advance a 2)

/-- A transfer of the slot is part-way through a row-set. -/
def Slot.midRow (x : Slot) : Bool :=
  [x.ctl, x.ldr, x.str].any (fun t => t.xfer.any (fun f => f.mid)) || x.trap.ctl.any (fun v => v.xfer.any (fun f => f.mid))

/-- A core drain point (R175): no vector result in flight, one in the landing buffer among them (DESIGN CHOICE, log 111), no
transfer part-way through a row-set, no write of the shadow plane; a matrix step is one step of this model. -/
def State.drainPoint (s : State) (c : Nat) : Bool :=
  (s.core c).slots.all (fun (_, y) => y.v.inflight.isEmpty && !y.midRow) && !s.planeWrite c

/-- A swap token is to be consumed now. -/
def State.swapDue (s : State) (c : Nat) : Bool := (s.core c).tokens != 0 && s.drainPoint c

/-- PLANE_SWAP: a token is consumed at a drain point (R175). -/
def execPlaneSwap (core : Nat) (s : State) : Out :=
  .next (if s.swapDue core then
    s.updCore core (fun x => { x with activePlane := 1 - x.activePlane, tokens := x.tokens - 1, swaps := x.swaps + 1 })
    else s)

/-- SYS.PLANE (R176). -/
def Core.planeReg (x : Core) : DWord := BitVec.ofNat 64 (x.swaps.toNat * 2 ^ 32 + x.tokens * 2 + x.activePlane % 2)

end Sys2Proof.Machine
end

