-- ==== Sys2Proof/Machine/Matrix.lean ====
section
/-! DEFINITION. The matrix unit (R215 to R238): parameters, products and their steps, ganged issue, read-outs, stops and
resumption; its arithmetic (R87 to R90). -/

namespace Sys2Proof.Machine

/-! ## Exact sums (R88 to R90) -/

/-- A finite value of any format as a multiple of 2^-133. -/
def fixed133 (f : Fmt) (x : Nat) : Int :=
  let e := fExp f x
  let sig := if e = 0 then fFrac f x else fFrac f x + 2 ^ f.t
  let sh : Int := (max e 1 : Nat) - f.bias - f.t + 133
  let v : Nat := sig <<< sh.toNat
  if fSign f x then -(v : Int) else v

/-- The sum of a run of products, rounded once to FP32: specials, the signed zero, RNE (R88, R89). Operands are already
flushed. -/
def dotSum (fa fb : Fmt) (ps : List (Nat × Nat)) (ftz : Bool) : Nat × FFlags :=
  let nans := ps.flatMap (fun (a, b) =>
    (if isNaN fa a then [nanTo .fp32 fa a] else []) ++ (if isNaN fb b then [nanTo .fp32 fb b] else []))
  let sig := ps.any (fun (a, b) => isSNaN fa a || isSNaN fb b)
  match nans with
  | n :: _ => (n, if sig then ffIV else ffNone)
  | [] =>
    if ps.any (fun (a, b) => (isZero fa a && isInf fb b) || (isInf fa a && isZero fb b)) then invalid .fp32
    else
      let infs := (ps.filter (fun (a, b) => isInf fa a || isInf fb b)).map (fun (a, b) => fSign fa a != fSign fb b)
      if infs.contains true && infs.contains false then invalid .fp32
      else
        match infs with
        | n :: _ => (fInf .fp32 n, ffNone)
        | [] =>
          let t : Int := ps.foldl (fun t (a, b) => t + fixed133 fa a * fixed133 fb b) 0
          let negZero := !ps.isEmpty && ps.all (fun (a, b) =>
            (isZero fa a || isZero fb b) && (fSign fa a != fSign fb b))
          if t = 0 then (fZero .fp32 negZero, ffNone)
          else roundTo .fp32 (Exact.scaled (decide (t < 0)) t.natAbs (-266)) .rne 0 ftz

/-- One BF16 step added to the accumulator (R88). -/
def accBf16 (ps : List (Nat × Nat)) (ftz : Bool) (acc : Nat) : Nat × FFlags :=
  let (p, f1) := dotSum .bf16 .bf16 (ps.map (fun (a, b) => (flush .bf16 ftz a, flush .bf16 ftz b))) ftz
  let (r, f2) := addOp .fp32 (flush .fp32 ftz acc) (flush .fp32 ftz p) .rne 0 ftz
  (r, f1 ||| f2)

/-- One FP8 K-block, scaled and added (R89). (DEDUCED, log 36) -/
def accFp8 (fa fb : Fmt) (ps : List (Nat × Nat)) (sa sb : Nat) (ftz : Bool) (acc : Nat) : Nat × FFlags :=
  let fl (x : Nat) := flush .fp32 ftz x
  let (x, f1) := dotSum fa fb ps ftz
  let (sc, f2) := mulOp .fp32 (fl sa) (fl sb) .rne 0 ftz
  let (y, f3) := mulOp .fp32 (fl x) (fl sc) .rne 0 ftz
  let (r, f4) := addOp .fp32 (fl acc) (fl y) .rne 0 ftz
  (r, f1 ||| f2 ||| f3 ||| f4)

/-- One INT8 step, modulo 2^32 (R90). -/
def accInt8 (ps : List (Nat × Nat)) (acc : Nat) : Nat :=
  low 32 ((acc : Int) + ps.foldl (fun t (a, b) => t + sext 8 a * sext 8 b) 0)

/-! ## Accumulator banks (R215) -/

def accKey (bank row : Nat) : Nat := 96 * bank + row
def MatState.row (m : MatState) (bank i : Nat) : AccRow := Tbl.get 0 m.acc (accKey bank i)
def MatState.cell (m : MatState) (bank i j : Nat) : Nat := fieldNat (m.row bank i) (32 * j) 32
def MatState.setRow (m : MatState) (bank i : Nat) (r : AccRow) : MatState :=
  { m with acc := Tbl.set m.acc (accKey bank i) r }
/-- Cells (i, lo) to (i, lo + vs.length − 1) written. -/
def setCells (r : AccRow) (lo : Nat) (vs : List Nat) : AccRow :=
  setField r (32 * lo) (BitVec.ofNat (32 * vs.length) (packNat 32 vs))
def MatState.clearBank (m : MatState) (bank : Nat) : MatState :=
  { m with acc := m.acc.filter (fun (i, _) => i / 96 != bank) }

/-! ## Parameters (R218, R219, R222) -/

def setParam (p : MatParams) (sel : Nat) (v : Word) : MatParams :=
  match sel with
  | 0 => { p with m := v.toNat }
  | 1 => { p with n := v.toNat }
  | 2 => { p with k := v.toNat }
  | 3 => { p with qa := fieldNat v 0 4, qb := fieldNat v 4 4 }
  | 4 => { p with gr := fieldNat v 0 3, gc := fieldNat v 3 2 }
  | 5 => { p with arow := fieldNat v 0 7, acol := fieldNat v 8 7 }
  | _ => { p with sca := fieldNat v 0 2, scb := fieldNat v 2 2 }

/-- A stopped compute record with VALID = 1. -/
def MatState.recC (m : MatState) : Bool :=
  match m.cop with
  | some o => (match o.stat with | .stopped _ => true | .waiting => false | .running => false)
  | none => false

/-- A dirty shadow set becomes active (R219). -/
def MatState.swap (m : MatState) : MatState :=
  if m.dirty && !m.recC then { m with active := m.shadow, dirty := false } else m

def mpWords : MpVal → Nat
  | .imm _ => 2
  | .lit _ => 3
def mpVal : MpVal → Word
  | .imm v => v.setWidth 32
  | .lit w => w

/-- MPSET (R218, R219). -/
def execMpset (g : Guard) (sel : BitVec 3) (v : MpVal) (s : State) : Out :=
  s.guarded g (mpWords v) (fun s =>
    (s.updOwn s.agent (fun x => { x with m := { x.m with shadow := setParam x.m.shadow sel.toNat (mpVal v), dirty := true } })).advance
      s.agent (mpWords v))

/-- MSCL (R222): the port's head row-set into a shadow scale table. -/
def execMscl (g : Guard) (tabB : Bool) (q : BitVec 4) (s : State) : Out :=
  s.guarded g 2 (fun s =>
    let a := s.agent
    let me := s.own a
    if !(me.queue q.toNat).popBy 2 then s.raise a (Exc.of 3 3)
    else
      match (me.queue q.toNat).entries with
      | [] => s.block a
      | e :: _ =>
        if (me.queue q.toNat).ready = 0 then s.block a
        else if e.fmt ≠ 0 then s.raise a (Exc.of 8 4)
        else
          let ws := unpackNat 32 (if tabB then 384 else 192) e.rows.toNat
          let tab : Tbl Word := (List.range ws.length).zipWith (fun i w => (i, BitVec.ofNat 32 w)) ws
          let set (p : MatParams) : MatParams := if tabB then { p with tabB := tab } else { p with tabA := tab }
          (s.updOwn a (fun x => { (x.popQ q.toNat 1) with
            m := { x.m with shadow := set x.m.shadow, dirty := true } })).advance a 2)

/-! ## Gangs (R30, R227, R229) -/

/-- Gang size and own member number of a slot's piece; none for another piece. -/
def Slot.gangPlace (x : Slot) : Option (Nat × Nat) :=
  match x.piece with
  | some p => p.gang.map (fun g => (g.slots.length, g.member))
  | none => none

/-- Rows and columns of a member's share (R227). -/
def ceilDiv (a b : Nat) : Nat := (a + b - 1) / b
def share (p : MatParams) (i : Nat) : Nat × Nat × Nat × Nat :=
  let ms := ceilDiv p.m p.gr
  let ns := ceilDiv p.n p.gc
  let r := i / p.gc
  let c := i % p.gc
  (min p.m ((r + 1) * ms) - min p.m (r * ms), min p.n ((c + 1) * ns) - min p.n (c * ns), r * ms, c * ns)

/-- The checks of R227 on a leader's active set. -/
def gangFits (p : MatParams) (g : Nat) : Bool :=
  p.gr * p.gc == g && decide (ceilDiv p.m p.gr ≤ 96) && decide (ceilDiv p.n p.gc ≤ 128) &&
    decide (p.arow + ceilDiv p.m p.gr ≤ 96) && decide (p.acol + ceilDiv p.n p.gc ≤ 128)

/-- SYS.GSTAT (R229). -/
def Slot.gstat (x : Slot) : DWord :=
  match x.gangPlace with
  | some (g, i) => BitVec.ofNat 64 (g * 2 ^ 21 + i * 2 ^ 18 + b2n x.m.gop * 2 ^ 12 + x.m.mst.toNat)
  | none => 0

/-- A fault of an operation, held for the issuing matrix stream (R236, R383). -/
def matInfo (e : Exc) (member : Nat) (read : Bool) : DWord :=
  e.info ||| BitVec.ofNat 64 (member * 2 ^ 48 + b2n read * 2 ^ 51)
def State.matFault (s : State) (c k : Nat) (e : Exc) (member : Nat) (read : Bool) : State :=
  let h : HeldTrap :=
    { cause := e.cause, sub := e.sub, strm := 2, addr := e.addr, info := matInfo e member read, line := 0, word := 0,
      beats := 0 }
  s.updSlot c k (fun x => x.hold h)

/-- The leader's slot of the gang in which a slot is a member; the slot itself otherwise. -/
def State.leaderOf (s : State) (c k : Nat) : Nat × Nat := ((s.gangOf c k).head?).getD (c, k)

/-! ## Paths and banks (R216) -/

/-- An earlier operation of the slot that has neither completed nor stopped with CAUSE 10 or 11 holds the bank against the
operation numbered `seq` of the other path. -/
def MatState.bankHeld (m : MatState) (bank seq : Nat) (read : Bool) : Bool :=
  if read then
    (m.cop.toList ++ m.clr.toList ++ m.share.toList).any (fun o => o.live && o.bank == bank && decide (o.seq < seq)) ||
      m.followOns.any (fun f => f.bank == bank && decide (f.seq < seq))
  else
    (m.rop.toList ++ m.shareR.toList).any (fun o => o.live && o.bank == bank && decide (o.seq < seq)) ||
      m.gread.any (fun g => g.bank == bank && decide (g.seq < seq))

def MatState.pathBusyC (m : MatState) : Bool :=
  m.cop.any ComputeOp.live || m.clr.isSome || m.share.any ComputeOp.live || !m.followOns.isEmpty
def MatState.pathBusyR (m : MatState) : Bool :=
  m.rop.any ReadOp.live || m.shareR.any ReadOp.live || m.gread.isSome

/-! ## Starting a product (R224 to R227) -/

/-- Region cells set to +0 (OVW). -/
def MatState.clearRegion (m : MatState) (o : ComputeOp) (p : MatParams) : MatState :=
  (List.range o.ml).foldl (fun m i =>
    m.setRow o.bank (p.arow + i) (setCells (m.row o.bank (p.arow + i)) p.acol (List.replicate o.nl 0))) m

/-- Completion on one slot's compute path (R219, R225): the flag, the parameter swap, the share and the signals that
waited. -/
def Slot.endCop (x : Slot) (o : ComputeOp) : Slot :=
  let x := { x with m := (({ x.m with cop := none }).swap).nextC }
  Slot.runSigs (match o.sig with | some f => x.addFlag f 1 | none => x)

/-- A product completes on every slot that takes part; a ganged one marks its members (R229). -/
def State.endProduct (s : State) (ms : List (Nat × Nat)) : State :=
  let s := ms.foldl (fun s (c, k) =>
    match (s.slot c k).m.cop with
    | some o => s.updSlot c k (fun x => x.endCop o)
    | none => s) s
  if ms.length ≤ 1 then s else s.setMsts ms (fun m => if m.gop then m else m.remark 1 2)

/-- An operation placed on the compute path of its slot, not yet started. -/
def newOp (kind : CKind) (seq bank : Nat) (ovw : Bool) (sig : Option Nat) (ftz : Bool) : ComputeOp :=
  { kind := kind, seq := seq, bank := bank, ovw := ovw, sig := sig, stat := .waiting, steps := 0, member := 0, ml := 0, nl := 0,
    fmts := none, placed := false, begun := false, ftz := ftz }

/-- MM or MMG takes the slot's compute path: a stopped record is discarded (R235), and a dirty shadow set becomes active
(R219). -/
def MatState.enter (m : MatState) (o : ComputeOp) : MatState :=
  let m := ({ m with cop := none }).swap
  { m with cop := some o }

/-- A check fails as the operation starts: it stops with CAUSE 11 (R238). Where a slot that is not member 0 issued it, the
member number that TINFO shows is 0. (DESIGN CHOICE, log 100) -/
def State.startFail (s : State) (c k : Nat) (o : ComputeOp) (sub : Nat) : State :=
  (s.updSlot c k (fun x => Slot.runSigs { x with m := MatState.nextC { x.m with cop := some { o with stat := .stopped 3 } } })).matFault
    c k (Exc.of 8 sub) 0 false

/-- The slots that take part in the operation on a slot's compute path, in member order. -/
def State.partners (s : State) (c k : Nat) : List (Nat × Nat) :=
  match (s.slot c k).m.cop with
  | some o => if o.kind = .mmg then s.gangOf c k else [(c, k)]
  | none => []

/-- The active set that governs the operation on a slot's compute path: for a gang's, the leader's (R227). -/
def State.opParams (s : State) (c k : Nat) (o : ComputeOp) : MatParams :=
  let lead := if o.kind = .mmg then s.leaderOf c k else (c, k)
  (s.slot lead.1 lead.2).m.active

/-- Every partner's share of the product runs, on a core whose clock is on (R228, R388, R436). (DEDUCED, log 37) -/
def State.allRun (s : State) (ms : List (Nat × Nat)) (mmg : Bool) : Bool :=
  ms.all (fun (d, j) => s.clockOn d && (!mmg || (s.slot d j).inGang ms) &&
    (s.slot d j).m.cop.any (fun o => o.stat == .running && (o.kind == CKind.mmg) == mmg))

/-- A product without cells or without K completes once every share of it has started (R225). -/
def State.endEmpty (s : State) (c k : Nat) (o : ComputeOp) : State :=
  let p := s.opParams c k o
  let ms := s.partners c k
  if (p.m = 0 ∨ p.n = 0 ∨ p.k = 0) ∧ s.allRun ms (o.kind == CKind.mmg) then s.endProduct ms else s

/-- A product, or a member's share of one, starts or goes on, having its path and its bank: OVW clears the region at the
start (R224). -/
def State.beginShare (s : State) (c k : Nat) (o : ComputeOp) : State :=
  let p := s.opParams c k o
  let s := s.updSlot c k (fun x => { x with m :=
    let m := { x.m with cop := some { o with stat := .running, begun := true }, lastAdvance := s.cycle }
    if !o.begun && o.ovw && o.ml != 0 && o.nl != 0 then m.clearRegion o p else m })
  s.endEmpty c k o

/-- A share, or a part of a read-out, reaches a member: it waits for the path there, numbered as the member's next operation. -/
def MatState.giveShare (m : MatState) (o : ComputeOp) : MatState :=
  MatState.nextC { m with nextSeq := m.nextSeq + 1, share := some { o with seq := m.nextSeq } }
def MatState.givePart (m : MatState) (o : ReadOp) : MatState :=
  MatState.nextR { m with nextSeq := m.nextSeq + 1, shareR := some { o with seq := m.nextSeq } }

/-- An MMG starts in its leader: every member gets its share, which waits there for its path (R227), and MST is written
(R229); a member with an empty share is done at the start. -/
def State.startGang (s : State) (c k : Nat) (o : ComputeOp) (p : MatParams) : State :=
  let gs := s.gangOf c k
  let s := (List.range gs.length).foldl (fun (s : State) i =>
    match gs[i]? with
    | none => s
    | some (d, j) =>
      let (ml, nl, _, _) := share p i
      let part : ComputeOp := { o with member := i, ml := ml, nl := nl, placed := true }
      if !(s.slot d j).inGang gs then s
      else s.updSlot d j (fun y =>
        let m := y.m
        { y with m := if i = 0 then { m with cop := some part } else m.giveShare part })) s
  let s := s.setMsts (s.membersOf c k) (fun m => (List.range gs.length).foldl (fun m i =>
    let (ml, nl, _, _) := share p i
    m.setMst i (if ml = 0 ∨ nl = 0 then 2 else 1)) { m with mst := 0, gop := false })
  match (s.slot c k).m.cop with
  | some o => s.beginShare c k o
  | none => s

/-- The operation that waits on a slot's compute path starts where its bank is free, with the checks of R224 and R227; one
that MPROG resumed goes on once the slot owns the units (R235, R237). -/
def State.startProduct (s : State) (c k : Nat) : State :=
  match (s.slot c k).m.cop with
  | none => s
  | some o =>
    let x := s.slot c k
    if o.stat ≠ .waiting ∨ x.m.bankHeld o.bank o.seq false ∨ (o.begun ∧ !(s.core c).owns k) then s
    else if o.begun ∨ o.placed then s.beginShare c k o
    else
      let p := x.m.active
      if o.kind ≠ CKind.mmg then
        if 96 < p.arow + p.m ∨ 128 < p.acol + p.n then s.startFail c k o 1
        else s.beginShare c k { o with ml := p.m, nl := p.n }
      else
        match x.gangPlace with
        | some (g, 0) => if gangFits p g then s.startGang c k o p else s.startFail c k o 1
        | some (_, i) => s.startFail c k { o with member := i } 2
        | none => s.startFail c k { o with member := 1 } 2

/-- An ACCLR whose bank is free runs in one cycle: it leaves a stopped record, and so the sets, as they stand (R219, R226). -/
def State.startClear (s : State) (c k : Nat) : State :=
  match (s.slot c k).m.clr with
  | none => s
  | some o =>
    if (s.slot c k).m.bankHeld o.bank o.seq false then s
    else s.updSlot c k (fun x =>
      let x := { x with m := (((({ x.m with clr := none }).clearBank o.bank)).swap).nextC }
      Slot.runSigs (match o.sig with | some f => x.addFlag f 1 | none => x))

/-! ## A step (R220 to R222, R228) -/

/-- Elements of operand segment `j` of a list of row-sets. -/
def segOf (rs : List QEntry) (j : Nat) (size : Nat) : List Nat :=
  match rs[j / 32]? with
  | some e => unpackNat (8 * size) (64 / size) (fieldNat e.rows (512 * (j % 32)) 512)
  | none => []

/-- The side-band scale of operand `j` (R222). -/
def sideOf (rs : List QEntry) (j : Nat) : Nat :=
  match rs[j / 32]? with
  | some e => if e.scv then fieldNat e.side (32 * (j % 32)) 32 else 0x3F800000
  | none => 0x3F800000

def scaleOf (src : Nat) (rs : List QEntry) (tab : Tbl Word) (j glob : Nat) : Nat :=
  match src with
  | 0 => sideOf rs j
  | 1 => (Tbl.get 0x3F800000 tab glob).toNat
  | _ => 0x3F800000

/-- Elements of K to a step (R220). -/
def perStep (fmt : Nat) : Nat := if fmt = 1 then 32 else 64

/-- A pairing of R221. -/
def fmtPair (a b : Nat) : Bool := (a == 1 && b == 1) || (a == 4 && b == 4) || ((a == 2 || a == 3) && (b == 2 || b == 3))

/-- What a member pops for `n` steps from its ports: counts for A, for B. -/
structure Need where
  a : Nat
  b : Nat

/-- The operand row-sets of a member, step by step: A's then B's (R220); `none` while one is missing. -/
def takeOperands (x : Slot) (p : MatParams) (need : Need) : Nat → Option (List (List QEntry × List QEntry) × Slot)
  | 0 => some ([], x)
  | n + 1 =>
    let ea := (x.queue p.qa).entries.take need.a
    if (x.queue p.qa).ready < need.a then none
    else
      let y := x.popQ p.qa need.a
      let eb := (y.queue p.qb).entries.take need.b
      if (y.queue p.qb).ready < need.b then none
      else
        match takeOperands (y.popQ p.qb need.b) p need n with
        | none => none
        | some (r, z) => some ((ea, eb) :: r, z)

/-- The operand pairs of cell (i, j) over the steps at hand, elements beyond K left out. -/
def cellPairs (steps : List (List QEntry × List QEntry)) (fmt k0 kEnd per i j : Nat) : List (Nat × Nat) :=
  let size := if fmt = 1 then 2 else 1
  ((List.range steps.length).zip steps).flatMap (fun (t, ra, rb) =>
    let left := kEnd - (k0 + t * per)
    ((segOf ra i size).zip (segOf rb j size)).take left)

/-- One member's cells after the steps (R88 to R90), with the flags. -/
def MatState.addSteps (m : MatState) (o : ComputeOp) (p : MatParams) (roff coff : Nat)
    (steps : List (List QEntry × List QEntry)) (fa fb k0 : Nat) (ftz : Bool) : MatState × FFlags :=
  let per := perStep fa
  let first := steps.headD ([], [])
  (List.range o.ml).foldl (fun (acc : MatState × FFlags) i =>
    let row := acc.1.row o.bank (p.arow + i)
    let cells := (List.range o.nl).map (fun j =>
      let ps := cellPairs steps fa k0 p.k per i j
      let old := fieldNat row (32 * (p.acol + j)) 32
      if fa = 1 then accBf16 ps ftz old
      else if fa = 4 then (accInt8 ps old, ffNone)
      else
        accFp8 (if fa = 2 then .e4m3 else .e5m2) (if fb = 2 then .e4m3 else .e5m2) ps
          (scaleOf p.sca first.1 p.tabA i (roff + i)) (scaleOf p.scb first.2 p.tabB j (coff + j)) ftz old)
    (acc.1.setRow o.bank (p.arow + i) (setCells row p.acol (cells.map (·.1))),
     cells.foldl (fun f r => f ||| r.2) acc.2)) (m, ffNone)

/-- A member's needs for one step: A's row-sets, and B's where it pops them (R227). -/
def memberNeed (o : ComputeOp) (p : MatParams) : Need :=
  if o.ml = 0 ∨ o.nl = 0 then { a := 0, b := 0 }
  else { a := ceilDiv o.ml 32, b := if o.kind = .mmg ∧ p.gc ≤ o.member then 0 else ceilDiv o.nl 32 }

/-- Ports of a member that are not queues of the matrix stream: the stream fault of R220. -/
def portsBad (x : Slot) (p : MatParams) (n : Need) : Bool :=
  (n.a != 0 && !(x.queue p.qa).popBy 2) || (n.b != 0 && !(x.queue p.qb).popBy 2)

/-- The formats of a member's row-sets, which have to be one for A and one for B, and those of earlier steps (R221). -/
def fmtsOf (steps : List (List QEntry × List QEntry)) : List Nat × List Nat :=
  ((steps.flatMap (·.1)).map (·.fmt), (steps.flatMap (·.2)).map (·.fmt))

/-- Every partner stops with CAUSE 11 before this step, the fault told in the leader (R228, R236); each path is free for
what waits (R216). -/
def State.stopFault (s : State) (ms : List (Nat × Nat)) (lead : Nat × Nat) (e : Exc) (member : Nat) : State :=
  let s := ms.foldl (fun s (d, j) => s.updSlot d j (fun x =>
    Slot.runSigs { x with m := (x.m.mapCop (fun (o : ComputeOp) => { o with stat := .stopped 3 })).nextC })) s
  let s := if ms.length ≤ 1 then s
    else s.setMsts ms (fun m => if m.gop then m else (List.range ms.length).foldl (fun m i => m.setMst i 3) m)
  s.matFault lead.1 lead.2 e member false

/-- MATRIX_STEP on a running product: one step, or for FP8 one K-block, once every partner's operands are present and
every partner owns its units (R220, R228, R235). FTZMAT is the issuing slot's as it stood at issue (R75). -/
def State.stepProduct (s : State) (c k : Nat) : State :=
  match (s.slot c k).m.cop with
  | none => s
  | some o =>
    let ms := s.partners c k
    let lead := if o.kind = .mmg then s.leaderOf c k else (c, k)
    let p := s.opParams c k o
    let opOf (x : Slot) : ComputeOp := x.m.cop.getD o
    if !s.allRun ms (o.kind == CKind.mmg) then s
    else if p.m = 0 ∨ p.n = 0 ∨ p.k = 0 then s.endProduct ms
    else if !ms.all (fun (d, j) => (s.core d).owns j) then s
    else
      match ms.findSome? (fun (d, j) =>
        let x := s.slot d j
        if portsBad x p (memberNeed (opOf x) p) then some (opOf x).member else none) with
      | some i => s.stopFault ms lead (Exc.of 3 3) i
      | none =>
        -- the format of A, that of the steps before or of member 0's first row-set, fixes how much of K a step covers
        let x0 := s.slot lead.1 lead.2
        match (x0.queue p.qa).entries with
        | [] => s
        | e0 :: _ =>
          let fa0 := (o.fmts.map (·.1)).getD e0.fmt
          let per := perStep fa0
          let total := ceilDiv p.k per
          let steps := if fa0 = 2 ∨ fa0 = 3 then min 2 (total - o.steps) else 1
          let got := ms.map (fun (d, j) => let x := s.slot d j; (d, j, opOf x, takeOperands x p (memberNeed (opOf x) p) steps))
          if got.any (fun (_, _, _, r) => r.isNone) then s
          else
            let own := got.filterMap (fun (d, j, o, r) => r.map (fun (st, y) => (d, j, o, st, y)))
            -- B of a column group comes from its member in row group 0
            let bOf (o1 : ComputeOp) (st : List (List QEntry × List QEntry)) : List (List QEntry × List QEntry) :=
              if o1.kind = .mmg ∧ p.gc ≤ o1.member then
                match own.find? (fun (_, _, o2, _, _) => o2.member == o1.member % p.gc) with
                | some (_, _, _, st2, _) => st.zipWith (fun u v => (u.1, v.2)) st2
                | none => st
              else st
            let fmts := o.fmts
            let bad := own.find? (fun (_, _, o1, st, _) =>
              let (fa, fb) := fmtsOf st
              let okA := fa.all (· == fa0)
              let eb := match fmts with | some (_, b) => b | none => (fmtsOf (bOf { o1 with member := 0 } (own.headD (0, 0, o1, st, x0)).2.2.2.1)).2.headD fa0
              !(okA && fb.all (· == eb) && fmtPair fa0 eb))
            match bad with
            | some (_, _, o1, _, _) => s.stopFault ms lead (Exc.of 8 3) o1.member
            | none =>
              let fb := (own.findSome? (fun (_, _, _, st, _) => (fmtsOf st).2.head?)).getD fa0
              let (s, fl) := own.foldl (fun (acc : State × FFlags) (d, j, o1, st, y) =>
                let (_, _, roff, coff) := if o1.kind = .mmg then share p o1.member else (0, 0, 0, 0)
                let (m, f) := if o1.ml = 0 ∨ o1.nl = 0 then (y.m, ffNone)
                  else y.m.addSteps o1 p roff coff (bOf o1 st) fa0 fb (o.steps * per) o.ftz
                let o2 : ComputeOp := { o1 with steps := o1.steps + steps, fmts := some (fa0, fb) }
                let m2 : MatState := { m with lastAdvance := s.cycle, cop := some o2 }
                (acc.1.setSlot d j { y with m := m2 }, acc.2 ||| f)) (s, ffNone)
              let s := s.updSlot lead.1 lead.2 (fun x => x.raiseFlags 5 fl)
              if o.steps + steps < total then s else s.endProduct ms

/-- A slot's oldest follow-on starts once the compute path is idle and its bank is free, as the MM or MMG that it is
(R280): it discards a stopped record, and takes the set that stands now (R219). -/
def State.startFollowOn (s : State) (c k : Nat) : State :=
  let m := (s.slot c k).m
  match m.followOns with
  | [] => s
  | f :: fs =>
    if m.cop.any ComputeOp.live ∨ m.clr.isSome ∨ m.bankHeld f.bank f.seq false then s
    else
      let o := newOp (if f.mmg then .mmg else .mm) f.seq f.bank f.ovw f.sig f.ftz
      (s.updSlot c k (fun x => { x with m := MatState.enter { x.m with followOns := fs } o })).startProduct c k

/-- MATRIX_STEP: a slot's compute path advances. A follow-on enters the path, and starts, as though issued (R280), so
also while another slot owns the units, and so do an ACCLR and the start of a product that have waited for their bank
(DESIGN CHOICE, log 116); a step needs them (R133). It stands still while the core is frozen or its clock off
(R388, R436). -/
def execMatrixStep (core slot : Nat) (s : State) : Out :=
  .next (if !s.clockOn core then s
    else if (s.slot core slot).m.clr.isSome then s.startClear core slot
    else
      match (s.slot core slot).m.cop with
      | none => s.startFollowOn core slot
      | some o =>
        match o.stat with
        | .waiting => s.startProduct core slot
        | .running => s.stepProduct core slot
        | .stopped _ => s.startFollowOn core slot)

/-! ## MM, MMG, ACCLR -/

/-- The issue of MM or MMG (R217, R224). -/
def State.issueProduct (s : State) (mmg : Bool) (bank : Nat) (ovw : Bool) (sig : Option Nat) : State :=
  let a := s.agent
  let me := s.own a
  if me.m.pathBusyC then s.block a
  else
    let o := newOp (if mmg then .mmg else .mm) me.m.nextSeq bank ovw sig me.ftzMat
    ((s.updOwn a (fun x => { x with m := { (x.m.enter o) with nextSeq := x.m.nextSeq + 1 } })).startProduct
      (agentCore a) (agentSlot a)).advance a 2

/-- MM (R224). -/
def execMm (g : Guard) (bank : BitVec 2) (ovw : Bool) (sig : Option (BitVec 6)) (s : State) : Out :=
  s.guarded g 2 (fun s => s.issueProduct false bank.toNat ovw (sig.map (·.toNat)))
/-- MMG (R227). -/
def execMmg (g : Guard) (bank : BitVec 2) (ovw : Bool) (sig : Option (BitVec 6)) (s : State) : Out :=
  s.guarded g 2 (fun s => s.issueProduct true bank.toNat ovw (sig.map (·.toNat)))
/-- ACCLR (R226): it leaves a stopped record where it stands, which only a product discards (R235). -/
def execAcclr (g : Guard) (bank : BitVec 2) (sig : Option (BitVec 6)) (s : State) : Out :=
  s.guarded g 2 (fun s =>
    let a := s.agent
    let me := s.own a
    if me.m.pathBusyC then s.block a
    else
      let o := newOp .acclr me.m.nextSeq bank.toNat false (sig.map (·.toNat)) false
      ((s.updOwn a (fun x => { x with m := { x.m with nextSeq := x.m.nextSeq + 1, clr := some o } })).startClear
        (agentCore a) (agentSlot a)).advance a 2)

/-! ## Read-outs (R230 to R234) -/

/-- Rows to a row-set. -/
def ReadOp.q (o : ReadOp) : Nat :=
  if o.cvt then (if o.fmt = 1 ∨ o.fmt = 5 then 8 else 16) else if o.lay then 8 else 4
/-- FMT of the row-sets. -/
def ReadOp.tag (o : ReadOp) : Nat := if o.cvt then o.fmt else if o.int then 6 else 0

/-- The row-set that stands next: its rows, its bytes and the flags of its conversion, under what the instruction took at
issue (R230, R231, R75, R400). The spec gives no cycle in which SYS.SRCTX, SYS.SRBASE and the descriptor's key and tensor are
read: here it is the issue. (DEDUCED, log 91) -/
def ReadOp.form (o : ReadOp) (m : MatState) : QEntry × FFlags :=
  let rows := (List.range o.q).map (fun i => o.done + i)
  let cellOf (i j : Nat) : Nat := if i < o.rows then m.cell o.bank (o.first + i) j else 0
  let lastGroup := decide (o.rows ≤ o.done + o.q)
  let pads := decide (o.rows < o.done + o.q)
  let mk (bs : List Byte) (last : Bool) : QEntry :=
    { rows := rowOfBytes bs, side := 0, pad := pads, last := last, scv := false, fmt := o.tag }
  if !o.cvt then
    if o.lay then
      let half := fun (v : Nat) => if o.half then v >>> 16 else v % 65536
      let cells := rows.flatMap (fun i => (List.range 128).map (fun j => half (cellOf i j)))
      (mk (bytesOf 2 cells) (lastGroup && o.half), ffNone)
    else
      (mk (bytesOf 4 (rows.flatMap (fun i => (List.range 128).map (cellOf i)))) lastGroup, ffNone)
  else
    let dst := efmt o.fmt
    let src : EFmt := if o.fmt = 4 ∨ o.fmt = 5 then .int 32 else .fp .fp32
    let rnd : BitVec 3 := BitVec.ofNat 3 o.round
    let one (i j : Nat) : Nat × FFlags :=
      if o.rows ≤ i then (0, ffNone)
      else
        let row := BitVec.ofNat 32 (fieldNat o.srbase 32 32 + o.roff + o.first + i)
        let col := BitVec.ofNat 32 (fieldNat o.srbase 0 32 + o.coff + j)
        let sr := if rnd = 4 then srBits o.srkey o.srtensor (o.srctx.extractLsb' 32 16) row col else 0
        convert dst src (cellOf i j) (Rm.ofCode o.round) sr o.ftz
    let rs := rows.flatMap (fun i => (List.range 128).map (one i))
    (mk (bytesOf dst.size (rs.map (·.1))) lastGroup, rs.foldl (fun f r => f ||| r.2) ffNone)

/-- One part of a ganged read-out has completed or stopped: after the last, the operation has (R233). -/
def State.partOver (s : State) (c k : Nat) : State :=
  let (lc, lk) := s.leaderOf c k
  s.updSlot lc lk (fun x => Slot.runSigs { x with m := { x.m with
    gread := x.m.gread.bind (fun g => if g.left ≤ 1 then none else some { g with left := g.left - 1 }) } })

/-- What a part's end leaves in MST of every member, while that tells of a ganged read-out (R229). -/
def State.markPart (s : State) (c k : Nat) (o : ReadOp) (v : Nat) : State :=
  if o.gang then (s.setMsts (s.membersOf c k) (fun m => if m.gop then m.setMst o.member v else m)).partOver c k else s

/-- A read-out of a slot ends: its flag, its member's mark, its descriptor, and a part that waited. -/
def State.endReadout (s : State) (c k : Nat) (o : ReadOp) : State :=
  let s := s.letGo c k (fun d => d.holder == some .mat)
  let s := s.updSlot c k (fun x =>
    let x := { x with m := MatState.nextR { x.m with rop := none } }
    Slot.runSigs (match o.sig with | some f => x.addFlag f 1 | none => x))
  s.markPart c k o 2

/-- A read-out's part stops with a fault (R234, R235). The second row-set of a LAY 1 group stays the next one, so that a
resumption writes what an uninterrupted run does (R87, R237). -/
def State.readFault (s : State) (c k : Nat) (o : ReadOp) (e : Exc) : State :=
  let lead := if o.gang then s.leaderOf c k else (c, k)
  let s := (s.letGo c k (fun d => d.holder == some .mat)).updSlot c k (fun x =>
    Slot.runSigs { x with m := (x.m.mapRop (fun (o : ReadOp) => { o with stat := .stopped 3 })).nextR })
  (s.markPart c k o 3).matFault lead.1 lead.2 e o.member true

/-- One row-set put or written: the rows that it completes. -/
def State.readMoved (s : State) (c k : Nat) (o : ReadOp) (fl : FFlags) : State :=
  let lead := if o.gang then s.leaderOf c k else (c, k)
  let s := s.updSlot lead.1 lead.2 (fun x => x.raiseFlags 5 fl)
  let halfway := !o.cvt && o.lay && !o.half
  let o' : ReadOp := if halfway then { o with half := true } else { o with half := false, done := o.done + o.q }
  let s := s.updSlot c k (fun x => { x with m := { x.m with rop := some o', lastAdvance := s.cycle } })
  if !halfway && decide (o.rows ≤ o'.done) then s.endReadout c k o' else s

/-- The next row-set of a running read-out (R230 to R234). -/
def State.stepReadout (s : State) (c k : Nat) (o : ReadOp) : State :=
  let x := s.slot c k
  let (e, fl) := o.form x.m
  if !o.tgt then
    if !(x.queue o.target).putBy 2 then s.readFault c k o (Exc.of 3 3)
    else if (x.queue o.target).room = 0 then s
    else (s.putQ c k o.target e).readMoved c k o fl
  else
    let d := x.desc o.target
    if !d.freeFor .mat then s
    else if !d.sound true .mat then s.readFault c k o (Exc.of 3 1)
    else if d.space = 2 then s.readFault c k o (Exc.of 3 2)
    else if d.qfmt ≠ o.tag then s.readFault c k o (Exc.of 3 4)
    else
      let s := s.updSlot c k (fun y => y.setDesc o.target { d with holder := some .mat })
      match s.writeRows (s.xferAcc c k (.readout c k) d) c d e o.ftz with
      | (s, .exc ex) => s.readFault c k o ex
      | (s, .hold) => s
      | (s, .ok d' f2) =>
        (s.updSlot c k (fun y => y.setDesc o.target { (y.desc o.target) with
          i0 := d'.i0, i1 := d'.i1, i2 := d'.i2, i3 := d'.i3 })).readMoved c k o (fl ||| f2)

/-- A ganged read-out starts in its leader (R233): the checks of R227; a part on every member with a non-empty share, which
waits there for its path; MST (R229). -/
def State.startGangRead (s : State) (c k : Nat) (o : ReadOp) : State :=
  let x := s.slot c k
  let p := x.m.active
  let fail (sub member : Nat) : State :=
    let o : ReadOp := { o with member := member, stat := .stopped 3 }
    (s.updSlot c k (fun x => Slot.runSigs { x with m := ({ x.m with rop := some o }).nextR })).matFault c k (Exc.of 8 sub) 0 true
  match x.gangPlace with
  | some (g, 0) =>
    if !gangFits p g then fail 1 0
    else
      let gs := s.gangOf c k
      let has (s : State) (i : Nat) (d j : Nat) : Bool :=
        let (ml, nl, _, _) := share p i
        ml != 0 && nl != 0 && (s.slot d j).inGang gs
      let parts := ((List.range gs.length).zip gs).filter (fun (i, d, j) => has s i d j)
      let run : GangRead := { seq := o.seq, bank := o.bank, tgt := o.tgt, left := parts.length }
      let s := s.updSlot c k (fun x => { x with m := { x.m with rop := none, gread := if parts.isEmpty then none else some run } })
      let s := parts.foldl (fun (s : State) (i, d, j) =>
        let (_, _, roff, coff) := share p i
        let part : ReadOp := { o with member := i, roff := roff, coff := coff, placed := true }
        s.updSlot d j (fun y =>
          let m := y.m
          { y with m := if i = 0 then { m with rop := some part } else m.givePart part })) s
      let s := s.setMsts (s.membersOf c k) (fun m => (List.range gs.length).foldl (fun m i =>
        m.setMst i (if parts.any (fun (j, _) => j == i) then 1 else 0)) { m with mst := 0, gop := true })
      s.updSlot c k Slot.runSigs
  | some (_, i) => fail 2 i
  | none => fail 2 1

/-- READOUT_ROWSET: the slot's read-out path advances; what waits there starts once its bank is free (R216). -/
def execReadoutRowset (core slot : Nat) (s : State) : Out :=
  .next (if !(s.core core).owns slot ∨ !s.clockOn core then s
    else
      let x := s.slot core slot
      match x.m.rop with
      | none => s
      | some o =>
        match o.stat with
        | .stopped _ => s
        | .waiting =>
          if x.m.bankHeld o.bank o.seq true then s
          else if o.gang && !o.placed then s.startGangRead core slot o
          else
            let o : ReadOp := { o with stat := .running, begun := true }
            (s.updSlot core slot (fun x => { x with m := { x.m with rop := some o } })).stepReadout core slot o
        | .running => s.stepReadout core slot o)

/-- What the instruction takes at its issue (R75, R231, R400). (DEDUCED, log 91) -/
def Slot.newRead (me : Slot) (x : ReadOutArgs) (cvt int lay : Bool) (round fmt : Nat) : ReadOp :=
  let d := me.desc (fieldNat me.regs.srctx 48 5)
  { seq := me.m.nextSeq, cvt := cvt, gang := x.gang, tgt := x.tgt,
    target := if x.tgt then x.target.toNat else x.target.toNat % 16,
    bank := x.bank.toNat, sig := if x.sig then some x.flag.toNat else none, first := x.first.toNat, rows := x.rows.toNat,
    int := int, lay := lay, round := round, fmt := fmt, stat := .waiting, done := 0, half := false, member := 0, roff := 0,
    coff := 0, placed := false, begun := false, ftz := me.ftzMat, srctx := me.regs.srctx, srbase := me.regs.srbase,
    srkey := d.key, srtensor := d.tensor }

/-- The issue of ACRD or ACCVT (R217, R233): a stopped record of the path is discarded (R235). -/
def State.issueReadout (s : State) (x : ReadOutArgs) (cvt int lay : Bool) (round fmt : Nat) : State :=
  let a := s.agent
  let me := s.own a
  if me.m.pathBusyR then s.block a
  else
    (s.updOwn a (fun y => { y with m := { y.m with nextSeq := y.m.nextSeq + 1, rop := some (me.newRead x cvt int lay round fmt) } })).advance
      a 2

/-- ACRD (R230, R231). -/
def execAcrd (x : ReadOutArgs) (int lay : Bool) (s : State) : Out :=
  s.guarded x.g 2 (fun s => s.issueReadout x false int lay 0 0)
/-- ACCVT (R231). -/
def execAccvt (x : ReadOutArgs) (round : BitVec 3) (fmt : BitVec 4) (s : State) : Out :=
  s.guarded x.g 2 (fun s => s.issueReadout x true false false round.toNat fmt.toNat)

/-! ## MPROG and the records (R235, R237) -/

def OpStat.ended : OpStat → Bool
  | .stopped c => c != 1
  | .waiting => false
  | .running => false

/-- A record that the slot's own MPROG resumes there: one with GANG = 1 only in the leader, `lead`, and there only where its
operation has not started. -/
def ComputeOp.ownRec (lead : Bool) (o : ComputeOp) : Bool :=
  o.stat.ended && (o.kind != CKind.mmg || (lead && !o.placed && o.member == 0))
def ReadOp.ownRec (lead : Bool) (o : ReadOp) : Bool := o.stat.ended && (!o.gang || (lead && !o.placed && o.member == 0))
/-- A member's share or part that the leader's MPROG resumes. -/
def ComputeOp.gangRec (o : ComputeOp) : Bool := o.stat.ended && o.kind == CKind.mmg && o.placed
def ReadOp.gangRec (o : ReadOp) : Bool := o.stat.ended && o.gang && o.placed

/-- The records of a slot that satisfy `pc` and `pr` take CAUSE 01: each waits for its bank like an operation issued now, the
two in their order of issue, and goes on where it stands. -/
def MatState.resume (m : MatState) (pc : ComputeOp → Bool) (pr : ReadOp → Bool) : MatState :=
  let readFirst := m.cop.any (fun o => m.rop.any (fun r => decide (r.seq < o.seq)))
  let seqC := m.nextSeq + b2n readFirst
  let seqR := m.nextSeq + b2n (!readFirst)
  let fc (o : ComputeOp) : ComputeOp := if pc o then { o with stat := .waiting, seq := seqC } else o
  let fr (o : ReadOp) : ReadOp := if pr o then { o with stat := .waiting, seq := seqR } else o
  if m.cop.any pc || m.share.any pc || m.rop.any pr || m.shareR.any pr then
    MatState.next { m with cop := m.cop.map fc, share := m.share.map fc, rop := m.rop.map fr, shareR := m.shareR.map fr,
                           nextSeq := m.nextSeq + 2 }
  else m

/-- The members whose parts of a ganged read-out, or shares of a ganged product, are recorded. -/
def MatState.gangRecC (m : MatState) : Option ComputeOp := (m.cop.toList ++ m.share.toList).find? ComputeOp.gangRec
def MatState.gangRecR (m : MatState) : Option ReadOp := (m.rop.toList ++ m.shareR.toList).find? ReadOp.gangRec

/-- The leader's MPROG resumes the stopped parts of its members, as their records stand, and marks in MST those that it shows
as stopped; a share without cells, which is done, goes along in lockstep (R228, R229, R237). (DESIGN CHOICE, log 114) -/
def State.resumeGang (s : State) (c k : Nat) : State :=
  let gs := s.membersOf c k
  let cs := gs.filterMap (fun (d, j) => (s.slot d j).m.gangRecC)
  let rs := gs.filterMap (fun (d, j) => (s.slot d j).m.gangRecR)
  let s := gs.foldl (fun s (d, j) => s.updSlot d j (fun y => { y with m := y.m.resume ComputeOp.gangRec ReadOp.gangRec })) s
  let s := match rs with
    | r :: _ => s.updSlot c k (fun x => { x with m := { x.m with
        gread := some { seq := x.m.nextSeq - 1, bank := r.bank, tgt := r.tgt, left := rs.length } } })
    | [] => s
  s.setMsts gs (fun m => (if m.gop then rs.map (·.member) else cs.map (·.member)).foldl (fun m i =>
    if fieldNat m.mst (2 * i) 2 = 3 then m.setMst i 1 else m) m)

/-- MPROG (R237). -/
def execMprog (g : Guard) (s : State) : Out :=
  s.guarded g 2 (fun s =>
    let a := s.agent
    let c := agentCore a
    let k := agentSlot a
    let me := s.own a
    let lead := (me.gangPlace.map (·.2)) == some 0
    let gs := if lead then s.membersOf c k else []
    let members := gs.map (fun (d, j) => s.slot d j)
    if me.m.busy || members.any (fun y => y.m.gangBusy) then s.block a
    else
      let gang := members.any (fun y => y.m.gangRecC.isSome || y.m.gangRecR.isSome)
      if !(me.m.cop.any (ComputeOp.ownRec lead) || me.m.rop.any (ReadOp.ownRec lead) || gang) then s.advance a 2
      else
        let s := s.updOwn a (fun x => { x with m := x.m.resume (ComputeOp.ownRec lead) (ReadOp.ownRec lead) })
        (if gang then s.resumeGang c k else s).block a)

/-- CAUSE of a record; 0 while the operation is not stopped. One that MPROG has resumed, `begun`, shows 01 until it goes on. -/
def OpStat.cause (begun : Bool) : OpStat → Nat
  | .stopped c => c
  | .waiting => b2n begun
  | .running => 0

/-- SYS.MPROGC (R235). -/
def MatState.mprogc (m : MatState) : DWord :=
  match m.cop with
  | some o =>
    if (o.stat.cause o.begun) = 0 then 0
    else BitVec.ofNat 64 (2 ^ 63 + (o.stat.cause o.begun) * 2 ^ 61 + b2n (o.kind == CKind.mmg) * 2 ^ 60 + b2n o.ovw * 2 ^ 59 +
      b2n o.sig.isSome * 2 ^ 58 + o.sig.getD 0 * 2 ^ 52 + o.bank * 2 ^ 50 + o.steps)
  | none => 0

/-- SYS.MPROGR (R235). -/
def MatState.mprogr (m : MatState) : DWord :=
  match m.rop with
  | some o =>
    if (o.stat.cause o.begun) = 0 then 0
    else BitVec.ofNat 64 (2 ^ 63 + (o.stat.cause o.begun) * 2 ^ 61 + b2n o.gang * 2 ^ 60 + b2n o.tgt * 2 ^ 59 + b2n o.lay * 2 ^ 58 +
      b2n o.cvt * 2 ^ 57 + o.round * 2 ^ 54 + o.tag * 2 ^ 50 + o.target * 2 ^ 45 + b2n o.sig.isSome * 2 ^ 44 +
      o.sig.getD 0 * 2 ^ 38 + o.bank * 2 ^ 36 + o.first * 2 ^ 29 + o.rows * 2 ^ 22 + o.done * 2 ^ 15)
  | none => 0

end Sys2Proof.Machine
end

