-- ==== Sys2Proof/Machine/MemInstr.lean ====
section
/-! DEFINITION. Class 101 (R260 to R266, R307, R308): loads, stores, atomics, the vector memory instructions, monitors and
FENCE. -/

namespace Sys2Proof.Machine

/-! ## Work that a fence waits for (R292, R296, R301, R308) -/

/-- Commands for copies that have not completed. -/
def State.copies (s : State) : List CopyCmd :=
  s.cores.flatMap (fun (_, x) => x.slots.flatMap (fun (_, y) => y.adm)) ++
  s.bays.flatMap (fun (_, b) => b.npdBuf ++ b.engines.flatMap (fun (_, e) =>
    (e.run.map (·.cmd)).toList ++ e.queue ++ e.ring))

/-- Copies that a stream of a piece has commanded and that still run. -/
def State.copiesBy (s : State) (uid : Nat) (p : CopyCmd → Bool) : Bool :=
  s.copies.any (fun q => (q.who.map (·.1)) == some uid && p q)

def State.nmOf (s : State) (uid : Nat) : Bool := s.dram.nm.any (fun c => c.uid == uid)

/-- Read-outs of a slot, and the parts of its ganged ones on every member, that still write along a descriptor, each with
its slot (R232, R233). -/
def State.readsOut (s : State) (c k : Nat) : List (Nat × Nat × ReadOp) :=
  let m := (s.slot c k).m
  let own := (m.rop.toList.filter (fun o => !o.gang || !o.placed)).map (fun o => (c, k, o))
  let parts := if m.gread.isSome then (s.membersOf c k).flatMap (fun (d, j) =>
    (((s.slot d j).m.rop.toList ++ (s.slot d j).m.shareR.toList).filter (fun o => o.gang && o.placed)).map (fun o => (d, j, o))) else []
  (own ++ parts).filter (fun (_, _, o) => o.live && o.tgt)

/-- The segments of the next `n` row-sets of a walk, which begins again after its last segment (R159). -/
def Desc.rowSegs (d : Desc) : Nat → List Seg
  | 0 => []
  | n + 1 =>
    let (gs, e, _) := d.take d.segs
    gs ++ Desc.rowSegs e n
/-- The segments that a read-out still has to write along its walk. -/
def ReadOp.segsLeft (o : ReadOp) (d : Desc) : List Seg :=
  let sets := ((o.rows + o.q - 1 - o.done) / o.q) * (if !o.cvt && o.lay then 2 else 1) - b2n o.half
  d.rowSegs sets
/-- A segment with bytes in the shared tile area (R188), and one with bytes outside it. -/
def Seg.inSet (g : Seg) (d : Desc) (tile : Bool) : Bool :=
  match g.addr with
  | none => false
  | some a =>
    let lo := a % 2 ^ 24
    if d.space ≠ 0 then !tile
    else if tile then decide (lo < 0x800000) else decide (0x800000 < lo + d.seglen)

/-- A read-out has writes to make in set tile, or in set st, as R171 sorts them. -/
def State.readIn (s : State) (c k : Nat) (tile : Bool) : Bool :=
  (s.readsOut c k).any (fun (d, j, o) =>
    let desc := (s.slot d j).desc o.target
    (o.segsLeft desc).any (fun g => g.inSet desc tile))

/-- Work in the sets of `pred` that a stream has commanded is not yet visible: copies, near-memory commands, read-outs, and
signals that wait for earlier results (R98, R292). (DEDUCED, log 52) -/
def State.workOut (s : State) (a : Agent) (pred : BitVec 6) : Bool :=
  match a with
  | .thread _ => false
  | .strm c k cls =>
    let u := s.uidAt c k
    let sigs := (s.slot c k).sigs.any (fun p => if p.vec then cls == .vec else cls == .mat)
    (pred.getLsbD 2 && s.copiesBy u (fun q => q.cls == cls)) ||
    (pred.getLsbD 4 && cls == .ctl && s.nmOf u) ||
    (pred.getLsbD 1 && (sigs || (cls == .mat && s.readIn c k false))) ||
    (pred.getLsbD 3 && cls == .mat && s.readIn c k true)

/-! ## FENCE -/

/-- FENCE (R308): what the other sets hold is visible as soon as it is performed. -/
def execFence (g : Guard) (scope : BitVec 3) (pred succ : BitVec 6) (s : State) : Out :=
  s.guarded g 2 (fun s => if s.workOut s.agent pred && succ != 0 && scope.toNat ≤ 5 then s.block s.agent else s.advance s.agent 2)

/-! ## LD, ST, AMO, CAS (R261) -/

/-- What an access gives its instruction: the rest of it, a trap, or a wait. -/
def State.got {α : Type} (s : State) (a : Agent) (g : Got α) (k : State → α → State) : State :=
  match g with
  | .ok x => k s x
  | .exc e => s.raise a e
  | .hold => s.block a

/-- Bytes of a SIZE code. -/
def sizeBytes (size : BitVec 3) : Nat := 2 ^ (size.toNat % 4)

/-- The register value of the bytes that LD reads. -/
def loaded (size : BitVec 3) (v : Nat) : DWord :=
  if size.getLsbD 2 then BitVec.ofInt 64 (sext (8 * sizeBytes size) v) else BitVec.ofNat 64 v

def State.ea (s : State) (a : BitVec 6) (off : Off) : Nat := (s.reg s.agent a + offVal off).toNat

/-- LD (R261). -/
def execLd (g : Guard) (size : BitVec 3) (d a : BitVec 6) (off : Off) (s : State) : Out :=
  s.guarded g (offWords off) (fun s =>
    let (t, r) := s.readMem (s.accOf s.agent) (s.ea a off) (sizeBytes size)
    t.got s.agent r (fun t bs => t.result s.agent d (loaded size (leNat bs)) (offWords off)))

/-- ST (R261). -/
def execSt (g : Guard) (size : BitVec 3) (d a : BitVec 6) (off : Off) (s : State) : Out :=
  s.guarded g (offWords off) (fun s =>
    let bs := leBytes (sizeBytes size) (s.reg s.agent d).toNat
    let (t, r) := s.writeMem (s.accOf s.agent) (s.ea a off) bs
    t.got s.agent r (fun t _ => t.advance s.agent (offWords off)))

/-- `Op` of R261 on `n` bits. -/
def amoOp (n op m b : Nat) : Nat :=
  match op with
  | 0 => (m + b) % 2 ^ n
  | 1 => m &&& b
  | 2 => m ||| b
  | 3 => m ^^^ b
  | 4 => if sext n b < sext n m then b else m
  | 5 => if sext n m < sext n b then b else m
  | 6 => min m b
  | 7 => max m b
  | _ => b

/-- A release waits for the stream's earlier engine work (R297). -/
def State.relWait (s : State) (rel : Bool) : Bool := rel && s.workOut s.agent (BitVec.allOnes 6)

/-- AMO (R261). -/
def execAmo (g : Guard) (op : BitVec 4) (_acq rel : Bool) (_scope : BitVec 3) (d a : BitVec 6) (b : Src) (s : State) : Out :=
  s.guarded g (srcWords b) (fun s =>
    if s.relWait rel then s.block s.agent
    else
      let v := (s.src s.agent b).toNat
      let (t, r) := s.atomicMem (s.accOf s.agent) (s.reg s.agent a).toNat 8 (fun m => amoOp 64 op.toNat m v)
      t.got s.agent r (fun t old => t.result s.agent d (BitVec.ofNat 64 old) (srcWords b)))

/-- CAS (R261). -/
def execCas (g : Guard) (_acq rel : Bool) (_scope : BitVec 3) (d a b c : BitVec 6) (s : State) : Out :=
  s.guarded g 2 (fun s =>
    if s.relWait rel then s.block s.agent
    else
      let old := (s.reg s.agent b).toNat
      let new := (s.reg s.agent c).toNat
      let (t, r) := s.atomicMem (s.accOf s.agent) (s.reg s.agent a).toNat 8 (fun m => if m = old then new else m)
      t.got s.agent r (fun t v => t.result s.agent d (BitVec.ofNat 64 v) 2))

/-! ## Monitors (R265) -/

/-- SYS.MON of an agent. -/
def State.mon (s : State) : Agent → DWord
  | .strm c k _ => (s.slot c k).regs.mon
  | .thread t => (s.thread t).mon
def State.setMon (s : State) (a : Agent) (v : DWord) : State :=
  match a with
  | .strm c k _ => s.updSlot c k (fun x => { x with regs := { x.regs with mon := v } })
  | .thread t => s.updThread t (fun x => { x with mon := v })

/-- A monitor's read: never served by forwarding (R255). -/
def State.monRead (s : State) (x : Acc) (a : Nat) : State × Got DWord :=
  match s.check x a 8 .rd with
  | (s, .exc e) => (s, .exc e)
  | (s, .hold _) => (s, .hold)
  | (s, .ok ps _) =>
    let s := ps.foldl (fun (s : State) (p : Part1) =>
      match p.loc with
      | .sp _ _ => s
      | .pa pa _ _ => { s with dram := s.dram.drainLine pa }) s
    match s.readParts ps with
    | (s, .error e) => (s, .exc e)
    | (s, .ok bs) => (s, .ok (BitVec.ofNat 64 (leNat bs)))

/-- MARM (R265). -/
def execMarm (g : Guard) (d a : BitVec 6) (off : Off) (s : State) : Out :=
  s.guarded g (offWords off) (fun s =>
    let ea := s.ea a off
    if ea % 8 ≠ 0 then s.raise s.agent (memExc 1 ea)
    else
      let (t, r) := s.monRead (s.accOf s.agent) ea
      t.got s.agent r (fun t v =>
        (t.setMon s.agent (BitVec.ofNat 64 (2 ^ 63 + ea % 2 ^ 48))).result s.agent d v (offWords off)))

/-- The place of a doubleword, by number: in a scratchpad, or in DRAM. -/
def Loc.dword : Loc → Nat
  | .sp c off => 2 * (c * 2 ^ 21 + off / 8)
  | .pa at1 _ _ => 2 * (at1 / 8) + 1

/-- Writes counted at a place, and the count begun there. -/
def State.writesAt (s : State) (n : Nat) : Nat :=
  if n % 2 = 1 then Tbl.get 0 s.dram.watch (n / 2) else Tbl.get 0 (s.core (n / 2 / 2 ^ 21)).watch (n / 2 % 2 ^ 21)
def State.watchAt (s : State) (n : Nat) : State :=
  if n % 2 = 1 then { s with dram := { s.dram with watch := watching s.dram.watch (n / 2) } }
  else s.updCore (n / 2 / 2 ^ 21) (fun x => { x with watch := watching x.watch (n / 2 % 2 ^ 21) })

/-- Where the doubleword at `a` lies now, through the page tables where no entry is cached and without a read. -/
def State.liesAt (s : State) (x : Acc) (a : Nat) : Option Nat :=
  match (s.check { x with sync := true } a 8 .rd).2 with
  | .ok ps _ => ps.head?.map (fun p => p.loc.dword)
  | .exc _ | .hold _ => none

/-- Saves of the piece of an agent (R391). -/
def State.savesOf (s : State) : Agent → Nat
  | .strm c k _ => (s.slot c k).regs.saves.toNat
  | .thread _ => 0

/-- A blocked MWAIT or SWAIT reads its doubleword again: a write to it has come since its last read, the piece has been saved
since, or the address leads to another place now (R265, R284). (DEDUCED, log 101) -/
def State.readsAgain (s : State) (a : Agent) (x : Acc) (at1 : Nat) : Bool :=
  match (s.strm a).watch with
  | none => true
  | some w => s.writesAt w.place != w.writes || s.savesOf a != w.saves || (s.liesAt x at1).any (fun n => n != w.place)

/-- The stream blocks until that doubleword has been written. -/
def State.waitFor (s : State) (a : Agent) (x : Acc) (at1 : Nat) : State :=
  match s.liesAt x at1 with
  | none => s.block a
  | some n =>
    let s := s.watchAt n
    s.updStrm a (fun t => { t with mode := .blocked, watch := some { place := n, saves := s.savesOf a, writes := s.writesAt n } })

/-- MWAIT (R265): it reads as it issues and, blocked, after each write to the doubleword. -/
def execMwait (g : Guard) (ne : Bool) (d : BitVec 6) (b : Src) (s : State) : Out :=
  s.guarded g (srcWords b) (fun s =>
    let a := s.agent
    let m := s.mon a
    let at1 := fieldNat m 0 48
    if !m.getLsbD 63 then s.result a d 0 (srcWords b)
    else if !s.readsAgain a (s.accOf a) at1 then s.block a
    else
      let (t, r) := s.monRead (s.accOf a) at1
      t.got a r (fun t v =>
        let w := s.srcZ a b
        if (if ne then v != w else w.ule v) then t.result a d v (srcWords b)
        else t.waitFor a (t.accOf a) at1))

/-! ## Vector loads and stores (R262, R263) -/

/-- Which bytes of `size`-byte elements the lanes cover. -/
def laneBytes (size : Nat) (lanes : Mask) : List Bool := (maskLanes lanes).flatMap (List.replicate size)

/-- The bytes of one line: its address, and which of them are covered. -/
def coverFrom : List (Nat × Nat) → List Bool → List (Nat × List Bool)
  | [], _ => []
  | (a, n) :: r, bs => (a, bs.take n) :: coverFrom r (bs.drop n)
def coverage (a : Nat) (bs : List Bool) : List (Nat × List Bool) := coverFrom (pieces a bs.length) bs

/-- Uncovered bytes at the two ends of a line's part. -/
def lead (c : List Bool) : Nat := (c.takeWhile (!·)).length
def trail (c : List Bool) : Nat := (c.reverse.takeWhile (!·)).length
/-- The part of each line from its first to its last covered byte. -/
def hulls (cs : List (Nat × List Bool)) : List (Nat × Nat) :=
  cs.filterMap (fun (a, c) => if c.any id then some (a + lead c, c.length - lead c - trail c) else none)

/-- The bytes read, in place among zeros. -/
def spread : List (Nat × List Bool) → List Byte → List Byte
  | [], _ => []
  | (_, c) :: r, bs =>
    if c.any id then
      let n := c.length - lead c - trail c
      List.replicate (lead c) 0 ++ bs.take n ++ List.replicate (trail c) 0 ++ spread r (bs.drop n)
    else List.replicate c.length 0 ++ spread r bs

/-- The address of VLD and VST. -/
def State.vea (s : State) (imm : VImm) : Nat :=
  let n := match imm with | .imm o => o.toNat | .lit w => w.toNat
  ((s.own s.agent).regs.vbase.toNat + n) % 2 ^ 64

/-- A vector memory access whose reply is still to come (R127, R389). -/
def Slot.issueMem (x : Slot) (lat : Nat) (dest : VDest) (lanes : Mask) (addr : DWord) (elem : Option Nat)
    (arrived : Bool) (fault : Option (Nat × DWord × Nat)) : Slot :=
  let r : InFlight :=
    { ix := x.v.nextIx, due := x.v.beat + lat, issued := x.v.beat, line := x.vec.line, word := x.vec.word, dest := dest,
      lanes := lanes, flags := 0, arrived := arrived, fault := fault, addr := addr, elem := elem, landing := false }
  { x with v := { x.v with nextIx := x.v.nextIx + 1, inflight := x.v.inflight ++ [r] } }

def elemSize (w : Bool) : Nat := if w then 4 else 2
/-- Elements from bytes. -/
def splitElems (w : Bool) (bs : List Byte) : List Nat := unpackNat (8 * elemSize w) 1024 (leNat bs)

/-- VLD (R262): the bytes are read now, and the reply comes later. -/
def execVld (g : Guard) (w : Bool) (mask : BitVec 4) (d : BitVec 10) (imm : VImm) (s : State) : Out :=
  s.guarded g (vimmWords imm) (fun s =>
    let a := s.agent
    let me := (s.own a).seen
    let lanes := me.v.mask mask.toNat
    let ea := s.vea imm
    let cs := coverage ea (laneBytes (elemSize w) lanes)
    let lat := if w then 10 else 8
    match s.checkParts (s.accOf a) .rd false (hulls cs) with
    | (t, .exc e) => t.raise a e
    | (t, .hold _) => t.block a
    | (t, .ok ps _) =>
      let put (t : State) (dest : VDest) (f : Option (Nat × DWord × Nat)) : State :=
        (t.updOwn a (fun x => x.issueMem lat dest lanes (BitVec.ofNat 64 ea) none false f)).advance a (vimmWords imm)
      match t.readParts ps with
      | (t, .error e) => put t .none (some (e.sub, e.addr, 0))
      | (t, .ok bs) => put t (.regs (me.v.dest w d.toNat (splitElems w (spread cs bs)))) none)

/-- The line read that a masked write of a part needs (R254). -/
def State.primeMasked (s : State) (p : Part1) (c : List Bool) : State × Option Exc :=
  match p.loc with
  | .sp _ _ => (s, none)
  | .pa pa key _ =>
    if s.dram.fenced pa then (s, some (memExc 3 p.addr))
    else
      match s.readForWrite pa (c.filter id).length key with
      | (s, true) => (s, none)
      | (s, false) => (s, some (memExc 2 p.addr))

/-- The covered bytes of one part are written. -/
def State.writeMasked (s : State) (p : Part1) (c : List Bool) (bs : List Byte) : State :=
  match p.loc with
  | .sp k off =>
    s.updCore k (fun x => ((List.range p.len).zip (c.zip bs)).foldl (fun x (i, v, b) => if v then x.write (off + i) [b] else x) x)
  | .pa pa key cnt =>
    let bm : BitVec 64 := BitVec.ofNat 64 (packNat 1 (c.map b2n) * 2 ^ (pa % 64))
    let w : QWrite :=
      { line := pa / 64, data := BitVec.ofNat 512 (leNat bs <<< (8 * (pa % 64))), bm := bm, key := key }
    State.count { s with dram := s.dram.push w } pa key cnt

/-- VST's lines in increasing address: each with its cover and bytes (R262). -/
def State.writeCover (s : State) : List (Part1 × List Bool × List Byte) → State × Option Exc
  | [] => (s, none)
  | (p, c, bs) :: r =>
    match s.primeMasked p c with
    | (s, some e) => (s, some e)
    | (s, none) => State.writeCover (s.writeMasked p c bs) r

/-- Covers and bytes of the parts that are written, trimmed to them. -/
def coverBytes : List (Nat × List Bool) → List Byte → List (List Bool × List Byte)
  | [], _ => []
  | (_, c) :: r, bs =>
    let rest := coverBytes r (bs.drop c.length)
    if c.any id then
      let n := c.length - lead c - trail c
      ((c.drop (lead c)).take n, ((bs.take c.length).drop (lead c)).take n) :: rest
    else rest

/-- VST (R262). -/
def execVst (g : Guard) (w : Bool) (mask : BitVec 4) (d : BitVec 10) (imm : VImm) (s : State) : Out :=
  s.guarded g (vimmWords imm) (fun s =>
    let a := s.agent
    let me := (s.own a).seen
    let cs := coverage (s.vea imm) (laneBytes (elemSize w) (me.v.mask mask.toNat))
    let bs := leBytes (1024 * elemSize w) (packNat (8 * elemSize w) (me.v.elems w d.toNat))
    match s.checkParts (s.accOf a) .wr false (hulls cs) with
    | (t, .exc e) => t.raise a e
    | (t, .hold _) => t.block a
    | (t, .ok ps _) =>
      match t.writeCover (ps.zip (coverBytes cs bs)) with
      | (t, some e) => t.raise a e
      | (t, none) => t.advance a (vimmWords imm))

/-- VST.q (R263). -/
def execVstQ (g : Guard) (w : Bool) (q : BitVec 4) (a : BitVec 10) (fmt : BitVec 4) (s : State) : Out :=
  s.guarded g 2 (fun s =>
    let me := (s.own s.agent).seen
    let n := if w then 2 else 1
    if !(me.queue q.toNat).putBy 3 then s.raise s.agent (Exc.of 3 3)
    else if (me.queue q.toNat).room < n then s.block s.agent
    else
      let entry (x : RowSet) : QEntry :=
        { rows := x, side := 0, pad := false, last := false, scv := false, fmt := fmt.toNat }
      let rows := (List.range n).map (fun i => me.v.log (a.toNat + i))
      (rows.foldl (fun (s : State) x => s.putQ (agentCore s.agent) (agentSlot s.agent) q.toNat (entry x)) s).advance s.agent 2)

/-! ## VAMO (R264) -/

/-- One element: its index, address and operand. -/
abbrev VElem := Nat × Nat × Nat

/-- The elements in increasing index, each indivisibly; old values so far, and the fault that ends them. (DEDUCED, log 27) -/
def State.vamoRun (s : State) (x : Acc) (op : Nat) : List VElem → State × List (Nat × Nat) × Option (Nat × Exc)
  | [] => (s, [], none)
  | (e, a, b) :: r =>
    match s.atomicMem x a 4 (fun m => amoOp 32 op m b) with
    | (s, .ok old) =>
      let (s, olds, f) := State.vamoRun s x op r
      (s, (e, old) :: olds, f)
    | (s, .exc ex) => (s, [], some (e, ex))
    | (s, .hold) => (s, [], some (e, memExc 2 a))

/-- VAMO (R264): every address is checked before any element is performed; of several misaligned ones the lowest element's is
told (DESIGN CHOICE, log 117). With RET 0 no reply is awaited, and a fault at element `e` is the instruction's own: what is
left of it stands at `e` (R378, R387, R474). -/
def execVamo (g : Guard) (op : BitVec 4) (ret : Bool) (mask : BitVec 4) (d a : BitVec 10) (b : VSrcB) (s : State) : Out :=
  s.guarded g (vsrcBWords b) (fun s =>
    let ag := s.agent
    let me := (s.own ag).seen
    let start := ((s.strm ag).again).getD 0
    let lanes := me.v.mask mask.toNat
    let offs := me.v.elems true a.toNat
    let opnds := (me.srcB true b).1
    let es : List VElem := ((List.range 1024).zip ((maskLanes lanes).zip (offs.zip opnds))).filterMap
      (fun (e, l, o, v) => if l && decide (start ≤ e) then some (e, (me.regs.vbase.toNat + o) % 2 ^ 64, v) else none)
    let acc := s.accOf ag
    match es.find? (fun (_, a, _) => a % 4 ≠ 0) with
    | some (_, a, _) => s.raise ag { memExc 1 a with info := BitVec.ofNat 64 start }
    | none =>
      match s.checkParts acc .at false (es.map (fun (_, a, _) => (a, 4))) with
      | (t, .exc ex) => t.raise ag ex
      | (t, .hold _) => t.block ag
      | (t, .ok _ _) =>
        let (t, olds, f) := t.vamoRun { acc with sync := true } op.toNat es
        let addr := BitVec.ofNat 64 (match es.head? with | some (_, a, _) => a | none => 0)
        let first := (es.head?).map (fun (e, _, _) => e)
        let done := olds.foldl (fun m (e, _) => m ||| ((1 : Mask) <<< e)) 0
        let vals := (List.range 1024).map (fun e => Tbl.get 0 olds e)
        let put (x : Slot) : Slot :=
          let x := x.issueMem 24 (.regs (me.v.dest true d.toNat vals)) done addr first false none
          match f with
          | some (e, ex) => x.issueMem 24 .none 0 ex.addr (some e) false (some (ex.sub, ex.addr, e))
          | none => x
        if ret then (t.updOwn ag put).advance ag (vsrcBWords b)
        else
          match f with
          | some (e, ex) =>
            (t.updStrm ag (fun st => { st with again := some e })).raise ag { ex with info := BitVec.ofNat 64 e }
          | none => t.advance ag (vsrcBWords b))

end Sys2Proof.Machine
end

