-- ==== Sys2Proof/Machine/TileInstr.lean ====
section
/-! DEFINITION. The tile instructions (R207 to R214) and the ring rotation (R202, R203). -/

namespace Sys2Proof.Machine

/-- A tile fault of a tile instruction: INFO names the tile (R383). -/
def tileExc (sub n : Nat) : Exc := { Exc.of 4 sub with info := BitVec.ofNat 64 (n % 512) }

/-- What an operation on a tile entry answers. -/
inductive TileDo where
  | set (t : Tile)
  | wait
  | fault (sub : Nat)
  deriving DecidableEq, Repr

/-- A tile instruction over one entry of the own core: no number above 511 (R207), no FREE entry (R206). -/
def State.tileOp (s : State) (g : Guard) (n : TileRef) (words : Nat) (f : State → Tile → TileDo) : Out :=
  s.guarded g words (fun s =>
    let a := s.agent
    let c := agentCore a
    match s.tileNo a n with
    | none => s.raise a (tileExc 6 (match n with | .reg r => (s.reg a r).toNat | .imm _ => 0))
    | some i =>
      let t := (s.core c).tile i
      if t.state = 0 then s.raise a (tileExc 4 i)
      else
        match f s t with
        | .set u => (s.putTile c i u).advance a words
        | .wait => s.block a
        | .fault k => s.raise a (tileExc k i))

def State.selfCode (s : State) : Nat := slotCode (agentCore s.agent) (agentSlot s.agent)

/-- TALLOC (R208). -/
def execTalloc (g : Guard) (win : Bool) (d : BitVec 6) (n : TileRef) (size : Src) (key : BitVec 6) (s : State) : Out :=
  s.guarded g (srcWords size) (fun s =>
    let a := s.agent
    let c := agentCore a
    let sz := (s.srcZ a size).toNat
    let k := s.reg a key
    let say (v : Nat) (s : State) : State := s.result a d (BitVec.ofNat 64 v) (srcWords size)
    match s.tileNo a n with
    | none => say 1 s
    | some i =>
      if sz = 0 ∨ 4096 < sz ∨ 2 ^ 32 ≤ k.toNat then say 2 s
      else if ((s.core c).tile i).state ≠ 0 then say 3 s
      else
        match (s.core c).findRun sz with
        | none => say 4 s
        | some b =>
          let t : Tile := { Tile.free with state := 1, win := win, baseg := b, sizeg := sz, key := k.setWidth 32 }
          say 0 (s.putTile c i t))

/-- TFREE (R209). -/
def execTfree (g : Guard) (n : TileRef) (s : State) : Out :=
  s.tileOp g n 2 (fun _ t => if t.state = 1 ∨ t.state = 3 then .set Tile.free else .fault 6)

/-- The tile that a claim names, and the state that it waits for. -/
def claimOf : Instr → Option (TileRef × Nat)
  | .tsetFill _ n => some (n, 1)
  | .tsetFillfor _ n _ => some (n, 1)
  | .tsetDrain _ n => some (n, 3)
  | _ => none

/-- A slot below slot `k` of the core waits with a claim for tile `n` in state `want`: it goes first (R197, R210). -/
def State.lowerClaim (s : State) (c k n want : Nat) : Bool :=
  (List.range k).any (fun j =>
    let a : Agent := .strm c j .ctl
    (s.slot c j).phase == .running && (s.strm a).mode == .blocked &&
    (match s.decodeAt a with
     | .ok i => (claimOf i).any (fun (r, w) => w == want && s.tileNo a r == some n)
     | .error _ => false))

/-- A claim of TSET: once the tile stands in its state, and no lower slot waits with one. -/
def State.claimTile (s : State) (n : TileRef) (t : Tile) (want : Nat) (u : Tile) : TileDo :=
  let a := s.agent
  if t.state = want ∧ !s.lowerClaim (agentCore a) (agentSlot a) ((s.tileNo a n).getD 0) want then .set u else .wait

/-- TSET.fill (R210). -/
def execTsetFill (g : Guard) (n : TileRef) (s : State) : Out :=
  s.tileOp g n 2 (fun s t => s.claimTile n t 1 (t.fill s.selfCode 0))

/-- The consumer named by TSET.fillfor is any reader, or a slot of the partition (R192, R210). -/
def State.consumerOk (s : State) (v : DWord) : Bool :=
  v.toNat < 2048 &&
    (match fieldNat v 9 2 with
     | 0 => fieldNat v 0 9 == 0
     | 1 => s.holdsCore (s.partOf s.agent) (fieldNat v 2 7)
     | _ => false)

/-- TSET.fillfor (R210). -/
def execTsetFillfor (g : Guard) (n : TileRef) (b : Src) (s : State) : Out :=
  s.tileOp g n (srcWords b) (fun s t =>
    let v := s.src s.agent b
    if !s.consumerOk v then .fault 6
    else s.claimTile n t 1 (t.fill s.selfCode v.toNat))

/-- TSET.drain (R210). -/
def execTsetDrain (g : Guard) (n : TileRef) (s : State) : Out :=
  s.tileOp g n 2 (fun s t => s.claimTile n t 3 (t.drain s.selfCode))

/-- TSET.abort (R210). -/
def execTsetAbort (g : Guard) (n : TileRef) (s : State) : Out :=
  s.tileOp g n 2 (fun s t =>
    if t.state = 2 ∧ t.prod = s.selfCode then .set t.toEmpty
    else if t.state = 4 ∧ t.cons = s.selfCode then .set t.unDrain
    else .fault 6)

/-- TSET.adv (R201, R210). -/
def execTsetAdv (g : Guard) (n : TileRef) (s : State) : Out :=
  s.tileOp g n 2 (fun _ t =>
    if !t.win ∨ (t.state ≠ 1 ∧ t.state ≠ 3) then .fault 6
    else .set { t.toEmpty with widx := t.widx + 1, origin := t.origin + t.wstep })

/-- TSET.org (R210). -/
def execTsetOrg (g : Guard) (n : TileRef) (b : Src) (s : State) : Out :=
  s.tileOp g n (srcWords b) (fun s t => if t.win then .set { t with origin := s.src s.agent b } else .fault 6)

/-- TSET.wstep (R210). -/
def execTsetWstep (g : Guard) (n : TileRef) (b : Src) (s : State) : Out :=
  s.tileOp g n (srcWords b) (fun s t => if t.win then .set { t with wstep := s.src s.agent b } else .fault 6)

/-- TSET.key (R210). -/
def execTsetKey (g : Guard) (n : TileRef) (b : Src) (s : State) : Out :=
  s.tileOp g n (srcWords b) (fun s t =>
    let v := s.src s.agent b
    if 2 ^ 32 ≤ v.toNat ∨ t.state ≠ 1 then .fault 6 else .set { t with key := v.setWidth 32 })

/-- A doubleword of a tile table entry (R191). -/
def Tile.dword (t : Tile) (w : Nat) : DWord :=
  match w with
  | 0 => BitVec.ofNat 64 (t.state * 2 ^ 53 + b2n t.win * 2 ^ 52 + t.baseg * 2 ^ 36 + t.sizeg * 2 ^ 23 + t.prod * 2 ^ 11 +
      t.cons)
  | 1 => BitVec.ofNat 64 (t.key.toNat * 2 ^ 32 + t.widx.toNat * 2 ^ 16)
  | 2 => t.origin
  | _ => t.wstep

/-- TQRY (R212): the entry at the end of the core cycle before. -/
def execTqry (g : Guard) (d : BitVec 6) (n : TileRef) (w : BitVec 2) (s : State) : Out :=
  s.guarded g 2 (fun s =>
    let a := s.agent
    match s.tileNo a n with
    | none => s.raise a (tileExc 6 (match n with | .reg r => (s.reg a r).toNat | .imm _ => 0))
    | some i => s.result a d (((s.core (agentCore a)).tileOld i).dword w.toNat) 2)

/-- TPOST (R211): a release, which holds its stream until the stream's copies and near-memory commands are visible (R297). -/
def execTpost (g : Guard) (_scope : BitVec 3) (n : TileRef) (s : State) : Out :=
  s.tileOp g n 2 (fun s t =>
    if s.relWait true then .wait
    else if t.state = 2 ∧ t.prod = s.selfCode then .set t.toReady
    else if t.state = 4 ∧ t.cons = s.selfCode then .set t.toEmpty
    else .fault 6)

/-! ## Rotation -/

/-- The cores of a mask, in increasing ring position. -/
def ringCores (bay mask : Nat) : List Nat := ((List.range 6).filter (fun i => mask.testBit i)).map (6 * bay + ·)

/-- The participant that receives from `c` (R202). -/
def ringNext (cs : List Nat) (dn : Bool) (c : Nat) : Nat :=
  let i := cs.idxOf c
  let n := cs.length
  (cs[(if dn then i + n - 1 else i + 1) % n]?).getD c

/-- Every participant's pending TROT, in ring order; none while one is missing. -/
def State.rots (s : State) (cs : List Nat) : Option (List (Nat × Rot)) :=
  cs.foldr (fun c acc =>
    match acc, (s.core c).rot with
    | some l, some r => some ((c, r) :: l)
    | _, _ => none) (some [])

/-- Some source differs in size from the destination that it would fill (R203). (DEDUCED, log 42) -/
def State.rotMismatch (s : State) (cs : List Nat) (rs : List (Nat × Rot)) : Bool :=
  rs.any (fun (c, r) =>
    let n := ringNext cs r.dn c
    match (s.core n).rot with
    | some q => ((s.core c).tile r.src).sizeg != ((s.core n).tile q.dst).sizeg
    | none => false)

/-- The tile fault of a TROT whose stream has gone on: the synchronous trap of that TROT, held for its control stream
(R203, R378). -/
def rotFault (r : Rot) : HeldTrap :=
  { cause := 4, sub := 7, strm := 0, addr := 0, info := BitVec.ofNat 64 r.dst, line := r.line, word := r.word, beats := 0, sync := true }

def State.dropRots (s : State) (cs : List Nat) : State := cs.foldl (fun s c => s.updCore c (fun x => { x with rot := none })) s

/-- TROT (R202, R203): the last to issue checks the sizes. -/
def execTrot (g : Guard) (dn : Bool) (dst src : BitVec 9) (mask : BitVec 6) (sig : Option (BitVec 6)) (s : State) : Out :=
  s.guarded g 2 (fun s =>
    let a := s.agent
    let c := agentCore a
    let x := s.core c
    let bay := bayOf c
    let cs := ringCores bay mask.toNat
    if (x.tile src.toNat).state = 0 then s.raise a (tileExc 4 src.toNat)
    else if (x.tile dst.toNat).state = 0 then s.raise a (tileExc 4 dst.toNat)
    else if cs.length < 2 ∨ !cs.contains c then s.raise a (tileExc 7 dst.toNat)
    else if x.rot.isSome then s.block a
    else if cs.any (fun d => d != c && (match (s.core d).rot with
        | some r => r.mask != mask.toNat || r.dn != dn
        | none => false)) then s.raise a (tileExc 7 dst.toNat)
    else
      let r : Rot := { src := src.toNat, dst := dst.toNat, mask := mask.toNat, dn := dn, slot := agentSlot a,
                       uid := s.uidAt c (agentSlot a), sig := sig.map (·.toNat), started := false,
                       line := (s.strm a).line, word := (s.strm a).word }
      let t := s.updCore c (fun x => { x with rot := some r })
      match t.rots cs with
      | none => t.advance a 2
      | some rs =>
        if t.rotMismatch cs rs then
          let s := rs.foldl (fun (s : State) (d, q) =>
            if d = c then s else s.updPiece q.uid (fun y => y.hold (rotFault q))) s
          (s.dropRots cs).raise a (tileExc 7 dst.toNat)
        else t.advance a 2)

/-- The participants of the rotation that a core's pending TROT belongs to, once every one has issued. -/
def State.rotParts (s : State) (core : Nat) : Option (List Nat × List (Nat × Rot)) :=
  (s.core core).rot.bind (fun r => (s.rots (ringCores (bayOf core) r.mask)).map (fun rs => (ringCores (bayOf core) r.mask, rs)))

/-- The same for a turn of the bay in which every participant's clock is on. -/
def State.rotSet (s : State) (bay core : Nat) : Option (List Nat × List (Nat × Rot)) :=
  (s.rotParts core).filter (fun (cs, _) => bayOf core == bay && cs.all s.clockOn)

/-- Every participant has issued, every source is READY and every destination EMPTY: the rotation starts in this cycle. -/
def State.rotDue (s : State) (rs : List (Nat × Rot)) : Bool :=
  rs.all (fun (c, r) => !r.started && ((s.core c).tile r.src).state == 3 && ((s.core c).tile r.dst).state == 1)

/-- The tiles of a rotation that starts pass to DRAINING and FILLING; `no`: the step whose transitions they are (R197). -/
def State.startRot (s : State) (no : Nat) (rs : List (Nat × Rot)) : State :=
  rs.foldl (fun (s : State) (c, r) => s.updCore c (fun x =>
    let x := x.putTile no r.src ((x.tile r.src).drain rotCode)
    { (x.putTile no r.dst ((x.tile r.dst).fill rotCode 0)) with rot := some { r with started := true } })) s

/-- Rotations that are due start in the first core cycle in which every participant's clock is on, here one of the `n` from
`from1` on (R203); the accesses of a step that follows in that cycle do not see it yet (R197). -/
def State.startRots (s : State) (from1 n : Nat) : State :=
  s.cores.foldl (fun (s : State) (c, _) =>
    match s.rotParts c with
    | none => s
    | some (cs, rs) =>
      if s.rotDue rs && (List.range (min n 256)).any (fun i => cs.all (fun d => s.clockAt d (from1 + i))) then s.startRot 0 rs else s) s

/-- ROTATION_START (R203): every source READY, every destination EMPTY. -/
def execRotationStart (bay core : Nat) (s : State) : Out :=
  .next (match s.rotSet bay core with
    | none => s
    | some (_, rs) => if s.rotDue rs then s.startRot s.stepNo rs else s)

/-- The bytes of a slice written over an area. -/
def memPaste (m : Memory) (a n : Nat) (slice : Memory) : Memory :=
  slice.foldr (fun (i, b) m => memPut m (a + i) b) (memClear m a n)
def Core.paste (x : Core) (a n : Nat) (slice : Memory) : Core :=
  { x with scratch := memPaste x.scratch a n slice,
           watch := touch (fun k => decide (a < 8 * k + 8) && decide (8 * k < a + n)) x.watch }

/-- ROTATION_END (R203): contents move, sources pass to EMPTY, destinations to READY, flags are signalled. -/
def execRotationEnd (bay core : Nat) (s : State) : Out :=
  .next (match s.rotSet bay core with
    | none => s
    | some (cs, rs) =>
      if !rs.all (fun (_, r) => r.started) then s
      else
        let moved := rs.foldl (fun (t : State) (c, r) =>
          let from1 := (s.core c).tile r.src
          let bytes := memSlice (s.core c).scratch (from1.baseg * 2048) (from1.sizeg * 2048)
          let n := ringNext cs r.dn c
          match (s.core n).rot with
          | some q => t.updCore n (fun x =>
              let dest := x.tile q.dst
              x.paste (dest.baseg * 2048) (dest.sizeg * 2048) bytes)
          | none => t) s
        rs.foldl (fun (t : State) (c, r) =>
          let t := t.updCore c (fun x =>
            let x := x.putTile t.stepNo r.src (x.tile r.src).toEmpty
            { (x.putTile t.stepNo r.dst (x.tile r.dst).toReady) with rot := none })
          match r.sig with
          | some f => t.updPiece r.uid (fun y => y.addFlag f 1)
          | none => t) moved)

/-! ## Residency and addresses -/

/-- TRES (R213). -/
def execTres (g : Guard) (d a : BitVec 6) (core : Option (BitVec 6)) (s : State) : Out :=
  s.guarded g 2 (fun s =>
    let ag := s.agent
    let c := match core with | some r => (s.reg ag r).toNat | none => agentCore ag
    let key := (s.reg ag a).toNat
    let v : DWord :=
      if !s.holdsCore (s.partOf ag) c then BitVec.allOnes 64
      else if key = 0 ∨ 2 ^ 32 ≤ key then 0
      else
        let (r, f, n) := (s.core c).residency key
        BitVec.ofNat 64 (n * 2 ^ 32 + f * 2 ^ 16 + r)
    s.result ag d v 2)

/-- TADDR (R214). A register's tile number above 511 is the tile fault of R207 in both forms, though R214 says of TADDR.r
that it never faults. (DESIGN CHOICE, log 102) -/
def execTaddr (g : Guard) (d : BitVec 6) (n : TileRef) (b : BitVec 6) (core : Option (BitVec 6)) (s : State) : Out :=
  s.guarded g 2 (fun s =>
    let a := s.agent
    let c := match core with | some r => (s.reg a r).toNat | none => agentCore a
    match s.tileNo a n with
    | none => s.raise a (tileExc 6 (match n with | .reg r => (s.reg a r).toNat | .imm _ => 0))
    | some i =>
      let t := (s.core c).tile i
      let off := (s.reg a b).toNat
      let v : DWord :=
        if !s.holdsCore (s.partOf a) c ∨ t.state = 0 ∨ t.sizeg * 2048 ≤ off then BitVec.allOnes 64
        else BitVec.ofNat 64 (c * 2 ^ 24 + t.baseg * 2048 + off)
      s.result a d v 2)

end Sys2Proof.Machine
end

