-- ==== Sys2Proof/Machine/Place.lean ====
section
/-! DEFINITION. Task headers and their checks (R310, R311), the dispatchers' views and placement (R205, R320, R321, R327),
task queues and their spill rings (R312, R316, R319). -/

namespace Sys2Proof.Machine

/-! ## The header (R310) -/

def hw (h : List DWord) (i : Nat) : DWord := h.getD i 0
def hfld (h : List DWord) (i lo k : Nat) : Nat := fieldNat (hw h i) lo k

def hLevel (h : List DWord) : Nat := hfld h 4 61 3
def hDomain (h : List DWord) : Nat := hfld h 4 45 16
def hRscope (h : List DWord) : Nat := hfld h 4 42 3
def hCkind (h : List DWord) : Nat := hfld h 4 40 2
def hGang (h : List DWord) : Nat := hfld h 4 37 3
def hGlean (h : List DWord) : Bool := (hw h 4).getLsbD 36
def hPin (h : List DWord) : Nat := hfld h 4 34 2
def hRadius (h : List DWord) : Nat := hfld h 4 32 2
def hCopyw (h : List DWord) : Nat := hfld h 4 24 8
def hTarget (h : List DWord) : Nat := (hw h 5).toNat
def hCseq (h : List DWord) : Nat := hfld h 6 0 48
def hWeight (h : List DWord) (i : Nat) : Nat := hfld h (8 + i) 56 8
def hKey (h : List DWord) (i : Nat) : Nat := hfld h (8 + i) 0 32

def wordsOf : Nat → List Byte → List DWord
  | 0, _ => []
  | n + 1, bs => BitVec.ofNat 64 (leNat (bs.take 8)) :: wordsOf n (bs.drop 8)

/-- Fields of the partition's NPD record (R340). -/
def Part.ebase (x : Part) : Nat := fieldNat x.npart0 0 16
def Part.ecount (x : Part) : Nat := fieldNat x.npart0 32 17
def Part.cbase (x : Part) : Nat := fieldNat x.npart1 0 16
def Part.ccount (x : Part) : Nat := fieldNat x.npart1 32 17
def Part.job (x : Part) : Nat := fieldNat x.npart2 40 24
def Part.self (x : Part) : Nat := fieldNat x.npart2 26 14
def Part.tquota (x : Part) : Nat := fieldNat x.npart2 15 11
def Part.rsquota (x : Part) : Nat := fieldNat x.npart2 6 9
def Part.evline (x : Part) : Nat := fieldNat x.npart3 24 13
def Part.peercnt (x : Part) : Nat := fieldNat x.npart3 4 15
def Part.hasCounter (x : Part) (n : Nat) : Bool := decide (x.cbase ≤ n) && decide (n < x.cbase + x.ccount)
def Part.hasEntry (x : Part) (n : Nat) : Bool := decide (x.ebase ≤ n) && decide (n < x.ebase + x.ecount)
/-- The counters and entries that a partition may use; partition 0 the whole table (R339, R351). -/
def State.hasCounter (s : State) (p n : Nat) : Bool := if p = 0 then decide (n < 65536) else (s.part p).hasCounter n
def State.hasEntry (s : State) (p n : Nat) : Bool := if p = 0 then decide (n < 65536) else (s.part p).hasEntry n
def domKey (level d : Nat) : Nat := level * 65536 + d
def Part.dom (x : Part) (level d : Nat) : Option Domain :=
  (x.doms.find? (fun (i, _) => i == domKey level d)).map (·.2)

/-- The core lies in the unit to which the domain is bound (R33). -/
def unitHas (level unit c : Nat) : Bool :=
  match level with
  | 1 => c == unit
  | 2 => bayOf c == unit
  | 3 => dieOf c == unit
  | _ => true

/-- How a header reaches the queue (R311, R333). -/
inductive EnqForm where
  | task | split | gang | launch
  deriving DecidableEq, Repr

def hReserved (h : List DWord) : Bool :=
  hfld h 3 20 4 != 0 || hfld h 4 0 24 != 0 || hfld h 6 48 16 != 0 || hfld h 7 53 11 != 0 || hfld h 7 0 17 != 0 ||
  (List.range 8).any (fun i => hfld h (8 + i) 32 24 != 0) ||
  6 ≤ hRscope h || hGang h == 1 || hGang h == 7 || hPin h == 3

/-- The completion target is malformed, or outside the partition (code 6). -/
def State.badTarget (s : State) (p : Nat) (counterIn : Nat → Bool) (h : List DWord) : Bool :=
  let t := hTarget h
  match hCkind h with
  | 0 => t != 0
  | 1 => decide (65536 ≤ t) || !counterIn t
  | 2 => decide (32768 ≤ t) || !s.holdsCore p (t / 256)
  | _ => t % 8 != 0

/-- The first failing code of R311 after the alignment of the address; 0 where the header is accepted. (DEDUCED, log 55) -/
def State.checkHeader (s : State) (p : Nat) (form : EnqForm) (h : List DWord) : Nat :=
  let x := s.part p
  if hReserved h then 2
  else if hw h 2 = 0 ∨ (hw h 1).toNat ≤ (hw h 0).toNat then 3
  else if 1024 < hfld h 7 42 11 ∨ 1024 < hfld h 7 31 11 ∨ 16 < hfld h 7 26 5 ∨ 32 < hfld h 7 20 6 ∨ 4 < hfld h 7 17 3 then 4
  else
    match (if hLevel h ≤ 5 then x.dom (hLevel h) (hDomain h) else none) with
    | none => 5
    | some d =>
      if !(s.coresOf p).any (unitHas (hLevel h) d.unit) then 5
      else if s.badTarget p (s.hasCounter p) h then 6
      else
        let gangBad := match form with
          | .gang => hGang h == 0
          | .launch => false
          | .task | .split => hGang h != 0
        if gangBad || (hGang h != 0 && (hGlean h || hLevel h == 1)) || (form == .split && hCkind h == 3) then 7 else 0

/-- The unit of a header's domain. -/
def State.unitOfTask (s : State) (p : Nat) (h : List DWord) : Nat :=
  match (s.part p).dom (hLevel h) (hDomain h) with
  | some d => d.unit
  | none => 0

/-- A piece that is new to the machine. -/
def State.newPiece (s : State) (p : Nat) (h : List DWord) (lo hi : DWord) : State × Piece :=
  let u := s.uid + 1
  ({ s with uid := u },
   { uid := u, part := p, kind := if hGlean h then .gleaning else .normal, hdr := h, lo := lo, hi := hi, id := 0,
     pin := hPin h, gang := none, arrived := none })

/-! ## Views (R205, R320) -/

def Slot.normalBound (x : Slot) : Bool :=
  match x.piece with
  | some p => p.kind == .normal
  | none => false

/-- Normal tasks and saved pieces of normal tasks that a core queues. -/
def Core.queuedNormal (x : Core) : Nat := (x.queue.filter (fun e => e.piece.kind == .normal)).length

/-- The load L(c) and the free slots. -/
def Core.load (x : Core) : Nat := (x.slots.filter (fun (_, y) => y.normalBound)).length + x.queuedNormal
/-- (DEDUCED, log 60) -/
def Core.freeSlots (x : Core) : Nat := ((List.range 4).filter (fun k => (x.slot k).phase == .free)).length

/-- The keys of a core's allocated tiles. -/
def Core.keys (x : Core) : List Nat :=
  (x.tiles.filterMap (fun (_, t) => if t.state = 0 ∨ t.key = 0 then none else some t.key.toNat)).dedup

def Core.toView (x : Core) (now : Nat) : CoreView :=
  { at1 := now, res := x.keys.foldl (fun t k => Tbl.set t k (x.residency k)) [], load := x.load, queued := x.queuedNormal,
    free := x.freeSlots }

def Die.core (d : Die) (c : Nat) : CoreView := Tbl.get CoreView.reset d.view c

def State.updateView (s : State) (die core : Nat) : State :=
  s.updDie die (fun d => { d with view := Tbl.set d.view core ((s.core core).toView s.cycle) })

/-- RESIDENCY_VIEW_UPDATE: a core's table and load reach a dispatcher's view. -/
def execResidencyViewUpdate (die core : Nat) (s : State) : Out :=
  .next (if 4 ≤ die ∨ 72 ≤ core then s else s.updateView die core)

/-- The views of a partition's cores as a dispatcher uses them: a change has reached it within 64 core cycles (R205, R320). -/
def State.freshViews (s : State) (die p : Nat) : State :=
  (s.coresOf p).foldl (fun (s : State) c => if ((s.die die).core c).at1 + 64 ≤ s.cycle then s.updateView die c else s) s

/-! ## Placement -/

/-- Resident and filling granules of a key in a view. -/
def Die.resOf (d : Die) (c key : Nat) : Nat := (Tbl.get (0, 0, 0) (d.core c).res key).1
def Die.fillOf (d : Die) (c key : Nat) : Nat := (Tbl.get (0, 0, 0) (d.core c).res key).2.1

/-- S(c) and F(c) of R320 over the cores of the partition. -/
def Die.score (d : Die) (cores : List Nat) (h : List DWord) (c : Nat) : Nat × Nat :=
  (List.range 8).foldl (fun (acc : Nat × Nat) i =>
    let k := hKey h i
    if k = 0 then acc
    else
      let t := cores.foldl (fun n c' => n + d.resOf c' k) 0
      (acc.1 + (if t = 0 then 0 else hWeight h i * (256 * d.resOf c k / t)), acc.2 + hWeight h i * d.fillOf c k)) (0, 0)

/-- The first of a list under an order of keys that compare from the left, smaller first. -/
def keyLess : List Nat → List Nat → Bool
  | a :: as, b :: bs => decide (a < b) || (a == b && keyLess as bs)
  | _, _ => false
def pickMin (xs : List (Nat × List Nat)) : Option Nat :=
  (xs.foldl (fun (m : Option (Nat × List Nat)) x =>
    match m with
    | none => some x
    | some y => if keyLess x.2 y.2 then some x else m) none).map (·.1)

/-- A large number less a figure: the larger figure comes first. -/
def most (n : Nat) : Nat := 2 ^ 64 - n

/-- E of R320; the cores of retreating dies where E would be empty only for them (R321). -/
def State.eligible (s : State) (p : Nat) (h : List DWord) : List Nat :=
  let all := (s.coresOf p).filter (unitHas (hLevel h) (s.unitOfTask p h))
  let e := all.filter (fun c => !s.retreats (dieOf c))
  if e.isEmpty then all else e

def Die.place (d : Die) (cores e : List Nat) (h : List DWord) (glean : Bool) : Option Nat :=
  pickMin (e.map (fun c =>
    let (sc, f) := d.score cores h c
    (c, (if glean then [most (d.core c).free] else []) ++ [most sc, most f, (d.core c).load, (c + 72 - d.ptr) % 72])))

/-- A dispatcher's own placement enters its view at once. -/
def Die.placed (d : Die) (c : Nat) (glean : Bool) : Die :=
  let v := d.core c
  { d with ptr := (c + 1) % 72,
           view := if glean then d.view else Tbl.set d.view c { v with load := v.load + 1, queued := v.queued + 1 } }

/-- A task's core by the dispatcher of `die` (R320). -/
def State.placeTask (s : State) (die p : Nat) (h : List DWord) : State × Option Nat :=
  let s := s.freshViews die p
  match (s.die die).place (s.coresOf p) (s.eligible p h) h (hGlean h) with
  | none => (s, none)
  | some c => (s.updDie die (fun d => d.placed c (hGlean h)), some c)

/-- The dispatcher of firings and host commands. -/
def State.homeDie (s : State) (p : Nat) : Nat :=
  match s.baysOf p with
  | b :: _ => b / 3
  | [] => 0

/-- The `g` cores of a bay that count for a gang, best first (R327). -/
def Die.gangCores (d : Die) (cores e : List Nat) (h : List DWord) (g : Nat) : List Nat :=
  let key (c : Nat) : List Nat := let (sc, f) := d.score cores h c; [most sc, most f, (d.core c).load, c]
  let rec go : Nat → List Nat → List Nat
    | 0, _ => []
    | n + 1, xs =>
      match pickMin (xs.map (fun c => (c, key c))) with
      | none => []
      | some c => c :: go n (xs.erase c)
  go g e

/-- A gang's bay (R327). -/
def State.placeGang (s : State) (die p : Nat) (h : List DWord) : State × Option Nat :=
  let s := s.freshViews die p
  let d := s.die die
  let g := hGang h
  let all := (s.coresOf p).filter (unitHas (hLevel h) (s.unitOfTask p h))
  let e := all.filter (fun c => !s.retreats (dieOf c))
  let fits (xs : List Nat) (b : Nat) : Bool := decide (g ≤ (xs.filter (fun c => bayOf c == b)).length)
  let xs := if (s.baysOf p).any (fits e) then e else all
  let bays := (s.baysOf p).filter (fits xs)
  let val (b : Nat) : List Nat :=
    let cs := d.gangCores (s.coresOf p) (xs.filter (fun c => bayOf c == b)) h g
    let sum (f : Nat → Nat) : Nat := cs.foldl (fun n c => n + f c) 0
    [most (sum (fun c => (d.score (s.coresOf p) h c).1)), most (sum (fun c => (d.score (s.coresOf p) h c).2)),
     sum (fun c => (d.core c).load), (b + 12 - d.gptr) % 12]
  match pickMin (bays.map (fun b => (b, val b))) with
  | none => (s, none)
  | some b => (s.updDie die (fun d => { d with gptr := (b + 1) % 12 }), some b)

/-! ## Queues and spill rings -/

/-- A task is accepted: its id (R333). The spec names no first id: the counter starts at 0. (DESIGN CHOICE, log 103) -/
def State.drawId (s : State) (p : Nat) : State × Word :=
  let n := (s.part p).nextId % 2 ^ 32
  (s.updPart p (fun x => { x with nextId := (x.nextId + 1) % 2 ^ 32 }), BitVec.ofNat 32 n)

/-- A gang joins its bay's queue with a launch ticket, unless 16 wait there (R327). -/
def State.joinGang (s : State) (b : Nat) (q : Piece) : State × Join :=
  if 16 ≤ (s.bay b).gangs.length then (s, .full)
  else
    let t := (s.part q.part).ticket
    let g : Gang := { ticket := t, piece := q, size := hGang q.hdr, after := none, slots := [], saved := [] }
    ((s.updPart q.part (fun x => { x with ticket := x.ticket + 1 })).updBay b (fun y => { y with gangs := y.gangs ++ [g] }),
     .joined)

/-- A piece joins the queue that placement chose. -/
def State.join (s : State) (target : Nat) (q : Piece) : State × Join :=
  if hGang q.hdr ≠ 0 then s.joinGang target q else s.joinQueue target { piece := q, saved := none, ring := none }

def State.placeAny (s : State) (die p : Nat) (h : List DWord) : State × Option Nat :=
  if hGang h ≠ 0 then s.placeGang die p h else s.placeTask die p h

/-! ## Launches of firings and host commands (R316, R37) -/

/-- What a launch meets. -/
inductive Launched where
  | accepted (id : Nat)
  | waits
  | refused (code : Nat)
  | fault (e : Exc)
  | hold
  deriving DecidableEq, Repr

/-- A launch is accepted: on its queue, or among those that wait on the NPD, up to 4,096 of them. A firing that a step brings
about after the firings' place in its core cycle (R315) joins its queue at that place of the next: it is in nobody's place. -/
def State.launchPiece (s : State) (p : Nat) (h : List DWord) (host : Option (Nat × Nat × Nat)) : State × Launched :=
  let (s1, q) := s.newPiece p h (hw h 0) (hw h 1)
  match s1.placeAny (s1.homeDie p) p h with
  | (_, none) => (s, .refused 5)
  | (s2, some t) =>
    let gang := hGang h != 0
    let behind := (s.part p).waits.any (fun w => w.target == t && w.gang == gang)
    let late := host.isNone && decide (30000 < s.rank)
    let wait (s3 : State) (room : Bool) : State × Launched :=
      if !room ∧ 4096 ≤ (s.part p).waits.length then (s, .refused 8)
      else
        let w : WaitLaunch := { piece := q, target := t, gang := gang, host := host }
        (s3.updPart p (fun x => { x with waits := x.waits ++ [w] }), .waits)
    if behind then wait s2 false
    else
      let (s3, id) := s2.drawId p
      match s3.join t { q with id := id } with
      | (s4, .joined) => if late then wait s2 true else (s4, .accepted id.toNat)
      | (_, .full) | (_, .held) => wait s2 false
      | (_, .ring e) => wait ((s2.ringFaultEvent p t e).updCore t (·.ringFails)) false

/-- The launch of a header at a partition's address (R358, R414). -/
def State.launchAt (s : State) (p : Nat) (a : DWord) (host : Option (Nat × Nat × Nat)) : State × Launched :=
  if a.toNat % 128 ≠ 0 then (s, .refused 1)
  else
    match s.readMem (npdAcc p) a.toNat 128 with
    | (s, .exc e) => (s, .fault e)
    | (s, .hold) => (s, .hold)
    | (s, .ok bs) =>
      let h := wordsOf 16 bs
      let code := s.checkHeader p .launch h
      if code ≠ 0 then (s, .refused code) else s.launchPiece p h host

/-! ## Parts of host commands that end later (R412, R415) -/

/-- One part of a top-level host command ends: `status` 0, or that of the refused command at `index`; `detail` of a
command that stands alone. -/
def HostCmd.partEnds (c : HostCmd) (status index detail : Nat) : HostCmd :=
  let c := { c with subs := c.subs - 1 }
  if c.status = 6 then c
  else if c.index = 0 then { c with status := status, detail := detail }
  else if status ≠ 0 ∧ (c.status = 0 ∨ index < c.detail) then { c with status := status, detail := index }
  else c

def State.hostPart (s : State) (fn ticket status index detail : Nat) : State :=
  s.updHost fn (fun x => { x with cmds := x.cmds.map (fun (c : HostCmd) =>
    if c.ticket = ticket then c.partEnds status index detail else c) })

/-- The first launch of a partition that waits for this queue joins it when an entry frees (R316). -/
def State.launchJoin (s : State) (p : Nat) : List WaitLaunch → List WaitLaunch → State
  | _, [] => s
  | seen, w :: ws =>
    let held := seen.any (fun v => v.target == w.target && v.gang == w.gang) || (!w.gang && (s.core w.target).ringStuck)
    if held then State.launchJoin s p (seen ++ [w]) ws
    else
      let (s1, id) := s.drawId p
      match s1.join w.target { w.piece with id := id } with
      | (s2, .joined) =>
        let s3 := s2.updPart p (fun x => { x with waits := seen ++ ws })
        match w.host with
        | some (fn, t, i) => s3.hostPart fn t 0 i id.toNat
        | none => s3
      | (_, .full) | (_, .held) => State.launchJoin s p (seen ++ [w]) ws
      | (_, .ring e) => (s.ringFaultEvent p w.target e).updCore w.target (·.ringFails)

/-- Every launch that waits and whose queue has an entry free joins it: at the firings' and commands' place of a core cycle
(R315, R316). -/
def State.joinWaits (s : State) : State :=
  s.parts.foldl (fun (s : State) (p, x) =>
    x.waits.foldl (fun (s : State) _ => s.launchJoin p [] (s.part p).waits) s) s

/-- LAUNCH_WAIT_JOIN. -/
def execLaunchWaitJoin (part : Nat) (s : State) : Out := .next (s.launchJoin part [] (s.part part).waits)

/-! ## Retreat (R321) -/

/-- A queued task of a retreating die is placed anew: it leaves its queue and joins the tail of the chosen one, beyond its
limit where that has no room. (DESIGN CHOICE, log 105) -/
def State.rePlace (s : State) (die c : Nat) (e : TaskEntry) : State :=
  match (s.core c).queue.findIdx? (fun x => x.piece.uid == e.piece.uid) with
  | none => s
  | some i =>
    match s.placeTask die e.piece.part e.piece.hdr with
    | (_, none) => s
    | (s, some t) => (s.takeEntry c i).joinSaved t { e with ring := none }

/-- A die enters retreat: its tasks of PIN 00 whose domain reaches beyond it. -/
def State.retreatDie (s : State) (die : Nat) : State :=
  let all := (List.range 18).flatMap (fun i => (s.core (18 * die + i)).queue.map (fun e => (18 * die + i, e)))
  (all.filter (fun (_, e) => e.saved.isNone && e.piece.pin == 0 && (hLevel e.piece.hdr == 0 || decide (4 ≤ hLevel e.piece.hdr)))).foldl
    (fun (s : State) (c, e) => s.rePlace die c e) s

/-- The dies that have entered retreat since the last place of re-placements in a core cycle (R315, R321). -/
def State.replaceDue (s : State) : State := s.cryo.replace.foldl State.retreatDie { s with cryo := { s.cryo with replace := [] } }

end Sys2Proof.Machine
end

