-- ==== Sys2Proof/Machine/Copy.lean ====
section
/-! DEFINITION. Copy templates, COPY, TMPLW and SWAIT (R271, R272, R281 to R284), admission (R268, R269), and the engines'
copies with their completion (R273 to R280). -/

namespace Sys2Proof.Machine

/-! ## Templates (R271) -/

def tfld (t : BitVec 512) (w lo k : Nat) : Nat := fieldNat t (64 * w + lo) k
def tword (t : BitVec 512) (w : Nat) : DWord := t.extractLsb' (64 * w) 64
def tset (t : BitVec 512) (w lo : Nat) {k : Nat} (v : BitVec k) : BitVec 512 := setField t (64 * w + lo) v
def tSrc (t : BitVec 512) : Nat := tfld t 0 0 64
def tDst (t : BitVec 512) : Nat := tfld t 1 0 64
def tSstride (t : BitVec 512) : Int := (t.extractLsb' 160 32).toInt
def tDstride (t : BitVec 512) : Int := (t.extractLsb' 128 32).toInt
def tRowBytes (t : BitVec 512) : Nat := tfld t 3 40 24
def tRows (t : BitVec 512) : Nat := tfld t 3 20 20
def tStamp (t : BitVec 512) : Nat := tfld t 4 0 64
def tKey (t : BitVec 512) : Nat := tfld t 5 58 6
def tPhys (t : BitVec 512) : Bool := t.getLsbD (320 + 57)
def tScope (t : BitVec 512) : Nat := tfld t 5 54 3
def tEng (t : BitVec 512) : Nat := tfld t 5 52 2
def tFlgen (t : BitVec 512) : Bool := t.getLsbD (320 + 51)
def tFlag (t : BitVec 512) : Nat := tfld t 5 45 6
def tFop (t : BitVec 512) : Nat := tfld t 5 43 2
def tSeq (t : BitVec 512) : Nat := tfld t 6 0 48

def Core.template (x : Core) (n : Nat) : BitVec 512 := Tbl.get 0 x.templates n
def Core.setTemplate (x : Core) (n : Nat) (t : BitVec 512) : Core := { x with templates := Tbl.set x.templates n t }

/-- The first failing check of R283; 0 where the template is taken. -/
def tCheck (t : BitVec 512) (firmware : Bool) : Nat :=
  if tRowBytes t = 0 ∨ tRows t = 0 then 1
  else if tfld t 3 0 20 ≠ 0 ∨ tfld t 5 0 33 ≠ 0 ∨ tfld t 6 48 16 ≠ 0 ∨ tfld t 7 0 64 ≠ 0 ∨ 6 ≤ tScope t ∨ tFop t = 3 ∨
      (tKey t ≠ 0 ∧ !tPhys t) then 2
  else if tPhys t ∧ !firmware then 3
  else if tStamp t % 8 ≠ 0 then 4
  else 0

/-- TMPLW (R282). -/
def execTmplw (g : Guard) (t : BitVec 6) (w : BitVec 3) (b : Src) (s : State) : Out :=
  s.guarded g (srcWords b) (fun s =>
    let a := s.agent
    (s.updCore (agentCore a) (fun x => x.setTemplate t.toNat (tset (x.template t.toNat) w.toNat 0 (s.src a b)))).advance a
      (srcWords b))

/-! ## COPY (R283) -/

/-- A command enters its slot's buffer where there is room. -/
def State.bufferCopy (s : State) (a : Agent) (cmd : CopyCmd) : Option State :=
  if 4 ≤ (s.own a).adm.length then none else some (s.updOwn a (fun x => { x with adm := x.adm ++ [cmd] }))

/-- A COPY that has taken its snapshot waits for room. -/
def State.copyGoesOn (s : State) (a : Agent) (tag : Nat) : State :=
  match (s.own a).copyWaits.find? (fun (i, _) => i == tag) with
  | none => s.advance a 2
  | some (_, cmd) =>
    match s.bufferCopy a cmd with
    | none => s.block a
    | some s =>
      (s.updOwn a (fun x => { x with copyWaits := x.copyWaits.filter (fun (i, _) => i != tag) })).advance a 2

/-- COPY (R283). -/
def execCopy (g : Guard) (d t : BitVec 6) (src dst : Option (BitVec 6)) (s : State) : Out :=
  s.guarded g 2 (fun s =>
    let a := s.agent
    let c := agentCore a
    match (s.strm a).token with
    | some tag => s.copyGoesOn a tag
    | none =>
      let t0 := (s.core c).template t.toNat
      let t1 := match src with | some r => tset t0 0 0 (s.reg a r) | none => t0
      let t2 := match dst with | some r => tset t1 1 0 (s.reg a r) | none => t1
      let code := tCheck t2 (s.partOf a == 0)
      if code ≠ 0 then s.result a d (BitVec.ofNat 64 (2 ^ 63 + code)) 2
      else
        let seq := BitVec.ofNat 48 (tSeq t0 + 1)
        let cmd : CopyCmd :=
          { t := tset t2 6 0 seq, part := s.partOf a, who := some (s.uidAt c (agentSlot a), c, agentSlot a),
            cls := agentCls a, host := none }
        let s := (s.updCore c (fun x => x.setTemplate t.toNat (tset t0 6 0 seq))).setReg a d (seq.setWidth 64)
        match s.bufferCopy a cmd with
        | some s => s.advance a 2
        | none =>
          let tag := s.uid + 1
          let s := { s with uid := tag }
          (s.updOwn a (fun x => { x with copyWaits := x.copyWaits ++ [(tag, cmd)] })).updStrm a
            (fun y => { y with mode := .blocked, token := some tag }))

/-- SWAIT (R284): it reads as it issues and, blocked, after each write to the stamp. -/
def execSwait (g : Guard) (d t : BitVec 6) (b : Src) (s : State) : Out :=
  s.guarded g (srcWords b) (fun s =>
    let a := s.agent
    let at1 := if (s.strm a).token.isSome then (s.strm a).held.toNat
      else tStamp ((s.core (agentCore a)).template t.toNat)
    if at1 = 0 then s.result a d 0 (srcWords b)
    else if at1 % 8 ≠ 0 then s.raise a (memExc 1 at1)
    else if !s.readsAgain a (s.accOf a) at1 then s.block a
    else
      let wait (s : State) : State :=
        s.updStrm a (fun y => { y with mode := .blocked, token := some 0, held := BitVec.ofNat 64 at1 })
      match s.readMem (s.accOf a) at1 8 with
      | (s, .exc e) => s.raise a e
      | (s, .hold) => wait s
      | (s, .ok bs) =>
        let v := BitVec.ofNat 64 (leNat bs)
        if fieldNat (s.srcZ a b) 0 48 ≤ fieldNat v 0 48 then s.result a d v (srcWords b)
        else wait (s.waitFor a (s.accOf a) at1))

/-! ## Admission (R268, R269) -/

def Bay.engine (x : Bay) (e : Nat) : Engine := Tbl.get Engine.reset x.engines e
def Bay.setEngine (x : Bay) (e : Nat) (y : Engine) : Bay := { x with engines := Tbl.set x.engines e y }
def State.updEngine (s : State) (b e : Nat) (f : Engine → Engine) : State := s.updBay b (fun x => x.setEngine e (f (x.engine e)))

/-- Commands that hold a place of the 16 on chip, the one being performed among them. (DEDUCED, log 45) -/
def Engine.onchip (x : Engine) : Nat := x.queue.length + b2n x.run.isSome

/-- A requester of a bay: slots by core and slot number, the NPD last. -/
def requester (b i : Nat) : Option (Nat × Nat) := if i < 24 then some (6 * b + i / 4, i % 4) else none

def State.reqBuffer (s : State) (b i : Nat) : List CopyCmd :=
  match requester b i with
  | some (c, k) => (s.slot c k).adm
  | none => (s.bay b).npdBuf

/-- The weight of a requester. -/
def State.reqWeight (s : State) (b i : Nat) : Nat :=
  match requester b i with
  | some (c, k) => match (s.slot c k).piece with | some p => max 1 (hCopyw p.hdr) | none => 1
  | none => 8

/-- The requester's head command can be admitted now. -/
def State.reqReady (s : State) (b i : Nat) : Bool :=
  (match requester b i with | some (c, _) => s.clockOn c | none => true) &&
  (match s.reqBuffer b i with
   | [] => false
   | cmd :: _ =>
     let e := (s.bay b).engine (tEng cmd.t)
     !e.stalled && (decide (e.onchip < 16) && e.ring.isEmpty || decide (e.ring.length < 1024)))

def State.dropHead (s : State) (b i : Nat) : State :=
  match requester b i with
  | some (c, k) => s.updSlot c k (fun x => { x with adm := x.adm.drop 1 })
  | none => s.updBay b (fun x => { x with npdBuf := x.npdBuf.drop 1 })

/-- The copy event of R369, kind 6. -/
def copyEventSub (e : Exc) : Nat × Nat :=
  ((match e.cause with | 6 => 1 | 7 => 2 | 4 => 3 | _ => 4), e.sub)
def State.copyEvent (s : State) (p b eng : Nat) (e : Exc) (ring stamp : Bool) (seq : Nat) : State :=
  let (cls, sub) := copyEventSub e
  s.event p 6 (cls * 32 + sub) (4 * b + eng) e.addr (BitVec.ofNat 64 (b2n ring * 2 ^ 63 + b2n stamp * 2 ^ 62 + seq))

/-- Where an engine's spill ring stands (R417). -/
def State.cpRing (s : State) (p b eng i : Nat) : Nat :=
  fieldNat (s.part p).cpring 16 48 * 2 ^ 16 + (4 * b + eng) * 2 ^ 16 + i * 64

/-- A fault of an engine's spill ring, that of the spill of requester `by1` or of a refill: it is told, and stalls admission
(R269). -/
def State.ringStalls (s : State) (b eng : Nat) (cmd : CopyCmd) (e : Exc) (by1 : Option Nat) : State :=
  (s.copyEvent cmd.part b eng e true false (tSeq cmd.t)).updEngine b eng (fun x => { x with stalled := true, spillBy := by1 })

/-- The head of requester `i` is admitted, on chip or through the ring; whether it was. -/
def State.takeIn (s : State) (b i : Nat) : State × Bool :=
  match s.reqBuffer b i with
  | [] => (s, false)
  | cmd :: _ =>
    let n := tEng cmd.t
    let e := (s.bay b).engine n
    if e.onchip < 16 ∧ e.ring.isEmpty then
      ((s.dropHead b i).updEngine b n (fun e => { e with queue := e.queue ++ [cmd] }), true)
    else
      match s.writeMem (ringAcc cmd.part (.bay b)) (s.cpRing cmd.part b n ((e.rhead + e.ring.length) % 1024))
          (leBytes 64 (Config.copyBytes cmd).toNat) with
      | (s, .exc ex) => (s.ringStalls b n cmd ex (some i), false)
      | (s, .hold) => (s, false)
      | (s, .ok _) => ((s.dropHead b i).updEngine b n (fun e => { e with ring := e.ring ++ [cmd] }), true)

/-- The round goes on from requester `i`, of whose visit `n` commands have been admitted. -/
def State.roundFrom (s : State) (b : Nat) : Nat → Nat → Nat → Option (Nat × Nat)
  | 0, _, _ => none
  | fuel + 1, i, n =>
    if s.reqReady b i && decide (n < s.reqWeight b i) then some (i, n) else State.roundFrom s b fuel ((i + 1) % 25) 0

/-- COPY_ADMISSION: at most one command (R268); a requester whose spill faults or is held is passed over. -/
def execCopyAdmission (bay : Nat) (s : State) : Out :=
  .next (match s.roundFrom bay 26 (s.bay bay).rrPos (s.bay bay).rrCnt with
    | none => s
    | some (i, n) =>
      match s.takeIn bay i with
      | (s, true) => s.updBay bay (fun x => { x with rrPos := i, rrCnt := n + 1 })
      | (s, false) => s.updBay bay (fun x => { x with rrPos := (i + 1) % 25, rrCnt := 0 }))

/-! ## Performing a copy (R273 to R277) -/

/-- For whom a copy's accesses are made: its commanding slot, the saved piece, or the NPD. (DEDUCED, log 46) -/
def State.copyAcc (s : State) (b eng : Nat) (cmd : CopyCmd) : Acc :=
  let base : Acc :=
    { part := cmd.part, code := npdCode, own := none, priv := none, who := .engine b eng, unit := .bay b, sync := false,
      claims := true, uid := none, space := .any }
  match cmd.who with
  | none => base
  | some (uid, _, _) =>
    match s.findPiece uid with
    | some (c, k) => { base with code := slotCode c k, priv := some (c, k), uid := some uid }
    | none => { base with code := savedCode, uid := some uid }

/-- Parts of a physical-mode access (R276): the first line that fails stops it. -/
def State.physFrom (s : State) (key : Nat) : List (Nat × Nat) → Except Exc (List Part1)
  | [] => .ok []
  | (a, k) :: r =>
    if (tierOf a).isNone then .error { Exc.of 6 7 with addr := BitVec.ofNat 64 a }
    else if s.dram.fenced a then .error (memExc 3 a)
    else
      match State.physFrom s key r with
      | .error e => .error e
      | .ok ps => .ok ({ addr := a, len := k, loc := .pa a key false } :: ps)
def State.physParts (s : State) (key a n : Nat) : Except Exc (List Part1) := s.physFrom key (pieces a n)

/-- The checks of one access of a copy. -/
def State.copyCheck (s : State) (x : Acc) (cmd : CopyCmd) (a n : Nat) (kind : AKind) : State × Chk :=
  if tPhys cmd.t then
    match s.physParts (tKey cmd.t) a n with
    | .error e => (s, .exc e)
    | .ok ps => (s, .ok ps [])
  else s.check x a n kind

/-- What the next line of a copy comes to. -/
inductive Moved where
  | wrote (n : Nat) (tiles : List (Nat × Nat))
  | exc (e : Exc)
  | hold
  deriving DecidableEq, Repr

/-- Where each byte of a part lies. -/
def Part1.spots (p : Part1) : List Loc :=
  (List.range p.len).map (fun i =>
    match p.loc with
    | .sp c off => .sp c (off + i)
    | .pa pa key _ => .pa (pa + i) key false)

/-- What the bytes become that a line takes in increasing order, so that a byte which this line has already written
    is taken as written (R273). -/
def carried : List Loc → List Loc → List Byte → List (Loc × Byte) → List Byte
  | f :: fs, t :: ts, b :: bs, done =>
    let v := match done.find? (fun d => d.1 == f) with
      | some d => d.2
      | none => b
    v :: carried fs ts bs ((t, v) :: done)
  | _, _, _, _ => []

/-- The next destination line: its source bytes are read, then it is written (R273, R275). (DEDUCED, log 44) -/
def State.copyLine (s : State) (x : Acc) (cmd : CopyCmd) (src dst n : Nat) : State × Moved :=
  match s.copyCheck x cmd src n .rd with
  | (s, .exc e) => (s, .exc e)
  | (s, .hold _) => (s, .hold)
  | (s, .ok ps _) =>
    match s.copyCheck x cmd dst n .wr with
    | (s, .hold _) => (s, .hold)
    | (s, .exc e) =>
      match s.readParts ps with
      | (s, .error e) => (s, .exc e)
      | (s, .ok _) => (s, .exc e)
    | (s, .ok qs cs) =>
      match s.readParts ps with
      | (s, .error e) => (s, .exc e)
      | (s, .ok bs) =>
        let s := s.claim x cs
        let ts := s.filling x qs
        match s.writeLines 0 qs (carried (ps.flatMap Part1.spots) (qs.flatMap Part1.spots) bs []) with
        | (s, some (e, _)) => (s, .exc e)
        | (s, none) => (s, .wrote n ts)

/-- The oldest command of the ring refills a place on chip; whether one did. -/
def State.refillOne (s : State) (b eng : Nat) : State × Bool :=
  let e := (s.bay b).engine eng
  match e.ring with
  | [] => (s, false)
  | cmd :: rest =>
    match s.readMem (ringAcc cmd.part (.bay b)) (s.cpRing cmd.part b eng e.rhead) 64 with
    | (s, .exc ex) => (s.ringStalls b eng cmd ex none, false)
    | (s, .hold) => (s, false)
    | (s, .ok _) =>
      (s.updEngine b eng (fun e => { e with queue := e.queue ++ [cmd], ring := rest, rhead := (e.rhead + 1) % 1024 }), true)

/-- Commands refill the on-chip queue from the ring; a read that faults stalls the engine, and is tried again as R269 says. -/
def State.refillEngine (s : State) (b eng : Nat) : State :=
  let e := (s.bay b).engine eng
  if 16 ≤ e.onchip ∨ (e.stalled ∧ e.spillBy.isNone) then s else (s.refillOne b eng).1

/-- Whether the retry of what stalled an engine succeeds: the spill of a requester, or a refill; with nothing left of it, it
does. -/
def State.retryStall (s : State) (b eng : Nat) : State × Bool :=
  let e := (s.bay b).engine eng
  match e.spillBy with
  | some i => if (s.reqBuffer b i).isEmpty then (s, true) else s.takeIn b i
  | none => if e.ring.isEmpty ∨ 16 ≤ e.onchip then (s, true) else s.refillOne b eng

/-- An invalidation has completed: a stalled engine's refill, or the spill that faulted, is tried again, and admission resumes
once that succeeds (R269). -/
def State.retryEngine (s : State) (b eng : Nat) : State :=
  if !((s.bay b).engine eng).stalled then s
  else
    match s.retryStall b eng with
    | (s, true) => s.updEngine b eng (fun x => { x with stalled := false, spillBy := none })
    | (s, false) => s

/-- The commands' next: the head of the on-chip queue. -/
def Engine.begin (e : Engine) : Engine :=
  match e.run, e.queue with
  | none, cmd :: rest =>
    { e with queue := rest,
             run := some { cmd := cmd, row := 0, pos := 0, tiles := [], phase := .moving, err := none, followed := false } }
  | _, _ => e

/-- Address of a byte of row `r`, modulo 2^64. -/
def rowAddr (base : Nat) (stride : Int) (r pos : Nat) : Nat := low 64 ((base : Int) + (r : Int) * stride + (pos : Int))

/-- A run after `n` more bytes. -/
def CopyRun.go (r : CopyRun) (n : Nat) (ts : List (Nat × Nat)) : CopyRun :=
  let r := { r with tiles := addTiles r.tiles ts }
  if r.pos + n < tRowBytes r.cmd.t then { r with pos := r.pos + n }
  else if r.row + 1 < tRows r.cmd.t then { r with row := r.row + 1, pos := 0 }
  else { r with phase := .complete }

/-- COPY_EXECUTION: an engine begins its next copy, and moves the next line of the one that it performs. -/
def execCopyExecution (bay eng : Nat) (s : State) : Out :=
  .next (
    let s := (s.refillEngine bay eng).updEngine bay eng Engine.begin
    match ((s.bay bay).engine eng).run with
    | none => s
    | some r =>
      if r.phase ≠ .moving then s
      else
        let t := r.cmd.t
        let dst := rowAddr (tDst t) (tDstride t) r.row r.pos
        let n := min (tRowBytes t - r.pos) (64 - dst % 64)
        let put (s : State) (r : CopyRun) : State := s.updEngine bay eng (fun e => { e with run := some r })
        match s.copyLine (s.copyAcc bay eng r.cmd) r.cmd (rowAddr (tSrc t) (tSstride t) r.row r.pos) dst n with
        | (s, .hold) => s
        | (s, .wrote n ts) => put s (r.go n ts)
        | (s, .exc e) =>
          let (cls, sub) := copyEventSub e
          put (s.copyEvent r.cmd.part bay eng e false false (tSeq t)) { r with phase := .complete, err := some (cls, sub, e.addr) })

/-! ## Completion (R278 to R280) -/

/-- The stamp (R278). -/
def CopyRun.stamp (r : CopyRun) : DWord :=
  match r.err with
  | none => BitVec.ofNat 64 (tSeq r.cmd.t)
  | some (cls, sub, _) => BitVec.ofNat 64 (2 ^ 63 + cls * 2 ^ 56 + sub * 2 ^ 48 + tSeq r.cmd.t)

/-- The slot of a piece, bound or saved. -/
def State.pieceSlot (s : State) (uid : Nat) : Option Slot :=
  match s.findPiece uid with
  | some (c, k) => some (s.slot c k)
  | none =>
    match s.findSaved uid with
    | some (p, r) => ((s.part p).recs.find? (fun (i, _) => i == r)).map (fun (_, y) => y.slot)
    | none => none

/-- The follow-on enters its slot's compute path; `none` while four of them have not started (R280). (DEDUCED, log 47) -/
def State.issueFollowOn (s : State) (cmd : CopyCmd) : Option State :=
  match cmd.who with
  | none => some s
  | some (uid, _, _) =>
    match s.pieceSlot uid with
    | none => some s
    | some x =>
      if tFop cmd.t = 0 then some s
      else if 4 ≤ x.m.followOns.length then none
      else
        let f : FollowOn :=
          { mmg := tFop cmd.t == 2, bank := tfld cmd.t 5 33 2, ovw := cmd.t.getLsbD (320 + 42),
            sig := if cmd.t.getLsbD (320 + 41) then some (tfld cmd.t 5 35 6) else none, seq := x.m.nextSeq, ftz := x.ftzMat }
        some (s.updPiece uid (fun x => { x with m := { x.m with followOns := x.m.followOns ++ [f], nextSeq := x.m.nextSeq + 1 } }))

/-- Step 4 of R279, and the engine is free. -/
def State.copyEnds (s : State) (b eng : Nat) (cmd : CopyCmd) : State :=
  let s := match cmd.who with
    | some (uid, _, _) => if tFlgen cmd.t then s.updPiece uid (fun x => Slot.runSigs (x.addFlag (tFlag cmd.t) 1)) else s
    | none => s
  (s.updEngine b eng (fun e => { e with run := none })).refillEngine b eng

/-- COPY_COMPLETION (R279): tiles, follow-on, stamp, flag, in this order. -/
def execCopyCompletion (bay eng : Nat) (s : State) : Out :=
  .next (match ((s.bay bay).engine eng).run with
    | none => s
    | some r =>
      if r.phase ≠ .complete then s
      else
        let x := s.copyAcc bay eng r.cmd
        -- step 1 stands though step 2 holds
        let s := if r.err.isSome then s else (s.readyTiles x r.tiles).updEngine bay eng (fun e => { e with run := some { r with tiles := [] } })
        match (if r.followed || r.err.isSome then some s else s.issueFollowOn r.cmd) with
        | none => s
        | some s =>
          let s := s.updEngine bay eng (fun e => { e with run := some { r with tiles := [], followed := true } })
          let at1 := tStamp r.cmd.t
          if at1 = 0 then s.copyEnds bay eng r.cmd
          else
            match s.writeMem { x with claims := false } at1 (leBytes 8 r.stamp.toNat) with
            | (s, .hold) => s
            | (s, .exc e) => (s.copyEvent r.cmd.part bay eng e false true (tSeq r.cmd.t)).copyEnds bay eng r.cmd
            | (s, .ok _) => s.copyEnds bay eng r.cmd)

/-- SYS.CPENG (R270). -/
def Bay.cpeng (x : Bay) : DWord :=
  BitVec.ofNat 64 ((List.range 4).foldl (fun n i =>
    let e := x.engine i
    n + (b2n e.stalled * 2 ^ 15 + (e.onchip + e.ring.length) * 2 ^ 4 + b2n e.run.isSome) * 2 ^ (16 * i)) 0)

end Sys2Proof.Machine
end

