-- ==== Sys2Proof/Machine/NearMem.lean ====
section
/-! DEFINITION. Near-memory commands (R285 to R291): the command block, its checks, the line updates of the base dies,
SYS.NMSTAT and NMFENCE. -/

namespace Sys2Proof.Machine

/-! ## The block (R285) -/

def nmOp (b : List DWord) : Nat := hfld b 0 56 8
def nmType (b : List DWord) : Nat := hfld b 0 54 2
def nmRound (b : List DWord) : Nat := hfld b 0 51 3
def nmCount (b : List DWord) : Nat := hfld b 0 0 32
def nmTgt (b : List DWord) : Nat := (hw b 1).toNat
def nmSa (b : List DWord) : Nat := (hw b 2).toNat
def nmP0 (b : List DWord) : Nat := hfld b 4 32 32
def nmP1 (b : List DWord) : Nat := hfld b 4 0 32

/-- The operation reads array a. -/
def nmReadsA (b : List DWord) : Bool := decide (2 ≤ nmOp b)
/-- Elements of a line. -/
def nmPerLine (b : List DWord) : Nat := if nmType b = 0 then 32 else 16
def nmLines (b : List DWord) : Nat := (nmCount b + nmPerLine b - 1) / nmPerLine b

def nmBad (b : List DWord) : Bool :=
  decide (5 ≤ nmOp b) || decide (2 ≤ nmType b) || decide (5 ≤ nmRound b) || hfld b 0 32 19 != 0 || hfld b 5 32 32 != 0 ||
    hw b 7 != 0

/-! ## Checks (R287) -/

/-- The lines of an array that hold an element below COUNT. -/
def nmArray (b : List DWord) (base : Nat) : List (Nat × Nat) :=
  (List.range (nmLines b)).map (fun i => ((base + 64 * i) % 2 ^ 64, 64))

/-- What the checks give. -/
inductive NmSay where
  | ok (ls : List NmLine)
  | code (n : DWord)
  | hold
  deriving DecidableEq, Repr

def nmHolds (rs : List (Nat × Nat × PRes)) : Bool :=
  rs.any (fun (_, _, r) => match r with | .hold _ => true | .ok _ _ | .exc _ | .race _ _ _ => false)

/-- The physical place of a translated line. -/
def nmPa : Nat × Nat × PRes → Option (Nat × Nat × Bool)
  | (_, _, .ok (.pa pa key cnt) _) => some (pa, key, cnt)
  | _ => none

def nmNear (a : Nat × Nat × PRes) : Bool :=
  match nmPa a with
  | some (pa, _, _) => tierOf pa == some .near
  | none => false

/-- Status 3 to 5, over the lines of TGT and of array a. (DEDUCED, log 49) -/
def State.nmCheck (s : State) (x : Acc) (b : List DWord) : State × NmSay :=
  let ta := nmArray b (nmTgt b)
  let aa := if nmReadsA b then nmArray b (nmSa b) else []
  let high (l : List (Nat × Nat)) : List (Nat × Nat) := l.filter (fun (a, _) => decide (2 ^ 32 ≤ a))
  let (s, rt) := s.decideAll { x with space := .virt } .nmw (high ta)
  let (s, ra) := s.decideAll { x with space := .virt } .nm (high aa)
  let rs := rt ++ ra
  let walks := missesOf rs
  let await (s : State) : State × NmSay := ({ s with xl := walks.foldl (fun l g => l.attach x.unit x.part g x.who) s.xl }, .hold)
  match lowestExc 6 rs with
  | some e => if 1 < e.sub ∧ !walks.isEmpty then await s else (s, .code (BitVec.ofNat 64 (3 + e.sub * 256)))
  | none =>
    if nmHolds rs then await s
    else if rs.length < ta.length + aa.length ∨ !rs.all nmNear then (s, .code 4)
    else
      let (ts, as1) := (rs.filterMap nmPa).splitAt ta.length
      let line (i : Nat) (t a : Nat × Nat × Bool) : NmLine :=
        { ix := i, tpa := t.1, tkey := t.2.1, tcnt := t.2.2, apa := a.1, akey := a.2.1, acnt := a.2.2 }
      let srcs := if nmReadsA b then as1 else ts
      let ls := ((List.range ts.length).zip (ts.zip srcs)).map (fun (i, t, a) => line i t a)
      if ls.any (fun l => unitOf l.tpa != unitOf l.apa) then (s, .code 5) else (s, .ok ls)

/-- NMC (R287). -/
def execNmc (g : Guard) (d a : BitVec 6) (s : State) : Out :=
  s.guarded g 2 (fun s =>
    let ag := s.agent
    let addr := (s.reg ag a).toNat
    if addr % 64 ≠ 0 then s.raise ag (memExc 1 addr)
    else
      match s.readMem (s.accOf ag) addr 64 with
      | (s, .exc e) => s.raise ag e
      | (s, .hold) => s.block ag
      | (s, .ok bs) =>
        let b := wordsOf 8 bs
        if nmBad b then s.result ag d 1 2
        else if nmTgt b % 64 ≠ 0 ∨ (nmReadsA b ∧ nmSa b % 64 ≠ 0) then s.result ag d 2 2
        else
          match s.nmCheck (s.accOf ag) b with
          | (s, .code n) => (s.spent (.agent ag)).result ag d n 2
          | (s, .hold) => s.block ag
          | (s, .ok ls) =>
            let u := s.uidAt (agentCore ag) (agentSlot ag)
            if ls.isEmpty then s.result ag d 0 2
            else if 64 ≤ (s.dram.nm.filter (fun c => c.uid == u)).length then s.block ag
            else
              let cmd : NmCmd := { block := b, part := s.partOf ag, uid := u, left := ls, flags := 0 }
              State.result { s with dram := { s.dram with nm := s.dram.nm ++ [cmd] } } ag d 0 2)

/-! ## Arithmetic (R286) -/

/-- `a × b + c` on FP32 values, rounded to `dst`. -/
def fmaTo (dst : Fmt) (a b c : Nat) (m : Rm) (sr : Nat) : Nat × FFlags :=
  if isNaN .fp32 a ∨ isNaN .fp32 b ∨ isNaN .fp32 c ∨ isInf .fp32 a ∨ isInf .fp32 b ∨ isInf .fp32 c then
    let (x, f) := fmaOp .fp32 a b c m sr false
    ((if isNaN .fp32 x then nanTo dst .fp32 x else fInf dst (fSign .fp32 x)), f)
  else roundTo dst (((value .fp32 a).mul (value .fp32 b)).add m (value .fp32 c)) m sr false
def mulTo (dst : Fmt) (a b : Nat) (m : Rm) (sr : Nat) : Nat × FFlags :=
  if isNaN .fp32 a ∨ isNaN .fp32 b ∨ isInf .fp32 a ∨ isInf .fp32 b then
    let (x, f) := mulOp .fp32 a b m sr false
    ((if isNaN .fp32 x then nanTo dst .fp32 x else fInf dst (fSign .fp32 x)), f)
  else roundTo dst ((value .fp32 a).mul (value .fp32 b)) m sr false

/-- The new value of element `i`. -/
def nmElem (b : List DWord) (i t a : Nat) : Nat × FFlags :=
  let dst : Fmt := if nmType b = 0 then .bf16 else .fp32
  let up (x : Nat) : Nat := if nmType b = 0 then x <<< 16 else x
  let m := Rm.ofCode (nmRound b)
  let sr := if m = .sr then srBits (hw b 6) ((hw b 5).extractLsb' 16 16) ((hw b 5).extractLsb' 0 16) 0 (BitVec.ofNat 32 i) else 0
  match nmOp b with
  | 0 => cvtFF dst .fp32 (nmP0 b) m sr false
  | 1 => mulTo dst (nmP0 b) (up t) m sr
  | 2 => fmaTo dst (nmP0 b) (up a) (up t) m sr
  | 3 =>
    let (u, f) := mulOp .fp32 (nmP1 b) (up t) .rne 0 false
    let (r, g) := fmaTo dst (nmP0 b) (up a) u m sr
    (r, f ||| g)
  | _ =>
    let (u, f) := fmaOp .fp32 (nmP1 b) (up t) (up a) .rne 0 false
    let (r, g) := fmaTo dst (negOp .fp32 (nmP0 b)) u (up t) m sr
    (r, f ||| g)

/-- A line's new bytes, those of elements below COUNT, and their flags. -/
def nmLine (b : List DWord) (ix : Nat) (t a : List Byte) : List Byte × FFlags :=
  let w := if nmType b = 0 then 2 else 4
  let n := min (nmPerLine b) (nmCount b - ix * nmPerLine b)
  let es := ((List.range n).zip ((elemsOf w t).zip (elemsOf w a))).map (fun (i, x, y) => nmElem b (ix * nmPerLine b + i) x y)
  (bytesOf w (es.map (·.1)), es.foldl (fun f r => f ||| r.2) ffNone)

/-! ## Line updates (R288, R289) -/

/-- SYS.NMSTAT after a faulting target line. -/
def nmFault (x : DWord) (va : Nat) : DWord :=
  let n := min 0xFFFF (fieldNat x 42 16 + 1)
  let l := fieldNat x 0 42
  let new := va / 64 % 2 ^ 42
  let l := if x.getLsbD 63 then min l new else new
  BitVec.ofNat 64 (2 ^ 63 + fieldNat x 58 5 * 2 ^ 58 + n * 2 ^ 42 + l)

/-- A whole line read of a unit, past the write queue; `none`: integrity fault or fenced channel. -/
def State.nmRead (s : State) (pa key : Nat) (cnt : Bool) : State × Option (List Byte) :=
  if s.dram.fenced pa then (s, none)
  else
    let (d, ok) := (s.dram.drainLine pa).resolve (lineOf pa) key
    let s := State.count { s with dram := d } pa key cnt
    (s, if ok then some (memRead s.dram.cells pa 64) else none)

/-- One target line, indivisibly: its flags, or the fault. (DEDUCED, log 51) -/
def State.nmUpdate (s : State) (c : NmCmd) (l : NmLine) : State × Option FFlags :=
  match s.nmRead l.tpa l.tkey l.tcnt with
  | (s, none) => (s, none)
  | (s, some t) =>
    match (if nmReadsA c.block then s.nmRead l.apa l.akey l.acnt else (s, some t)) with
    | (s, none) => (s, none)
    | (s, some a) =>
      let (bs, f) := nmLine c.block l.ix t a
      (s.writeDirect l.tpa l.tkey bs, some f)

/-- The first command, in order of arrival, with a line left on the stack. (DEDUCED, log 50) -/
def nmNext (stack : Nat) : List NmCmd → Option (Nat × NmCmd × NmLine)
  | [] => none
  | c :: cs =>
    match c.left.find? (fun l => unitOf l.tpa == stack) with
    | some l => some (0, c, l)
    | none => (nmNext stack cs).map (fun (i, r) => (i + 1, r))

/-- The next line of a stack (R288). -/
def State.nmLineUpdate (stack : Nat) (s : State) : State :=
  match nmNext stack s.dram.nm with
    | none => s
    | some (i, c, l) =>
      let (s, f) := s.nmUpdate c l
      let s := match f with
        | some _ => s
        | none => s.updPiece c.uid (fun x => { x with regs := { x.regs with
            nmstat := nmFault x.regs.nmstat (nmTgt c.block + 64 * l.ix) } })
      let c := { c with left := c.left.filter (fun m => m.ix != l.ix), flags := c.flags ||| f.getD 0 }
      if c.left.isEmpty then
        let s := { s with dram := { s.dram with nm := s.dram.nm.eraseIdx i } }
        s.updPiece c.uid (fun x => { x with regs := { x.regs with nmstat := x.regs.nmstat ||| (c.flags.setWidth 64 <<< 58) } })
      else { s with dram := { s.dram with nm := s.dram.nm.set i c } }

/-- NMFENCE (R291). -/
def execNmfence (g : Guard) (d : BitVec 6) (s : State) : Out :=
  s.guarded g 2 (fun s =>
    let a := s.agent
    if s.nmOf (s.uidAt (agentCore a) (agentSlot a)) then s.block a
    else
      let v := (s.own a).regs.nmstat
      (s.updOwn a (fun x => { x with regs := { x.regs with nmstat := 0 } })).result a d v 2)

end Sys2Proof.Machine
end

