-- ==== Sys2Proof/Machine/Arbiter.lean ====
section
/-! DEFINITION. The shared arbiters that serve partitions by weighted round robin (R420), and what of the command ring
(R408 to R412) says that the host link has something to do for a partition. -/

namespace Sys2Proof.Machine

/-! ## Weighted round robin (R420) -/

/-- The weight of a partition: QOSW, 255 for PF0. -/
def State.qosOf (s : State) (p : Nat) : Nat := if p = 0 then 255 else (s.part p).qosw

/-- The partition whose turn it is: the one served last while its weight is not used up, else the next that is ready, by
increasing number. (DESIGN CHOICE, log 107) -/
def Arb.pick (x : Arb) (weight : Nat → Nat) (ready : Nat → Bool) : Option Nat :=
  if ready x.last && decide (x.used < weight x.last) then some x.last
  else ((List.range 64).map (fun i => (x.last + 1 + i) % 64)).find? ready

/-- A partition is served once. -/
def Arb.serve (x : Arb) (weight : Nat → Nat) (p : Nat) : Arb :=
  if x.last = p ∧ x.used < weight p then { x with used := x.used + 1 } else { last := p, used := 1 }

/-! ## The command ring -/

/-- The function belongs to a partition (R406). -/
def State.fnLive (s : State) (fn : Nat) : Bool := fn == 0 || (s.part fn).live

def wrap32 (n : Nat) : Nat := n % 2 ^ 32
/-- `a - b` modulo 2^32 (R408). -/
def ahead (a b : Nat) : Nat := wrap32 (a + 2 ^ 32 - wrap32 b)

def cOp (c : List DWord) : Nat := hfld c 0 56 8
def cWait (c : List DWord) : Bool := (hw c 0).getLsbD 49
def cIrq (c : List DWord) : Bool := (hw c 0).getLsbD 48
def cTag (c : List DWord) : Word := (hw c 0).setWidth 32

/-- The ring issues commands now: no fault, no RST; PF0's while a complex is up (R424). -/
def State.ringOpen (s : State) (fn : Nat) : Bool :=
  let x := s.hostFn fn
  s.fnLive fn && x.ringEn && !x.fault && !x.resetting && (fn != 0 || s.fw.up)

/-- Where the next command stands, and its depth. -/
def HostFn.nextAt (x : HostFn) : Option (Nat × Nat) :=
  match x.frames with
  | f :: _ => some (f.addr, x.frames.length)
  | [] =>
    if x.commits.contains x.head ∧ x.head ≠ x.next then some (x.ringBase.toNat + x.head % 2 ^ x.rlog * 64, 0) else none

/-- Every earlier command of the ring has completed. -/
def HostFn.waitOver (x : HostFn) (depth : Nat) : Bool :=
  if depth = 0 then x.cmds.isEmpty
  else
    match x.cmds with
    | [c] => c.subs == 0
    | _ => false

/-- The top-level command has ended; one with a fault once every earlier one has completed. -/
def HostFn.ready (x : HostFn) (c : HostCmd) : Bool :=
  c.subs == 0 && !c.issuing && (c.status != 6 || (x.cmds.head?.map (·.ticket)) == some c.ticket)

/-! ## The host link -/

/-- The ring's next command may be fetched: none that waits for earlier ones. -/
def State.fetchReady (s : State) (fn : Nat) : Bool :=
  let x := s.hostFn fn
  match (if s.ringOpen fn then x.nextAt else none) with
  | none => false
  | some (a, depth) => Config.busError a s.stepNo || !cWait (wordsOf 8 (memRead s.hostMem a 64)) || x.waitOver depth

/-- Room in a receive ring for `n` bytes more. -/
def HostFn.rxRoom (x : HostFn) (n : Nat) : Bool :=
  x.rxEn && decide ((x.tail - x.rxHead).toNat + n ≤ 2 ^ x.xlog)

def Part.peer (x : Part) (n : Nat) : BitVec 256 := Tbl.get 0 x.peers n
def peerKind (e : BitVec 256) : Nat := fieldNat e 62 2
def dwBytes (ws : List DWord) : List Byte := ws.flatMap (fun w => leBytes 8 w.toNat)

/-- Header and payload as a message enters a receive ring: padded to a multiple of 64 bytes. -/
def rxBytes (hdr : List DWord) (payload : List Byte) : List Byte :=
  let bs := dwBytes hdr ++ payload
  bs ++ List.replicate ((bs.length + 63) / 64 * 64 - bs.length) 0

/-- An earlier message to the same peer by ROD has still to reach it (R345, R346). -/
def Part.sendBehind (x : Part) (d : Send) : Bool :=
  d.rod && x.sends.any (fun q => q.peer == d.peer && q.rod && decide (q.idx < d.idx) && !q.arrived)

/-- A send to the host's receive ring that may be written now. -/
def State.rxReady (s : State) (p : Nat) (d : Send) : Bool :=
  !d.arrived && d.peer != (s.part p).self && peerKind ((s.part p).peer d.peer) == 2 && !(s.part p).sendBehind d &&
    (s.hostFn p).rxRoom (rxBytes d.hdr d.payload).length

/-- The host link has something to do for a partition in RUN: a fetch, a line of a transfer, a completion record or a write
to the receive ring. -/
def State.linkReady (s : State) (p : Nat) : Bool :=
  let x := s.hostFn p
  s.fnLive p && !(s.part p).inReset &&
    (s.fetchReady p || s.jobs.any (fun j => j.fn == p && (j.op == 2 || j.op == 3)) || x.cmds.any x.ready ||
      (s.part p).sends.any (s.rxReady p))

/-- The host link may serve the partition now. -/
def State.linkTurn (s : State) (p : Nat) : Bool :=
  match s.link.pick s.qosOf s.linkReady with
  | none => true
  | some q => q == p

/-- The host link has served the partition. -/
def State.linkServed (s : State) (p : Nat) : State := { s with link := s.link.serve s.qosOf p }

end Sys2Proof.Machine
end

