-- ==== Sys2Proof/Machine/Counters.lean ====
section
/-! DEFINITION. Counters and the triggered-operation table: entries (R352), advances, tests and firings (R355 to R361), the
sends that instructions and firings make (R346 to R349, R374), and the writes of a delivery (R343, R354). -/

namespace Sys2Proof.Machine

/-! ## Entries (R352) -/

def eV (e : BitVec 512) : Bool := e.getLsbD 63
def eMen (e : BitVec 512) : Bool := e.getLsbD 62
def eAct (e : BitVec 512) : Nat := tfld e 0 59 3
def eScope (e : BitVec 512) : Nat := tfld e 0 56 3
def eDkind (e : BitVec 512) : Nat := tfld e 0 53 3
def eHold (e : BitVec 512) : Bool := e.getLsbD 52
def eInc (e : BitVec 512) : Bool := e.getLsbD 51
def eHnd (e : BitVec 512) : Bool := e.getLsbD 50
def eOrd (e : BitVec 512) : Bool := e.getLsbD 49
def eRtype (e : BitVec 512) : Nat := tfld e 0 47 2
def eRop (e : BitVec 512) : Nat := tfld e 0 45 2
def eHline (e : BitVec 512) : Nat := tfld e 0 32 13
def eCnt (e : BitVec 512) : Nat := tfld e 0 0 16
def eMatch (e : BitVec 512) : DWord := tword e 1
def eIgnore (e : BitVec 512) : DWord := tword e 2
def eThresh (e : BitVec 512) : DWord := tword e 3
def eTarget (e : BitVec 512) : Nat := tfld e 4 0 64
def eMaxlen (e : BitVec 512) : Nat := tfld e 5 40 24
def eStep (e : BitVec 512) : Nat := tfld e 5 0 32
def eArg (e : BitVec 512) : DWord := tword e 6
def eAmt (e : BitVec 512) : DWord := tword e 7

def State.entry (s : State) (n : Nat) : TotEntry := Tbl.get TotEntry.reset s.npd.entries n
def State.updEntry (s : State) (n : Nat) (f : TotEntry → TotEntry) : State :=
  { s with npd := { s.npd with entries := Tbl.set s.npd.entries n (f (s.entry n)) } }
def State.counter (s : State) (n : Nat) : DWord := Tbl.get 0 s.npd.counters n
def State.setCounter (s : State) (n : Nat) (v : DWord) : State :=
  { s with npd := { s.npd with counters := Tbl.set s.npd.counters n v } }

/-- For which partition an entry acts: the one in whose range it lies, else the firmware. -/
def State.entryPart (s : State) (n : Nat) : Nat :=
  match s.parts.find? (fun (i, x) => i != 0 && x.live && x.hasEntry n) with
  | some (i, _) => i
  | none => 0

/-! ## Deliveries (R343, R354) -/

def delivAcc (p : Nat) : Acc := { npdAcc p with claims := true }

/-- An event of kind 3 (R369). -/
def State.npdFault (s : State) (p index : Nat) (e : Exc) : State :=
  let (cls, sub) := copyEventSub e
  s.event p 3 (cls * 32 + sub) index e.addr (if e.cause = 5 then e.info >>> 32 else 0)

/-- How the writing of a delivery ends. -/
inductive Deliv where
  | ok
  | hold
  | exc (e : Exc)
  deriving DecidableEq, Repr

/-- A delivery, line by line: the bytes written, the tiles that they filled, and how it ends. -/
def State.deliver (s : State) (x : Acc) (done : Nat) (ts : List (Nat × Nat)) :
    List (Nat × Nat) → List Byte → State × Nat × List (Nat × Nat) × Deliv
  | [], _ => (s, done, ts, .ok)
  | (a, n) :: r, bs =>
    match s.check x a n .wr with
    | (s, .exc e) => (s, done, ts, .exc e)
    | (s, .hold _) => (s, done, ts, .hold)
    | (s, .ok ps cs) =>
      let s := s.claim x cs
      let ts := addTiles ts (s.filling x ps)
      match s.writeLines 0 ps (bs.take n) with
      | (s, some (e, _)) => (s, done, ts, .exc e)
      | (s, none) => State.deliver s x (done + n) ts r (bs.drop n)

/-! ## Sends (R346 to R349, R374) -/

def peerJob (e : BitVec 256) : Nat := fieldNat e 0 24
def peerVec (e : BitVec 256) : Nat := fieldNat e 192 11

/-- The message header of R347. -/
def header (kind job rank : Nat) (mt : DWord) (offset len : Nat) (user : DWord) : List DWord :=
  [BitVec.ofNat 64 (2 ^ 60 + kind * 2 ^ 56 + job * 2 ^ 32 + rank), mt, BitVec.ofNat 64 (offset * 2 ^ 32 + len), user]

/-- Bytes into a ring that wraps. -/
def ringWrite (m : Memory) (base size pos : Nat) : List Byte → Memory
  | [] => m
  | b :: bs => ringWrite (memPut m (base + pos % size) b) base size (pos + 1) bs

def HostFn.raise (x : HostFn) (v : Nat) : HostFn := { x with vectors := Tbl.set x.vectors v (Tbl.get 0 x.vectors v + 1) }

/-- HOST_RECEIVE_RING_WRITE (R420): padded header and payload at HRX.TAIL, and the entry's vector. (DEDUCED, log 69) -/
def State.rxWrite (s : State) (p vec : Nat) (bs : List Byte) : State :=
  let x := s.hostFn p
  State.updHost { s with hostMem := ringWrite s.hostMem x.rxBase.toNat (2 ^ x.xlog) (x.tail.toNat % 2 ^ x.xlog) bs } p
    (fun x => ({ x with tail := x.tail + BitVec.ofNat 64 bs.length } : HostFn).raise vec)

/-- A message that the NPD loops back enters at stage 2 (R348). -/
def State.loopMsg (s : State) (p : Nat) (d : Send) : State :=
  let m : Msg :=
    { id := s.npd.nextMsg, order := s.npd.nextMsg, part := p, entry := 0, dw := 0,
      pkt := { peer := d.peer, rod := d.rod, psn := d.idx, stamp := 0, hdr := d.hdr, payload := d.payload },
      loop := true, stage := .arrived, done := 0, wrote := false, tiles := [], amt := none }
  { s with npd := { s.npd with msgs := s.npd.msgs ++ [m], nextMsg := s.npd.nextMsg + 1 } }

/-- What one transmission of a send comes to. -/
inductive Transmit where
  | arrived
  | waits
  | failed
  deriving DecidableEq, Repr

/-- One transmission by the kind of the peer: another device, the host's receive ring, or the NPD itself. (DEDUCED, log 64) -/
def State.transmit (s : State) (p : Nat) (d : Send) : State × Transmit :=
  let x := s.part p
  if d.peer = x.self then
    if s.npd.msgs.any (fun m => m.loop && m.part == p && m.pkt.psn == d.idx) then (s, .waits)
    else (s.loopMsg p d, .waits)
  else
    let e := x.peer d.peer
    match peerKind e with
    | 1 => (s, .waits)
    | 2 =>
      if s.rxReady p d && s.linkTurn p then
        ((s.linkServed p).rxWrite p (peerVec e) (rxBytes d.hdr d.payload), .arrived)
      else (s, .waits)
    | _ => (s, .failed)

def State.sendFailed (s : State) (p : Nat) (d : Send) : State :=
  s.event p 12 0 0 d.block (BitVec.ofNat 64 d.peer)

def State.dropSend (s : State) (p idx : Nat) : State :=
  s.updPart p (fun x => { x with sends := x.sends.filter (fun d => d.idx != idx) })

/-- The send has reached its receiver, whose acknowledgement is still to come. -/
def State.sendArrives (s : State) (p idx : Nat) : State :=
  s.updPart p (fun x => { x with sends := x.sends.map (fun (d : Send) => if d.idx = idx then { d with arrived := true } else d) })

/-- A send is handed to the transport: outstanding until it is acknowledged or given up. -/
def State.launchSend (s : State) (p : Nat) (block : DWord) (peer : Nat) (rod : Bool) (cen : Option Nat) (hdr : List DWord)
    (payload : List Byte) : State :=
  let d : Send := { idx := (s.part p).nextSend, block := block, peer := peer, rod := rod, cen := cen, hdr := hdr,
                    payload := payload, first := npdCycles s.cycle, tries := 1, arrived := false }
  let s := s.updPart p (fun x => { x with nextSend := x.nextSend + 1, sends := x.sends ++ [d] })
  match s.transmit p d with
  | (s, .waits) => s
  | (s, .arrived) => s.sendArrives p d.idx
  | (s, .failed) => (s.dropSend p d.idx).sendFailed p d

/-- The send block (R374) and its first failing status. -/
def sbPeer (b : List DWord) : Nat := hfld b 0 50 14
def sbRod (b : List DWord) : Bool := (hw b 0).getLsbD 49
def sbCen (b : List DWord) : Bool := (hw b 0).getLsbD 48
def sbCcnt (b : List DWord) : Nat := hfld b 0 32 16
def sbLen (b : List DWord) : Nat := hfld b 0 0 24

def State.sendCheck (s : State) (p : Nat) (b : List DWord) : Nat :=
  if hfld b 0 24 8 ≠ 0 ∨ hfld b 3 14 18 ≠ 0 ∨ hw b 5 ≠ 0 ∨ hw b 6 ≠ 0 ∨ hw b 7 ≠ 0 then 2
  else if (s.part p).peercnt ≤ sbPeer b then 3
  else if sbCen b ∧ !s.hasCounter p (sbCcnt b) then 4
  else 0

/-- What a SEND, or the send of a firing, meets. -/
inductive Sent where
  | done
  | code (n : Nat)
  | fault (e : Exc)
  | hold
  deriving DecidableEq, Repr

/-- SEND of the block at `a` (R374). -/
def State.sendAt (s : State) (p : Nat) (x : Acc) (a : Nat) : State × Sent :=
  if a % 64 ≠ 0 then (s, .code 1)
  else
    match s.readMem x a 64 with
    | (s, .exc e) => (s, .fault e)
    | (s, .hold) => (s, .hold)
    | (s, .ok bs) =>
      let b := wordsOf 8 bs
      let code := s.sendCheck p b
      if code ≠ 0 then (s, .code code)
      else if 4096 ≤ (s.part p).sends.length then (s, .hold)
      else
        match (if sbLen b = 0 then (s, .ok []) else s.readMem x (hw b 2).toNat (sbLen b)) with
        | (s, .exc e) => (s, .fault e)
        | (s, .hold) => (s, .hold)
        | (s, .ok pay) =>
          let job := if sbPeer b = (s.part p).self then (s.part p).job else peerJob ((s.part p).peer (sbPeer b))
          let h := header 0 job (hfld b 3 0 14) (hw b 1) (hfld b 3 32 32) (sbLen b) (hw b 4)
          let cen := if sbCen b then some (sbCcnt b) else none
          (s.launchSend p (BitVec.ofNat 64 a) (sbPeer b) (sbRod b) cen h pay, .done)

/-! ## Firings (R357, R358) -/

/-- What an action leaves: nothing more, the advance of a chain, or a wait. -/
inductive Acted where
  | done
  | chain (ctr : Nat)
  | hold
  deriving DecidableEq, Repr

def State.refusedAct (s : State) (p n act status : Nat) (arg : DWord) : State × Acted :=
  (s.event p 5 (act * 32 + status % 32) n arg 0, .done)

/-- A fired copy (R358, R268, R279). (DEDUCED, log 48) -/
def State.firedCopy (s : State) (p n : Nat) (arg : DWord) : State × Acted :=
  let c := fieldNat arg 8 7
  let t := fieldNat arg 0 6
  if !s.holdsCore p c then s.refusedAct p n 2 31 arg
  else
    let t0 := (s.core c).template t
    let t1 := tset (tset t0 5 51 (0 : BitVec 1)) 5 43 (0 : BitVec 2)
    let code := tCheck t1 (p == 0)
    if code ≠ 0 then s.refusedAct p n 2 code arg
    else if 16 ≤ (s.bay (bayOf c)).npdBuf.length then (s, .hold)
    else
      let seq := BitVec.ofNat 48 (tSeq t0 + 1)
      let cmd : CopyCmd := { t := tset t1 6 0 seq, part := p, who := none, cls := .net, host := none }
      ((s.updCore c (fun x => x.setTemplate t (tset t0 6 0 seq))).updBay (bayOf c) (fun b =>
        { b with npdBuf := b.npdBuf ++ [cmd] }), .done)

/-- Step 3 of R357. -/
def State.action (s : State) (p n act : Nat) (arg : DWord) : State × Acted :=
  match act with
  | 1 =>
    match s.launchAt p arg none with
    | (s, .refused code) => (s.event p 4 code n arg 0, .done)
    | (s, .fault e) => (s.npdFault p n e, .done)
    | (s, .hold) => (s, .hold)
    | (s, .accepted _) | (s, .waits) => (s, .done)
  | 2 => s.firedCopy p n arg
  | 3 =>
    match s.sendAt p (npdAcc p) arg.toNat with
    | (s, .code c) => s.refusedAct p n 3 c arg
    | (s, .fault e) => (s.npdFault p n e, .done)
    | (s, .hold) => (s, .hold)
    | (s, .done) => (s, .done)
  | 4 =>
    let c := fieldNat arg 0 16
    if s.hasCounter p c then (s, .chain c) else s.refusedAct p n 4 1 arg
  | _ => (s, .done)

/-- An advance that is due: its counter, its amount, its depth (R359), and the entry whose chain makes it. -/
structure Due where
  ctr : Nat
  by1 : DWord
  depth : Nat
  from1 : Option (Nat × DWord)
  deriving DecidableEq, Repr

/-- The advance of a chain. -/
def Firing.due (f : Firing) (c : Nat) : Due := { ctr := c, by1 := f.amt, depth := f.depth + 1, from1 := some (f.entry, f.arg) }

/-- An action that cannot be taken yet waits, behind those of its entry that already wait. -/
def State.act (s : State) (f : Firing) : State × List Due :=
  let wait (s : State) : State × List Due := ({ s with npd := { s.npd with firings := s.npd.firings ++ [f] } }, [])
  if s.npd.firings.any (fun g => g.entry == f.entry) then wait s
  else
    match s.action f.part f.entry f.act f.arg with
    | (s, .hold) => wait s
    | (s, .done) => (s, [])
    | (s, .chain c) => (s, [f.due c])

/-- ENTRY_FIRING (R357): held tiles, the threshold or the disarming, the action. -/
def State.fire (s : State) (n depth : Nat) : State × List Due :=
  let x := s.entry n
  let p := s.entryPart n
  let s := if eHold x.dw then s.readyTiles (npdAcc p) x.tiles else s
  let dw := if eStep x.dw = 0 then tset x.dw 0 63 (0 : BitVec 1)
    else tset x.dw 3 0 (eThresh x.dw + BitVec.ofNat 64 (eStep x.dw))
  (s.updEntry n (fun _ => { dw := dw, rank := 0, tiles := [] })).act
    { part := p, entry := n, act := eAct x.dw, arg := eArg x.dw, amt := eAmt x.dw, depth := depth }

/-- The entry fires when its counter is at or above its threshold (R356). -/
def TotEntry.fires (x : TotEntry) (v : DWord) : Bool := eV x.dw && eAct x.dw != 0 && (eThresh x.dw).ule v

/-- The entries that watch a counter, in increasing index. -/
def State.watchers (s : State) (c : Nat) : List Nat :=
  s.npd.entries.filterMap (fun (n, x) => if eV x.dw && eCnt x.dw == c then some n else none)

/-- The entries of a list fire where they stand at their threshold; the advances that this makes. -/
def State.test (s : State) (v : DWord) (depth : Nat) : List Nat → State × List Due
  | [] => (s, [])
  | n :: ns =>
    let (s, new) := if (s.entry n).fires v then s.fire n depth else (s, [])
    let (s, ds) := State.test s v depth ns
    (s, new ++ ds)

/-- One advance with its tests (R356); a chain's deeper than 16 is not applied (R359). -/
def State.advanceOne (s : State) (d : Due) : State × List Due :=
  if 16 < d.depth then
    (match d.from1 with
     | some (n, arg) => (s.refusedAct (s.entryPart n) n 4 2 arg).1
     | none => s, [])
  else
    let v := s.counter d.ctr + d.by1
    (s.setCounter d.ctr v).test v d.depth (s.watchers d.ctr)

/-- The advances of a list, one at a time, and those that they make. -/
def State.advanceList (s : State) : List Due → State × List Due
  | [] => (s, [])
  | d :: ds =>
    let (s, new) := s.advanceOne d
    let (s, rest) := State.advanceList s ds
    (s, new ++ rest)

/-- Advances in rounds, each one chain deeper than the one before. (DEDUCED, log 63) -/
def State.advanceAll : Nat → State → List Due → State
  | 0, s, _ => s
  | n + 1, s, ds =>
    let (s, new) := s.advanceList ds
    if new.isEmpty then s else State.advanceAll n s new

/-- An advance of depth 0 with all that follows from it: 17 rounds apply, and an eighteenth refuses. -/
def State.advanceCtr (s : State) (c : Nat) (by1 : DWord) : State :=
  State.advanceAll 18 s [{ ctr := c, by1 := by1, depth := 0, from1 := none }]

/-- ARM's test of its entry, as though the counter had advanced by 0 (R361). -/
def State.armTest (s : State) (n : Nat) : State :=
  let (s, ds) := s.test (s.counter (eCnt (s.entry n).dw)) 0 [n]
  State.advanceAll 18 s ds

/-- The actions that wait are tried again, the first of each entry first. -/
def State.retryFirings (s : State) : State :=
  let fs := s.npd.firings
  let (s, ds) := fs.foldl (fun (acc : State × List Due) f =>
    let (s, new) := acc.1.act f
    (s, acc.2 ++ new)) ({ s with npd := { s.npd with firings := [] } }, [])
  State.advanceAll 18 s ds

end Sys2Proof.Machine
end

