-- ==== Sys2Proof/Machine/Reduce.lean ====
section
/-! DEFINITION. Root-side reduction slots (R364 to R368): contributions, their combination, the close of a slot, and the
instructions RSALLOC, RSCON and RSCLOSE (R376). -/

namespace Sys2Proof.Machine

def State.rslot (s : State) (n : Nat) : RSlot := Tbl.get RSlot.reset s.npd.rslots n
def State.updRSlot (s : State) (n : Nat) (f : RSlot → RSlot) : State :=
  { s with npd := { s.npd with rslots := Tbl.set s.npd.rslots n (f (s.rslot n)) } }

/-- Bytes of an element by TYPE. -/
def rsSize (ty : Nat) : Nat := if ty = 0 then 2 else 4
/-- The slot's 24-bit handle (R364). -/
def RSlot.handle (x : RSlot) (n : Nat) : Nat := x.gen.toNat * 256 + n
/-- The handle names a slot that is open for the partition, at its present generation. -/
def State.slotOpen (s : State) (p h : Nat) : Bool :=
  let x := s.rslot (h % 256)
  x.isOpen && x.closing.isNone && x.part == p && x.gen.toNat == h / 256

/-! ## Combination (R366) -/

/-- The identity of an operation. -/
def rsIdentity (op ty : Nat) : Nat :=
  if ty = 2 then (match op with | 0 => 0 | 1 => 0x80000000 | _ => 0x7FFFFFFF)
  else
    match op with
    | 0 => 0x80000000
    | 1 | 4 => fInf .fp32 true
    | 2 | 5 => fInf .fp32 false
    | _ => 0

/-- What an element does to its accumulator. -/
structure Comb where
  acc : Nat
  mark : Bool
  nan : Bool
  flags : FFlags
  deriving DecidableEq, Repr

def combine (op ty acc x : Nat) : Comb :=
  if ty = 2 then
    let r := match op with
      | 0 => (acc + x) % 2 ^ 32
      | 1 => if sext 32 acc < sext 32 x then x else acc
      | _ => if sext 32 x < sext 32 acc then x else acc
    { acc := r, mark := false, nan := false, flags := ffNone }
  else
    let v := if ty = 0 then x <<< 16 else x
    if isNaN .fp32 v then
      { acc := acc, mark := decide (op ≤ 2), nan := true, flags := if isSNaN .fp32 v then ffIV else ffNone }
    else
      match op with
      | 0 =>
        let (r, f) := addOp .fp32 acc v .rne 0 false
        { acc := r, mark := isNaN .fp32 r, nan := false, flags := f }
      | 3 => { acc := if fLess .fp32 acc (fAbs .fp32 v) then fAbs .fp32 v else acc, mark := false, nan := false, flags := ffNone }
      | _ => { acc := (minOp .fp32 (op == 1 || op == 4) false acc v).1, mark := false, nan := false, flags := ffNone }

/-- A contribution, element by element, and its bit in the bitmap. -/
def RSlot.take (x : RSlot) (rank : Nat) (xs : List Nat) : RSlot :=
  let rs := ((List.range x.count).zip xs).map (fun (e, v) =>
    (e, combine x.op x.ty (Tbl.get (BitVec.ofNat 32 (rsIdentity x.op x.ty)) x.acc e).toNat v))
  { x with
    acc := rs.map (fun (e, r) => (e, BitVec.ofNat 32 r.acc)),
    marks := rs.foldl (fun m (e, r) => if r.mark then m ||| ((1 : BitVec 1024) <<< e) else m) x.marks,
    nan := x.nan || rs.any (fun (_, r) => r.nan),
    flags := rs.foldl (fun f (_, r) => f ||| r.flags) x.flags,
    bitmap := x.bitmap ||| ((1 : DWord) <<< rank) }

/-! ## Close (R367) -/

/-- An element of the result with its flags. -/
def RSlot.final (x : RSlot) (e : Nat) : Nat × FFlags :=
  let v := (Tbl.get (BitVec.ofNat 32 (rsIdentity x.op x.ty)) x.acc e).toNat
  if x.ty = 2 then (v, ffNone)
  else
    let f : Fmt := if x.ty = 0 then .bf16 else .fp32
    if x.marks.getLsbD e then (canonNaN f, ffNone) else cvtFF f .fp32 v .rne 0 false

/-- The record and the elements. -/
def RSlot.result (x : RSlot) (n : Nat) (to1 forced : Bool) : List Byte :=
  let es := (List.range x.count).map x.final
  let fl := es.foldl (fun f r => f ||| r.2) x.flags
  let dw0 := b2n to1 * 2 ^ 63 + b2n forced * 2 ^ 62 + b2n x.nan * 2 ^ 61 + b2n x.dup * 2 ^ 60 + fl.toNat * 2 ^ 55 + x.handle n
  leBytes 8 dw0 ++ leBytes 8 x.bitmap.toNat ++ bytesOf (rsSize x.ty) (es.map (·.1))

/-- The slot is free; its generation stays. -/
def State.freeRSlot (s : State) (n : Nat) : State := s.updRSlot n (fun x => { RSlot.reset with gen := x.gen })

/-- The result of a closing slot is written as a delivery; a write that holds is made again. -/
def State.writeResult (s : State) (n : Nat) : State :=
  let x := s.rslot n
  match x.closing with
  | none => s
  | some (to1, forced) =>
    let bs := x.result n to1 forced
    match s.deliver (delivAcc x.part) 0 [] (pieces x.dest.toNat bs.length) bs with
    | (s, _, _, .hold) => s
    | (s, _, _, .exc e) => (s.npdFault x.part n e).freeRSlot n
    | (s, _, ts, .ok) => ((s.readyTiles (delivAcc x.part) ts).freeRSlot n).advanceCtr x.dcnt 1

/-- REDUCTION_SLOT_CLOSE. -/
def State.closeSlot (s : State) (n : Nat) (to1 forced : Bool) : State :=
  (s.updRSlot n (fun x => { x with closing := some (to1, forced) })).writeResult n

/-- The timeout of a slot has expired (R368). -/
def RSlot.expired (x : RSlot) (now : Nat) : Bool :=
  x.isOpen && x.closing.isNone && x.deadline.any (fun t => decide (t ≤ npdCycles now))
/-- It closes the slot, before anything that meets the slot at or after that NPD cycle (R367). -/
def State.closeDue (s : State) (n : Nat) : State :=
  if (s.rslot n).expired s.cycle then s.closeSlot n true false else s
/-- Every slot whose timeout has expired. -/
def State.closeAllDue (s : State) : State := s.npd.rslots.foldl (fun (s : State) (n, _) => s.closeDue n) s

/-! ## Contributions (R365) -/

/-- The sub-cause that refuses a contribution; 0 where it is taken. -/
def State.contribCheck (s : State) (p h rank : Nat) (lenBad : RSlot → Bool) : Nat :=
  let x := s.rslot (h % 256)
  if !s.slotOpen p h then 1
  else if x.ncon ≤ rank then 2
  else if lenBad x then 3
  else if x.bitmap.getLsbD rank then 4
  else 0

/-- A refused contribution: a duplicate sets DUPSEEN. -/
def State.contribRefused (s : State) (h code : Nat) : State :=
  if code = 4 then s.updRSlot (h % 256) (fun x => { x with dup := true }) else s

/-- A contribution is combined; the slot closes with the last of its contributors. -/
def State.contribute (s : State) (h rank : Nat) (bs : List Byte) : State :=
  let n := h % 256
  let s := s.updRSlot n (fun x => x.take rank (elemsOf (rsSize x.ty) bs))
  let x := s.rslot n
  if x.ncon ≤ popCount x.bitmap then s.closeSlot n false false else s

/-- REDUCTION_SLOT_TIMEOUT (R368): the timeout closes the slot; a result that holds is written again. -/
def execReductionSlotTimeout (slot : Nat) (s : State) : Out :=
  .next (
    if (s.rslot slot).closing.isSome then s.writeResult slot else s.closeDue slot)

/-! ## Instructions (R376) -/

/-- Fields of the slot block (R364). -/
def rbBad (b : List DWord) : Bool :=
  let op := hfld b 0 60 4
  let ty := hfld b 0 58 2
  let ncon := hfld b 0 51 7
  let count := hfld b 0 16 11
  decide (6 ≤ op) || ty == 3 || (ty == 2 && decide (3 ≤ op)) || ncon == 0 || decide (64 < ncon) || decide (6 ≤ hfld b 0 48 3) ||
    hfld b 0 27 5 != 0 || count == 0 || decide (1024 < count) || (b.drop 2).any (· != 0)

/-- The first failing code of RSALLOC after the address, or the free slot. -/
def State.rsCheck (s : State) (p : Nat) (b : List DWord) : Except Nat Nat :=
  if rbBad b then .error 2
  else if !s.hasCounter p (hfld b 0 0 16) then .error 3
  else if (hw b 1).toNat % 16 ≠ 0 then .error 4
  else if (s.part p).rsquota ≤ (s.npd.rslots.filter (fun (_, x) => x.isOpen && x.part == p)).length then .error 5
  else
    match (List.range 256).find? (fun n => !(s.rslot n).isOpen) with
    | none => .error 6
    | some n => .ok n

/-- A slot as RSALLOC takes it, at core cycle `now`. (DEDUCED, log 67) -/
def RSlot.alloc (x : RSlot) (p now : Nat) (b : List DWord) : RSlot :=
  let t := hfld b 0 32 16
  { RSlot.reset with
    isOpen := true, part := p, gen := x.gen + 1, op := hfld b 0 60 4, ty := hfld b 0 58 2, ncon := hfld b 0 51 7,
    scope := hfld b 0 48 3, count := hfld b 0 16 11, dcnt := hfld b 0 0 16, dest := hw b 1,
    deadline := if t = 0 then none else some (npdCycles now + t * 2100) }

/-- RSALLOC. -/
def execRsalloc (g : Guard) (d a : BitVec 6) (s : State) : Out :=
  s.guarded g 2 (fun s =>
    let ag := s.agent
    let p := s.partOf ag
    let addr := (s.reg ag a).toNat
    let code (s : State) (n : Nat) : State := s.result ag d (BitVec.ofNat 64 (2 ^ 63 + n)) 2
    if addr % 64 ≠ 0 then code s 1
    else
      let (s, r) := s.readMem (s.accOf ag) addr 64
      s.got ag r (fun s bs =>
        let b := wordsOf 8 bs
        let s := s.closeAllDue
        match s.rsCheck p b with
        | .error n => code s n
        | .ok n =>
          let s := s.updRSlot n (fun x => x.alloc p s.cycle b)
          s.result ag d (BitVec.ofNat 64 ((s.rslot n).handle n)) 2))

/-- RSCON. -/
def execRscon (g : Guard) (d a b c : BitVec 6) (s : State) : Out :=
  s.guarded g 2 (fun s =>
    let ag := s.agent
    let h := (s.reg ag a).toNat
    let rank := (s.reg ag c).toNat
    let s := s.closeDue (h % 256)
    let code := s.contribCheck (s.partOf ag) h rank (fun _ => false)
    if code ≠ 0 then (s.contribRefused h code).result ag d (BitVec.ofNat 64 code) 2
    else
      let x := s.rslot (h % 256)
      let (s, r) := s.readMem (s.accOf ag) (s.reg ag b).toNat (x.count * rsSize x.ty)
      s.got ag r (fun s bs => (s.contribute h rank bs).result ag d 0 2))

/-- RSCLOSE and RSCLOSE.drop. -/
def execRsclose (g : Guard) (drop : Bool) (d a : BitVec 6) (s : State) : Out :=
  s.guarded g 2 (fun s =>
    let ag := s.agent
    let h := (s.reg ag a).toNat
    let s := s.closeDue (h % 256)
    if !s.slotOpen (s.partOf ag) h then s.result ag d 1 2
    else (if drop then s.freeRSlot (h % 256) else s.closeSlot (h % 256) false true).result ag d 0 2)

end Sys2Proof.Machine
end

