-- ==== Sys2Proof/Machine/Npd.lean ====
section
/-! DEFINITION. The network processor: the stages of an arrival (R20, R346 to R355), receive-path reduction (R362, R363),
packet threads (R339 to R344), the instructions of the network profile (R370 to R377) and the transport's events. -/

namespace Sys2Proof.Machine

/-! ## The message header (R347) -/

def pkKind (k : Packet) : Nat := hfld k.hdr 0 56 4
def pkJob (k : Packet) : Nat := hfld k.hdr 0 32 24
def pkRank (k : Packet) : Nat := hfld k.hdr 0 0 14
def pkMatch (k : Packet) : DWord := hw k.hdr 1
def pkOff (k : Packet) : Nat := hfld k.hdr 2 32 32
def pkLen (k : Packet) : Nat := hfld k.hdr 2 0 24
def pkUser (k : Packet) : DWord := hw k.hdr 3

/-- The header keeps the table of R347. -/
def pkSound (k : Packet) : Bool :=
  hfld k.hdr 0 60 4 == 1 && decide (pkKind k ≤ 1) && hfld k.hdr 0 14 18 == 0 && hfld k.hdr 2 24 8 == 0 &&
    pkLen k == k.payload.length && (pkKind k == 0 || (pkLen k == 0 && (pkMatch k).toNat / 65536 == 0))

/-- INFO2 of the events about a message (R369). -/
def pkInfo (k : Packet) : DWord := BitVec.ofNat 64 (pkRank k * 2 ^ 16 + k.peer)

/-- The partition whose JOB the header names. -/
def State.partByJob (s : State) (job : Nat) : Option Nat :=
  (s.parts.find? (fun (_, x) => x.live && x.job == job)).map (·.1)

/-! ## The end of a message -/

/-- The message has passed stage 4 or has been dropped: it is acknowledged (R346). -/
def State.endMsg (s : State) (m : Msg) : State :=
  let s := { s with npd := s.npd.dropMsg m.id }
  if m.loop then s.sendArrives m.part m.pkt.psn else s

/-- The message is dropped with an event about its entry (kind 2) or a fault (kind 3). -/
def State.dropBad (s : State) (m : Msg) (sub : Nat) : State :=
  (s.event m.part 2 sub m.entry (BitVec.ofNat 64 (pkOff m.pkt * 2 ^ 32 + pkLen m.pkt)) (pkInfo m.pkt)).endMsg m
def State.dropFault (s : State) (m : Msg) (e : Exc) : State := (s.npdFault m.part m.entry e).endMsg m

def State.putMsg (s : State) (m : Msg) : State := { s with npd := s.npd.updMsg m.id (fun _ => m) }

/-- Stage 3 has ended: the tiles that it filled, unless HOLD keeps them, and on to the handler or the advance. A write that a
partition reset lets finish is the last that its message does (R21, R421). -/
def State.delivered (s : State) (m : Msg) : State :=
  if (s.part m.part).inReset then { s with npd := s.npd.dropMsg m.id } else
  let s := if eHold m.dw then s else s.readyTiles (delivAcc m.part) m.tiles
  s.putMsg { m with stage := if eHnd m.dw then .start else .advance }

/-! ## Stage 3 (R354, R362, R363, R365) -/

def State.deliverMsg (s : State) (m : Msg) : State :=
  let a := eTarget m.dw + pkOff m.pkt
  let (s, done, ts, r) := s.deliver (delivAcc m.part) m.done m.tiles
    (pieces (a + m.done) (pkLen m.pkt - m.done)) (m.pkt.payload.drop m.done)
  let m := { m with done := done, tiles := ts, wrote := decide (pkLen m.pkt ≠ 0) }
  match r with
  | .ok => s.delivered m
  | .hold => s.putMsg m
  | .exc e => s.dropFault m e

/-- One element of a receive-path reduction: target `a`, payload `x`. -/
def reduceElem (ty op a x : Nat) : Nat × FFlags :=
  if ty = 2 then
    (match op with
     | 0 => (a + x) % 2 ^ 32
     | 1 => if sext 32 a < sext 32 x then x else a
     | _ => if sext 32 x < sext 32 a then x else a, ffNone)
  else
    let f : Fmt := if ty = 0 then .bf16 else .fp32
    match op with
    | 0 => addOp f a x .rne 0 false
    | 1 => minOp f true false a x
    | _ => minOp f false false a x

/-- The elements of a contribution, each read, combined and written indivisibly. -/
def State.reduceElems (s : State) (p ty op a done : Nat) (ts : List (Nat × Nat)) :
    List Nat → State × Nat × List (Nat × Nat) × Deliv
  | [] => (s, done, ts, .ok)
  | x :: xs =>
    let n := rsSize ty
    let acc := delivAcc p
    match s.check acc a n .wr with
    | (s, .exc e) => (s, done, ts, .exc e)
    | (s, .hold _) => (s, done, ts, .hold)
    | (s, .ok ps cs) =>
      let s := s.claim acc cs
      let ts := addTiles ts (s.filling acc ps)
      match s.readParts ps with
      | (s, .error e) => (s, done, ts, .exc e)
      | (s, .ok bs) =>
        let (r, f) := reduceElem ty op (leNat bs) x
        let s := (s.writeAll ps (leBytes n r)).updPart p (fun y => { y with npart3 := orFlags y.npart3 19 f })
        State.reduceElems s p ty op ((a + n) % 2 ^ 64) (done + n) ts xs

/-- Rank order (R363): the entry's next rank rises when a contribution has been applied. -/
def State.nextRank (s : State) (n : Nat) : Nat := (s.entry n).rank

/-- A contribution is applied. -/
def State.reduceMsg (s : State) (m : Msg) : State :=
  let ty := eRtype m.dw
  let (s, done, ts, r) := s.reduceElems m.part ty (eRop m.dw) ((eTarget m.dw + pkOff m.pkt + m.done) % 2 ^ 64) m.done m.tiles
    ((elemsOf (rsSize ty) m.pkt.payload).drop (m.done / rsSize ty))
  let m := { m with done := done, tiles := ts, wrote := decide (pkLen m.pkt ≠ 0) }
  match r with
  | .hold => s.putMsg m
  | .exc e => s.dropFault m e
  | .ok => (if eOrd m.dw then s.updEntry m.entry (fun e => { e with rank := e.rank + 1 }) else s).delivered m

/-- An earlier contribution to the same entry is still to be applied (R362). -/
def State.behind (s : State) (m : Msg) : Bool :=
  s.npd.msgs.any (fun (q : Msg) => q.entry == m.entry && q.stage == .deliver && eDkind q.dw == 2 && decide (q.order < m.order))

/-- Bytes in the rank buffer (R363): contributions held for their rank, and those of such channels that wait behind another. -/
def State.rankBytes (s : State) : Nat :=
  (s.npd.msgs.filter (fun (m : Msg) => m.stage == .ranked ||
    (m.stage == .deliver && eDkind m.dw == 2 && eOrd m.dw && s.behind m))).foldl (fun n m => n + pkLen m.pkt) 0

/-- What identifies a packet of a partition's peer to the transport (R346). -/
def pkId (p : Nat) (k : Packet) : Nat × Bool × Nat := (p * 16384 + k.peer, k.rod, k.psn)

/-- A packet that is not taken is not acknowledged: it comes again (R342, R363). -/
def State.refuse (s : State) (p : Nat) (k : Packet) : State :=
  if k.rod then { s with npd := { s.npd with refused := (p, k.peer, k.psn) :: s.npd.refused } } else s

/-- A contribution that waited behind others and now finds no room to be held for its rank: it is not acknowledged, and comes
again. -/
def State.giveBack (s : State) (m : Msg) : State :=
  let s := { s with npd := s.npd.dropMsg m.id }
  if m.loop then s
  else State.refuse { s with npd := { s.npd with seen := s.npd.seen.filter (fun k => k != pkId m.part m.pkt) } } m.part m.pkt

/-- A contribution of DKIND 010 in its turn. -/
def State.reduceTurn (s : State) (m : Msg) : State :=
  if s.behind m then s.putMsg { m with stage := .deliver }
  else if !eOrd m.dw ∨ m.done ≠ 0 then s.reduceMsg { m with stage := .deliver }
  else if pkRank m.pkt < s.nextRank m.entry then s.dropBad m 3
  else if s.nextRank m.entry < pkRank m.pkt then
    if 2 ^ 20 < s.rankBytes + pkLen m.pkt then s.giveBack m else s.putMsg { m with stage := .ranked }
  else s.reduceMsg { m with stage := .deliver }

/-- Contributions held for their rank whose turn has come, or has passed. -/
def State.drainRanks : Nat → State → Nat → State
  | 0, s, _ => s
  | k + 1, s, n =>
    if s.npd.msgs.any (fun (q : Msg) => q.entry == n && q.stage == .deliver && eDkind q.dw == 2) then s
    else
      match s.npd.msgs.find? (fun (q : Msg) => q.entry == n && q.stage == .ranked && decide (pkRank q.pkt ≤ s.nextRank n)) with
      | none => s
      | some m => State.drainRanks k (s.reduceTurn m) n

/-- A contribution to a reduction slot (R365). -/
def State.contribMsg (s : State) (m : Msg) : State :=
  let h := eTarget m.dw
  let s := s.closeDue (h % 256)
  let code := s.contribCheck m.part h (pkRank m.pkt)
    (fun x => pkOff m.pkt != 0 || pkLen m.pkt != x.count * rsSize x.ty)
  if code ≠ 0 then
    ((s.contribRefused h code).event m.part 10 code (h % 256) (BitVec.ofNat 64 h) (pkInfo m.pkt)).endMsg m
  else (s.contribute h (pkRank m.pkt) m.pkt.payload).delivered m

/-- Stage 3 of a message, from its beginning or from where it was held. (DEDUCED, log 66) -/
def State.stage3 (s : State) (m : Msg) : State :=
  let past := decide (eMaxlen m.dw < pkOff m.pkt + pkLen m.pkt)
  match eDkind m.dw with
  | 0 => s.delivered m
  | 1 => if past then s.dropBad m 1 else s.deliverMsg m
  | 2 =>
    if past then s.dropBad m 1
    else if pkLen m.pkt % rsSize (eRtype m.dw) ≠ 0 then s.dropBad m 2
    else State.drainRanks 4096 (s.reduceTurn m) m.entry
  | _ => s.contribMsg m

/-! ## Stages 1 and 2 -/

/-- The lowest entry of the partition that matches (R353). -/
def State.matchEntry (s : State) (p : Nat) (k : Packet) : Option Nat :=
  (s.npd.entries.find? (fun (n, e) => s.entryPart n == p && eV e.dw && eMen e.dw &&
    ((pkMatch k ^^^ eMatch e.dw) &&& ~~~(eIgnore e.dw)) == 0)).map (·.1)

/-- Pending handler starts of a partition, those that messages at stage 3 will need among them (R342). -/
def State.pendingStarts (s : State) (p : Nat) : Nat :=
  (s.npd.msgs.filter (fun (m : Msg) => m.part == p && eHnd m.dw &&
    (m.stage == .start || m.stage == .deliver || m.stage == .ranked))).length

/-- The NPD cannot take the message now: every handler start is in use, or it would be held, and the rank buffer has no room.
(DEDUCED, log 66) -/
def State.noRoom (s : State) (p n : Nat) (k : Packet) : Bool :=
  let e := (s.entry n).dw
  let held := decide ((s.entry n).rank < pkRank k) || s.npd.msgs.any (fun (q : Msg) => q.entry == n && q.stage == .deliver)
  (eHnd e && decide (1024 ≤ s.pendingStarts p)) ||
  (eDkind e == 2 && eOrd e && held && decide (2 ^ 20 < s.rankBytes + pkLen k))

/-- Stage 2 and what follows of it at once. -/
def State.stage2 (s : State) (m : Msg) : State :=
  match s.matchEntry m.part m.pkt with
  | none => (s.event m.part 1 0 0 (pkMatch m.pkt) (pkInfo m.pkt)).endMsg m
  | some n =>
    State.stage3 { s with npd := { s.npd with nextMsg := s.npd.nextMsg + 1 } }
      { m with entry := n, dw := (s.entry n).dw, stage := .deliver, order := s.npd.nextMsg }

/-- A packet is taken. -/
def State.seePacket (s : State) (p : Nat) (k : Packet) : State :=
  { s with npd := { s.npd with seen := pkId p k :: s.npd.seen,
                               refused := s.npd.refused.filter (fun r => r != (p, k.peer, k.psn)) } }

/-- A packet by ROD out of its turn (R346): a later one of its peer has been taken and this one was not refused before, or an
earlier one waits to come again. (DEDUCED, log 66) -/
def State.outOfTurn (s : State) (p : Nat) (k : Packet) : Bool :=
  k.rod && ((s.npd.seen.any (fun (q, rod, psn) => q == p * 16384 + k.peer && rod && decide (k.psn < psn)) &&
      !s.npd.refused.contains (p, k.peer, k.psn)) ||
    s.npd.refused.any (fun (q, peer, psn) => q == p && peer == k.peer && decide (psn < k.psn)))

/-- A message that enters stage 2. -/
def State.newMsg (s : State) (p : Nat) (k : Packet) : State × Msg :=
  let m : Msg := { id := s.npd.nextMsg, order := s.npd.nextMsg, part := p, entry := 0, dw := 0, pkt := k, loop := false, stage := .arrived, done := 0,
                   wrote := false, tiles := [], amt := none }
  ({ s with npd := { s.npd with msgs := s.npd.msgs ++ [m], nextMsg := s.npd.nextMsg + 1 } }, m)

/-! ## Stage 4 (R355) -/

/-- An earlier message of the same peer by ROD has still to pass stage 4 (R346). -/
def State.rodBehind (s : State) (m : Msg) : Bool :=
  m.pkt.rod && s.npd.msgs.any (fun (q : Msg) => q.stage != .arrived && decide (q.order < m.order) && q.part == m.part &&
    q.pkt.peer == m.pkt.peer && q.pkt.rod && q.loop == m.loop)

/-- An earlier message that the partition sent itself by ROD has still to reach stage 2 (R346, R348). -/
def State.loopBehind (s : State) (m : Msg) : Bool :=
  m.pkt.rod && (s.part m.part).sends.any (fun d => d.peer == (s.part m.part).self && d.rod && decide (d.idx < m.pkt.psn) &&
    !d.arrived && !s.npd.msgs.any (fun q => q.loop && q.part == m.part && q.pkt.psn == d.idx && q.stage != .arrived))

/-- The amount by which a message advances its counter. -/
def Msg.amount (m : Msg) : DWord := m.amt.getD (if eInc m.dw then BitVec.ofNat 64 (pkLen m.pkt) else 1)

def State.stage4 (s : State) (m : Msg) : State :=
  if s.rodBehind m then s
  else
    let s := if eHold m.dw then s.updEntry m.entry (fun e => { e with tiles := addTiles e.tiles m.tiles }) else s
    let n := m.entry
    State.drainRanks 4096 ((s.advanceCtr (eCnt m.dw) m.amount).endMsg m) n

/-- A KIND 0001 message (R349): no entry matches it, and it advances the domain's counter in its turn among its peer's messages by
ROD (R346). -/
def State.barrierMsg (s : State) (p : Nat) (k : Packet) : State :=
  match (s.part p).dom 5 (pkMatch k).toNat with
  | some d =>
    let (s, m) := s.newMsg p k
    let m := { m with entry := 65536, dw := tset m.dw 0 0 (BitVec.ofNat 16 d.counter), stage := .advance, amt := some 1 }
    (s.putMsg m).stage4 m
  | none => s.event p 1 1 0 (pkMatch k) (pkInfo k)

/-! ## The arrival -/

/-- PACKET_RECEIVE: stages 1 to 3. -/
def State.receive (s : State) (k : Packet) : State :=
  let discard : State := { s with npd := { s.npd with discarded := s.npd.discarded + 1 } }
  if !pkSound k then discard
  else
    match s.partByJob (pkJob k) with
    | none => discard
    | some p =>
      if s.npd.seen.contains (pkId p k) ∨ s.outOfTurn p k then s
      else if (s.part p).inReset then s.refuse p k
      else if pkKind k = 1 then (s.seePacket p k).barrierMsg p k
      else
        match s.matchEntry p k with
        | some n =>
          if s.noRoom p n k then s.refuse p k
          else
            let (s, m) := (s.seePacket p k).newMsg p k
            s.stage2 m
        | none =>
          let (s, m) := (s.seePacket p k).newMsg p k
          s.stage2 m

def execPacketReceive (p : Packet) (s : State) : Out := .next (s.receive p)
/-- BARRIER_ARRIVAL_MESSAGE. -/
def execBarrierArrivalMessage (p : Packet) (s : State) : Out := .next (if pkKind p = 1 then s.receive p else s)

/-- COUNTER_ADVANCE: a message goes on: into stage 2 after a loop-back, through a delivery that was held, into stage 4.
Actions that wait are tried again first. -/
def execCounterAdvance (msg : Nat) (s : State) : Out :=
  .next (
    let s := s.retryFirings
    match s.npd.msg msg with
    | none => s
    | some m =>
      if (s.part m.part).inReset ∧ m.stage ≠ .deliver then s
      else
        match m.stage with
        | .arrived =>
          if s.loopBehind m then s else
          match s.matchEntry m.part m.pkt with
          | some n => if s.noRoom m.part n m.pkt then { s with npd := s.npd.dropMsg m.id } else s.stage2 m
          | none => s.stage2 m
        | .deliver => s.stage3 m
        | .advance => s.stage4 m
        | .passed => if s.rodBehind m then s else s.endMsg m
        | .ranked | .start | .handler => s)

/-! ## Packet threads -/

/-- Handlers that the partition runs; the firmware's own code is none. (DEDUCED, log 68) -/
def State.running (s : State) (p : Nat) : Nat := (s.npd.threads.filter (fun (_, t) => t.part == p && t.job != .boot)).length

/-- The partition has a thread to start and may start it (R342, R369, R420); the firmware's complexes start those of
partition 0 unless a live update holds them back (R424). (DEDUCED, log 68) -/
def State.startReady (s : State) (p : Nat) : Bool :=
  let x := s.part p
  x.live && !x.inReset && decide (s.running p < x.tquota) && (p != 0 || (s.fw.up && s.fw.update.isNone)) &&
    (!x.events.isEmpty || s.npd.msgs.any (fun m => m.part == p && m.stage == .start))

/-- The arbiter of thread starts serves the partition now (R420). -/
def State.mayStart (s : State) (p : Nat) : Bool :=
  s.startReady p && s.npd.starts.pick s.qosOf s.startReady == some p

/-- The arbiter has served the partition. -/
def State.startServed (s : State) (p : Nat) : State :=
  { s with npd := { s.npd with starts := s.npd.starts.serve s.qosOf p } }

/-- The lowest thread number free: the 1,536 of the packet cores, then the firmware's. -/
def State.freeThread (s : State) (p : Nat) : Nat :=
  let base := if p = 0 then 1536 else 0
  let free (n : Nat) : Bool := !s.npd.threads.any (fun (i, _) => i == base + n)
  base + ((List.range 1536).find? free).getD 1536

/-- A thread as it starts (R341). -/
def newThread (p : Nat) (job : Job) (line : Nat) (regs : List (Nat × DWord)) (now : Nat) (stamp : DWord) : Thread :=
  { part := p, job := job, mon := 0, start := now, stamp := stamp,
    strm := { Stream.reset with mode := .running, line := (line : Int), regs := regs } }

def State.startThread (s : State) (t : Nat) (x : Thread) : State :=
  { s with npd := { s.npd with threads := Tbl.set s.npd.threads t x } }

/-- Registers of the handler of a matched message. -/
def Msg.regs (m : Msg) : List (Nat × DWord) :=
  [(1, BitVec.ofNat 64 m.entry), (2, pkUser m.pkt),
   (3, if m.wrote then BitVec.ofNat 64 (eTarget m.dw + pkOff m.pkt) else 0), (4, BitVec.ofNat 64 (pkLen m.pkt)),
   (5, pkInfo m.pkt), (6, pkMatch m.pkt)]

/-- HANDLER_START (R341, R342): the first message of the partition that waits for a handler. -/
def execHandlerStart (part : Nat) (s : State) : Out :=
  .next (
    match s.npd.msgs.find? (fun (m : Msg) => m.part == part && m.stage == .start) with
    | none => s
    | some m =>
      if s.mayStart part then
        ((s.startServed part).putMsg { m with stage := .handler }).startThread (s.freeThread part)
          (newThread part (.msg m.id) ((s.part part).hbase + eHline m.dw) m.regs s.cycle (if m.loop then 0 else m.pkt.stamp))
      else s)

/-- The doublewords of an event record (R369). -/
def Event.words (e : Event) : List DWord :=
  [BitVec.ofNat 64 (e.kind * 2 ^ 56 + e.sub % 256 * 2 ^ 48 + e.index % 65536 * 2 ^ 32 + min e.lost 65535), e.info1, e.info2, e.time]

/-- EVENT_HANDLER_START (R369). -/
def execEventHandlerStart (part : Nat) (s : State) : Out :=
  .next (
    let x := s.part part
    match x.events with
    | [] => s
    | e :: es =>
      if s.mayStart part then
        ((s.startServed part).updPart part (fun x => { x with events := es })).startThread (s.freeThread part)
          (newThread part (.event e.kind) (x.hbase + x.evline) ((List.range 4).zip e.words |>.map (fun (i, w) => (i + 1, w)))
            s.cycle 0)
      else s)

/-- HANDLER_WATCHDOG (R341): 2^24 NPD cycles after its start a thread is ended. -/
def execHandlerWatchdog (t : Nat) (s : State) : Out :=
  .next (
    if s.npd.threads.any (fun (i, x) => i == t && decide (npdCycles x.start + 2 ^ 24 ≤ npdCycles s.cycle)) then
      s.threadFault t 8 0 0
    else s)

/-! ## Instructions -/

def agentThread : Agent → Nat
  | .thread t => t
  | .strm _ _ _ => 0

/-- The network fault (R370). -/
def State.netFault (s : State) (a : Agent) : State := s.threadFault (agentThread a) 7 1 0

/-- A counter that a register names (R370). -/
def State.ctrArg (s : State) (a : Agent) (r : BitVec 6) : Option Nat :=
  let n := (s.reg a r).toNat
  if n < 65536 && s.hasCounter (s.partOf a) n then some n else none

/-- A flat TARGET, or a copy's core, outside the partition's bays (R371). -/
def State.outside (s : State) (p c : Nat) : Bool := !s.holdsCore p c

/-- A reserved field of the block, or an invalid code (code 4). (DEDUCED, log 65) -/
def entryBad (e : BitVec 512) : Bool :=
  let act := eAct e
  let arg := (eArg e).toNat
  tfld e 0 16 16 != 0 || tfld e 5 32 8 != 0 || decide (4 < act) || decide (6 ≤ eScope e) || decide (3 < eDkind e) ||
    eRtype e == 3 || eRop e == 3 || (eDkind e == 0 && eTarget e != 0) || (eDkind e == 3 && decide (2 ^ 24 ≤ eTarget e)) ||
    (act == 2 && (fieldNat (eArg e) 6 2 != 0 || decide (2 ^ 15 ≤ arg))) || (act == 4 && decide (65536 ≤ arg)) ||
    (act != 4 && eAmt e != 0)

/-- The first failing code of R371 after the block's address. -/
def State.armCheck (s : State) (p n : Nat) (e : BitVec 512) : Nat :=
  if !s.hasEntry p n then 2
  else if eV (s.entry n).dw then 3
  else if entryBad e then 4
  else if !s.hasCounter p (eCnt e) ∨ (eAct e = 4 ∧ !s.hasCounter p (eArg e).toNat) then 5
  else if eHnd e ∧ (s.part p).hsize ≤ eHline e then 6
  else
    let flat := (eDkind e == 1 || eDkind e == 2) && decide (eTarget e < 2 ^ 32) && s.outside p (eTarget e / 2 ^ 24 % 128)
    let stale := eDkind e == 3 && !s.slotOpen p (eTarget e)
    let copy := eAct e == 2 && s.outside p (fieldNat (eArg e) 8 7)
    if flat || stale || copy then 7 else 0

/-- The entry is written, armed, and tested once (R361). -/
def State.armEntry (s : State) (n : Nat) (e : BitVec 512) : State :=
  (s.updEntry n (fun _ => { dw := tset e 0 63 (1 : BitVec 1), rank := 0, tiles := [] })).armTest n

/-- ARM of the bytes of a block: the new state and the status. -/
def State.arm (s : State) (p n : Nat) (bs : List Byte) : State × Nat :=
  let e : BitVec 512 := BitVec.ofNat 512 (leNat bs)
  let code := s.armCheck p n e
  if code = 0 then (s.armEntry n e, 0) else (s, code)

/-- ARM (R371). -/
def execArm (g : Guard) (d a : BitVec 6) (b : Src) (s : State) : Out :=
  s.guarded g (srcWords b) (fun s =>
    let ag := s.agent
    let p := s.partOf ag
    let n := (s.srcZ ag b).toNat
    let addr := (s.reg ag a).toNat
    if addr % 64 ≠ 0 then s.result ag d 1 (srcWords b)
    else
      let (s, r) := s.readMem (s.accOf ag) addr 64
      s.got ag r (fun s bs =>
        let (s, code) := s.arm p n bs
        s.result ag d (BitVec.ofNat 64 code) (srcWords b)))

/-- DISARM (R372): it waits for the messages already matched. -/
def execDisarm (g : Guard) (d a : BitVec 6) (s : State) : Out :=
  s.guarded g 2 (fun s =>
    let ag := s.agent
    let n := (s.reg ag a).toNat
    let wait (s : State) : State :=
      if s.npd.msgs.any (fun (m : Msg) => m.entry == n && m.stage != .arrived) then
        s.updStrm ag (fun t => { t with mode := .blocked, token := some 0 })
      else s.result ag d 0 2
    if (s.strm ag).token.isSome then wait s
    else if !s.hasEntry (s.partOf ag) n then s.result ag d 1 2
    else if !eV (s.entry n).dw then s.result ag d 2 2
    else wait (s.updEntry n (fun e => { e with dw := tset e.dw 0 63 (0 : BitVec 1) })))

/-- CRD (R373). -/
def execCrd (g : Guard) (d a : BitVec 6) (s : State) : Out :=
  s.guarded g 2 (fun s =>
    let ag := s.agent
    match s.ctrArg ag a with
    | none => s.netFault ag
    | some n => s.result ag d (s.counter n) 2)

/-- CADD (R373). -/
def execCadd (g : Guard) (d a : BitVec 6) (b : Src) (s : State) : Out :=
  s.guarded g (srcWords b) (fun s =>
    let ag := s.agent
    match s.ctrArg ag a with
    | none => s.netFault ag
    | some n => ((s.result ag d (s.counter n) (srcWords b)).advanceCtr n (s.src ag b)))

/-- CWAIT (R373). -/
def execCwait (g : Guard) (d a : BitVec 6) (b : Src) (s : State) : Out :=
  s.guarded g (srcWords b) (fun s =>
    let ag := s.agent
    match s.ctrArg ag a with
    | none => s.netFault ag
    | some n => if (s.srcZ ag b).ule (s.counter n) then s.result ag d (s.counter n) (srcWords b) else s.block ag)

/-- SEND (R374). -/
def execSend (g : Guard) (d a : BitVec 6) (s : State) : Out :=
  s.guarded g 2 (fun s =>
    let ag := s.agent
    match s.sendAt (s.partOf ag) (s.accOf ag) (s.reg ag a).toNat with
    | (s, .code n) => s.result ag d (BitVec.ofNat 64 n) 2
    | (s, .fault e) => s.raise ag e
    | (s, .hold) => s.block ag
    | (s, .done) => s.result ag d 0 2)

/-- HRET and HRET.n (R375): the message goes on to stage 4. -/
def execHret (g : Guard) (n : Option (BitVec 6)) (s : State) : Out :=
  s.guarded g 2 (fun s =>
    let t := agentThread s.agent
    match (s.thread t).job with
    | .event _ | .boot => s.endThread t
    | .msg id =>
      let amt := n.map (fun r => s.reg s.agent r)
      let s := (State.endThread { s with npd := s.npd.updMsg id (fun m => { m with stage := .advance, amt := amt }) } t)
      match s.npd.msg id with
      | none => s
      | some m => s.stage4 m)

/-- TSRD (R377). -/
def execTsrd (g : Guard) (sel : BitVec 2) (d : BitVec 6) (s : State) : Out :=
  s.guarded g 2 (fun s =>
    let v : DWord := match sel.toNat with
      | 0 => s.time
      | 1 => (s.thread (agentThread s.agent)).stamp
      | _ => BitVec.ofNat 64 (b2n s.npd.master * 2 + b2n s.npd.locked)
    s.result s.agent d v 2)

/-! ## The transport's events -/

def Part.send (x : Part) (idx : Nat) : Option Send := x.sends.find? (fun d => d.idx == idx)

/-- SEND_ACKNOWLEDGED (R374): another device acknowledges when it will, the host's ring and the NPD itself once the message
has arrived. -/
def execSendAcknowledged (part idx : Nat) (s : State) : Out :=
  .next (
    match (s.part part).send idx with
    | none => s
    | some d =>
      let fabric := d.peer != (s.part part).self && peerKind ((s.part part).peer d.peer) == 1
      if d.arrived || fabric then
        let s := s.dropSend part idx
        match d.cen with
        | some c => s.advanceCtr c 1
        | none => s
      else s)

/-- SEND_TIMEOUT (R374): given up 2^28 NPD cycles after the first transmission. -/
def execSendTimeout (part idx : Nat) (s : State) : Out :=
  .next (
    match (s.part part).send idx with
    | none => s
    | some d =>
      if !d.arrived && decide (d.first + 2 ^ 28 ≤ npdCycles s.cycle) then (s.dropSend part idx).sendFailed part d else s)

/-- SEND_RETRANSMIT (R346, R420). -/
def execSendRetransmit (part idx : Nat) (s : State) : Out :=
  .next (
    match (s.part part).send idx with
    | none => s
    | some d =>
      if d.arrived ∨ (s.part part).inReset then s
      else
        let s := s.updPart part (fun x => { x with sends := x.sends.map (fun (e : Send) =>
          if e.idx = idx then { e with tries := e.tries + 1 } else e) })
        match s.transmit part d with
        | (s, .waits) => s
        | (s, .arrived) => s.sendArrives part idx
        | (s, .failed) => (s.dropSend part idx).sendFailed part d)

/-- PTP_MESSAGE_RECEIVE (R350): the servo sets the device's time once the clock is locked. -/
def execPtpMessageReceive (time : DWord) (locked master : Bool) (s : State) : Out :=
  .next { s with npd := { s.npd with
    timeOff := if locked then time - BitVec.ofNat 64 (s.cycle * 10 / 17) else s.npd.timeOff, locked := locked, master := master } }

end Sys2Proof.Machine
end

