-- ==== Sys2Proof/Machine/Tasks.lean ====
section
/-! DEFINITION. The task instructions (R332 to R338) but for YIELD and RETIRE: enqueues, SRAD, PIN, DBAR; steals (R322 to
R326); domain stalls (R318). -/

namespace Sys2Proof.Machine

/-! ## Enqueues (R316, R333) -/

/-- Pieces of one enqueue join their queues one after another, each placed against the view that the ones before it left:
the pieces left, how many have joined, the id that they share. -/
def State.enqOn (s : State) (p die : Nat) : List EnqWait → Nat → Option Word → State × List EnqWait × Nat × Option Word
  | [], n, id => (s, [], n, id)
  | w :: ws, n, id =>
    if w.failed then (s, w :: ws, n, id)
    else
      let (s, t) := match w.target with
        | some t => (s, some t)
        | none => s.placeAny die p w.piece.hdr
      match t with
      | none => (s, w :: ws, n, id)
      | some t =>
        let stay (s : State) : State × List EnqWait × Nat × Option Word := (s, { w with target := some t } :: ws, n, id)
        if hGang w.piece.hdr = 0 ∧ (s.core t).ringStuck then stay s
        else
          let (s1, i) := match id with
            | some i => (s, i)
            | none => s.drawId p
          match s1.join t { w.piece with id := i } with
          | (s2, .joined) => State.enqOn s2 p die ws (n + 1) (some i)
          | (_, .full) | (_, .held) => stay s
          | (_, .ring e) => stay ((s.ringFaultEvent p t e).updCore t (·.ringFails))

/-- What a blocking enqueue writes, or how it waits on. -/
def State.enqEnd (s : State) (a : Agent) (d : BitVec 6) (split : Bool) (tag : Nat) (left : List EnqWait) (n n0 : Nat)
    (id : Option Word) : State :=
  let clear (s : State) : State := s.updOwn a (fun x => { x with enq := x.enq.filter (fun w => w.tag != tag), enqSince := none })
  let idBits : Nat := (id.getD 0).toNat
  match left with
  | [] => (clear s).result a d (BitVec.ofNat 64 (idBits * 2 ^ 32)) 2
  | w :: _ =>
    if w.failed then (clear s).result a d (BitVec.ofNat 64 (9 + (if split then n * 2 ^ 32 else 0))) 2
    else
      let s := s.updOwn a (fun x => { x with
        enq := x.enq.filter (fun w => w.tag != tag) ++ left,
        enqSince := if n = n0 then some (x.enqSince.getD s.cycle) else some s.cycle })
      s.updStrm a (fun t => { t with mode := .blocked, token := some tag, held := BitVec.ofNat 64 (idBits * 2 ^ 32 + n) })

/-- A blocking enqueue of pieces that have passed their checks. -/
def State.enqStart (s : State) (a : Agent) (d : BitVec 6) (split : Bool) (ps : List Piece) : State :=
  let tag := s.uid + 1
  let ws := ps.map (fun q => ({ tag := tag, piece := q, target := none, failed := false, issued := s.cycle } : EnqWait))
  let (s, left, n, id) := State.enqOn { s with uid := tag } (s.partOf a) (dieOf (agentCore a)) ws 0 none
  s.enqEnd a d split tag left n 0 id

/-- A blocking enqueue that held goes on. -/
def State.enqAgain (s : State) (a : Agent) (d : BitVec 6) (split : Bool) (tag : Nat) : State :=
  let h := (s.strm a).held
  let n0 := fieldNat h 0 32
  let id := if n0 = 0 then none else some (h.extractLsb' 32 32)
  let (s, left, n, id) :=
    s.enqOn (s.partOf a) (dieOf (agentCore a)) ((s.own a).enq.filter (fun w => w.tag == tag)) n0 id
  s.enqEnd a d split tag left n n0 id

/-- The pieces of a range (R324, R333): halved `n` times over, shorter ones than two grains left whole. A gleaning task is
never split (R329): it is enqueued whole. -/
def halve (grain : Nat) (r : Nat × Nat) : List (Nat × Nat) :=
  if r.2 - r.1 < 2 * grain then [r]
  else
    let mid := r.1 + grain * ((r.2 - r.1 + grain - 1) / grain / 2)
    [(r.1, mid), (mid, r.2)]
def halves (grain : Nat) : Nat → List (Nat × Nat) → List (Nat × Nat)
  | 0, rs => rs
  | n + 1, rs => halves grain n (rs.flatMap (halve grain))

/-- The pieces as new pieces of the machine. -/
def State.newPieces (s : State) (p : Nat) (h : List DWord) : List (Nat × Nat) → State × List Piece
  | [] => (s, [])
  | (lo, hi) :: rs =>
    let (s, q) := s.newPiece p h (BitVec.ofNat 64 lo) (BitVec.ofNat 64 hi)
    let (s, qs) := State.newPieces s p h rs
    (s, q :: qs)

/-- The header is read and checked (R310, R311); what follows is given it. -/
def State.withHeader (s : State) (d a : BitVec 6) (form : EnqForm) (glean : Bool) (k : State → List DWord → State) : State :=
  let ag := s.agent
  let addr := (s.reg ag a).toNat
  if addr % 128 ≠ 0 then s.result ag d 1 2
  else
    let (s, r) := s.readMem (s.accOf ag) addr 128
    s.got ag r (fun s bs =>
      let h := wordsOf 16 bs
      let h := if glean then h.set 4 (hw h 4 ||| BitVec.ofNat 64 (2 ^ 36)) else h
      let code := s.checkHeader (s.partOf ag) form h
      if code ≠ 0 then s.result ag d (BitVec.ofNat 64 code) 2 else k s h)

/-- ENQ, GLAUNCH and SPLIT. -/
def State.enqueue (s : State) (d a : BitVec 6) (form : EnqForm) (n : Nat) : State :=
  let ag := s.agent
  let split := form == .split
  match (s.strm ag).token with
  | some tag => s.enqAgain ag d split tag
  | none =>
    s.withHeader d a form false (fun s h =>
      let cuts := if hGlean h then 0 else n
      let (s, qs) := s.newPieces (s.partOf ag) h (halves (hw h 2).toNat cuts [((hw h 0).toNat, (hw h 1).toNat)])
      s.enqStart ag d split qs)

/-- ENQNB and GLEAN: never held (R316). Where an invalidation holds the page that the spilling write needs, which no rule gives
a code, the answer is that of a queue without room, 8. (DESIGN CHOICE, log 104) -/
def State.enqueueNow (s : State) (d a : BitVec 6) (glean : Bool) : State :=
  let ag := s.agent
  s.withHeader d a .task glean (fun s h =>
    let p := s.partOf ag
    let (s1, q) := s.newPiece p h (hw h 0) (hw h 1)
    match s1.placeAny (dieOf (agentCore ag)) p h with
    | (_, none) => s.result ag d 5 2
    | (s2, some t) =>
      let (s3, id) := s2.drawId p
      match s3.join t { q with id := id } with
      | (s4, .joined) => s4.result ag d (BitVec.ofNat 64 (id.toNat * 2 ^ 32)) 2
      | (_, .full) | (_, .held) => s.result ag d 8 2
      | (_, .ring e) => (s.ringFaultEvent p t e).result ag d 10 2)

/-- ENQ (R333). -/
def execEnq (g : Guard) (d a : BitVec 6) (s : State) : Out := s.guarded g 2 (fun s => s.enqueue d a .task 0)
/-- ENQNB (R333). -/
def execEnqnb (g : Guard) (d a : BitVec 6) (s : State) : Out := s.guarded g 2 (fun s => s.enqueueNow d a false)
/-- SPLIT (R333). -/
def execSplit (g : Guard) (d a : BitVec 6) (n : BitVec 10) (s : State) : Out :=
  s.guarded g 2 (fun s => s.enqueue d a .split n.toNat)
/-- GLAUNCH (R327, R333). -/
def execGlaunch (g : Guard) (d a : BitVec 6) (s : State) : Out := s.guarded g 2 (fun s => s.enqueue d a .gang 0)
/-- GLEAN (R333). -/
def execGlean (g : Guard) (d a : BitVec 6) (s : State) : Out := s.guarded g 2 (fun s => s.enqueueNow d a true)

/-! ## Domain stalls (R318) -/

def Piece.inDomain (q : Piece) (p level d : Nat) : Bool := q.part == p && hLevel q.hdr == level && hDomain q.hdr == d

/-- The control stream holds in a blocking enqueue whose target is at its limit: its first piece still to join. -/
def State.enqBlocked (s : State) (x : Slot) : Option EnqWait :=
  match x.ctl.mode, x.ctl.token with
  | .blocked, some tag =>
    (x.enq.find? (fun w => w.tag == tag)).bind (fun w =>
      match w.target with
      | some t =>
        let full := if hGang w.piece.hdr = 0 then (s.core t).full else decide (16 ≤ (s.bay t).gangs.length)
        if full && !w.failed then some w else none
      | none => none)
  | _, _ => none

/-- Slots bound to a piece of a domain, by core and slot number. -/
def State.domainSlots (s : State) (p level d : Nat) : List (Nat × Nat) :=
  (s.coresOf p).flatMap (fun c => ((List.range 4).filter (fun k =>
    match (s.slot c k).piece with
    | some q => q.inDomain p level d
    | none => false)).map (fun k => (c, k)))

/-- Every bound piece of the slot's domain is enqueue-blocked, at level task the slot's own. -/
def State.whollyBlocked (s : State) (x : Slot) : Bool :=
  match x.piece with
  | none => false
  | some q =>
    if hLevel q.hdr = 0 then (s.enqBlocked x).isSome
    else (s.domainSlots q.part (hLevel q.hdr) (hDomain q.hdr)).all (fun (c, k) => (s.enqBlocked (s.slot c k)).isSome)

/-- The count of R318 as a core cycle ends: since when the slot's domain has been wholly blocked without a break. -/
def State.noteStall (s : State) (x : Slot) : Slot :=
  { x with enqSince := if s.whollyBlocked x then some (x.enqSince.getD s.cycle) else none }
def State.noteStalls (s : State) : State :=
  { s with cores := s.cores.map (fun (c, x) => (c, { x with slots := x.slots.map (fun (k, y) => (k, s.noteStall y)) })) }

/-- The slot has been enqueue-blocked, its domain wholly so, for 8,192 core cycles. (DEDUCED, log 58) -/
def State.stalled (s : State) (ck : Nat × Nat) : Bool :=
  let x := s.slot ck.1 ck.2
  (s.enqBlocked x).isSome && (match x.enqSince with | some t => decide (t + 8192 ≤ s.cycle) | none => false)

/-- DOMAIN_STALL_TIMEOUT: the oldest enqueue of a domain that is wholly blocked fails; at level task every piece is a
domain by itself (R34). -/
def execDomainStallTimeout (part level domain : Nat) (s : State) : Out :=
  .next (
    let ms := s.domainSlots part level domain
    let long := ms.filter s.stalled
    if (if level = 0 then long.isEmpty else ms.isEmpty || long.length != ms.length) then s
    else
      let key (ck : Nat × Nat) : List Nat :=
        [(match s.enqBlocked (s.slot ck.1 ck.2) with | some w => w.issued | none => 0), ck.1, ck.2]
      match pickMin ((List.range long.length).zip (long.map key)) with
      | none => s
      | some i =>
        match long[i]? with
        | none => s
        | some (c, k) =>
          let tag := ((s.slot c k).ctl.token).getD 0
          let s := s.updSlot c k (fun x => { x with
            enq := x.enq.map (fun (w : EnqWait) => if w.tag = tag then { w with failed := true } else w) })
          let s := if level = 0 then s else ms.foldl (fun (s : State) (c, k) => s.updSlot c k (fun x => { x with enqSince := some s.cycle })) s
          s.event part 8 0 0 (BitVec.ofNat 64 (level * 2 ^ 16 + domain)) 0)

/-! ## SRAD and PIN (R334, R338) -/

/-- SRAD. -/
def execSrad (g : Guard) (b : Src) (s : State) : Out :=
  s.guarded g (srcWords b) (fun s =>
    let v := (s.srcZ s.agent b).toNat
    (s.updCore (agentCore s.agent) (fun x => { x with range := BitVec.ofNat 2 (min v 3) })).advance s.agent (srcWords b))

/-- The mode of a saved piece stands in its crib record too (R326). -/
def Part.pinSaved (x : Part) (r v : Nat) : Part :=
  { x with recs := x.recs.map (fun (i, y) =>
      (i, if i = r then { y with slot := { y.slot with piece := y.slot.piece.map (fun q => { q with pin := v }) } } else y)) }

/-- PIN: a value above 2 gives status 2 whether or not an entry carries the id; the rule gives no order. (DESIGN CHOICE, log 106) -/
def execPin (g : Guard) (d a : BitVec 6) (m : Src) (s : State) : Out :=
  s.guarded g (srcWords m) (fun s =>
    let ag := s.agent
    let id := (s.reg ag a).toNat
    let v := (s.srcZ ag m).toNat
    let c := agentCore ag
    let code (s : State) (n : DWord) : State := s.result ag d n (srcWords m)
    if 2 < v then code s 2
    else if !(s.core c).queue.any (fun e => e.piece.id.toNat == id) then code s 1
    else
      let set1 (e : TaskEntry) : TaskEntry :=
        if e.piece.id.toNat = id then { e with piece := { e.piece with pin := v } } else e
      let s := (s.core c).queue.foldl (fun (s : State) e =>
        match e.saved with
        | some r => if e.piece.id.toNat = id then s.updPart e.piece.part (·.pinSaved r v) else s
        | none => s) s
      code (s.updCore c (fun x => { x with queue := x.queue.map set1 })) 0)

/-! ## Stealing (R322 to R326) -/

/-- Cores within a radius of a core. -/
def withinRange (r c d : Nat) : Bool :=
  match r with
  | 0 => false
  | 1 => bayOf c == bayOf d
  | 2 => dieOf c == dieOf d
  | _ => true

def lfsrStep (x : BitVec 16) : BitVec 16 :=
  (x <<< 1) ||| (BitVec.ofBool (x.getLsbD 15 ^^ x.getLsbD 13 ^^ x.getLsbD 12 ^^ x.getLsbD 10)).setWidth 16

/-- The core would steal (R322). -/
def State.idle (s : State) (c : Nat) : Bool :=
  let x := s.core c
  (List.range 4).any (fun k => (x.slot k).phase == .free) && !x.queue.any (fun e => e.piece.kind == .normal || e.saved.isSome) &&
    s.dieRuns (dieOf c) && x.range != 0

/-- The cores that a thief may ask (R323). -/
def State.candidates (s : State) (c : Nat) : List Nat :=
  match (s.bay (bayOf c)).owner with
  | none => []
  | some p => (s.coresOf p).filter (fun d => d != c && withinRange (s.core c).range.toNat c d &&
      decide (0 < ((s.die (dieOf c)).core d).queued))

/-- STEAL_REQUEST. -/
def execStealRequest (core : Nat) (s : State) : Out :=
  .next (
    let x := s.core core
    if x.steal.isSome ∨ s.cycle < x.stealAt ∨ !s.idle core then s
    else
      let s := s.freshViews (dieOf core) (((s.bay (bayOf core)).owner).getD 0)
      let cs := s.candidates core
      if cs.isEmpty then s
      else
        let l := lfsrStep x.lfsr
        s.updCore core (fun x => { x with lfsr := l, steal := cs[l.toNat % cs.length]? }))

/-- The youngest normal task or saved piece of one in a queue. -/
def Core.tailEntry (x : Core) : Option (Nat × TaskEntry) :=
  ((List.range x.queue.length).zip x.queue).reverse.find? (fun (_, e) => e.piece.kind == .normal)

/-- R324: what the thief receives, and what the victim keeps in place. -/
inductive Loot where
  | refuse
  | whole
  | upper (mid : Nat)
  deriving DecidableEq, Repr

def State.loot (s : State) (thief victim : Nat) (e : TaskEntry) : Loot :=
  let q := e.piece
  let h := q.hdr
  let unit := s.unitOfTask q.part h
  if !withinRange (hRadius h) victim thief || !unitHas (hLevel h) unit thief || q.pin == 2 || !s.holdsCore q.part thief then .refuse
  else if e.saved.isNone ∧ hCkind h ≠ 3 ∧ 2 * (hw h 2).toNat ≤ q.hi.toNat - q.lo.toNat then
    match halve (hw h 2).toNat (q.lo.toNat, q.hi.toNat) with
    | (_, mid) :: _ => .upper mid
    | [] => .refuse
  else if q.pin = 0 then .whole
  else .refuse

/-- STEAL_ANSWER: a refused thief waits 256 core cycles. -/
def execStealAnswer (thief : Nat) (s : State) : Out :=
  .next (
    match (s.core thief).steal with
    | none => s
    | some victim =>
      let s := s.updCore thief (fun x => { x with steal := none })
      let refuse (s : State) : State := s.updCore thief (fun x => { x with stealAt := s.cycle + 256 })
      match (s.core victim).tailEntry with
      | none => refuse s
      | some (i, e) =>
        match s.loot thief victim e with
        | .refuse => refuse s
        | .whole =>
          match (s.takeEntry victim i).joinQueue thief e with
          | (s, .joined) => s
          | _ => refuse s
        | .upper mid =>
          let keep : TaskEntry := { e with piece := { e.piece with hi := BitVec.ofNat 64 mid } }
          let give : TaskEntry := { e with piece := { e.piece with uid := s.uid + 1, lo := BitVec.ofNat 64 mid } }
          let t := State.updCore { s with uid := s.uid + 1 } victim (fun x => { x with queue := x.queue.set i keep })
          match t.joinQueue thief give with
          | (t, .joined) => t
          | _ => refuse s)

/-! ## Domain barriers (R34, R331, R337) -/

def State.updDom (s : State) (p level d : Nat) (f : Domain → Domain) : State :=
  match (s.part p).dom level d with
  | some x => s.updPart p (fun y => { y with doms := Tbl.set y.doms (domKey level d) (f x) })
  | none => s

/-- SYS.DOM (R32). (DEDUCED, log 57) -/
def domReg (level d : Nat) (epoch : DWord) (phase : Bool) : DWord :=
  BitVec.ofNat 64 (epoch.toNat % 65536 * 2 ^ 32 + b2n phase * 2 ^ 31 + level * 2 ^ 24 + d)
def domEpoch (x : DWord) : Nat := fieldNat x 32 16

/-- The pieces of a partition that are bound or saved; one whose record is still being read counts as saved. -/
def State.livePieces (s : State) (p : Nat) : List Piece :=
  (s.cores.flatMap (fun (_, x) => x.slots.filterMap (fun (_, y) => if y.phase = .restoring then none else y.piece)) ++
    (s.part p).recs.filterMap (fun (_, r) => r.slot.piece)).filter (fun q => q.part == p)

def Piece.iters (q : Piece) : Nat := q.hi.toNat - q.lo.toNat

/-- The members of a piece's gang that live. -/
def gangMates (qs : List Piece) (t : Nat) : List Piece := qs.filter (fun q => (q.gang.map (·.ticket)) == some t)

/-- The sum of the barrier that follows `epoch` (R331): a gang counts once, when its last member has arrived. (DEDUCED, log 56) -/
def arrivedSum (qs : List Piece) (epoch : Nat) : Nat :=
  let here (q : Piece) : Bool := q.arrived == some epoch
  let alone := (qs.filter (fun q => q.gang.isNone && here q)).foldl (fun n q => n + q.iters) 0
  let tickets := (qs.filterMap (fun q => q.gang.map (·.ticket))).dedup
  tickets.foldl (fun n t =>
    match gangMates qs t with
    | q :: rest => if (q :: rest).all here then n + q.iters else n
    | [] => n) alone

def State.barrierSum (s : State) (p level d : Nat) (x : Domain) : Nat :=
  arrivedSum ((s.livePieces p).filter (·.inDomain p level d)) x.epochx.toNat + x.retired

/-- The piece arrives at the barrier that follows the present epoch. -/
def Slot.arrive (x : Slot) (epoch : Nat) : Slot :=
  { x with piece := x.piece.map (fun q => { q with arrived := some epoch }) }

/-- DBAR and DBAR.nw (R337). -/
def execDbar (g : Guard) (nw : Bool) (d : BitVec 6) (s : State) : Out :=
  s.guarded g 2 (fun s =>
    let a := s.agent
    let r := (s.own a).regs.dom
    let level := fieldNat r 24 3
    let n := fieldNat r 0 16
    let e := if (s.strm a).token.isSome then (s.strm a).held.toNat else domEpoch r
    if (s.strm a).token.isSome ∧ domEpoch r ≠ e then s.result a d r 2
    else if level = 0 ∧ s.relWait true then s.block a
    else if level = 0 then
      let v := domReg 0 n (BitVec.ofNat 64 (domEpoch r + 1)) (!r.getLsbD 31)
      (s.updOwn a (fun x => { x with regs := { x.regs with dom := v } })).result a d v 2
    else
      let p := s.partOf a
      let epoch := match (s.part p).dom level n with | some x => x.epochx.toNat | none => 0
      let fresh := ((s.own a).piece.map (·.arrived)) != some (some epoch)
      if fresh && s.relWait true then s.block a
      else
      let s := s.updDom p level n (fun x => { x with stir := x.stir || fresh })
      let s := s.updOwn a (·.arrive epoch)
      if nw then s.result a d r 2
      else s.updStrm a (fun t => { t with mode := .blocked, token := some 0, held := BitVec.ofNat 64 e }))

/-- A barrier completes (R34): EPOCHX, PHASE, and every bound member's SYS.DOM. -/
def State.completeBarrier (s : State) (p level d : Nat) (x : Domain) : State :=
  let y : Domain := { x with epochx := x.epochx + 1, phase := !x.phase, stir := false, sent := false }
  let s := s.updDom p level d (fun _ => y)
  (s.domainSlots p level d).foldl (fun (s : State) (c, k) =>
    s.updSlot c k (fun z => { z with regs := { z.regs with dom := domReg level d y.epochx y.phase } })) s

/-- A peer group's arrival: the own counter, and a message to every other device (R349); its RANK and USER, and the block
that event kind 12 would name, which no rule states, are free values. -/
def State.peerArrival (s : State) (p d : Nat) (x : Domain) : State :=
  let s := State.updDom { s with free := s.free + 3 } p 5 d (fun y => { y with sent := true })
  let rank := fieldNat (Config.freeWord (s.free - 3)) 0 14
  let user := Config.freeWord (s.free - 2)
  let block := Config.freeWord (s.free - 1)
  let s := ((List.range x.peers).filter (· != (s.part p).self)).foldl (fun (s : State) i =>
    s.launchSend p block i false none (header 1 (peerJob ((s.part p).peer i)) rank (BitVec.ofNat 64 d) 0 0 user) []) s
  s.advanceCtr x.counter 1

/-- BARRIER_COMPLETION: the sum of R331 reaches EXPECT; at level peer group the arrival is sent, and the counter completes
the barrier. -/
def execBarrierCompletion (part level domain : Nat) (s : State) : Out :=
  .next (
    match (s.part part).dom level domain with
    | none => s
    | some x =>
      if level = 0 then s
      else if level ≠ 5 then
        if x.stir ∧ x.expect.toNat ≤ s.barrierSum part level domain x then s.completeBarrier part level domain x else s
      else
        let s := if !x.sent ∧ x.stir ∧ x.expect.toNat ≤ s.barrierSum part 5 domain x then s.peerArrival part domain x else s
        match (s.part part).dom 5 domain with
        | none => s
        | some x =>
          if x.sent ∧ x.peers * (x.epochx.toNat + 1) ≤ (s.counter x.counter).toNat then s.completeBarrier part 5 domain x
          else s)

end Sys2Proof.Machine
end

