-- ==== Sys2Proof/Machine/Binding.lean ====
section
/-! DEFINITION. The life of a piece in its slot: binding and restore (R313, R395), gangs (R328), RETIRE and the retirement
(R36), YIELD (R336), the stop of a displaced gleaning piece (R31). -/

namespace Sys2Proof.Machine

/-! ## First binding -/

/-- Entry line of a class, and whether the header marks it absent (R310). -/
def hEntry (h : List DWord) : Cls → Nat
  | .ctl => hfld h 3 48 12
  | .vec => hfld h 3 36 12
  | .mat => hfld h 3 24 12
  | .ldr => hfld h 3 10 10
  | .str => hfld h 3 0 10
  | .net => 0
def hAbsent (h : List DWord) : Cls → Bool
  | .ctl => false
  | .vec => (hw h 3).getLsbD 60
  | .mat => (hw h 3).getLsbD 61
  | .ldr => (hw h 3).getLsbD 62
  | .str => (hw h 3).getLsbD 63
  | .net => true

/-- A stream as a piece starts it (R95, R156). -/
def startStream (h : List DWord) (cls : Cls) : Stream :=
  { Stream.reset with mode := if hAbsent h cls then .halted else .running, line := (hEntry h cls : Int) }

/-- EPOCHX and PHASE that a piece's domain has now (R32). -/
def State.domOf (s : State) (q : Piece) : DWord :=
  match (s.part q.part).dom (hLevel q.hdr) (hDomain q.hdr) with
  | some d => domReg (hLevel q.hdr) (hDomain q.hdr) d.epochx d.phase
  | none => domReg (hLevel q.hdr) (hDomain q.hdr) 0 false

/-- The slot of a piece that binds for the first time: R95, R121, R157, R165, R215, R23, R32, R77, R266. (DEDUCED, log 33) -/
def State.freshSlot (s : State) (c k : Nat) (q : Piece) : Slot :=
  let x := s.core c
  let plane := x.plane x.activePlane
  let h := q.hdr
  { Slot.reset with
    phase := .running, piece := some q, adm := (x.slot k).adm,
    ctl := startStream h .ctl, vec := startStream h .vec, mat := startStream h .mat, ldr := startStream h .ldr,
    str := startStream h .str,
    descs := (List.range 32).map (fun n => (n, Desc.reset.load (x.descImage n))),
    queues := (List.range 16).map (fun n => (n, { Queue.reset with cfg := memDWord plane (0x60800 + 8 * n) })),
    regs := { SlotRegs.reset with itlo := q.lo, ithi := q.hi, itgrain := hw h 2, dom := s.domOf q } }

/-- A binding writes SYS.STEAL.RANGE (R323). -/
def Core.radius (x : Core) (r : Nat) : Core := if r = 0 then x else { x with range := BitVec.ofNat 2 r }

def State.bindFresh (s : State) (c k : Nat) (q : Piece) : State :=
  (s.setSlot c k (s.freshSlot c k q)).updCore c (·.radius (hRadius q.hdr))

/-! ## Restore (R395) -/

/-- The words that a stream still has to fetch of its line come from the plane that is active where it resumes (R173). -/
def Slot.onPlane (x : Slot) (n : Nat) : Slot :=
  let f (t : Stream) : Stream := { t with plane := n }
  { x with ctl := f x.ctl, vec := f x.vec, mat := f x.mat, ldr := f x.ldr, str := f x.str,
           trap := { x.trap with ctl := x.trap.ctl.map (fun t => { t with plane := n }) } }

/-- The saved state comes back into a slot: registers, private bytes, claims; the record is free. -/
def State.restoreInto (s : State) (c k p r : Nat) (y : SavedPiece) (gang : Option GangRef) : State :=
  let old := (s.core c).slot k
  match y.slot.piece with
  | none => s
  | some q =>
    let q := { q with gang := gang }
    let dom := if hLevel q.hdr = 0 then y.slot.regs.dom else s.domOf q
    let z := { y.slot.onPlane (s.core c).activePlane with phase := .running, piece := some q, adm := old.adm, regs := { y.slot.regs with dom := dom } }
    let s := s.updCore c (fun x =>
      let clear := memClear x.scratch (privBase k) 0x100000
      { x with scratch := y.priv.foldr (fun (i, b) m => memPut m (privBase k + i) b) clear })
    let s := (s.setSlot c k z).mapTiles (·.restore (slotCode c k) q.uid)
    (s.updPart p (·.freeRecord r)).updCore c (·.radius (hRadius q.hdr))

/-- A record that cannot be read: the piece stays saved and is held, its slot is free, the firmware is told. -/
def State.holdSaved (s : State) (c k p r : Nat) (y : SavedPiece) : State :=
  let s := s.event 0 16 0 0 (BitVec.ofNat 64 (4 * c + k)) y.slot.trap.tcause
  (s.updPart p (fun x => { x with recs := Tbl.set x.recs r { y with held := true } })).freeSlot c k

def State.savedRec (s : State) (p r : Nat) : Option SavedPiece :=
  ((s.part p).recs.find? (fun (i, _) => i == r)).map (·.2)

/-- The loads of a record (R395). -/
def State.recLoads (s : State) (x : Acc) (p r : Nat) (y : SavedPiece) : State × CribSay :=
  s.loadRec x ((s.part p).recAt r) (Config.cribLines y.slot y.priv)

/-- The restore of the piece in a slot; its loads may hold, or fault. -/
def State.restore (s : State) (c k : Nat) : State :=
  match s.findSaved (s.uidAt c k) with
  | none => s
  | some (p, r) =>
    match s.savedRec p r with
    | none => s
    | some y =>
      match s.recLoads (s.slotSync c k) p r y with
      | (s, .ok) => s.restoreInto c k p r y none
      | (s, .fault _) => s.holdSaved c k p r y
      | (s, .hold) => s

/-! ## The barrier network (R330) -/

/-- Domains with a bound member, in the barrier network (R330). -/
def State.liveDomains (s : State) : List (Nat × Nat × Nat) :=
  (s.cores.flatMap (fun (_, x) => x.slots.filterMap (fun (_, y) =>
    y.piece.map (fun q => (q.part, hLevel q.hdr, hDomain q.hdr))))).dedup

/-- The barrier network has room for the piece's domain. -/
def State.domainRoom (s : State) (q : Piece) : Bool :=
  let ds := s.liveDomains
  decide (ds.length < 4096) || ds.contains (q.part, hLevel q.hdr, hDomain q.hdr)

/-! ## Gangs (R328) -/

def Gang.wants (g : Gang) (c : Nat) : Bool := decide (g.slots.length < g.size) && !g.slots.any (fun (d, _) => d == c)

/-- The gang of a bay to which a free slot of a core goes: the oldest that lacks one there and may take it. -/
def Bay.gangFor (b : Bay) (c : Nat) : Option Gang :=
  b.gangs.find? (fun g => g.wants c && !(match g.after with | some t => b.gangs.any (fun h => h.ticket == t) | none => false))

def Bay.updGang (b : Bay) (t : Nat) (f : Gang → Gang) : Bay :=
  { b with gangs := b.gangs.map (fun g => if g.ticket = t then f g else g) }

/-- A free slot is reserved for the gang that it goes to. -/
def State.reserve (s : State) (b : Nat) (ck : Nat × Nat) : State :=
  if (s.slot ck.1 ck.2).phase ≠ .free then s
  else
    match (s.bay b).gangFor ck.1 with
    | none => s
    | some g =>
      (s.updSlot ck.1 ck.2 (fun x => { x with phase := .reserved g.ticket })).updBay b
        (·.updGang g.ticket (fun h => { h with slots := h.slots ++ [ck] }))

/-- A younger gang with a slot on a core where an older, incomplete one has none, and that older gang. -/
def younger : List Gang → Option (Gang × Gang)
  | [] => none
  | g :: gs =>
    match (if g.slots.length < g.size then gs.find? (fun h => h.slots.any (fun (c, _) => !g.slots.any (fun (d, _) => d == c))) else none) with
    | some h => some (g, h)
    | none => younger gs

/-- It releases every slot, and takes none until the older one has bound. -/
def State.releaseYounger (s : State) (b : Nat) : State :=
  match younger (s.bay b).gangs with
  | none => s
  | some (g, h) =>
    let s := h.slots.foldl (fun (s : State) (c, k) => s.updSlot c k (fun x => { x with phase := .free })) s
    s.updBay b (·.updGang h.ticket (fun h => { h with slots := [], after := some g.ticket }))

def baySlotList (b : Nat) : List (Nat × Nat) := (baySlots b).flatMap (fun c => (List.range 4).map (fun k => (c, k)))

/-- Rounds of reservations and releases, until they settle. -/
def State.gangRounds (b : Nat) : Nat → State → State
  | 0, s => s
  | n + 1, s => State.gangRounds b n ((((baySlotList b).foldl (fun (s : State) ck => s.reserve b ck) s)).releaseYounger b)

/-- Slots in order of ring position, which is that of the cores of a bay (R30). -/
def insertSlot (x : Nat × Nat) : List (Nat × Nat) → List (Nat × Nat)
  | [] => [x]
  | y :: ys => if x.1 < y.1 then x :: y :: ys else y :: insertSlot x ys
def sortSlots : List (Nat × Nat) → List (Nat × Nat)
  | [] => []
  | x :: xs => insertSlot x (sortSlots xs)

/-- The members of a new gang bind. -/
def State.bindMembers (s : State) (t : Nat) (q : Piece) (slots : List (Nat × Nat)) : Nat → List (Nat × Nat) → State
  | _, [] => s
  | i, (c, k) :: r =>
    let u := s.uid + 1
    let m := { q with uid := u, gang := some { ticket := t, member := i, slots := slots } }
    State.bindMembers (State.bindFresh { s with uid := u } c k m) t q slots (i + 1) r

/-- The crib records of a saved gang can all be read. -/
def State.recsRead (s : State) (c k p : Nat) : List Nat → State × CribSay
  | [] => (s, .ok)
  | r :: rs =>
    match s.savedRec p r with
    | none => State.recsRead s c k p rs
    | some y =>
      match s.recLoads { s.slotSync c k with part := p } p r y with
      | (s, .ok) => State.recsRead s c k p rs
      | x => x

/-- Where the members of a saved gang go, by member number; one that has retired keeps no slot. -/
def placeMembers (old : Nat) (ms : List (Nat × (Nat × Nat))) : List (Nat × Nat) :=
  (List.range old).map (fun i => Tbl.get (72, 0) ms i)

/-- The members of a saved gang are restored. -/
def State.restoreGang (s : State) (p : Nat) (g : Gang) : State :=
  let rs := g.saved.filterMap (fun r => (s.savedRec p r).map (fun y => (r, y)))
  let pairs := rs.zip (sortSlots g.slots)
  let member (y : SavedPiece) : Nat := ((y.slot.piece.bind (·.gang)).map (·.member)).getD 0
  let slots := placeMembers (hGang g.piece.hdr) (pairs.map (fun ((_, y), ck) => (member y, ck)))
  pairs.foldl (fun (s : State) (ry, ck) =>
    s.restoreInto ck.1 ck.2 p ry.1 ry.2 (some { ticket := g.ticket, member := member ry.2, slots := slots })) s

/-- A gang whose slots are complete binds (R328); one that was saved is restored, or held where a record faults. -/
def State.bindGang (s : State) (b : Nat) (g : Gang) : State :=
  let p := g.piece.part
  let out (s : State) : State := s.updBay b (fun x => { x with gangs := x.gangs.filter (fun h => h.ticket != g.ticket) })
  if g.slots.length < g.size ∨ !s.dieRuns (b / 3) ∨ !s.domainRoom g.piece then s
  else if g.saved.isEmpty then
    let slots := sortSlots g.slots
    out (s.bindMembers g.ticket g.piece slots 0 slots)
  else
    match s.recsRead (g.slots.head?.getD (0, 0)).1 0 p g.saved with
    | (s, .hold) => s
    | (s, .ok) => out (s.restoreGang p g)
    | (s, .fault _) =>
      let s := ((g.saved.zip g.slots).foldl (fun (s : State) (r, ck) =>
        match s.savedRec p r with
        | some y => s.holdSaved ck.1 ck.2 p r y
        | none => s.freeSlot ck.1 ck.2) s)
      out s

/-- One gang of a bay, where none of its cores is among those, `used`, on which a gang has bound in this core cycle (R313). -/
def State.bindApart (bay : Nat) (go : State × List Nat) (g : Gang) : State × List Nat :=
  if g.slots.any (fun (c, _) => go.2.contains c) then go
  else
    let t := go.1.bindGang bay g
    (t, if (t.bay bay).gangs.any (fun h => h.ticket == g.ticket) then go.2 else go.2 ++ g.slots.map (·.1))

/-- GANG_BINDING: the gangs of the bay whose slots are complete bind in order, at most one slot of a core in a core cycle. -/
def execGangBinding (bay : Nat) (s : State) : Out :=
  .next (
    let s := State.gangRounds bay 16 s
    ((s.bay bay).gangs.foldl (State.bindApart bay) (s, [])).1)

/-! ## TASK_BINDING (R313, R31) -/

/-- The entry that a free slot binds of those that satisfy `f`: the oldest normal task or saved piece of one, else the oldest
gleaning one. -/
def State.entryOf (s : State) (c : Nat) (f : TaskEntry → Bool) : Option (Nat × TaskEntry) :=
  let q := (s.core c).queue
  let es := ((List.range q.length).zip q).filter (fun (_, e) => f e && s.domainRoom e.piece)
  match es.find? (fun (_, e) => e.piece.kind == .normal) with
  | some r => some r
  | none => es.find? (fun (_, e) => e.piece.kind == .gleaning)
def State.nextEntry (s : State) (c : Nat) : Option (Nat × TaskEntry) := s.entryOf c (fun _ => true)
/-- While the entry cannot be read in the ring, those on chip bind (R319), but no gleaning task before a normal one that is
eligible (R31, R38). -/
def State.chipEntry (s : State) (c : Nat) : Option (Nat × TaskEntry) :=
  (s.entryOf c (·.ring.isNone)).filter (fun (_, e) =>
    e.piece.kind == .normal || !(s.nextEntry c).any (fun (_, f) => f.piece.kind == .normal))

/-- The entry leaves the queue and takes the slot. -/
def State.bindEntry (s : State) (c k i : Nat) (e : TaskEntry) : State :=
  let s := s.takeEntry c i
  match e.saved with
  | none => s.bindFresh c k e.piece
  | some _ => (s.updSlot c k (fun x => { x with phase := .restoring, piece := some e.piece })).restore c k

/-- The slot is the lowest free one of its core, in a running die and a partition in RUN, and no gang claims it. -/
def State.mayBind (s : State) (c k : Nat) : Bool :=
  (s.slot c k).phase == .free && (List.range k).all (fun j => (s.slot c j).phase != .free) && s.dieRuns (dieOf c) &&
    ((s.bay (bayOf c)).gangFor c).isNone &&
    (match (s.bay (bayOf c)).owner with | some p => !(s.part p).inReset | none => false)

/-- TASK_BINDING; a restore that was held is made again. -/
def execTaskBinding (core slot : Nat) (s : State) : Out :=
  .next (
    if (s.slot core slot).phase = .restoring then s.restore core slot
    else if !s.mayBind core slot then s
    else
      match s.nextEntry core with
      | none => s
      | some (i, e) =>
        match s.readEntry core e with
        | (s, true) => s.bindEntry core slot i e
        | (s, false) =>
          match s.chipEntry core with
          | some (i, e) => s.bindEntry core slot i e
          | none => s)

/-! ## Retirement (R36) -/

/-- Step 1 of R36 for a slot: its streams stop, held traps and requests are dropped, results whose replies have come are
written. -/
def Slot.retiring (x : Slot) : Slot :=
  let y := Slot.flushResults { x with v := { x.v with inflight := x.v.inflight.filter (fun r => !(r.arrived && r.fault.isSome)) } }
  { y with phase := .retiring, trap := { y.trap with pend := [], intrap := false }, stopping := none, enq := [], enqSince := none,
           gleanSince := none, copyWaits := [], regs := { y.regs with req := 0 } }

/-- RETIRE (R335). -/
def execRetire (g : Guard) (s : State) : Out :=
  s.guarded g 2 (fun s =>
    let a := s.agent
    let s := (s.advance a 2).stopTransfers (agentCore a) (agentSlot a)
    s.updOwn a (·.retiring))

/-- Another member of the piece's gang lives. -/
def State.matesLive (s : State) (q : Piece) : Bool :=
  match q.gang with
  | some g => (gangMates (s.livePieces q.part) g.ticket).any (fun r => r.uid != q.uid)
  | none => false

/-- The completion stamp (R310). -/
def State.stamp (s : State) (c k : Nat) (q : Piece) : Option State :=
  let x := { s.accOf (.strm c k .ctl) with sync := true }
  match s.writeMem x (hTarget q.hdr) (leBytes 8 (hCseq q.hdr)) with
  | (s, .ok _) => some s
  | (_, .hold) => none
  | (s, .exc e) =>
    let (cls, sub) := copyEventSub e
    some (s.event q.part 13 (cls * 32 + sub) (4 * c + k) (BitVec.ofNat 64 (hTarget q.hdr)) (BitVec.ofNat 64 (hCseq q.hdr)))

/-- The completion signal (R24, R310): a gang's once, with its last member; a flag's goes to the piece bound to the slot, which
while its record is still being read counts as saved (R396). -/
def State.complete (s : State) (c k : Nat) (q : Piece) : Option State :=
  let n := q.hi - q.lo
  let t := hTarget q.hdr
  if s.matesLive q then some s
  else
    match hCkind q.hdr with
    | 1 => some (s.advanceCtr (t % 65536) n)
    | 2 =>
      let x := s.slot (t / 256) (t / 64 % 4)
      let add (y : Slot) : Slot := Slot.runSigs (y.addFlag (t % 64) (n.setWidth 16))
      some (match x.piece with
        | some z => if x.phase = .restoring then s.updPiece z.uid add else s.updSlot (t / 256) (t / 64 % 4) add
        | none => s)
    | 3 => s.stamp c k q
    | _ => some s

/-- The iterations of a retired piece, or of a gang whose last member retires (R331). -/
def State.countRetired (s : State) (q : Piece) : State :=
  s.updDom q.part (hLevel q.hdr) (hDomain q.hdr) (fun x =>
    { x with stir := true, retired := if s.matesLive q then x.retired else x.retired + q.iters })

/-- A ganged operation that includes the slot's piece is pending, running or stopped with CAUSE 01 on a member (R228). -/
def State.gangHolds (s : State) (c k : Nat) : Bool :=
  (s.membersOf c k).any (fun (d, j) => (s.slot d j).m.gangBusy || (s.slot d j).m.gread.isSome)

/-- Everything that the piece has begun has ended (step 2 of R36). (DEDUCED, log 90) -/
def State.quiet (s : State) (c k : Nat) (uid : Nat) : Bool :=
  let x := s.slot c k
  x.v.inflight.isEmpty && !x.m.busy && !s.copiesBy uid (fun _ => true) && !s.nmOf uid && !s.gangHolds c k

/-- RETIREMENT_COMPLETE: steps 3 to 5 of R36. -/
def execRetirementComplete (core slot : Nat) (s : State) : Out :=
  .next (
    let x := s.slot core slot
    match x.piece with
    | none => s
    | some q =>
      if x.phase ≠ .retiring ∨ !s.quiet core slot q.uid then s
      else
        match s.complete core slot q with
        | none => s
        | some s => ((s.countRetired q).mapTiles (·.release (slotCode core slot))).freeSlot core slot)

/-! ## YIELD (R336) -/

/-- A normal task or saved piece of the queue could bind, and no slot is free. -/
def State.yieldWanted (s : State) (c : Nat) : Bool :=
  (s.core c).queue.any (fun e => (e.piece.kind == .normal || e.saved.isSome) && s.domainRoom e.piece) && s.dieRuns (dieOf c) &&
    (List.range 4).all (fun k => (s.slot c k).phase != .free)

/-- A save at YIELD or PPOINT: sD is 0 when the piece resumes, 2 where the save is abandoned. -/
def State.savePoint (s : State) (a : Agent) (d : BitVec 6) (n : Nat) (live : Tile → Bool) : State :=
  let s := s.enterSave (agentCore a) (agentSlot a)
  match (s.result a d 0 n).saveSlot (agentCore a) (agentSlot a) live false none with
  | (s, .saved _) => s
  | (t, .abandoned) => (s.abandonedAs t).result a d 2 n
  | (_, .held) => s.block a

def State.gangMember (s : State) (a : Agent) : Bool :=
  match (s.own a).piece with
  | some q => q.gang.isSome
  | none => false

/-- YIELD. -/
def execYield (g : Guard) (d : BitVec 6) (s : State) : Out :=
  s.guarded g 2 (fun s =>
    let a := s.agent
    if s.gangMember a then s.result a d 3 2
    else if !s.yieldWanted (agentCore a) then s.result a d 1 2
    else s.savePoint a d 2 (fun _ => true))

/-! ## The displaced gleaning piece (R31) -/

/-- GLEANING_PREEMPT_TIMEOUT: 65,536 core cycles after a normal task began to wait the piece is stopped and queued. -/
def execGleaningPreemptTimeout (core slot : Nat) (s : State) : Out :=
  .next (
    let x := s.slot core slot
    match x.gleanSince with
    | some t => if x.phase = .running ∧ (s.core core).frz.since.isNone ∧ t + 65536 ≤ s.cycle then s.tryStop core slot false else s
    | none => s)

end Sys2Proof.Machine
end

