-- ==== Sys2Proof/Machine/Cold.lean ====
section
/-! DEFINITION. Cold operation and power: temperature bands (R427, R428), cryogenic states and their transitions (R429 to
R434), the ramp-rate limiter (R435 to R438), energy counters and telemetry (R439, R440). -/

namespace Sys2Proof.Machine

/-! ## Registers of the module -/

/-- Threshold `b` of SYS.TBAND, its hysteresis and its settling time (R427). -/
def Cryo.th (x : Cryo) (b : Nat) : Nat := fieldNat x.tband (10 * b) 10
def Cryo.hyst (x : Cryo) : Nat := fieldNat x.tband 60 4
def Cryo.settle (x : Cryo) : Nat := fieldNat x.tband 0 10
/-- LIMPWR.HALTK, in units of 0.25 K. -/
def Power.halt (x : Power) : Nat := 4 * fieldNat x.limpwr 24 8

/-- SYS.CRYO (R434). -/
def State.cryoReg (s : State) : DWord :=
  let dies := (List.range 4).foldl (fun n d => n + s.dstate d % 16 * 2 ^ (16 + 4 * d) + s.band d % 8 * 2 ^ (4 * d)) 0
  BitVec.ofNat 64 (s.cryo.mstate * 2 ^ 48 + s.cryo.forced.toNat * 2 ^ 44 + b2n s.cryo.ratev * 2 ^ 43 + dies)

/-! ## Changes of state (R429 to R433) -/

/-- Controllers of a die's memory and the channels of each (R14). -/
def dieCtrls (d : Nat) : List (Nat × Nat) := [(2 * d, 32), (2 * d + 1, 32), (2 * d + 8, 16), (2 * d + 9, 16)]

/-- Every channel of a die's memory. -/
def Dram.eachChan (x : Dram) (d : Nat) (f : Channel → Channel) : Dram :=
  (dieCtrls d).foldl (fun x (c, n) => (List.range n).foldl (fun x i => x.updChan (chanNo c i) f) x) x

/-- Refresh resumes at once, and the channels are to take the slow set; or they are to take the fast one (R431). -/
def Channel.toSlow (x : Channel) (now : Nat) : Channel :=
  { x with refresh := .on, want := if x.slow then none else some false, wantAt := now }
def Channel.toFast (x : Channel) (now : Nat) : Channel :=
  { x with want := if x.slow || x.refresh == .on then some true else none, wantAt := now }

/-- The sub-cause of trap cause 11 for a die's new state (R378). -/
def excursionSub (old new : Nat) : Option Nat :=
  match old, new with
  | _, 3 => some 1
  | _, 4 => some 2
  | 3, 2 => some 3
  | _, _ => none

/-- The trap of cause 11, raised in the core cycle after the change (R430). -/
def Slot.excursion (x : Slot) (sub band st : Nat) : Slot :=
  let h : HeldTrap := { cause := 11, sub := sub, strm := 0, addr := 0, info := BitVec.ofNat 64 (band * 256 + st), line := 0,
                        word := 0, beats := 0 }
  if x.phase = .running then { x with trap := { x.trap with arriving := x.trap.arriving ++ [h] } } else x

/-- Firmware event kind 19 about a die (R429). -/
def State.cryoEvent (s : State) (d : Nat) : State :=
  s.event 0 19 0 0 (BitVec.ofNat 64 (d * 256 + s.dstate d)) (BitVec.ofNat 64 (s.band d))

/-- What follows from a change of DSTATE; a retreat's re-placements come in their place of the core cycle (R315, R432). -/
def State.dieChanged (s : State) (d old : Nat) : State :=
  let new := s.dstate d
  if old = new then s
  else
    let s := s.cryoEvent d
    let s := { s with cryo := { s.cryo with since := Tbl.set s.cryo.since d none, trace := Tbl.set s.cryo.trace d [] } }
    let s := if new = 2 then { s with dram := s.dram.eachChan d (·.toFast s.cycle) }
      else if old = 2 then { s with dram := s.dram.eachChan d (·.toSlow s.cycle) } else s
    let s := match excursionSub old new with
      | some n => { s with cores := s.cores.map (fun (c, x) =>
          (c, if dieOf c = d then { x with slots := x.slots.map (fun (k, y) => (k, y.excursion n (s.band d) new)) } else x)) }
      | none => s
    if new = 4 then { s with cryo := { s.cryo with replace := s.cryo.replace ++ [d] } } else s

/-- A die's state in MSTATE 2. -/
def State.setDie (s : State) (d st : Nat) : State :=
  let old := s.dstate d
  State.dieChanged { s with cryo := { s.cryo with dstate := Tbl.set s.cryo.dstate d st } } d old

/-- The module's state, and with it every die's. -/
def State.setModule (s : State) (m : Nat) : State :=
  let olds := (List.range 4).map (fun d => (d, s.dstate d))
  let s := { s with cryo := { s.cryo with mstate := m, dstate := [] } }
  olds.foldl (fun (s : State) (d, old) => s.dieChanged d old) s

/-- HALT (R433): every clock stops and the halt signal is driven; no trap, event or save; both tiers refresh themselves.
(DEDUCED, log 74) -/
def State.haltModule (s : State) : State :=
  { s with cryo := { s.cryo with mstate := 6, dstate := [], halted := true },
           dram := (List.range 4).foldl (fun x d => x.eachChan d (fun y => { y with refresh := .self, want := none })) s.dram }

/-! ## Samples (R427, R428, R430) -/

/-- Readings above 255.75 K read as 1,023. -/
def clampT (t : Nat) : Nat := min t 1023
/-- The hottest stack sensor. -/
def hbmMax (r : Readings) : Nat := r.hbms.foldl max 0

/-- SYS.TEMP of a sample. -/
def tempReg (r : Readings) : DWord :=
  BitVec.ofNat 64 (clampT (hbmMax r) * 2 ^ 50 + clampT r.npd * 2 ^ 40 +
    (List.range 4).foldl (fun n d => n + clampT (r.dies.getD d 0) * 2 ^ (10 * d)) 0)

/-- The band after a reading. (DEDUCED, log 71) -/
def Cryo.bandFor (x : Cryo) (old t : Nat) : Nat :=
  let up := ([5, 4, 3, 2, 1].find? (fun b => decide (x.th b ≤ t))).getD 0
  if old ≤ up then up
  else if t + x.hyst < x.th old then old - 1 else old

/-- The reading breaks the rate of R428 against some earlier one of the window. (DEDUCED, log 72) -/
def rateBreach (rising : Bool) (t : Nat) (ts : List (Nat × Nat)) : Bool :=
  let inside (u : Nat) : Bool := decide (480 ≤ u) && decide (u ≤ 1000)
  inside t && ts.any (fun (_, u) => inside u && (if rising then decide (u + 80 < t) else decide (t + 80 < u)))

/-- The record of the last 60 s of a die's readings, while the module cools down or warms up. -/
def State.rate (s : State) (d t : Nat) : State :=
  if s.cryo.mstate ≠ 1 ∧ s.cryo.mstate ≠ 5 then s
  else
    let ts := (Tbl.get [] s.cryo.trace d).filter (fun (c, _) => decide (s.cycle ≤ c + 102000000000))
    let s := { s with cryo := { s.cryo with trace := Tbl.set s.cryo.trace d ((s.cycle, t) :: ts) } }
    if rateBreach (s.cryo.mstate == 5) t ts then
      State.cryoEvent { s with cryo := { s.cryo with ratev := true } } d
    else s

/-- The band below which, or at which, a die's state waits to fall back. -/
def lowBand (st : Nat) : Option Nat :=
  match st with
  | 1 | 3 => some 1
  | 4 => some 2
  | _ => none

/-- Since when the die holds that band. -/
def State.markSettle (s : State) (d : Nat) : State :=
  let holds := match lowBand (s.dstate d) with
    | some b => decide (s.band d ≤ b)
    | none => false
  let v := if holds then some ((Tbl.get none s.cryo.since d).getD s.cycle) else none
  { s with cryo := { s.cryo with since := Tbl.set s.cryo.since d v } }

/-- The rows of R430 that one die's sample satisfies: the higher code first. -/
def State.warmer (s : State) (d : Nat) : State :=
  if s.cryo.mstate ≠ 2 then s
  else if 3 ≤ s.band d ∧ (s.dstate d = 2 ∨ s.dstate d = 3) then s.setDie d 4
  else if s.band d = 2 ∧ s.dstate d = 2 then s.setDie d 3
  else s

/-- One die's reading. -/
def State.sampleDie (s : State) (d t : Nat) : State :=
  let b := s.cryo.bandFor (s.band d) t
  let s := { s with cryo := { s.cryo with band := Tbl.set s.cryo.band d b } }
  ((s.rate d t).warmer d).markSettle d

/-- TEMPERATURE_SAMPLE. (DESIGN CHOICE, log 88) -/
def execTemperatureSample (r : Readings) (s : State) : Out :=
  .next (
    let s := { s with cryo := { s.cryo with temp := tempReg r } }
    let dies := (List.range 4).map (fun d => clampT (r.dies.getD d 0))
    if dies.any (fun t => decide (s.power.halt < t)) || decide (s.power.halt < clampT r.npd) then s.haltModule
    else
      let s := ((List.range 4).zip dies).foldl (fun (s : State) (d, t) => s.sampleDie d t) s
      let s := if s.cryo.mstate = 5 ∧ (r.hbms ++ dies).all (fun t => decide (1000 < t)) then s.setModule 0 else s
      s.replaceDue)

/-- The die has held its lower band for SETTLE ms: 1,700,000 core cycles each. -/
def State.settled (s : State) (d : Nat) : Bool :=
  match Tbl.get none s.cryo.since d with
  | some c => decide (c + s.cryo.settle * 1700000 ≤ s.cycle)
  | none => false

/-- CRYO_SETTLE_EXPIRY (R430). -/
def execCryoSettleExpiry (die : Nat) (s : State) : Out :=
  .next (State.replaceDue (
    if s.cryo.mstate = 1 then (if (List.range 4).all s.settled then s.setModule 2 else s)
    else if 4 ≤ die ∨ s.cryo.mstate ≠ 2 ∨ !s.settled die then s
    else if s.dstate die = 4 ∧ !s.cryo.forced.getLsbD die then (s.setDie die 3).markSettle die
    else if s.dstate die = 3 then s.setDie die 2
    else s))

/-- A quiet window of a channel, in which no access of it is in flight, so no replay: a lane repair first, then the timing set
(R256, R431). -/
def Channel.repaired (x : Channel) (spares : Nat) : Channel × Bool :=
  match x.repair with
  | [] => (x, false)
  | l :: ls =>
    let n := x.spares.getD spares
    if n = 0 then (x, true)
    else ({ x with repair := ls, lanes := Tbl.erase x.lanes l, spares := some (n - 1), map := Tbl.set x.map l (spares - n + 1) }, false)
def Channel.retimed (x : Channel) : Channel :=
  match x.want with
  | some fast => { x with want := none, slow := !fast, refresh := if fast then .off else x.refresh }
  | none => x
def Dram.window (x : Dram) (ctrl ch : Nat) : Dram :=
  let n := chanNo ctrl ch
  if !(x.chan n).replays.isEmpty then x
  else
    let (y, fence) := (x.chan n).repaired (if 8 ≤ ctrl then 0 else Config.spareLanes)
    let x := x.updChan n (fun _ => y.retimed)
    if fence then x.fence ctrl ch else x
/-- The windows that 4,096 memory cycles have not brought: new accesses are held, and they open (R431). -/
def Dram.openOverdue (x : Dram) (now : Nat) : Dram :=
  x.chans.foldl (fun (x : Dram) (n, y) => if y.overdue now then x.window (n / 32) (n % 32) else x) x

/-- TIMING_SET_CHANGE: the window of R431 opens. -/
def execTimingSetChange (ctrl channel : Nat) (s : State) : Out :=
  .next (if ctrl < 16 ∧ channel < (if ctrl < 8 then 32 else 16) then { s with dram := s.dram.window ctrl channel } else s)

/-! ## CRYO (R404, R434) -/

/-- A piece is bound on some die. -/
def State.anyBound (s : State) : Bool := s.cores.any (fun (_, x) => x.slots.any (fun (_, y) => y.piece.isSome))

/-- A request of firmware: its status, and the state that it leaves. (DEDUCED, log 73) -/
def State.cryoRequest (s : State) (v : DWord) : State × Nat :=
  let die := fieldNat v 8 2
  let force (b : Bool) : State :=
    { s with cryo := { s.cryo with forced := setField s.cryo.forced die (BitVec.ofBool b) } }
  if v.toNat / 2 ^ 10 ≠ 0 then (s, 1)
  else
    match fieldNat v 0 8 with
    | 0 => (s, 0)
    | 1 => if s.cryo.mstate = 0 then (s.setModule 1, 0) else (s, 2)
    | 2 =>
      if s.cryo.mstate ≠ 1 ∧ s.cryo.mstate ≠ 2 then (s, 2)
      else if s.anyBound then (s, 3)
      else (s.setModule 5, 0)
    | 3 =>
      if s.cryo.mstate ≠ 2 then (s, 2)
      else
        let t := force true
        (if t.dstate die = 2 ∨ t.dstate die = 3 then (t.setDie die 4).markSettle die else t, 0)
    | 4 => if s.cryo.mstate = 2 then (force false, 0) else (s, 2)
    | 5 => ({ s with cryo := { s.cryo with ratev := false } }, 0)
    | _ => (s, 1)

/-- CRYO: the request, its status and SYS.CRYO as it stands after it. -/
def State.cryoInstr (s : State) (g : Guard) (d a : BitVec 6) : Out :=
  s.firmwareOnly g (fun s =>
    let ag := s.agent
    let (s, st) := s.cryoRequest (s.reg ag a)
    s.result ag d (setField s.cryoReg 56 (BitVec.ofNat 8 st)) 2)

/-- CRYO: the row that a code in sA selects is found when the instruction runs. -/
def execCryoQuery (g : Guard) (d a : BitVec 6) (s : State) : Out := s.cryoInstr g d a
/-- CRYO with code 1. -/
def execCryoCool (g : Guard) (d a : BitVec 6) (s : State) : Out := s.cryoInstr g d a
/-- CRYO with code 2. -/
def execCryoWarm (g : Guard) (d a : BitVec 6) (s : State) : Out := s.cryoInstr g d a
/-- CRYO with code 3. -/
def execCryoForceRetreat (g : Guard) (d a : BitVec 6) (s : State) : Out := s.cryoInstr g d a
/-- CRYO with code 4. -/
def execCryoReleaseRetreat (g : Guard) (d a : BitVec 6) (s : State) : Out := s.cryoInstr g d a
/-- CRYO with code 5. -/
def execCryoClearRatev (g : Guard) (d a : BitVec 6) (s : State) : Out := s.cryoInstr g d a

/-! ## The limiter (R435 to R438) -/

def Power.rampop (x : Power) : Nat := fieldNat x.pwrcfg 48 16
def Power.pcapop (x : Power) : Nat := fieldNat x.pwrcfg 32 16 * 1000
def Power.pfloor (x : Power) : Nat := fieldNat x.pwrcfg 16 16 * 1000
def Power.chaffw (x : Power) : Nat := fieldNat x.pwrcfg 0 16

/-- A value for SYS.PWRCFG under the latched limits. -/
def pwrClamp (lim v : DWord) : DWord :=
  let ramp := max 1 (min (fieldNat v 48 16) (fieldNat lim 32 16))
  let cap := min (fieldNat v 32 16) (fieldNat lim 48 16)
  BitVec.ofNat 64 (ramp * 2 ^ 48 + cap * 2 ^ 32 + min (fieldNat v 16 16) cap * 2 ^ 16 + fieldNat v 0 16)

/-- SYS.PWRSTAT. -/
def Power.stat (x : Power) : DWord :=
  BitVec.ofNat 64 (x.e % 2 ^ 22 * 2 ^ 42 + (x.d % 2 ^ 22).toNat * 2 ^ 20 + x.duty % 2 ^ 9 * 2 ^ 11 + x.chaffOn.length % 2 ^ 7 * 2 ^ 4)

def Power.counter (x : Power) (i : Nat) : DWord := Tbl.get 0 x.energy i
def Power.count (x : Power) (i n : Nat) : Power := { x with energy := Tbl.set x.energy i (x.counter i + BitVec.ofNat 64 n) }

/-- The counters over a tick: TOTAL, the dies, NPD, HBM, SILO, LINK, CHAFF (R439). -/
def Power.meter (x : Power) (e : EnergyDelta) : Power :=
  let cd (i : Nat) : Nat := e.cd.getD i 0
  let all := cd 0 + cd 1 + cd 2 + cd 3 + e.npd + e.hbm + e.silo + e.link
  ([all, cd 0, cd 1, cd 2, cd 3, e.npd, e.hbm, e.silo, e.link, e.chaff].zip (List.range 10)).foldl
    (fun (x : Power) (n, i) => x.count i n) x

/-- Demand over what does not scale with duty: S of R435. -/
def fixedPower (e : EnergyDelta) : Nat := e.npd + e.hbm + e.silo + e.link

/-- D of R435, an exact integer: dies under a thermal cap count as measured. -/
def State.demand (s : State) (e : EnergyDelta) : Int :=
  let cd (d : Nat) : Nat := e.cd.getD d 0
  let (capped, free) := (List.range 4).partition (fun d => decide (s.dieCap d < 256))
  let sum (ds : List Nat) : Nat := ds.foldl (fun n d => n + cd d) 0
  (fixedPower e + sum capped : Nat) + ((sum free : Int) - e.chaff) * 256 / s.power.duty

/-- Cores on which chaff may run, in the order in which a tick takes them (R437). -/
def State.chaffCores (s : State) : List Nat :=
  ((List.range 72).map (fun i => (s.power.cptr + i) % 72)).filter (fun c => s.dieRuns (dieOf c))

/-- LIMITER_TICK. A duty or a number of cores that the rules divide by 0 is a free value within its bounds. (DESIGN CHOICE, log 11) -/
def execLimiterTick (e : EnergyDelta) (s : State) : Out :=
  .next (
    let p := s.power
    let dm := s.demand e
    let ep := min (max dm.toNat (max (p.e - p.rampop) p.pfloor)) (min (p.e + p.rampop) p.pcapop)
    let sf := fixedPower e
    let duty := if (ep : Int) < dm then
        max 1 (min 256 (if dm = sf then (Config.freeWord s.free).toNat else (256 * ((ep - sf : Nat) : Int) / (dm - sf)).toNat))
      else 256
    let gap := ((ep : Int) - dm).toNat
    let n := if p.chaffw = 0 then (Config.freeWord (s.free + 1)).toNat else (gap + p.chaffw - 1) / p.chaffw
    let measured := sf + (List.range 4).foldl (fun n d => n + e.cd.getD d 0) 0
    { s with
      free := s.free + 2,
      power := { p.meter e with
        e := ep, d := dm, duty := duty, chaffOn := s.chaffCores.take n, cptr := (p.cptr + 1) % 72,
        emax := max p.emax ep, emin := min p.emin ep, thr := p.thr + b2n (duty < 256),
        short := p.short + b2n (measured + p.rampop < p.e) } })

/-! ## Telemetry (R440) -/

def Power.telEn (x : Power) : Bool := x.telcfg.getLsbD 63
def Power.telPeer (x : Power) : Nat := fieldNat x.telcfg 49 14

/-- The record of an interval that ends now. (DEDUCED, log 76) -/
def State.telRecord (s : State) : List DWord :=
  let p := s.power
  [BitVec.ofNat 64 (2 ^ 48 + p.telSeq.toNat), p.telStart, s.time,
   BitVec.ofNat 64 (b2n s.npd.locked * 2 ^ 63 + fieldNat s.cryoReg 0 56)] ++ (List.range 10).map p.counter ++
    [BitVec.ofNat 64 (p.emax % 2 ^ 32 * 2 ^ 32 + p.emin % 2 ^ 32),
     BitVec.ofNat 64 (p.thr % 2 ^ 16 * 2 ^ 48 + p.short % 2 ^ 16 * 2 ^ 32)]

/-- Waiting records go to the transport while it takes sends of partition 0. A telemetry send has no block, and no rule
gives its USER: both are free values. -/
def State.telSend : Nat → State → State
  | 0, s => s
  | n + 1, s =>
    match s.power.telWait with
    | [] => s
    | r :: rs =>
      if 4096 ≤ (s.part 0).sends.length then s
      else
        let lost := s.power.telLost
        let r := r.set 0 (setField (hw r 0) 32 (BitVec.ofNat 16 lost))
        let x := s.part 0
        let peer := s.power.telPeer
        let job := if peer = x.self then x.job else peerJob (x.peer peer)
        let h := header 0 job 0 (s.power.telcfg.extractLsb' 0 48 |>.setWidth 64) 0 128 (Config.freeWord s.free)
        let block := Config.freeWord (s.free + 1)
        let s := { s with free := s.free + 2, power := { s.power with telWait := rs, telLost := 0 } }
        State.telSend n (s.launchSend 0 block peer false none h (dwBytes r))

/-- TELEMETRY_SAMPLE. -/
def execTelemetrySample (s : State) : Out :=
  .next (
    let s := if s.power.telEn then
        let w := s.power.telWait ++ [s.telRecord]
        let past := w.length - 16
        { s with power := { s.power with telSeq := s.power.telSeq + 1, telWait := w.drop past,
                                         telLost := s.power.telLost + past } }
      else s
    let s := { s with power := { s.power with telStart := s.time, emax := s.power.e, emin := s.power.e, thr := 0, short := 0 } }
    State.telSend 16 s)

end Sys2Proof.Machine
end

