-- ==== Sys2Proof/Machine/Resets.lean ====
section
/-! DEFINITION. Partition reset (R421), the return of a partition's resources, the boot of the firmware complexes (R422,
R423, R425), and module cold reset. -/

namespace Sys2Proof.Machine

/-! ## What a partition reset ends (steps 1 and 2 of R421) -/

/-- The commands of other partitions. -/
def others (p : Nat) (cs : List CopyCmd) : List CopyCmd := cs.filter (fun c => c.part != p)

/-- Every copy of the partition that has not completed is abandoned (R277). -/
def Engine.without (p : Nat) (x : Engine) : Engine :=
  { x with queue := others p x.queue, ring := others p x.ring,
           run := match x.run with
             | some r => if r.cmd.part = p then none else some r
             | none => none,
           stalled := x.stalled && !(others p x.ring).isEmpty }
def Bay.without (p : Nat) (x : Bay) : Bay :=
  { x with engines := x.engines.map (fun (i, e) => (i, e.without p)), npdBuf := others p x.npdBuf,
           gangs := x.gangs.filter (fun g => g.piece.part != p) }

/-- A core's pieces, queue, freeze and rotation end; SYS.FRZ, SYS.PLANE.SWAPS and SYS.STEAL take their reset values (R8). -/
def Core.ended (x : Core) (c : Nat) : Core :=
  let x := (List.range 4).foldl (fun (x : Core) k => x.dropUnits k) x
  { x with slots := [], queue := [], rfault := false, rtry := false, rstall := false, rot := none, frz := .reset, swaps := 0, range := 0,
           lfsr := (Core.reset c).lfsr, steal := none, stealAt := 0 }

/-- A stage 3 write of a message that is under way: it finishes before the partition's resources are cleared (R21). -/
def Msg.underWay (m : Msg) : Bool := m.stage == .deliver && m.done != 0

/-- The partition's threads, messages, slots and firings on the NPD end (R351). -/
def Npd.without (n : Npd) (p : Nat) : Npd :=
  { n with threads := n.threads.filter (fun (_, t) => t.part != p), msgs := n.msgs.filter (fun m => m.part != p || m.underWay),
           rslots := n.rslots.map (fun (i, x) => (i, if x.part = p then { RSlot.reset with gen := x.gen } else x)),
           firings := n.firings.filter (fun f => f.part != p) }

def Part.ended (x : Part) : Part :=
  { x with inReset := true, events := [], lost := 0, waits := [], sends := [], recs := [] }

/-- An HTOD whose write is under way (R21, R411). -/
def HostJob.underWay (j : HostJob) : Bool := j.op == 2 && j.done != 0

/-- The first of a ticket's commands that a reset of partition `p` cuts off, by its index: among those that run or wait to join a
queue (R415). -/
def State.firstCut (s : State) (p t : Nat) : Option Nat :=
  ((s.jobs.filter (fun j => j.fn == p && j.ticket == t && !j.underWay)).map (·.index) ++
    (s.part p).waits.filterMap (fun w => w.host.bind (fun (fn, u, i) => if fn = p ∧ u = t then some i else none))).min?

/-- The ring stops: a command that has issued and not ended is answered with status 3 (R413), once the HTODs of it whose write
is under way, `kept` of its ticket, have ended; DETAIL of an INDIRECT is the index of the first of its commands that is cut off, or
of the one that would have issued next (R415). -/
def HostFn.cutOff (x : HostFn) (kept : Nat → Nat) (first : Nat → Option Nat) : HostFn :=
  { x with frames := [], cmds := x.cmds.map (fun (c : HostCmd) =>
      let c1 := { c with subs := kept c.ticket, issuing := false }
      if (c.subs = kept c.ticket ∧ !c.issuing) ∨ c.status ≠ 0 then c1 else { c1 with status := 3, detail := (first c.ticket).getD c.index }) }

/-- A partition reset begins; one that is under way is joined. (DEDUCED, log 77) -/
def State.beginReset (s : State) (p : Nat) : State :=
  if (s.part p).inReset then s
  else
    let s := (s.coresOf p).foldl (fun (s : State) c => s.updCore c (·.ended c)) s
    let kept (t : Nat) : Nat := (s.jobs.filter (fun j => j.fn == p && j.ticket == t && j.underWay)).length
    let first := s.firstCut p
    let s := { s with bays := s.bays.map (fun (b, x) => (b, Bay.without p x)), npd := s.npd.without p,
                      xl := { s.xl with walks := s.xl.walks.filter (fun w => w.part != p) },
                      jobs := s.jobs.filter (fun j => j.fn != p || j.underWay) }
    (s.updHost p (·.cutOff kept first)).updPart p (·.ended)

/-! ## What it clears (steps 3 and 4) -/

/-- Entries and counters of a range (R351). -/
def Npd.clearRange (n : Npd) (x : Part) : Npd :=
  { n with entries := n.entries.filter (fun (i, _) => !x.hasEntry i), counters := n.counters.filter (fun (i, _) => !x.hasCounter i) }

/-- Tiles, tile area, templates and both planes of a core (R191, R271, R421). -/
def Core.cleared (x : Core) : Core :=
  { x with tiles := [], scratch := memClear x.scratch 0 0x800000, watch := touch (fun k => decide (k < 0x100000)) x.watch,
           templates := [], plane0 := [], plane1 := [], activePlane := 0,
           tokens := 0 }

/-- The completion record of a command (R412). -/
def recordBytes (c : HostCmd) : List Byte :=
  leBytes 8 (c.ticket * 2 ^ 32 + c.status * 2 ^ 16) ++ leBytes 8 (c.tag.toNat * 2 ^ 32 + c.detail % 2 ^ 32)

/-- The record of a command is written, and its vectors are raised. -/
def State.writeRecord (s : State) (fn : Nat) (c : HostCmd) : State :=
  let x := s.hostFn fn
  State.updHost { s with hostMem := memWrite s.hostMem (x.cqBase.toNat + c.ticket % 2 ^ x.rlog * 16) (recordBytes c) } fn
    (fun x =>
      let x := if c.irq then x.raise 0 else x
      if c.status = 6 then x.raise 1 else x)

/-- The ring as RST leaves it: empty (R416). -/
def HostFn.emptied (x : HostFn) : HostFn :=
  { x with next := 0, head := 0, doneT := 0, commits := [], cmds := [], frames := [], resetting := false }

/-- A function's registers at their reset values (R8, R421); the vectors that were raised stand. (DEDUCED, log 77) -/
def HostFn.cleared (x : HostFn) : HostFn := { HostFn.reset with vectors := x.vectors }

/-- What a partition reset keeps of the partition: key, pages, block, peer table; SYS.NPART3.FLAGS is no part of the block. -/
def Part.cleared (x : Part) : Part :=
  { x with inReset := false, doms := [], events := [], lost := 0, npart3 := x.npart3 &&& ~~~(0xF80000 : DWord) }

/-- What has still to end before the partition's state is cleared (R21, R421). -/
def State.resetWaits (s : State) (p : Nat) : Bool :=
  s.dram.nm.any (fun c => c.part == p) || s.npd.msgs.any (fun m => m.part == p) || s.jobs.any (fun j => j.fn == p)

/-- The reset ends: the issued commands' records are written as RST has them, the state becomes RUN, vector 2 of the VF is
raised. (DEDUCED, log 77) -/
def State.endReset (s : State) (p : Nat) : State :=
  let x := s.part p
  if !x.inReset ∨ s.resetWaits p then s
  else
    let s := (s.coresOf p).foldl (fun (s : State) c => s.updCore c (·.cleared)) s
    let s := { s with npd := s.npd.clearRange x }
    let s := s.updPart p (·.cleared)
    let s := (s.hostFn p).cmds.foldl (fun (s : State) c => s.writeRecord p c) s
    s.updHost p (fun x => HostFn.raise x.cleared 2)

/-- Every reset whose partition has no near-memory command left. -/
def State.endResets (s : State) : State :=
  s.parts.foldl (fun (s : State) (p, x) => if x.inReset then s.endReset p else s) s

/-- NMC_LINE_UPDATE (R288); a reset that waited for it ends. -/
def execNmcLineUpdate (stack : Nat) (s : State) : Out := .next (s.nmLineUpdate stack).endResets

/-! ## Keys and bays -/

/-- Every queued write under a key drains, in order. -/
def Dram.drainKey (d : Dram) (k : Nat) : Dram :=
  d.queues.foldl (fun (d : Dram) (c, ws) =>
    let (mine, rest) := ws.partition (fun w => w.key == k)
    mine.foldl Dram.perform { d with queues := Tbl.set d.queues c rest }) d

/-- A key's material is drawn for a partition, or destroyed (R252). -/
def Dram.giveKey (d : Dram) (k : Nat) (p : Option Nat) : Dram :=
  let d := d.drainKey k
  { d with keys := Tbl.set d.keys k { owner := p, gen := (d.key k).gen + 1 } }

def Bay.disown (p : Nat) (x : Bay) : Bay := if x.owner = some p then { x with owner := none } else x

/-- PDESTROY once the reset is over: key, bays and ranges go back, the VF is disabled. (DEDUCED, log 78) -/
def State.destroy (s : State) (p : Nat) : State :=
  let x := s.part p
  let s := match x.key with | some k => { s with dram := s.dram.giveKey k none } | none => s
  let s := { s with bays := s.bays.map (fun (b, y) => (b, Bay.disown p y)),
                    npd := s.npd.clearRange x, parts := Tbl.erase s.parts p }
  s.updHost p (fun _ => HostFn.reset)

/-! ## Images (R423) -/

/-- The header's fields. -/
def imgSlot (img : List Byte) : Nat := fieldNat (imgWord img 0) 38 2
def imgSvn (img : List Byte) : Nat := fieldNat (imgWord img 0) 40 8
def imgVer (img : List Byte) : Word := (imgWord img 1).setWidth 32
def imgMin (img : List Byte) : Nat := fieldNat (imgWord img 2) 32 32
def imgMax (img : List Byte) : Nat := fieldNat (imgWord img 2) 0 32
def imgTabv (img : List Byte) : Nat := fieldNat (imgWord img 3) 32 32

/-- A header that is malformed. -/
def imgBad (img : List Byte) : Bool :=
  fieldNat (imgWord img 0) 48 16 != 1 || decide (63 < imgSvn img) || fieldNat (imgWord img 0) 32 6 != 0 ||
    img.length != 192 + imgLen img + 2820 || ((img.drop 32).take 32).any (· != 0) || ((img.drop 132).take 60).any (· != 0)

/-- The boot ROM's verdict: BERR, or 0 where the image is accepted. -/
def imgCheck (img : List Byte) : Nat :=
  let key := (img.drop 64).take 68
  let n := 192 + imgLen img
  if imgBad img then 5
  else if Config.fuseRevoked (imgSlot img) then 1
  else if Config.shake256 key ≠ Config.fuseKeyHash (imgSlot img) then 2
  else if !Config.xmssVerify key (img.take n) (img.drop n) then 3
  else if imgSvn img < Config.fuseSvn then 4
  else 0

/-! ## The firmware complexes (R422, R424) -/

/-- The first doubleword of the state table, in partition 0's memory. (DESIGN CHOICE, log 87) -/
def stateTableAt : Nat := Config.stateTable % 2 ^ 33 * 64
/-- It is written: version and size. -/
def State.writeTable (s : State) (version : Nat) : State :=
  s.writePhys stateTableAt 0 false (leBytes 8 (version % 2 ^ 32 * 2 ^ 32 + Config.stateTableSize % 2 ^ 32))
/-- Its version; none where its line fails. -/
def State.tableVersion (s : State) : State × Option Nat :=
  match s.readPhys stateTableAt 8 0 false with
  | (s, some bs) => (s, some (leNat bs / 2 ^ 32))
  | (s, none) => (s, none)

/-- The active complex runs its image from the entry line, in a thread of partition 0. (DEDUCED, log 68) -/
def State.runImage (s : State) : State :=
  s.startThread (s.freeThread 0) (newThread 0 .boot (imgEntry s.fw.img) [] s.cycle 0)
/-- That thread ends, as its complex is no longer the active one. -/
def State.endImage (s : State) : State :=
  { s with npd := { s.npd with threads := s.npd.threads.filter (fun (_, t) => t.job != .boot) } }

/-- Both complexes boot the module's image, A first (R422); the fuse counter `leaf` goes on. -/
def Firmware.boot (img : List Byte) (leaf : Nat) : Firmware :=
  let e := imgCheck img
  if e = 0 then { Firmware.reset with sby := true, ver := imgVer img, sbyVer := imgVer img, img := img, sbyImg := img, leaf := leaf }
  else { Firmware.reset with up := false, berr := e, leaf := leaf }

/-- The active complex begins: its state table, at the version of its image, and its code. -/
def State.bootActive (s : State) : State := if s.fw.up then (s.writeTable (imgTabv s.fw.img)).runImage else s

/-- By the end of a step the active complex may have serviced its watchdog, and may have had the attestation key sign, which takes the
key's next leaf and is refused once all 2^20 are used (R423, R424). (DESIGN CHOICE, log 119) -/
def Firmware.acts (x : Firmware) (now stepNo : Nat) : Firmware :=
  if !x.up then x
  else
    { x with served := if Config.serves stepNo then now else x.served,
             leaf := if Config.signs stepNo && decide (x.leaf < 2 ^ 20) then x.leaf + 1 else x.leaf }

/-! ## Cold reset -/

/-- The limits that the boot ROM latches (R425), and what is clamped to them (R438). -/
def Power.latched (lim : Option (DWord × DWord)) : Power :=
  let x := match lim with
    | some (a, b) => { Power.reset with limpwr := a &&& 0xFFFFFFFFFF000000, limlink := b }
    | none => Power.reset
  let x := { x with pwrcfg := pwrClamp x.limpwr x.pwrcfg }
  { x with e := x.pfloor, emax := x.pfloor, emin := x.pfloor }

/-- MODULE_COLD_RESET: host memory, and the model's own counts of steps and free values, lie outside the module, and the fuse
counter stands. -/
def execModuleColdReset (s : State) : Out :=
  .next (State.bootActive { State.reset with
    stepNo := s.stepNo, free := s.free, hostMem := s.hostMem, fw := Firmware.boot Config.bootImage s.fw.leaf,
    power := Power.latched Config.limitsRecord,
    parts := [(0, { Part.reset0 with root := some (Config.firmwareRoot % 2 ^ 30 * 2 ^ 12) })] })

end Sys2Proof.Machine
end

