-- ==== Sys2Proof/Machine/System.lean ====
section
/-! DEFINITION. The trap and system instructions (R398 to R403): TRAP, TRET, SYSRD, SYSWR, PPOINT, XINV, PART; walks and
translation invalidations that end (R245, R246). -/

namespace Sys2Proof.Machine

/-! ## TRAP and TRET (R387, R399) -/

def softTrap (code : Nat) : Exc := { Exc.of 9 0 with info := BitVec.ofNat 64 code }

/-- TRAP. -/
def execTrap (g : Guard) (n : NSrc) (s : State) : Out :=
  s.guarded g (nsrcWords n) (fun s => s.raise s.agent (softTrap (nsrcNat n)))

/-- TRET; in a packet thread it acts as TRAP 0. -/
def execTret (g : Guard) (skip : Bool) (s : State) : Out :=
  s.guarded g 2 (fun s =>
    match s.agent with
    | .thread t => s.raise (.thread t) (softTrap 0)
    | .strm c k cls =>
      if (s.slot c k).trap.intrap then s.tret c k skip else s.advance (.strm c k cls) 2)

/-! ## System registers (R400, R441) -/

/-- Loop state of a stream (R113). -/
def Stream.lp (t : Stream) : DWord := BitVec.ofNat 64 (t.ecnt.toNat * 2 ^ 32 + t.lcnt.toNat)

/-- SYS.TSTAT (R384). -/
def Slot.tstat (x : Slot) : DWord :=
  let held (p : HeldTrap → Bool) : Nat := b2n (x.trap.pend.any p)
  BitVec.ofNat 64 ((x.v.inflight.filter (fun r => r.landing)).length * 2 ^ 36 + held (fun h => h.cause == 10) * 2 ^ 31 +
    held (fun h => h.cause != 10 && h.strm == 1) * 2 ^ 30 + held (fun h => h.strm == 2) * 2 ^ 29 +
    held (fun h => h.cause == 11) * 2 ^ 28 + b2n x.trap.intrap)

/-- Bits of the slots of a core for which `f` holds. -/
def Core.slotBits (x : Core) (f : Slot → Bool) : Nat :=
  (List.range 4).foldl (fun n k => n + b2n (f (x.slot k)) * 2 ^ k) 0

/-- SYS.TQ (R314). -/
def Core.tq (x : Core) : DWord :=
  let resv (y : Slot) : Bool := match y.phase with
    | .reserved _ => true
    | .free | .running | .retiring | .restoring => false
  BitVec.ofNat 64 (x.ringlog * 2 ^ 56 + x.ringed * 2 ^ 40 + b2n x.rfault * 2 ^ 32 + x.onchip * 2 ^ 16 +
    x.slotBits resv * 2 ^ 12 + x.slotBits (·.gleaning) * 2 ^ 8 + x.slotBits (fun y => y.piece.isSome))

/-- SYS.STEAL, SYS.FRZ, SYS.PSTAT (R323, R390, R391). -/
def Core.stealReg (x : Core) : DWord := BitVec.ofNat 64 (x.range.toNat * 2 ^ 16 + x.lfsr.toNat)
def Frz.reg (x : Frz) : DWord := x.limit ++ (0 : BitVec 12) ++ x.count ++ x.last
def State.pstat (s : State) (p : Nat) (x : Slot) : DWord :=
  BitVec.ofNat 64 ((s.part p).cribFree * 2 ^ 52 + x.regs.req.toNat * 2 ^ 32 + x.regs.saves.toNat)

/-- The register of a selector that lies in the slot's own context. -/
def Slot.sysReg (x : Slot) (sel : Nat) : Option DWord :=
  match sel with
  | 0x000 => some x.regs.itlo
  | 0x001 => some x.regs.ithi
  | 0x002 => some x.regs.itgrain
  | 0x003 => some x.regs.dom
  | 0x008 => some x.regs.fpstat
  | 0x009 => some x.regs.fpctl
  | 0x00A => some x.regs.srctx
  | 0x00B => some x.regs.srbase
  | 0x010 => some x.ctl.lp
  | 0x011 => some x.vec.lp
  | 0x012 => some x.mat.lp
  | 0x013 => some x.ldr.lp
  | 0x014 => some x.str.lp
  | 0x018 => some x.v.vrgn
  | 0x01C => some (x.qocc 0)
  | 0x01D => some (x.qocc 1)
  | 0x021 => some x.gstat
  | 0x022 => some x.m.mprogc
  | 0x023 => some x.m.mprogr
  | 0x028 => some x.regs.vbase
  | 0x02A => some x.regs.nmstat
  | 0x040 => some x.trap.tcause
  | 0x041 => some x.trap.tpc
  | 0x042 => some x.trap.taddr
  | 0x043 => some x.trap.tinfo
  | 0x044 => some x.trap.tvec
  | 0x045 => some x.tstat
  | 0x046 => some x.trap.tscr0
  | 0x047 => some x.trap.tscr1
  | 0x048 => some x.trap.tscr2
  | 0x049 => some x.trap.tscr3
  | 0x04D => some x.trap.trows
  | _ => none

/-- A register of the core, the bay or the partition. -/
def State.unitReg (s : State) (a : Agent) (sel : Nat) : Option DWord :=
  let c := agentCore a
  let x := s.core c
  let p := s.part (s.partOf a)
  match sel with
  | 0x019 => some (x.vunit s.cycle)
  | 0x01E => some x.planeReg
  | 0x020 => some x.tarea
  | 0x029 => some (s.mon a)
  | 0x02B => some p.hotcfg
  | 0x02C => some (s.bay (bayOf c)).cpeng
  | 0x030 => some x.tq
  | 0x031 => some x.stealReg
  | 0x038 => some p.npart0
  | 0x039 => some p.npart1
  | 0x03A => some p.npart2
  | 0x03B => some p.npart3
  | 0x04A => some (s.pstat (s.partOf a) (s.own a))
  | 0x04B => some x.frz.reg
  | 0x04C => some p.crib
  | _ => none

/-- A register of the module (R441). -/
def State.moduleReg (s : State) (sel : Nat) : DWord :=
  match sel with
  | 0x080 => s.cryoReg
  | 0x081 => s.cryo.tband
  | 0x082 => s.cryo.temp
  | 0x083 => s.power.pwrcfg
  | 0x084 => s.power.stat
  | 0x085 => s.power.telcfg
  | 0x086 => s.power.limpwr
  | 0x087 => s.power.limlink
  | n => s.power.counter (n - 0x088)

def State.sysReg (s : State) (a : Agent) (sel : Nat) : DWord :=
  match (s.own a).sysReg sel with
  | some v => v
  | none =>
    match s.unitReg a sel with
    | some v => v
    | none => s.moduleReg sel

/-- SYSRD. -/
def execSysrd (g : Guard) (d : BitVec 6) (sel : BitVec 10) (s : State) : Out :=
  s.guarded g 2 (fun s => s.result s.agent d (s.sysReg s.agent sel.toNat) 2)

/-- The writable fields `m` of a register take `v`. -/
def fieldsOf (m old v : DWord) : DWord := (old &&& ~~~m) ||| (v &&& m)

def SlotRegs.write (r : SlotRegs) (sel : Nat) (v : DWord) : SlotRegs :=
  match sel with
  | 0x008 => { r with fpstat := r.fpstat &&& ~~~v }
  | 0x009 => { r with fpctl := v &&& 0xF }
  | 0x00A => { r with srctx := v &&& 0x001FFFFF00000000 }
  | 0x00B => { r with srbase := v }
  | 0x028 => { r with vbase := v }
  | _ => r

def TrapRegs.write (r : TrapRegs) (sel : Nat) (v : DWord) : TrapRegs :=
  match sel with
  | 0x040 => { r with tcause := v &&& 0xFFFFF00000000000 }
  | 0x041 => { r with tpc := v &&& 0xFFFFF01FFFFF000F }
  | 0x042 => { r with taddr := v }
  | 0x043 => { r with tinfo := v }
  | 0x044 => { r with tvec := v &&& 0xC000000000000FFF }
  | 0x046 => { r with tscr0 := v }
  | 0x047 => { r with tscr1 := v }
  | 0x048 => { r with tscr2 := v }
  | 0x049 => { r with tscr3 := v }
  | 0x04D => { r with trows := v }
  | _ => r

/-- What only firmware partition 0 writes in its partition's record; a longer crib gains free records (R397). -/
def Part.write (x : Part) (sel : Nat) (v : DWord) : Part :=
  match sel with
  | 0x02B => { x with hotcfg := v &&& 0x0000FFFF0000FFFF }
  | 0x038 => { x with npart0 := v &&& 0x0001FFFF0000FFFF }
  | 0x039 => { x with npart1 := v &&& 0x0001FFFF0000FFFF }
  | 0x03A => { x with npart2 := v &&& 0xFFFFFFFFFFFFFFC0 }
  | 0x03B => { x with npart3 := fieldsOf 0xFFFFFFFFFF07FFF0 x.npart3 v }
  | 0x04C =>
    let y := { x with crib := v &&& 0xFFF0FFFFFFC00000 }
    { y with gains := y.gains + b2n (decide (x.cribFree < y.cribFree)) }
  | _ => x

/-- FLAGS of SYS.NPART3 clear by writing 1 (R340). -/
def Part.clearFlags (x : Part) (v : DWord) : Part := { x with npart3 := x.npart3 &&& ~~~(v &&& 0xF80000) }

/-- A write of SYS.TBAND: ascending thresholds below HALTK, or none (R427). -/
def Cryo.writeBand (x : Cryo) (halt : Nat) (v : DWord) : Cryo :=
  let y := { x with tband := v }
  if y.th 1 < y.th 2 ∧ y.th 2 < y.th 3 ∧ y.th 3 < y.th 4 ∧ y.th 4 < y.th 5 ∧ y.th 5 < halt then y else x

/-- What only firmware partition 0 writes. (DEDUCED, log 81) -/
def State.firmWrite (s : State) (a : Agent) (sel : Nat) (v : DWord) : State :=
  match sel with
  | 0x04B => s.updCore (agentCore a) (fun x => { x with frz := { x.frz with limit := v.extractLsb' 60 4 } })
  | 0x081 => { s with cryo := s.cryo.writeBand s.power.halt v }
  | 0x083 => { s with power := { s.power with pwrcfg := pwrClamp s.power.limpwr v } }
  | 0x085 => { s with power := { s.power with telcfg := v &&& 0xFFFEFFFFFFFFFFFF } }
  | n => s.updPart (s.partOf a) (fun x => x.write n v)

/-- A write by 1 of SYS.FPSTAT keeps the bits that the same core cycle raises (R74). -/
def Slot.sysWrite (x : Slot) (sel : Nat) (v : DWord) : Slot :=
  let r := x.regs.write sel v
  { x with regs := if sel = 0x008 then { r with fpstat := r.fpstat ||| x.fpNew } else r, trap := x.trap.write sel v }

/-- SYSWR of a value under the access of each field. -/
def State.sysWrite (s : State) (a : Agent) (sel : Nat) (v : DWord) : State :=
  let s := if sel = 0x03B then s.updPart (s.partOf a) (·.clearFlags v) else s
  let s := if sel = 0x029 then s.setMon a (v &&& 0x8000FFFFFFFFFFF8) else s
  let s := s.updOwn a (·.sysWrite sel v)
  if s.partOf a = 0 then s.firmWrite a sel v else s

/-- SYSWR. -/
def execSyswr (g : Guard) (a : BitVec 6) (sel : BitVec 10) (s : State) : Out :=
  s.guarded g 2 (fun s => (s.sysWrite s.agent sel.toNat (s.reg s.agent a)).advance s.agent 2)

/-! ## PPOINT (R393, R401) -/

def pmaskWords : PMask → Nat
  | .mask _ _ => 2
  | .lit _ _ => 3

/-- The claims that a PPOINT keeps live. -/
def pointLive (m : PMask) (h : List DWord) (t : Tile) : Bool :=
  let bits (n : Nat) : Bool := (List.range 8).any (fun i => n.testBit i && hKey h i != 0 && hKey h i == t.key.toNat)
  match m with
  | .mask all b => all || bits b.toNat
  | .lit all w => all || bits w.toNat

/-- PPOINT. -/
def execPpoint (g : Guard) (d : BitVec 6) (m : PMask) (s : State) : Out :=
  s.guarded g (pmaskWords m) (fun s =>
    let a := s.agent
    let n := pmaskWords m
    if s.gangMember a then s.result a d 3 n
    else if (s.own a).regs.req = 0 then s.result a d 1 n
    else
      let h := match (s.own a).piece with | some q => q.hdr | none => []
      s.savePoint a d n (pointLive m h))

/-! ## Translation (R245, R246, R402) -/

/-- Page bits of a size code of XINV; the whole space for 111. -/
def xinvBits (code : Nat) : Option Nat :=
  match code with
  | 0 => some 12
  | 1 => some 16
  | 2 => some 21
  | 3 => some 26
  | 4 => some 30
  | 7 => some 64
  | _ => none

/-- XINV. -/
def execXinv (g : Guard) (d a b : BitVec 6) (s : State) : Out :=
  s.firmwareOnly g (fun s =>
    let ag := s.agent
    match (s.strm ag).token with
    | some i => if s.xl.invals.any (fun v => v.idx == i) then s.block ag else s.result ag d 0 2
    | none =>
      let v := s.reg ag b
      match (if v &&& 0x73F = v then xinvBits (fieldNat v 8 3) else none) with
      | none => s.result ag d 1 2
      | some bits =>
        let i := s.xl.next + 1
        let r : Inval := { idx := i, part := fieldNat v 0 6, base := (s.reg ag a).toNat / 2 ^ bits * 2 ^ bits, bits := bits }
        State.updStrm { s with xl := { s.xl with invals := s.xl.invals ++ [r], next := i } } ag
          (fun t => { t with mode := .blocked, token := some i }))

/-- Task-queue rings and copy spill rings of a partition retry (R269, R319). -/
def State.retryRings (s : State) (p : Nat) : State :=
  let s := (s.coresOf p).foldl (fun (s : State) c =>
    (s.updCore c (fun x => { x with rtry := x.rfault, rstall := false })).refill c 32) s
  (s.baysOf p).foldl (fun (s : State) b => (List.range 4).foldl (fun (s : State) e => s.retryEngine b e) s) s
/-- Those of every partition, each time an invalidation completes. -/
def State.retryAllRings (s : State) : State := s.parts.foldl (fun (s : State) (p, _) => s.retryRings p) s

/-- TRANSLATION_INVALIDATE_COMPLETE: every access under the old entries is visible, those of near-memory commands with it,
and no cache holds an entry for the pages any more. -/
def execTranslationInvalidateComplete (idx : Nat) (s : State) : Out :=
  .next (
    match s.xl.invals.find? (fun v => v.idx == idx) with
    | none => s
    | some v =>
      if s.dram.nm.any (fun c => c.part == v.part) then s
      else
        State.retryAllRings { s with xl := { s.xl with
          tlb := s.xl.tlb.filter (fun e => !v.meets e.part e.base e.bits),
          invals := s.xl.invals.filter (fun w => w.idx != idx) } })

/-- TRANSLATION_WALK_COMPLETE: the leaf is installed, or every attached request meets the fault; an invalidation under way
that covers the page sends the requests to walk again after it. -/
def execTranslationWalkComplete (u : XUnit) (part granule : Nat) (s : State) : Out :=
  .next (
    let mine (w : Walk) : Bool := w.unit == u && w.part == part && w.granule == granule
    match s.xl.walks.find? mine with
    | none => s
    | some w =>
      let ended (s : State) : State := { s with xl := { s.xl with walks := s.xl.walks.filter (fun w => !mine w) } }
      match s.walkFor part (granule * 4096) with
      | (t, .error n) =>
        if s.xl.under part (granule * 4096) 12 then s
        else
          let t := ended t
          { t with xl := { t.xl with faults := w.who.map (fun r => { who := r, granule := granule, sub := n }) ++ t.xl.faults } }
      | (t, .ok (leaf, bits)) =>
        if s.xl.under part (granule * 4096) bits then s
        else
          let t := ended t
          { t with xl := { t.xl with tlb := XEntry u part (granule * 4096) leaf bits :: t.xl.tlb } })

/-! ## PART (R397, R403) -/

/-- Op 000 on a slot: the value for sD, or none while the stop has to wait. -/
def State.stopFor (s : State) (c k : Nat) : State × Option DWord :=
  let x := s.slot c k
  match x.piece with
  | none => (s, some (BitVec.ofNat 64 (2 ^ 63 + 1)))
  | some q =>
    if x.phase ≠ .running ∨ (s.core c).frz.since.isSome then (s, none)
    else
      match s.stopPiece c k true with
      | (s, .saved r) => (s, some (BitVec.ofNat 64 (q.part * 2 ^ 12 + r)))
      | (s, .abandoned) => (s, some (BitVec.ofNat 64 (2 ^ 63 + 2)))
      | (s, .held) => (s, none)

/-- The stop has saved the agent's own piece. -/
def State.stoppedSelf (t : State) : Agent → Bool
  | .strm c k _ => (t.slot c k).piece.isNone
  | .thread _ => false

/-- PART stop; one that holds its own piece has its result before the piece is saved. (DEDUCED, log 79) -/
def execPartStop (g : Guard) (d a : BitVec 6) (s : State) : Out :=
  s.firmwareOnly g (fun s =>
    let ag := s.agent
    let v := s.reg ag a
    let stop (s : State) : State × Option DWord := s.stopFor (fieldNat v 2 7) (fieldNat v 0 2)
    match stop s with
    | (t, some r) => if t.stoppedSelf ag then (stop (s.result ag d r 2)).1 else t.result ag d r 2
    | (t, none) => t.block ag)

/-- A gang joins its bay's queue again in the order of launch tickets. (DEDUCED, log 59) -/
def insertGang (g : Gang) : List Gang → List Gang
  | [] => [g]
  | h :: hs => if h.piece.part = g.piece.part ∧ g.ticket < h.ticket then g :: h :: hs else h :: insertGang g hs

/-- A held gang is queued once more (R397). -/
def State.requeueGang (s : State) (p t : Nat) (y : SavedPiece) : State :=
  let rs := (s.part p).recs.filter (fun (_, z) => z.held && z.gang == some t)
  let s := s.updPart p (fun x => { x with recs := x.recs.map (fun (i, z) =>
    (i, if z.gang = some t then { z with held := false } else z)) })
  match y.slot.piece with
  | none => s
  | some q =>
    let g : Gang := { ticket := t, piece := { q with gang := none }, size := rs.length, after := none, slots := [],
                      saved := rs.map (·.1) }
    s.updBay (bayOf y.core) (fun b => { b with gangs := insertGang g b.gangs })

/-- A held piece is queued on the core that it ran on. -/
def State.releaseHeld (s : State) (p r : Nat) (y : SavedPiece) : State :=
  match y.gang, y.slot.piece with
  | some t, _ => s.requeueGang p t y
  | none, some q =>
    (s.updPart p (fun x => { x with recs := Tbl.set x.recs r { y with held := false } })).joinSaved y.core
      { piece := q, saved := some r, ring := none }
  | none, none => s

/-- PART release. -/
def execPartRelease (g : Guard) (d a : BitVec 6) (s : State) : Out :=
  s.firmwareOnly g (fun s =>
    let ag := s.agent
    let v := (s.reg ag a).toNat
    let p := v / 2 ^ 12
    match (if v < 2 ^ 18 then s.savedRec p (v % 2 ^ 12) else none) with
    | some y => if y.held then (s.releaseHeld p (v % 2 ^ 12) y).result ag d 0 2 else s.result ag d 1 2
    | none => s.result ag d 1 2)

/-- PART reset: it begins, and completes when the reset has (R421). -/
def execPartReset (g : Guard) (d a : BitVec 6) (s : State) : Out :=
  s.firmwareOnly g (fun s =>
    let ag := s.agent
    let p := (s.reg ag a).toNat
    let wait (s : State) : State := s.updStrm ag (fun t => { t with mode := .blocked, token := some 0 })
    if (s.strm ag).token.isSome then
      let s := s.endReset p
      if (s.part p).inReset then wait s else s.result ag d 0 2
    else if p = 0 ∨ 64 ≤ p ∨ !(s.part p).live then s.result ag d 1 2
    else wait (s.beginReset p))

/-- PART request; while the piece's record is still being read, the request goes into the record (R395). -/
def execPartRequest (g : Guard) (d a : BitVec 6) (s : State) : Out :=
  s.firmwareOnly g (fun s =>
    let ag := s.agent
    let v := s.reg ag a
    let c := fieldNat v 2 7
    let k := fieldNat v 0 2
    if (s.slot c k).piece.isNone then s.result ag d 1 2
    else
      let ask (x : Slot) : Slot := { x with regs := { x.regs with req := 2 } }
      (if (s.slot c k).phase = .restoring then s.updPiece (s.uidAt c k) ask else s.updSlot c k ask).result ag d 0 2)

end Sys2Proof.Machine
end

