-- ==== Sys2Proof/Machine/HostCmd.lean ====
section
/-! DEFINITION. The host link: function registers (R406, R407), the command ring (R408 to R412), indirect buffers and
command faults (R415, R416), completion records, and the checks common to all commands (R413). -/

namespace Sys2Proof.Machine

/-! ## Functions -/

/-- A write that a function of no partition ignores. -/
def State.onFn (s : State) (fn : Nat) (f : HostFn → HostFn) : State := if s.fnLive fn then s.updHost fn f else s

/-! ## Registers (R407 to R409) -/

/-- A read of HRING.RESV: the function afterwards and the value read. -/
def HostFn.resv (x : HostFn) : HostFn × DWord :=
  if x.ringEn && decide (ahead x.next x.doneT < 2 ^ x.rlog) then
    ({ x with next := wrap32 (x.next + 1) }, BitVec.ofNat 64 x.next)
  else (x, BitVec.ofNat 64 (2 ^ 63))

/-- HRING_RESV_READ. -/
def execHringResvRead (fn : Nat) (s : State) : Out := .next (s.onFn fn (fun x => x.resv.1))

/-- A write of HRING.COMMIT. -/
def HostFn.commit (x : HostFn) (v : DWord) : HostFn :=
  let t := fieldNat v 0 32
  if ahead t x.doneT < ahead x.next x.doneT ∧ !x.commits.contains t then { x with commits := x.commits ++ [t] }
  else { x with badc := min (x.badc + 1) 0xFFFF }

/-- HRING_COMMIT. -/
def execHringCommit (fn : Nat) (v : DWord) (s : State) : Out := .next (s.onFn fn (·.commit v))

/-- A write of HRING.CFG. -/
def HostFn.writeCfg (x : HostFn) (v : DWord) : HostFn :=
  let on := v.getLsbD 63
  if x.ringEn then { x with ringEn := on }
  else
    let r := fieldNat v 0 5
    let x := { x with rlog := r }
    if on && decide (6 ≤ r) && decide (r ≤ 16) then { x.emptied with ringEn := true } else x

/-- The ticket of a command that no longer reports to its ring: tickets have 32 bits. -/
def noTicket : Nat := 2 ^ 32

/-- The commands of a function from before its ring was disabled go on, and report to it no longer. (DEDUCED, log 83) -/
def State.detach (s : State) (fn : Nat) : State :=
  State.updPart { s with
      jobs := s.jobs.map (fun j => if j.fn = fn then { j with ticket := noTicket } else j),
      fw := { s.fw with update := s.fw.update.map (fun u => if u.fn = fn then { u with ticket := noTicket } else u) } } fn
    (fun x => { x with waits := x.waits.map (fun w => { w with host := w.host.map (fun (f, _, i) => (f, noTicket, i)) }) })

/-- The ring starts empty (R407). -/
def State.ringCfg (s : State) (fn : Nat) (v : DWord) : State :=
  let t := s.onFn fn (·.writeCfg v)
  if !(s.hostFn fn).ringEn && (t.hostFn fn).ringEn then t.detach fn else t

/-- HRING_ENABLE: a write of HRING.CFG. -/
def execHringEnable (fn : Nat) (v : DWord) (s : State) : Out := .next (s.ringCfg fn v)

/-- A write of HRX.CFG. -/
def HostFn.writeRx (x : HostFn) (v : DWord) : HostFn :=
  let on := v.getLsbD 63
  if x.rxEn then { x with rxEn := on }
  else
    let n := fieldNat v 0 5
    { x with xlog := n, rxEn := on && decide (12 ≤ n) && decide (n ≤ 30) }

/-- HRX_ENABLE: a write of HRX.CFG. -/
def execHrxEnable (fn : Nat) (v : DWord) (s : State) : Out := .next (s.onFn fn (·.writeRx v))

/-- RST (R416): issue stops, the rest of open buffers with it; the ring is emptied once every issued command has
completed. -/
def HostFn.reset1 (x : HostFn) : HostFn :=
  let x := { x with resetting := true, frames := [],
                    cmds := x.cmds.map (fun (c : HostCmd) => { c with issuing := false }) }
  if x.cmds.isEmpty then x.emptied else x

/-- HRING_RESET. -/
def execHringReset (fn : Nat) (s : State) : Out := .next (s.onFn fn (·.reset1))

/-- HRING_RESUME. -/
def execHringResume (fn : Nat) (s : State) : Out := .next (s.onFn fn (fun x => { x with fault := false }))

/-- A write to a function register at an offset of its BAR0. -/
def State.barWrite (s : State) (fn off : Nat) (v : DWord) : State :=
  match off with
  | 0x000 => s.onFn fn (fun x => if x.ringEn then x else { x with ringBase := v })
  | 0x008 => s.ringCfg fn v
  | 0x010 => s.onFn fn (fun x => if x.ringEn then x else { x with cqBase := v })
  | 0x020 => s.onFn fn (·.commit v)
  | 0x038 =>
    let s := if v.getLsbD 0 then s.onFn fn (fun x => { x with fault := false }) else s
    if v.getLsbD 1 then s.onFn fn (·.reset1) else s
  | 0x040 => s.onFn fn (fun x => if x.rxEn then x else { x with rxBase := v })
  | 0x048 => s.onFn fn (·.writeRx v)
  | 0x058 => s.onFn fn (fun x => { x with rxHead := v })
  | _ => s

/-- REGISTER_WRITE. -/
def execRegisterWrite (fn off : Nat) (v : DWord) (s : State) : Out := .next (s.barWrite fn off v)

/-- FW.STAT (R407). -/
def Firmware.stat (x : Firmware) : DWord :=
  BitVec.ofNat 64 (b2n x.complexB * 2 ^ 63 + b2n x.sby * 2 ^ 62 + x.berr % 256 * 2 ^ 48 + min x.faults 0xFFFF * 2 ^ 32 +
    x.ver.toNat)

/-- What a read of a function register returns, but for HRING.RESV. -/
def State.barRead (s : State) (fn off : Nat) : DWord :=
  let x := s.hostFn fn
  if !s.fnLive fn then 0
  else
    match off with
    | 0x000 => x.ringBase
    | 0x008 => BitVec.ofNat 64 (b2n x.ringEn * 2 ^ 63 + x.rlog)
    | 0x010 => x.cqBase
    | 0x028 => BitVec.ofNat 64 (b2n x.fault * 2 ^ 63 + x.depth * 2 ^ 60 + x.badc * 2 ^ 32 + x.head)
    | 0x030 => BitVec.ofNat 64 x.doneT
    | 0x040 => x.rxBase
    | 0x048 => BitVec.ofNat 64 (b2n x.rxEn * 2 ^ 63 + x.xlog)
    | 0x050 => x.tail
    | 0x058 => x.rxHead
    | 0x080 => if fn = 0 then s.fw.stat else 0
    | _ => 0

/-! ## Function level resets (R406) -/

/-- FUNCTION_LEVEL_RESET_VF: a partition reset; one that is under way is joined. -/
def execFunctionLevelResetVf (n : Nat) (s : State) : Out :=
  .next (if n = 0 ∨ 64 ≤ n ∨ !(s.part n).live then s
    else if (s.part n).inReset then s.endReset n else s.beginReset n)

/-- FUNCTION_LEVEL_RESET_PF0. -/
def execFunctionLevelResetPf0 (s : State) : Out :=
  .next (s.updHost 0 (fun x => { x.reset1 with rxEn := false }))

/-! ## Commands (R413) -/

/-- The bits of ARG1 to ARG7 that an op uses; none for one that is unassigned. -/
def argMasks (op : Nat) : Option (List DWord) :=
  let all : DWord := BitVec.allOnes 64
  match op with
  | 0x00 => some []
  | 0x01 => some [all]
  | 0x02 => some [all, all, 0xFFFFFFFF]
  | 0x03 => some [all, all, 0xFFFFFFFF]
  | 0x04 => some [0xFFFF, all]
  | 0x05 => some [all, 0xFFFF]
  | 0x06 => some [all, 0x1FFFF]
  | 0x07 => some [all, all, all, 0xFFFF]
  | 0x08 => some [all, 0x3FFF, all]
  | 0x09 => some [all, 0x17F]
  | 0x20 => some [all]
  | 0x21 => some [0x3F]
  | 0x22 => some [0x3F]
  | 0x23 => some [all, all]
  | _ => none

/-- A limit or an alignment that an op's row states. -/
def argBad (c : List DWord) : Bool :=
  let a (i : Nat) : Nat := (hw c i).toNat
  match cOp c with
  | 0x02 => a 3 == 0
  | 0x06 => a 1 % 64 != 0 || a 2 == 0 || decide (65536 < a 2)
  | 0x08 => a 3 == 0 || decide (16384 < a 3)
  | 0x09 => a 1 % 64 != 0
  | _ => false

/-- The common status: 1, 2, 3 in this order. (DEDUCED, log 82) -/
def State.cmdStatus (s : State) (fn : Nat) (c : List DWord) : Nat :=
  match argMasks (cOp c) with
  | none => 1
  | some ms =>
    let stray := (List.range 7).any (fun i => hw c (i + 1) &&& ~~~(ms.getD i 0) != 0)
    if hfld c 0 50 6 ≠ 0 ∨ hfld c 0 32 16 ≠ 0 ∨ stray ∨ argBad c then 1
    else if 0x20 ≤ cOp c ∧ fn ≠ 0 then 2
    else if (s.part fn).inReset then 3
    else 0

/-! ## Issue (R409 to R411, R415) -/

/-- The ring issues a command now: it may, and the host link serves its function (R420). -/
def State.ringServes (s : State) (fn : Nat) : Bool := s.ringOpen fn && !(s.part fn).inReset && s.linkTurn fn

/-- Buffers that are at their end are left. -/
def trimFrames : List IFrame → List IFrame
  | [] => []
  | f :: fs => if f.left = 0 then trimFrames fs else f :: fs

/-- The command that issues, a part of its top-level command. -/
structure CmdRef where
  fn : Nat
  ticket : Nat
  index : Nat
  depth : Nat
  deriving DecidableEq, Repr

/-- The last top-level command that has issued. -/
def HostFn.updTop (x : HostFn) (f : HostCmd → HostCmd) : HostFn :=
  match x.cmds.reverse with
  | [] => x
  | c :: cs => { x with cmds := (f c :: cs).reverse }
def HostFn.top (x : HostFn) : Option HostCmd := x.cmds.getLast?

/-- The command leaves ring or buffer and becomes a part that runs. -/
def HostFn.issue (x : HostFn) (fn depth : Nat) (tag : Word) (irq : Bool) : HostFn × CmdRef :=
  match x.frames with
  | [] =>
    let c : HostCmd := { ticket := x.head, tag := tag, irq := irq, status := 0, detail := 0, subs := 1, index := 0,
                         issuing := false }
    ({ x with head := wrap32 (x.head + 1), cmds := x.cmds ++ [c] },
     { fn := fn, ticket := x.head, index := 0, depth := depth })
  | f :: fs =>
    let r : CmdRef := match x.top with
      | some c => { fn := fn, ticket := c.ticket, index := c.index, depth := depth }
      | none => { fn := fn, ticket := x.head, index := 0, depth := depth }
    (HostFn.updTop { x with frames := { addr := f.addr + 64, left := f.left - 1 } :: fs }
      (fun c => { c with index := c.index + 1, subs := c.subs + 1 }), r)

/-- Buffers at their end are left; the top-level command has issued once none is open. -/
def HostFn.trim (x : HostFn) : HostFn :=
  let fs := trimFrames x.frames
  let x := { x with frames := fs }
  if fs.isEmpty then x.updTop (fun c => { c with issuing := false }) else x

/-- A part ends. -/
def State.partDone (s : State) (r : CmdRef) (status detail : Nat) : State := s.hostPart r.fn r.ticket status r.index detail

/-- A command fault (R416) at a command that has just issued. -/
def HostFn.cmdFault (x : HostFn) (r : CmdRef) : HostFn :=
  HostFn.updTop { x with fault := true, depth := r.depth, frames := [] }
    (fun c => { c with status := 6, detail := r.index, issuing := false, subs := c.subs - 1 })

/-- The row under which the next command issues; that of NOP for an unassigned op, or for words that a bus error withholds. (DEDUCED, log 85) -/
def rowOf (c : List DWord) : Nat := if (argMasks (cOp c)).isSome then cOp c else 0

/-- The issue of the ring's next command, where it is of this row; `run` performs it. (DEDUCED, log 84) -/
def State.hostRow (s : State) (fn op : Nat) (run : State → CmdRef → List DWord → State) : State :=
  let x := s.hostFn fn
  match (if s.ringServes fn then x.nextAt else none) with
  | none => s
  | some (a, depth) =>
    if Config.busError a s.stepNo then
      if op ≠ 0 then s
      else
        let (x, r) := x.issue fn depth ((Config.freeWord s.free).setWidth 32) false
        State.updHost { s.linkServed fn with free := s.free + 1 } fn (fun _ => x.cmdFault r)
    else
      let c := wordsOf 8 (memRead s.hostMem a 64)
      if rowOf c ≠ op ∨ (cWait c ∧ !x.waitOver depth) then s
      else
        let (x, r) := x.issue fn depth (cTag c) (cIrq c)
        let s := (s.linkServed fn).updHost fn (fun _ => x)
        let st := s.cmdStatus fn c
        let s := if op = 6 ∧ depth = 4 then s.updHost fn (·.cmdFault r)
          else if st ≠ 0 then s.partDone r st 0
          else run s r c
        s.updHost fn (·.trim)

/-- INDIRECT (R415): its buffer is entered; it ends, as a part, at once. -/
def execIndirect (fn : Nat) (s : State) : Out :=
  .next (s.hostRow fn 6 (fun s r c =>
    (s.partDone r 0 0).updHost fn (fun x =>
      let f : IFrame := { addr := (hw c 1).toNat, left := (hw c 2).toNat }
      HostFn.updTop { x with frames := f :: x.frames } (fun t => { t with issuing := true }))))

/-- NOP; an unassigned op, and a command that cannot be read, issue under this row. -/
def execHostNop (fn : Nat) (s : State) : Out := .next (s.hostRow fn 0 (fun s r _ => s.partDone r 0 0))

/-! ## Completion (R412, R416) -/

/-- A ticket that is still to complete holds DONE back; bits below it clear; an emptied ring after RST. -/
def HostFn.settle (x : HostFn) : HostFn :=
  let d := match x.cmds with
    | c :: _ => c.ticket
    | [] => x.head
  let x := { x with doneT := d, commits := x.commits.filter (fun t => decide (ahead t d < ahead x.next d)) }
  if x.resetting && x.cmds.isEmpty then x.emptied else x

/-- COMMAND_COMPLETION. -/
def execCommandCompletion (fn ticket : Nat) (s : State) : Out :=
  .next (
    let s := s.endResets
    let x := s.hostFn fn
    match x.cmds.find? (fun c => c.ticket == ticket) with
    | none => s
    | some c =>
      if !x.ready c ∨ (s.part fn).inReset ∨ !s.linkTurn fn then s
      else
        ((s.linkServed fn).writeRecord fn c).updHost fn (fun x =>
          HostFn.settle { x with cmds := x.cmds.filter (fun d => d.ticket != ticket) }))

end Sys2Proof.Machine
end

