-- ==== Sys2Proof/Machine/HostJobs.lean ====
section
/-! DEFINITION. The host commands (R414): launches, transfers, counters, entries, domains, peers, planes; partitions (R417,
R419, R421); live update and failover of the firmware (R424). -/

namespace Sys2Proof.Machine

/-! ## Commands that go on -/

/-- What a step of a command comes to: it waits, it has ended, or another part of the machine will end it. -/
inductive JobSay where
  | wait (j : HostJob)
  | ended (status detail : Nat)
  | left
  deriving DecidableEq, Repr

abbrev JobStep := State → HostJob → State × JobSay

/-- One step of a command under way; one that waits stands at the end of the list. -/
def State.stepJob (s : State) (f : JobStep) (j : HostJob) : State :=
  match f s j with
  | (s, .wait j) => { s with jobs := s.jobs ++ [j] }
  | (s, .ended st d) => s.hostPart j.fn j.ticket st j.index d
  | (s, .left) => s

def newJob (r : CmdRef) (c : List DWord) : HostJob :=
  { fn := r.fn, ticket := r.ticket, op := cOp c, a1 := hw c 1, a2 := hw c 2, a3 := hw c 3, index := r.index, done := 0,
    tiles := [] }

/-- The rows whose commands use the host link as they go on: HTOD and DTOH. -/
def linkOp (op : Nat) : Bool := op == 2 || op == 3

/-- The commands of a row go on: those of the host link when it serves the function (R420), or, in a partition reset, to their
end (R21). -/
def State.goOn (s : State) (fn op : Nat) (f : JobStep) : State :=
  let (mine, rest) := s.jobs.partition (fun j => j.fn == fn && j.op == op)
  if mine.isEmpty ∨ (linkOp op ∧ !(s.part fn).inReset ∧ !s.linkTurn fn) then s
  else
    let s := if linkOp op then s.linkServed fn else s
    mine.foldl (fun (s : State) j => s.stepJob f j) { s with jobs := rest }

/-- A row's event: its commands under way go on, then the ring's next command issues where it is of this row. -/
def State.hostJobs (s : State) (fn op : Nat) (f : JobStep) : State :=
  (s.goOn fn op f).hostRow fn op (fun s r c => s.stepJob f (newJob r c))

/-- DETAIL of a device fault (R413). -/
def faultDetail (e : Exc) : Nat := let (cls, sub) := copyEventSub e; cls * 256 + sub

def sayFault (e : Exc) : JobSay := .ended 5 (faultDetail e)

/-! ## LAUNCH, CADD, ARM -/

/-- LAUNCH: refused, joined, or waiting on the NPD until it joins (R316). -/
def launchStep : JobStep := fun s j =>
  match s.launchAt j.fn j.a1 (some (j.fn, j.ticket, j.index)) with
  | (s, .accepted id) => (s, .ended 0 id)
  | (s, .waits) => (s, .left)
  | (s, .refused n) => (s, .ended (0x10 + n) 0)
  | (s, .fault e) => (s, sayFault e)
  | (s, .hold) => (s, .wait j)

def execLaunch (fn : Nat) (s : State) : Out := .next (s.hostJobs fn 0x01 launchStep)

/-- HOST_CADD. -/
def execHostCadd (fn : Nat) (s : State) : Out :=
  .next (s.hostRow fn 0x04 (fun s r c =>
    let n := (hw c 1).toNat
    if s.hasCounter fn n then (s.advanceCtr n (hw c 2)).partDone r 0 0 else s.partDone r 0x11 0))

/-- HOST_ARM (R371). -/
def armStep : JobStep := fun s j =>
  if j.a1.toNat % 64 ≠ 0 then (s, .ended 0x11 0)
  else
    match s.readMem (npdAcc j.fn) j.a1.toNat 64 with
    | (s, .exc e) => (s, sayFault e)
    | (s, .hold) => (s, .wait j)
    | (s, .ok bs) =>
      let (s, code) := s.arm j.fn j.a2.toNat bs
      (s, .ended (if code = 0 then 0 else 0x10 + code) 0)

def execHostArm (fn : Nat) (s : State) : Out := .next (s.hostJobs fn 0x05 armStep)

/-! ## HTOD and DTOH -/

/-- The byte at a flat address lies in a core's tile. -/
def State.tileHolds (s : State) (a : Nat) (ct : Nat × Nat) : Bool :=
  decide (a < 2 ^ 32) && a / 2 ^ 24 % 128 == ct.1 && Tile.at ((s.core ct.1).tile ct.2) (a % 2 ^ 24)

/-- HTOD: the next line of the destination; a tile passes to READY with the last byte that is written into it (R414). (DEDUCED, log 86) -/
def htodStep : JobStep := fun s j =>
  let dst := (j.a2.toNat + j.done) % 2 ^ 64
  let bus := j.a1.toNat + j.done
  let n := min (j.a3.toNat - j.done) (64 - dst % 64)
  if Config.busError bus s.stepNo then (s, .ended 4 0)
  else
    match s.deliver (delivAcc j.fn) 0 j.tiles [(dst, n)] (memRead s.hostMem bus n) with
    | (s, _, _, .hold) => (s, .wait j)
    | (s, _, _, .exc e) => (s, sayFault e)
    | (s, _, ts, .ok) =>
      let more := decide (j.done + n < j.a3.toNat)
      let (stay, full) := ts.partition (fun ct => more && s.tileHolds (dst + n) ct)
      let s := s.readyTiles (delivAcc j.fn) full
      if more then (s, .wait { j with done := j.done + n, tiles := stay }) else (s, .ended 0 0)

def execHtod (fn : Nat) (s : State) : Out := .next (s.hostJobs fn 0x02 htodStep)

/-- DTOH: the next line of the source. -/
def dtohStep : JobStep := fun s j =>
  let src := (j.a1.toNat + j.done) % 2 ^ 64
  let bus := j.a2.toNat + j.done
  let n := min (j.a3.toNat - j.done) (64 - src % 64)
  if n = 0 then (s, .ended 0 0)
  else if Config.busError bus s.stepNo then (s, .ended 4 0)
  else
    match s.readMem (npdAcc j.fn) src n with
    | (s, .exc e) => (s, sayFault e)
    | (s, .hold) => (s, .wait j)
    | (s, .ok bs) =>
      let s := { s with hostMem := memWrite s.hostMem bus bs }
      (s, if j.done + n < j.a3.toNat then .wait { j with done := j.done + n } else .ended 0 0)

def execDtoh (fn : Nat) (s : State) : Out := .next (s.hostJobs fn 0x03 dtohStep)

/-! ## DOMAIN and PEER -/

/-- A record's fields other than its number (R330). -/
def State.domainBad (s : State) (p : Nat) (c : List DWord) : Bool :=
  let level := hfld c 1 61 3
  let unit := hfld c 1 53 7
  let peers := hfld c 3 48 15
  let ctr := hfld c 1 0 16
  let unitTop := match level with | 1 => 71 | 2 => 11 | 3 => 3 | _ => 0
  decide (5 < level) || !(hw c 1).getLsbD 60 || hfld c 1 16 37 != 0 || decide (unitTop < unit) || hfld c 3 0 48 != 0 ||
    (hw c 3).getLsbD 63 ||
    (if level = 5 then decide (peers < 2) || decide (16384 < peers) || !s.hasCounter p ctr else peers != 0 || ctr != 0)

/-- DOMAIN. -/
def domainStep (c : List DWord) : JobStep := fun s j =>
  let p := j.fn
  let level := hfld c 1 61 3
  let n := (hw c 4).toNat
  if ((s.part p).dom level n).isSome then (s, .ended 0x11 0)
  else if s.domainBad p c then (s, .ended 0x12 0)
  else if 16384 ≤ (s.part p).doms.length then (s, .ended 0x13 0)
  else
    let d : Domain :=
      { level := level, unit := hfld c 1 53 7, counter := hfld c 1 0 16, expect := hw c 2, peers := hfld c 3 48 15, epochx := 0,
        phase := false, retired := 0, stir := false, sent := false }
    (s.updPart p (fun x => { x with doms := Tbl.set x.doms (domKey level n) d }), .ended 0 0)

def execDomain (fn : Nat) (s : State) : Out :=
  .next (s.hostRow fn 0x07 (fun s r c => s.stepJob (domainStep c) (newJob r c)))

/-- An entry of the peer table that R417 does not allow. -/
def peerBad (nvec : Nat) (e : BitVec 256) : Bool :=
  let v := peerVec e
  peerKind e == 3 || fieldNat e 24 37 != 0 || fieldNat e 203 53 != 0 ||
    (if peerKind e = 2 then decide (v < 3) || decide (nvec ≤ v) else v != 0)

/-- Entries of 32 bytes. -/
def peerEntries : Nat → List Byte → List (BitVec 256)
  | 0, _ => []
  | n + 1, bs => BitVec.ofNat 256 (leNat (bs.take 32)) :: peerEntries n (bs.drop 32)

/-- PEER. -/
def peerStep : JobStep := fun s j =>
  let x := s.part j.fn
  let n := j.a3.toNat
  let first := j.a2.toNat
  if !s.fw.up then (s, .wait j)
  else if x.peercnt < first + n then (s, .ended 0x11 0)
  else
    match s.readMem (npdAcc j.fn) j.a1.toNat (32 * n) with
    | (s, .exc e) => (s, sayFault e)
    | (s, .hold) => (s, .wait j)
    | (s, .ok bs) =>
      let es := peerEntries n bs
      if es.any (peerBad x.nvec) then (s, .ended 0x12 0)
      else
        let put (t : Tbl (BitVec 256)) (r : Nat × BitVec 256) : Tbl (BitVec 256) := Tbl.set t (first + r.1) r.2
        (s.updPart j.fn (fun y => { y with peers := ((List.range n).zip es).foldl put y.peers }), .ended 0 0)

def execPeer (fn : Nat) (s : State) : Out := .next (s.hostJobs fn 0x08 peerStep)

/-! ## PLANE -/

/-- A memory that holds these bytes from 0 on. -/
def memOf (bs : List Byte) : Memory := ((List.range bs.length).zip bs).filter (fun (_, b) => b != 0)

/-- PLANE (R173 to R175): once no swap token is pending the image enters the plane that is shadow then. -/
def planeStep : JobStep := fun s j =>
  let c := fieldNat j.a2 0 7
  if !s.holdsCore j.fn c then (s, .ended 0x11 0)
  else if !s.fw.up ∨ (s.core c).tokens ≠ 0 then (s, .wait j)
  else
    match s.readMem (npdAcc j.fn) j.a1.toNat 0x60880 with
    | (s, .exc e) => (s, sayFault e)
    | (s, .hold) => (s, .wait j)
    | (s, .ok bs) =>
      (s.updCore c (fun x =>
        let y := x.setPlane (1 - x.activePlane) (memOf bs)
        if j.a2.getLsbD 8 then { y with tokens := y.tokens + 1 } else y), .ended 0 0)

def execPlane (fn : Nat) (s : State) : Out := .next (s.hostJobs fn 0x09 planeStep)

/-! ## PCREATE (R417, R419) -/

/-- A block as the partition that it describes. -/
def blockPart (b : List DWord) : Part :=
  { Part.reset with
    live := true, qosw := hfld b 0 32 8, txcap := hfld b 0 24 8, nvec := hfld b 0 0 11, npart0 := hw b 1, npart1 := hw b 2,
    npart2 := hw b 3, npart3 := hw b 4, root := some (hw b 5).toNat, crib := hw b 6, hotcfg := hw b 7, tqring := hw b 8,
    cpring := hw b 9 }

def blockBays (b : List DWord) : List Nat := (List.range 12).filter (fun i => (hw b 0).getLsbD (46 + i))

/-- A reserved field of the block, FLAGS among them. -/
def blockReserved (b : List DWord) : Bool :=
  hfld b 0 40 6 != 0 || hfld b 0 11 13 != 0 || hfld b 1 49 15 != 0 || hfld b 1 16 16 != 0 || hfld b 2 49 15 != 0 ||
    hfld b 2 16 16 != 0 || hfld b 3 0 6 != 0 || hfld b 4 19 5 != 0 || hfld b 4 0 4 != 0 || hfld b 5 42 22 != 0 ||
    hfld b 5 0 12 != 0 || hfld b 6 48 4 != 0 || hfld b 6 0 22 != 0 || hfld b 7 48 16 != 0 || hfld b 7 16 16 != 0 ||
    hfld b 8 4 8 != 0 || hfld b 9 0 16 != 0 || (b.drop 10).any (· != 0)

/-- Two runs of numbers meet. -/
def meet (a n b k : Nat) : Bool := n != 0 && k != 0 && decide (a < b + k) && decide (b < a + n)

/-- Entries, counters or handler lines that pass their stores or overlap another partition's. -/
def State.rangesBad (s : State) (x : Part) : Bool :=
  decide (65536 < x.ebase + x.ecount) || decide (65536 < x.cbase + x.ccount) || decide (8192 < x.hbase + x.hsize) ||
    s.parts.any (fun (_, y) => y.live && (meet x.ebase x.ecount y.ebase y.ecount || meet x.cbase x.ccount y.cbase y.ccount ||
      meet x.hbase x.hsize y.hbase y.hsize))

/-- The areas of the block in the partition's address space: records, task-queue rings, copy rings. -/
def blockAreas (x : Part) (bays : List Nat) : List (List (Nat × Nat)) :=
  let r := fieldNat x.tqring 0 4
  let tq := fieldNat x.tqring 12 52 * 2 ^ 12
  let cp := fieldNat x.cpring 16 48 * 2 ^ 16
  [[(x.cribBase, x.cribCount * 2 ^ 22)],
   if r = 0 then [] else bays.map (fun b => (tq + 6 * b * 2 ^ (r + 8), 6 * 2 ^ (r + 8))),
   bays.map (fun b => (cp + 4 * b * 2 ^ 16, 4 * 2 ^ 16))]

def areasMeet (xs ys : List (Nat × Nat)) : Bool := xs.any (fun (a, n) => ys.any (fun (b, k) => meet a n b k))

/-- A field that breaks its limit, or areas that overlap. -/
def limitsBad (x : Part) (bays : List Nat) : Bool :=
  let r := fieldNat x.tqring 0 4
  x.qosw == 0 || x.txcap == 0 || decide (128 < x.txcap) || decide (x.nvec < 4) || decide (65536 < x.ecount) ||
    decide (65536 < x.ccount) || decide (1536 < x.tquota) || decide (256 < x.rsquota) || decide (8192 < x.hsize) ||
    decide (16384 < x.peercnt) || (r != 0 && decide (r < 6)) ||
    (match blockAreas x bays with
     | [a, b, c] => areasMeet a b || areasMeet a c || areasMeet b c
     | _ => false)

def State.sumOver (s : State) (f : Part → Nat) : Nat := s.parts.foldl (fun n (_, y) => n + (if y.live then f y else 0)) 0

def State.freeKey (s : State) : Option Nat := ((List.range 63).map (· + 1)).find? (fun k => (s.dram.key k).owner.isNone)

/-- The first failing status of R419, or the key to draw. -/
def State.createCheck (s : State) (b : List DWord) : Except Nat Nat :=
  let p := hfld b 0 58 6
  let x := blockPart b
  let bays := blockBays b
  if blockReserved b then .error 1
  else if (s.part p).live then .error 0x11
  else if bays.isEmpty ∨ bays.any (fun i => (s.bay i).owner.isSome) then .error 0x12
  else if s.rangesBad x then .error 0x13
  else if 1536 < s.sumOver Part.tquota + x.tquota ∨ 256 < s.sumOver Part.rsquota + x.rsquota then .error 0x14
  else
    match s.freeKey with
    | none => .error 0x15
    | some k => if limitsBad x bays then .error 0x16 else .ok k

/-- The partition comes into being in one step. -/
def State.create (s : State) (b : List DWord) (k : Nat) : State :=
  let p := hfld b 0 58 6
  let x := blockPart b
  let bays := blockBays b
  let core (y : Core) : Core := { y with tiles := [], scratch := memClear y.scratch 0 0x800000, templates := [],
                                         watch := touch (fun k => decide (k < 0x100000)) y.watch, ringlog := fieldNat x.tqring 0 4 }
  let s := { s with dram := s.dram.giveKey k (some p), npd := s.npd.clearRange x }
  let s := s.setPart p { x with key := some k }
  let s := bays.foldl (fun (s : State) i =>
    (baySlots i).foldl (fun (s : State) c => s.updCore c core) (s.updBay i (fun y => { y with owner := some p }))) s
  s.updHost p (fun _ => HostFn.reset)

def pcreateStep : JobStep := fun s j =>
  match s.readMem (npdAcc 0) j.a1.toNat 128 with
  | (s, .exc e) => (s, sayFault e)
  | (s, .hold) => (s, .wait j)
  | (s, .ok bs) =>
    let b := wordsOf 16 bs
    match s.createCheck b with
    | .error n => (s, .ended n 0)
    | .ok k => (s.create b k, .ended 0 0)

def execPcreate (fn : Nat) (s : State) : Out := .next (s.hostJobs fn 0x20 pcreateStep)

/-! ## PDESTROY and PRESET -/

/-- A partition reset that a command began, and what follows it. -/
def resetStep (destroy : Bool) : JobStep := fun s j =>
  let p := j.a1.toNat
  if j.done = 0 then
    if p = 0 ∨ !(s.part p).live then (s, .ended 0x11 0) else (s.beginReset p, .wait { j with done := 1 })
  else
    let s := s.endReset p
    if (s.part p).inReset then (s, .wait j)
    else (if destroy && (s.part p).live then s.destroy p else s, .ended 0 0)

def execPdestroy (fn : Nat) (s : State) : Out := .next (s.hostJobs fn 0x21 (resetStep true))
def execPreset (fn : Nat) (s : State) : Out := .next (s.hostJobs fn 0x22 (resetStep false))

/-! ## Live update (R424) -/

/-- A firmware handler runs. -/
def State.fwBusy (s : State) : Bool := s.npd.threads.any (fun (_, t) => t.part == 0 && t.job != .boot)

/-- Steps 1 to 3: the standby complex takes the image, checks it, and the active one stops starting handlers. (DEDUCED, log 87) -/
def State.updateBegin (s : State) (j : HostJob) (img : List Byte) : State × JobSay :=
  let e := imgCheck img
  if e ≠ 0 then ({ s with fw := { s.fw with berr := e } }, .ended 0x11 e)
  else
    match State.tableVersion { s with fw := { s.fw with sby := true, sbyVer := imgVer img, sbyImg := img, berr := 0 } } with
    | (s, none) => (s, .ended 0x12 0)
    | (s, some v) =>
      if v < imgMin img ∨ imgMax img < v then (s, .ended 0x12 0)
      else
        let u : Update := { fn := j.fn, ticket := j.ticket, index := j.index, start := npdCycles s.cycle, tabv := imgTabv img,
                            ver := imgVer img, img := img }
        ({ s with fw := { s.fw with update := some u } }, .wait { j with done := 1 })

/-- Steps 4 and 5: in a cycle in which no firmware handler runs, the complexes change places; the state table is imported at the new
image's version, and that image runs. -/
def State.switchOver (s : State) (u : Update) : State :=
  let s := State.endImage { s with fw := { s.fw with
    complexB := !s.fw.complexB, ver := u.ver, sbyVer := s.fw.ver, sby := true, img := u.img, sbyImg := s.fw.img,
    served := s.cycle, update := none } }
  (s.writeTable u.tabv).runImage

def updateStep : JobStep := fun s j =>
  if j.done = 0 then
    if s.fw.update.isSome then (s, .ended 0x14 0)
    else
      match s.readMem (npdAcc 0) j.a1.toNat j.a2.toNat with
      | (s, .exc e) => (s, sayFault e)
      | (s, .hold) => (s, .wait j)
      | (s, .ok img) => s.updateBegin j img
  else
    match s.fw.update with
    | none => (s, .left)
    | some u => if s.fwBusy then (s, .wait j) else (s.switchOver u, .ended 0 0)

/-- (DESIGN CHOICE, log 9) -/
def execUpdate (fn : Nat) (s : State) : Out := .next (s.hostJobs fn 0x23 updateStep)

/-- An update that has passed its checks ends without a switch-over. -/
def State.updateFails (s : State) (u : Update) : State :=
  State.hostPart { s with fw := { s.fw with update := none }, jobs := s.jobs.filter (fun j => j.op != 0x23 || j.done == 0) }
    u.fn u.ticket 0x13 u.index 0

/-- UPDATE_QUIESCE_TIMEOUT. -/
def execUpdateQuiesceTimeout (s : State) : Out :=
  .next (match s.fw.update with
    | some u => if u.start + 2 ^ 20 ≤ npdCycles s.cycle ∧ s.fwBusy then s.updateFails u else s
    | none => s)

/-- FIRMWARE_WATCHDOG_FAILOVER: the standby takes over, imports the state table as last written and runs, or the tenants run on
without firmware. -/
def execFirmwareWatchdogFailover (s : State) : Out :=
  .next (
    if npdCycles s.cycle < npdCycles s.fw.served + 2 ^ 22 ∨ !s.fw.up then s
    else
      let s := match s.fw.update with | some u => s.updateFails u | none => s
      let s := s.npd.threads.foldl (fun (s : State) (t, x) => if x.part = 0 then s.threadFault t 8 0 0 else s) s
      if s.fw.sby then
        State.runImage (State.tableVersion { s with fw := { s.fw with
          complexB := !s.fw.complexB, ver := s.fw.sbyVer, img := s.fw.sbyImg, sby := false, served := s.cycle } }).1
      else { s with fw := { s.fw with up := false } })

end Sys2Proof.Machine
end

