-- ==== Sys2Proof/Machine/Events.lean ====
section
/-! DEFINITION. Steps that no instruction makes: lines reached (R41, R42), asynchronous traps (R381, R389), freezes and
their watchdog (R388 to R390), the passing of the units (R134, R135), and the controllers' own work (R250, R251, R255 to
R257). -/

namespace Sys2Proof.Machine

/-! ## Lines -/

/-- The wait of a reached line's link word, then its first instruction; once it has held it is over for this entry to the
line (R42). -/
def State.lineWait (s : State) (a : Agent) : State :=
  let t := s.strm a
  let w := s.codeWord a t.plane t.line 0
  if linkWaits w ∧ !t.passed ∧ ((s.own a).flag (linkFlag w)).toNat < linkVal w then s.block a
  else s.updStrm a (fun t => { t with mode := .running, word := 1, passed := true })

/-- A stream stands before a line's link word: the line's checks once, then its wait (R41, R44). -/
def State.reach (s : State) (a : Agent) : State :=
  let t := s.strm a
  if t.reached then s.lineWait a
  else
    match s.reachFault a t.line with
    | some n => s.raise a (Exc.of 2 n)
    | none => (s.updStrm a (fun t => { t with reached := true, plane := s.planeOf a })).lineWait a


/-- LINE_ADVANCE (R41): past its last word a stream moves on by NEXT; before a link word it reaches the line. -/
def execLineAdvance (a : Agent) (s : State) : Out :=
  .next (
    let t := s.strm a
    if t.word = 0 then s.reach a
    else if t.word < 16 then s
    else if s.nextOf a = 0 then s.raise a (Exc.of 2 5)
    else
      let l := nextLine t.line (s.nextOf a)
      (s.updStrm a (fun t => { t with line := l, word := 0, reached := false, passed := false })).reach a)

/-! ## Asynchronous traps and freezes -/

/-- A reply is owed at the next beat and has not come (R388). -/
def Slot.late (x : Slot) : Bool := x.v.inflight.any (fun r => decide (r.due ≤ x.v.beat) && !r.arrived)

/-- A reply on which the slot's vector stream has to wait at its next beat, or to halt (R130, R388). -/
def Slot.owes (x : Slot) (r : InFlight) : Bool :=
  !r.arrived && (decide (r.due ≤ x.v.beat) ||
    (match x.vec.mode with
     | .draining _ => true
     | .halted | .running | .blocked => false))

/-- A beat of the slot's vector stream would pass: it holds the units, or is halting, and no handler runs. -/
def Core.beats (x : Core) (k : Nat) : Bool :=
  (x.slot k).phase == .running && !(x.slot k).trap.intrap &&
    (match (x.slot k).vec.mode with
     | .draining _ => true
     | .running => x.owns k
     | .halted | .blocked => false)

/-- Replies of the slot hold the core frozen (R388). -/
def Core.holdsFreeze (x : Core) (k : Nat) : Bool := x.beats k && (x.slot k).v.inflight.any (x.slot k).owes
def Core.freezeHeld (x : Core) : Bool := (List.range 4).any x.holdsFreeze

/-- FREEZE_START (R388). -/
def execFreezeStart (core : Nat) (s : State) : Out :=
  .next (if (s.core core).freezeHeld then s.updCore core (fun x => x.freeze s.cycle) else s)

/-- The freeze ends once no reply holds it (R389). -/
def State.thawed (s : State) (c : Nat) : State :=
  if (s.core c).freezeHeld then s else s.updCore c (fun x => x.thaw s.cycle)

/-- A reply arrives: its result is written as the instruction of its beat issues (R127, R389). In a retiring slot it is
written at once or, faulting, not at all (R36, R381); while the handler runs it enters the landing buffer, or becomes the
deferred fault (R385). -/
def Slot.reply (x : Slot) (seq : Nat) : Slot :=
  match x.v.inflight.find? (fun r => r.ix == seq && !r.arrived) with
  | none => x
  | some r =>
    let without := { x with v := { x.v with inflight := x.v.inflight.filter (fun r => r.ix != seq) } }
    let here := { x with v := { x.v with inflight := x.v.inflight.map (fun (r : InFlight) =>
      if r.ix = seq then { r with arrived := true, landing := x.trap.intrap } else r) } }
    if x.phase = .retiring then (if r.fault.isSome then without else here).flushResults
    else
      match r.fault with
      | some (n, a, el) => if x.trap.intrap then without.hold (r.heldFault x.v.beat n a el) else here
      | none => here

/-- VECTOR_REPLY_ARRIVAL (R389). -/
def execVectorReplyArrival (core slot seq : Nat) (s : State) : Out :=
  .next (((s.updSlot core slot (·.reply seq))).thawed core)

/-- The watchdog's trap for one abandoned reply (R390, R383). (DEDUCED, log 25) -/
def InFlight.abandoned (r : InFlight) : HeldTrap :=
  { cause := 10, sub := 0, strm := 1, addr := r.addr, info := BitVec.ofNat 64 (r.elem.getD 0), line := r.line,
    word := r.word, beats := 0 }

/-- Every reply of a slot that holds the freeze is abandoned. -/
def Slot.abandon (x : Slot) : Slot :=
  let gone := x.v.inflight.filter x.owes
  gone.foldl (fun (y : Slot) r => y.hold r.abandoned)
    { x with v := { x.v with inflight := x.v.inflight.filter (fun r => !x.owes r) } }
def Core.abandon (x : Core) : Core :=
  { x with slots := x.slots.map (fun (k, y) => (k, if x.holdsFreeze k then y.abandon else y)) }

/-- FREEZE_WATCHDOG_EXPIRY (R390). -/
def execFreezeWatchdogExpiry (core : Nat) (s : State) : Out :=
  .next (
    let x := s.core core
    match x.frz.since with
    | some b =>
      if b + 2 ^ (10 + x.frz.limit.toNat) ≤ s.cycle then
        (s.setCore core x.abandon).thawed core
      else s
    | none => s)

/-! ## The units -/

/-- UNITS_PASS: the units are free, or the owner's offer or a gleaning owner lets them pass (R134). -/
def execUnitsPass (core : Nat) (s : State) : Out :=
  .next (s.passUnits core (fun x => x.offered || x.displaced))
/-- UNIT_IDLE_EXPIRY (R134, condition 2). -/
def execUnitIdleExpiry (core : Nat) (s : State) : Out := .next (s.passUnits core (fun x => x.idle64 s.cycle))
/-- UNIT_HOLD_EXPIRY (R134, condition 3). -/
def execUnitHoldExpiry (core : Nat) (s : State) : Out := .next (s.passUnits core (fun x => x.held4096 s.cycle))

/-- GLEANING_DRAIN_TIMEOUT (R135). -/
def execGleaningDrainTimeout (core : Nat) (s : State) : Out :=
  .next (
    let x := s.core core
    match x.units.askedAt with
    | some t =>
      if x.frz.since.isNone && x.units.valid && x.displaced && !x.drained && decide (t + 65536 ≤ s.cycle) &&
          (x.slot x.units.owner).phase == .running then
        s.tryStop core x.units.owner false
      else s
    | none => s)

/-! ## The controllers -/

/-- WRITE_QUEUE_DRAIN (R255). -/
def execWriteQueueDrain (ctrl : Nat) (s : State) : Out := .next { s with dram := s.dram.drainOldest ctrl }

/-- COUNT_PERIOD_CLEAR (R248, R250): never while PERIOD is 0. (DEDUCED, log 18) -/
def execCountPeriodClear (part : Nat) (s : State) : Out :=
  .next (if fieldNat (s.part part).hotcfg 0 16 = 0 then s
    else { s with dram := { s.dram with counts := s.dram.counts.filter (fun (_, p, _) => p != part) } })

def chansOf (ctrl : Nat) : Nat := if ctrl < 8 then 32 else if ctrl < 16 then 16 else 0

/-- One CRC error more on a lane of a stack; the 16th asks for its repair, or with no spare left fences the channel. (DESIGN CHOICE, log 19) -/
def Dram.laneError (d : Dram) (ctrl ch lane : Nat) : Dram :=
  let n := chanNo ctrl ch
  let x := d.chan n
  let e := Tbl.get 0 x.lanes lane + 1
  let d := d.updChan n (fun x => { x with lanes := Tbl.set x.lanes lane e })
  if e = 16 then
    if x.spares.getD Config.spareLanes = 0 then d.fence ctrl ch
    else d.updChan n (fun x => { x with repair := x.repair ++ [lane] })
  else d

/-- CRC_REPLAY (R256): an error on a burst, whose replay is then outstanding, or, where one of the lane is, that replay's end.
Silo channels count no lanes; a further error in the replay fences the channel. (DESIGN CHOICE, log 19) -/
def execCrcReplay (ctrl channel lane : Nat) (again : Bool) (s : State) : Out :=
  .next (
    let n := chanNo ctrl channel
    if chansOf ctrl ≤ channel ∨ (s.dram.chan n).fenced then s
    else if (s.dram.chan n).replays.contains lane then
      let d := s.dram.updChan n (fun x => { x with replays := x.replays.erase lane })
      { s with dram := if again then d.fence ctrl channel else d }
    else
      let d := if ctrl < 8 then s.dram.laneError ctrl channel lane else s.dram
      { s with dram := if again then d.fence ctrl channel else d.updChan n (fun x => { x with replays := x.replays ++ [lane] }) })

/-- LANE_REPAIR (R256): a lane that waits for its repair is repaired in a quiet window. -/
def execLaneRepair (ctrl channel lane : Nat) (s : State) : Out :=
  .next (
    let n := chanNo ctrl channel
    if channel < chansOf ctrl ∧ (s.dram.chan n).repair.contains lane then
      { s with dram := (s.dram.updChan n (fun x => { x with repair := lane :: x.repair.erase lane })).window ctrl channel }
    else s)

/-- PATROL_SCRUB_READ (R257): the stored line is resolved under the key it was written with. (DEDUCED, log 17) -/
def execPatrolScrubRead (line : Nat) (s : State) : Out :=
  .next (
    let pa := line * 64
    if (tierOf pa).isNone ∨ s.dram.fenced pa then s
    else { s with dram := (s.dram.resolve pa (Tbl.get (0, 0) s.dram.lineKey line).1).1 })

/-- A controller's oldest memory event record enters the event queue of the firmware while that has room (R251, R422). (DESIGN CHOICE, log 20) -/
def State.sendRecord (s : State) : State :=
  let p := s.part 0
  if p.hsize ≠ 0 ∧ 256 ≤ p.events.length then s
  else
    match s.dram.events.find? (fun (_, rs) => !rs.isEmpty) with
    | some (c, r :: rs) => State.event { s with dram := { s.dram with events := Tbl.set s.dram.events c rs } } 0 17 0 0 r.1 r.2
    | some (_, []) | none => s

end Sys2Proof.Machine
end

