-- ==== Sys2Proof/Machine/Unblock.lean ====
section
/-! DEFINITION. The resumption of a blocked stream (R27, R38): the instruction, transfer or line at which it stands is
tried again. -/

namespace Sys2Proof.Machine

/-- The meaning of an encodable instruction, once more. -/
def reissue (i : Instr) (s : State) : Out :=
  match i with
  | .add g d a b => execAdd g d a b s
  | .addShortReg d a b => execAddShortReg d a b s
  | .addShortImm d a i => execAddShortImm d a i s
  | .addShortB d i => execAddShortB d i s
  | .sub g d a b => execSub g d a b s
  | .subShortReg d a b => execSubShortReg d a b s
  | .mul g d a b => execMul g d a b s
  | .mulShortReg d a b => execMulShortReg d a b s
  | .mulh g d a b => execMulh g d a b s
  | .mulhu g d a b => execMulhu g d a b s
  | .div g d a b => execDiv g d a b s
  | .divu g d a b => execDivu g d a b s
  | .rem g d a b => execRem g d a b s
  | .remu g d a b => execRemu g d a b s
  | .and g d a b => execAnd g d a b s
  | .andShortReg d a b => execAndShortReg d a b s
  | .andShortImm d a i => execAndShortImm d a i s
  | .or g d a b => execOr g d a b s
  | .orShortReg d a b => execOrShortReg d a b s
  | .orShortImm d a i => execOrShortImm d a i s
  | .xor g d a b => execXor g d a b s
  | .xorShortReg d a b => execXorShortReg d a b s
  | .xorShortImm d a i => execXorShortImm d a i s
  | .andn g d a b => execAndn g d a b s
  | .shl g d a b => execShl g d a b s
  | .shlShortReg d a b => execShlShortReg d a b s
  | .shlShortImm d a i => execShlShortImm d a i s
  | .shr g d a b => execShr g d a b s
  | .shrShortReg d a b => execShrShortReg d a b s
  | .shrShortImm d a i => execShrShortImm d a i s
  | .sra g d a b => execSra g d a b s
  | .sraShortReg d a b => execSraShortReg d a b s
  | .sraShortImm d a i => execSraShortImm d a i s
  | .rotl g d a b => execRotl g d a b s
  | .rotr g d a b => execRotr g d a b s
  | .clz g d a => execClz g d a s
  | .ctz g d a => execCtz g d a s
  | .popc g d a => execPopc g d a s
  | .bfx g d a f => execBfx g d a f s
  | .bfi g d a f => execBfi g d a f s
  | .movi g hi zx d w => execMovi g hi zx d w s
  | .moviShort d i => execMoviShort d i s
  | .lea g sh d a b => execLea g sh d a b s
  | .min g d a b => execMin g d a b s
  | .minShortReg d a b => execMinShortReg d a b s
  | .max g d a b => execMax g d a b s
  | .maxShortReg d a b => execMaxShortReg d a b s
  | .minu g d a b => execMinu g d a b s
  | .maxu g d a b => execMaxu g d a b s
  | .cmp g cond d a b => execCmp g cond d a b s
  | .sel g pm d a b => execSel g pm d a b s
  | .plog g table d a b => execPlog g table d a b s
  | .nop => execNop s
  | .br g off => execBr g off s
  | .brShort i => execBrShort i s
  | .brx g a off => execBrx g a off s
  | .call g d off => execCall g d off s
  | .callShort d i => execCallShort d i s
  | .callx g d a off => execCallx g d a off s
  | .ret g a => execRet g a s
  | .loop g s1 n => execLoop g s1 n s
  | .bloop g off => execBloop g off s
  | .bloopShort i => execBloopShort i s
  | .fwait g f lit v => execFwait g f lit v s
  | .fwaitShort f v => execFwaitShort f v s
  | .fsig g f lit v => execFsig g f lit v s
  | .fsigShort f v => execFsigShort f v s
  | .fset g f lit v => execFset g f lit v s
  | .fread g d f => execFread g d f s
  | .waitb g lit n => execWaitb g lit n s
  | .shalt g f => execShalt g f s
  | .vadd x => execVadd x s
  | .vaddBf16Short d a b => execVaddBf16Short d a b s
  | .vaddFp32Short d a b => execVaddFp32Short d a b s
  | .vsub x => execVsub x s
  | .vsubBf16Short d a b => execVsubBf16Short d a b s
  | .vmul x => execVmul x s
  | .vmulBf16Short d a b => execVmulBf16Short d a b s
  | .vmulFp32Short d a b => execVmulFp32Short d a b s
  | .fma x => execFma x s
  | .fmaBf16Short d a b => execFmaBf16Short d a b s
  | .fmaFp32Short d a b => execFmaFp32Short d a b s
  | .fms x => execFms x s
  | .fnma x => execFnma x s
  | .vmin x => execVmin x s
  | .vminBf16Short d a b => execVminBf16Short d a b s
  | .vmax x => execVmax x s
  | .vmaxBf16Short d a b => execVmaxBf16Short d a b s
  | .vminnum x => execVminnum x s
  | .vmaxnum x => execVmaxnum x s
  | .vabs x => execVabs x s
  | .vneg x => execVneg x s
  | .vand x => execVand x s
  | .vor x => execVor x s
  | .vxor x => execVxor x s
  | .vshl x => execVshl x s
  | .vshr x => execVshr x s
  | .vsra x => execVsra x s
  | .vcmp x => execVcmp x s
  | .vsel x => execVsel x s
  | .vmov x => execVmov x s
  | .vmovBf16Short d a => execVmovBf16Short d a s
  | .vdiv x => execVdiv x s
  | .vsqrt x => execVsqrt x s
  | .vrotRow g ty mask d a n => execVrotRow g ty mask d a n s
  | .vrotCol g ty mask d a n => execVrotCol g ty mask d a n s
  | .vbcastRow g ty mask d a n => execVbcastRow g ty mask d a n s
  | .vbcastCol g ty mask d a n => execVbcastCol g ty mask d a n s
  | .vredRow g ty round mask d a fn => execVredRow g ty round mask d a fn s
  | .vredCol g ty round mask d a fn => execVredCol g ty round mask d a fn s
  | .vcvt g round mask d a fmts => execVcvt g round mask d a fmts s
  | .vpack g round mask d a fmts => execVpack g round mask d a fmts s
  | .vunpk g mask d a fmts => execVunpk g mask d a fmts s
  | .vrgn g first count => execVrgn g first count s
  | .vyield g => execVyield g s
  | .kand g d a b => execKand g d a b s
  | .kor g d a b => execKor g d a b s
  | .kxor g d a b => execKxor g d a b s
  | .kandn g d a b => execKandn g d a b s
  | .kfill g d x => execKfill g d x s
  | .mpset g sel v => execMpset g sel v s
  | .mm g bank ovw sig => execMm g bank ovw sig s
  | .mmg g bank ovw sig => execMmg g bank ovw sig s
  | .acrd x int lay => execAcrd x int lay s
  | .acclr g bank sig => execAcclr g bank sig s
  | .accvt x round fmt => execAccvt x round fmt s
  | .mscl g tabB q => execMscl g tabB q s
  | .mprog g => execMprog g s
  | .ld g size d a off => execLd g size d a off s
  | .st g size d a off => execSt g size d a off s
  | .vld g w mask d imm => execVld g w mask d imm s
  | .vst g w mask d imm => execVst g w mask d imm s
  | .vstQ g w q a fmt => execVstQ g w q a fmt s
  | .fence g scope pred succ => execFence g scope pred succ s
  | .amo g op acq rel scope d a b => execAmo g op acq rel scope d a b s
  | .cas g acq rel scope d a b c => execCas g acq rel scope d a b c s
  | .vamo g op ret mask d a b => execVamo g op ret mask d a b s
  | .marm g d a off => execMarm g d a off s
  | .mwait g ne d b => execMwait g ne d b s
  | .dset g d w b => execDset g d w b s
  | .drld g all d => execDrld g all d s
  | .sstart g cls line => execSstart g cls line s
  | .sstop g cls sig => execSstop g cls sig s
  | .qput g q d n => execQput g q d n s
  | .qget g d q n => execQget g d q n s
  | .wadv g d b => execWadv g d b s
  | .unfold g d b => execUnfold g d b s
  | .pswap g => execPswap g s
  | .talloc g win d n size key => execTalloc g win d n size key s
  | .tfree g n => execTfree g n s
  | .tsetFill g n => execTsetFill g n s
  | .tsetFillfor g n b => execTsetFillfor g n b s
  | .tsetDrain g n => execTsetDrain g n s
  | .tsetAbort g n => execTsetAbort g n s
  | .tsetAdv g n => execTsetAdv g n s
  | .tsetOrg g n b => execTsetOrg g n b s
  | .tsetWstep g n b => execTsetWstep g n b s
  | .tsetKey g n b => execTsetKey g n b s
  | .tqry g d n w => execTqry g d n w s
  | .tpost g scope n => execTpost g scope n s
  | .trot g dn dst src mask sig => execTrot g dn dst src mask sig s
  | .tres g d a core => execTres g d a core s
  | .taddr g d n b core => execTaddr g d n b core s
  | .enq g d a => execEnq g d a s
  | .enqnb g d a => execEnqnb g d a s
  | .split g d a n => execSplit g d a n s
  | .srad g b => execSrad g b s
  | .retire g => execRetire g s
  | .yield g d => execYield g d s
  | .glaunch g d a => execGlaunch g d a s
  | .dbar g nw d => execDbar g nw d s
  | .pin g d a m => execPin g d a m s
  | .glean g d a => execGlean g d a s
  | .copy g d t src dst => execCopy g d t src dst s
  | .tmplw g t w b => execTmplw g t w b s
  | .swait g d t b => execSwait g d t b s
  | .nmc g d a => execNmc g d a s
  | .nmfence g d => execNmfence g d s
  | .arm g d a b => execArm g d a b s
  | .disarm g d a => execDisarm g d a s
  | .crd g d a => execCrd g d a s
  | .cadd g d a b => execCadd g d a b s
  | .cwait g d a b => execCwait g d a b s
  | .send g d a => execSend g d a s
  | .hret g n => execHret g n s
  | .rsalloc g d a => execRsalloc g d a s
  | .rscon g d a b c => execRscon g d a b c s
  | .rsclose g drop d a => execRsclose g drop d a s
  | .tsrd g sel d => execTsrd g sel d s
  | .trap g n => execTrap g n s
  | .tret g skip => execTret g skip s
  | .sysrd g d sel => execSysrd g d sel s
  | .syswr g a sel => execSyswr g a sel s
  | .ppoint g d m => execPpoint g d m s
  | .xinv g d a b => execXinv g d a b s
  | .partStop g d a => execPartStop g d a s
  | .partRelease g d a => execPartRelease g d a s
  | .partReset g d a => execPartReset g d a s
  | .partRequest g d a => execPartRequest g d a s
  | .cryoQuery g d a => execCryoQuery g d a s
  | .cryoCool g d a => execCryoCool g d a s
  | .cryoWarm g d a => execCryoWarm g d a s
  | .cryoForceRetreat g d a => execCryoForceRetreat g d a s
  | .cryoReleaseRetreat g d a => execCryoReleaseRetreat g d a s
  | .cryoClearRatev g d a => execCryoClearRatev g d a s
  | _ => .next s

/-- The state of a meaning's answer; every meaning of this machine answers a next state. -/
def outState (s : State) : Out → State
  | .next t => t
  | .fault _ | .refused _ => s

/-- Words that a word's form takes (R45). -/
def formLength (w : Word) : Nat :=
  match fieldNat w 0 2 with
  | 0 | 1 => 1
  | 2 => 2
  | _ => 3

/-- An opcode that only firmware partition 0 may issue: XINV, PART, CRYO (R398). -/
def firmwareOpc (w : Word) : Bool := w.getLsbD 1 && decide (0x3A5 ≤ fieldNat w 2 10) && decide (fieldNat w 2 10 ≤ 0x3A7)

/-- The sub-cause of R61 in the stream at hand: in a tenant's, an opcode of firmware's is not permitted, and that code is
lower than one for a field. -/
def State.illegalSub (s : State) (a : Agent) (n : Nat) : Nat :=
  if firmwareOpc ((s.wordsAt a).headD 0) && s.partOf a != 0 then min n 3 else n

/-- An instruction word that encodes nothing for its stream (R61, R62); one that TRET.skip passes over only issues (R387). (DEDUCED, log 21) -/
def State.illegal (s : State) (a : Agent) (n : Nat) : State :=
  if (s.strm a).skip then s.advance a (formLength ((s.wordsAt a).headD 0)) else s.raise a (Exc.of 1 (s.illegalSub a n))

/-- What stands at a stream's place, tried again: its transfer, the line that it reaches, its instruction. -/
def State.retry (s : State) (a : Agent) : State :=
  let t := s.strm a
  if t.xfer.isSome then outState s (execTransferRowset a s)
  else if t.word = 0 ∨ 16 ≤ t.word then outState s (execLineAdvance a s)
  else
    match s.decodeAt a with
    | .ok i => outState s (reissue i s)
    | .error n => s.illegal a n

/-- The stream may not issue now for want of the units, or of a reply due at its next beat (R132, R388). -/
def State.mayNot (s : State) (a : Agent) : Bool :=
  match a with
  | .strm c k cls =>
    ((cls == .vec || cls == .mat) && !(s.core c).owns k) || (cls == .vec && (s.slot c k).v.inflight.any (fun r =>
      decide (r.due ≤ (s.slot c k).v.beat) && !r.arrived))
  | .thread _ => false

/-- STREAM_UNBLOCK (R38): a blocked stream resumes once its condition holds. A vector or matrix stream without the units
is then no longer blocked, and its slot requests them (R132); a line's wait that has held is over (R42). A draining vector
stream halts once every reply has come (R130). -/
def execStreamUnblock (a : Agent) (s : State) : Out :=
  .next (match (s.strm a).mode with
    | .halted | .running => s
    | .draining sigs =>
      if (s.own a).v.inflight.any (fun r => !r.arrived) then s
      else s.updOwn a (fun x => Slot.haltStream (x.setStrm .vec { x.vec with mode := .running }) .vec sigs)
    | .blocked =>
      let t := State.retry { s with agent := a } a
      if s.mayNot a then
        (if (t.strm a).mode = .blocked then { s with xl := t.xl }
         else s.updStrm a (fun u => { u with mode := .running, passed := (t.strm a).passed }))
      else t)

/-! ## Asynchronous traps (R381) -/

/-- The stream may issue with the units (R132, R134, R137): its slot owns them, and they are not due to pass. -/
def Core.mayIssue (x : Core) (k : Nat) (cls : Cls) (now : Nat) : Bool :=
  if cls = .vec ∨ cls = .mat then x.owns k && decide (x.units.since + 4 ≤ now) && !x.passDue now else true

/-- The place of a stream's synchronous traps in the order of R381. -/
def trapOrder : Cls → Nat
  | .ctl => 3 | .vec => 4 | .mat => 5 | .ldr => 6 | .str => 7 | .net => 9

/-- What a vector or matrix stream does without the units, since it issues nothing and takes no beat: it reaches a line and tests
its wait, or passes a NOP (R42, R43). -/
def State.noBeat (s : State) (a : Agent) : Bool :=
  let t := s.strm a
  t.mode == .running && t.xfer.isNone && (!t.inLine || (!t.skip && (s.wordsAt a).headD 0 == 0))

/-- The stream could go on in the present core cycle. -/
def State.couldIssue (s : State) (c k : Nat) (cls : Cls) : Bool :=
  (s.noBeat (.strm c k cls) || ((s.core c).mayIssue k cls s.cycle && !(cls == .vec && (s.slot c k).late))) &&
    (match ((s.slot c k).strm cls).mode with
     | .running | .blocked => true
     | .halted | .draining _ => false)

/-- Stops that the firmware has been told of (R380). -/
def State.stopsTold (s : State) : Nat := ((s.part 0).events.filter (fun e => e.kind == 16)).length + (s.part 0).lost

/-- A synchronous trap of the slot that falls due in the present core cycle, before one of rank `r` (R381): the machine as it
takes it. -/
def State.syncFirst (s : State) (c k r : Nat) : Option State :=
  [Cls.ctl, .vec, .mat, .ldr, .str].findSome? (fun cls =>
    if trapOrder cls < r ∧ trapOrder (agentCls s.agent) ≤ trapOrder cls ∧ s.couldIssue c k cls then
      let t := State.retry { s with agent := .strm c k cls } (.strm c k cls)
      if (t.slot c k).trap.intrap ∨ s.stopsTold < t.stopsTold then some t else none
    else none)

/-- ASYNC_TRAP_DELIVERY (R381, R389); a stop that was put off is made first (R397). -/
def execAsyncTrapDelivery (core slot : Nat) (s : State) : Out :=
  .next (
    let x := s.slot core slot
    match (if s.stopWaits core slot then none else x.stopping) with
    | some w => s.tryStop core slot w.held
    | none =>
      match x.holdDue.trap.pend with
      | [] => s
      | h :: _ =>
        if x.phase ≠ .running ∨ x.trap.intrap then s
        else
          match s.syncFirst core slot h.rank with
          | some t => t
          | none => s.asyncTrap core slot)

end Sys2Proof.Machine
end

