-- ==== Sys2Proof/Machine/Dispatch.lean ====
section
/-! DEFINITION. One arm per constructor of Instr: its meaning. -/

namespace Sys2Proof.Machine

def exec (i : Instr) (s : State) : Host.Outcome State Fault Refusal :=
  match i with
  | .add g d a b => Sys2Proof.Machine.execAdd g d a b s
  | .addShortReg d a b => Sys2Proof.Machine.execAddShortReg d a b s
  | .addShortImm d a imm => Sys2Proof.Machine.execAddShortImm d a imm s
  | .addShortB d imm => Sys2Proof.Machine.execAddShortB d imm s
  | .sub g d a b => Sys2Proof.Machine.execSub g d a b s
  | .subShortReg d a b => Sys2Proof.Machine.execSubShortReg d a b s
  | .mul g d a b => Sys2Proof.Machine.execMul g d a b s
  | .mulShortReg d a b => Sys2Proof.Machine.execMulShortReg d a b s
  | .mulh g d a b => Sys2Proof.Machine.execMulh g d a b s
  | .mulhu g d a b => Sys2Proof.Machine.execMulhu g d a b s
  | .div g d a b => Sys2Proof.Machine.execDiv g d a b s
  | .divu g d a b => Sys2Proof.Machine.execDivu g d a b s
  | .rem g d a b => Sys2Proof.Machine.execRem g d a b s
  | .remu g d a b => Sys2Proof.Machine.execRemu g d a b s
  | .and g d a b => Sys2Proof.Machine.execAnd g d a b s
  | .andShortReg d a b => Sys2Proof.Machine.execAndShortReg d a b s
  | .andShortImm d a imm => Sys2Proof.Machine.execAndShortImm d a imm s
  | .or g d a b => Sys2Proof.Machine.execOr g d a b s
  | .orShortReg d a b => Sys2Proof.Machine.execOrShortReg d a b s
  | .orShortImm d a imm => Sys2Proof.Machine.execOrShortImm d a imm s
  | .xor g d a b => Sys2Proof.Machine.execXor g d a b s
  | .xorShortReg d a b => Sys2Proof.Machine.execXorShortReg d a b s
  | .xorShortImm d a imm => Sys2Proof.Machine.execXorShortImm d a imm s
  | .andn g d a b => Sys2Proof.Machine.execAndn g d a b s
  | .shl g d a b => Sys2Proof.Machine.execShl g d a b s
  | .shlShortReg d a b => Sys2Proof.Machine.execShlShortReg d a b s
  | .shlShortImm d a imm => Sys2Proof.Machine.execShlShortImm d a imm s
  | .shr g d a b => Sys2Proof.Machine.execShr g d a b s
  | .shrShortReg d a b => Sys2Proof.Machine.execShrShortReg d a b s
  | .shrShortImm d a imm => Sys2Proof.Machine.execShrShortImm d a imm s
  | .sra g d a b => Sys2Proof.Machine.execSra g d a b s
  | .sraShortReg d a b => Sys2Proof.Machine.execSraShortReg d a b s
  | .sraShortImm d a imm => Sys2Proof.Machine.execSraShortImm d a imm s
  | .rotl g d a b => Sys2Proof.Machine.execRotl g d a b s
  | .rotr g d a b => Sys2Proof.Machine.execRotr g d a b s
  | .clz g d a => Sys2Proof.Machine.execClz g d a s
  | .ctz g d a => Sys2Proof.Machine.execCtz g d a s
  | .popc g d a => Sys2Proof.Machine.execPopc g d a s
  | .bfx g d a f => Sys2Proof.Machine.execBfx g d a f s
  | .bfi g d a f => Sys2Proof.Machine.execBfi g d a f s
  | .movi g hi zx d w => Sys2Proof.Machine.execMovi g hi zx d w s
  | .moviShort d imm => Sys2Proof.Machine.execMoviShort d imm s
  | .lea g sh d a b => Sys2Proof.Machine.execLea g sh d a b s
  | .min g d a b => Sys2Proof.Machine.execMin g d a b s
  | .minShortReg d a b => Sys2Proof.Machine.execMinShortReg d a b s
  | .max g d a b => Sys2Proof.Machine.execMax g d a b s
  | .maxShortReg d a b => Sys2Proof.Machine.execMaxShortReg d a b s
  | .minu g d a b => Sys2Proof.Machine.execMinu g d a b s
  | .maxu g d a b => Sys2Proof.Machine.execMaxu g d a b s
  | .cmp g cond d a b => Sys2Proof.Machine.execCmp g cond d a b s
  | .sel g pm d a b => Sys2Proof.Machine.execSel g pm d a b s
  | .plog g table d a b => Sys2Proof.Machine.execPlog g table d a b s
  | .nop => Sys2Proof.Machine.execNop s
  | .br g off => Sys2Proof.Machine.execBr g off s
  | .brShort imm => Sys2Proof.Machine.execBrShort imm s
  | .brx g a off => Sys2Proof.Machine.execBrx g a off s
  | .call g d off => Sys2Proof.Machine.execCall g d off s
  | .callShort d imm => Sys2Proof.Machine.execCallShort d imm s
  | .callx g d a off => Sys2Proof.Machine.execCallx g d a off s
  | .ret g a => Sys2Proof.Machine.execRet g a s
  | .loop g s1 n => Sys2Proof.Machine.execLoop g s1 n s
  | .bloop g off => Sys2Proof.Machine.execBloop g off s
  | .bloopShort imm => Sys2Proof.Machine.execBloopShort imm s
  | .fwait g f lit v => Sys2Proof.Machine.execFwait g f lit v s
  | .fwaitShort f v => Sys2Proof.Machine.execFwaitShort f v s
  | .fsig g f lit v => Sys2Proof.Machine.execFsig g f lit v s
  | .fsigShort f v => Sys2Proof.Machine.execFsigShort f v s
  | .fset g f lit v => Sys2Proof.Machine.execFset g f lit v s
  | .fread g d f => Sys2Proof.Machine.execFread g d f s
  | .waitb g lit n => Sys2Proof.Machine.execWaitb g lit n s
  | .shalt g f => Sys2Proof.Machine.execShalt g f s
  | .vadd x => Sys2Proof.Machine.execVadd x s
  | .vaddBf16Short d a b => Sys2Proof.Machine.execVaddBf16Short d a b s
  | .vaddFp32Short d a b => Sys2Proof.Machine.execVaddFp32Short d a b s
  | .vsub x => Sys2Proof.Machine.execVsub x s
  | .vsubBf16Short d a b => Sys2Proof.Machine.execVsubBf16Short d a b s
  | .vmul x => Sys2Proof.Machine.execVmul x s
  | .vmulBf16Short d a b => Sys2Proof.Machine.execVmulBf16Short d a b s
  | .vmulFp32Short d a b => Sys2Proof.Machine.execVmulFp32Short d a b s
  | .fma x => Sys2Proof.Machine.execFma x s
  | .fmaBf16Short d a b => Sys2Proof.Machine.execFmaBf16Short d a b s
  | .fmaFp32Short d a b => Sys2Proof.Machine.execFmaFp32Short d a b s
  | .fms x => Sys2Proof.Machine.execFms x s
  | .fnma x => Sys2Proof.Machine.execFnma x s
  | .vmin x => Sys2Proof.Machine.execVmin x s
  | .vminBf16Short d a b => Sys2Proof.Machine.execVminBf16Short d a b s
  | .vmax x => Sys2Proof.Machine.execVmax x s
  | .vmaxBf16Short d a b => Sys2Proof.Machine.execVmaxBf16Short d a b s
  | .vminnum x => Sys2Proof.Machine.execVminnum x s
  | .vmaxnum x => Sys2Proof.Machine.execVmaxnum x s
  | .vabs x => Sys2Proof.Machine.execVabs x s
  | .vneg x => Sys2Proof.Machine.execVneg x s
  | .vand x => Sys2Proof.Machine.execVand x s
  | .vor x => Sys2Proof.Machine.execVor x s
  | .vxor x => Sys2Proof.Machine.execVxor x s
  | .vshl x => Sys2Proof.Machine.execVshl x s
  | .vshr x => Sys2Proof.Machine.execVshr x s
  | .vsra x => Sys2Proof.Machine.execVsra x s
  | .vcmp x => Sys2Proof.Machine.execVcmp x s
  | .vsel x => Sys2Proof.Machine.execVsel x s
  | .vmov x => Sys2Proof.Machine.execVmov x s
  | .vmovBf16Short d a => Sys2Proof.Machine.execVmovBf16Short d a s
  | .vdiv x => Sys2Proof.Machine.execVdiv x s
  | .vsqrt x => Sys2Proof.Machine.execVsqrt x s
  | .vrotRow g ty mask d a n => Sys2Proof.Machine.execVrotRow g ty mask d a n s
  | .vrotCol g ty mask d a n => Sys2Proof.Machine.execVrotCol g ty mask d a n s
  | .vbcastRow g ty mask d a n => Sys2Proof.Machine.execVbcastRow g ty mask d a n s
  | .vbcastCol g ty mask d a n => Sys2Proof.Machine.execVbcastCol g ty mask d a n s
  | .vredRow g ty round mask d a fn => Sys2Proof.Machine.execVredRow g ty round mask d a fn s
  | .vredCol g ty round mask d a fn => Sys2Proof.Machine.execVredCol g ty round mask d a fn s
  | .vcvt g round mask d a fmts => Sys2Proof.Machine.execVcvt g round mask d a fmts s
  | .vpack g round mask d a fmts => Sys2Proof.Machine.execVpack g round mask d a fmts s
  | .vunpk g mask d a fmts => Sys2Proof.Machine.execVunpk g mask d a fmts s
  | .vrgn g first count => Sys2Proof.Machine.execVrgn g first count s
  | .vyield g => Sys2Proof.Machine.execVyield g s
  | .kand g d a b => Sys2Proof.Machine.execKand g d a b s
  | .kor g d a b => Sys2Proof.Machine.execKor g d a b s
  | .kxor g d a b => Sys2Proof.Machine.execKxor g d a b s
  | .kandn g d a b => Sys2Proof.Machine.execKandn g d a b s
  | .kfill g d x => Sys2Proof.Machine.execKfill g d x s
  | .mpset g sel v => Sys2Proof.Machine.execMpset g sel v s
  | .mm g bank ovw sig => Sys2Proof.Machine.execMm g bank ovw sig s
  | .mmg g bank ovw sig => Sys2Proof.Machine.execMmg g bank ovw sig s
  | .acrd x int lay => Sys2Proof.Machine.execAcrd x int lay s
  | .acclr g bank sig => Sys2Proof.Machine.execAcclr g bank sig s
  | .accvt x round fmt => Sys2Proof.Machine.execAccvt x round fmt s
  | .mscl g tabB q => Sys2Proof.Machine.execMscl g tabB q s
  | .mprog g => Sys2Proof.Machine.execMprog g s
  | .ld g size d a off => Sys2Proof.Machine.execLd g size d a off s
  | .st g size d a off => Sys2Proof.Machine.execSt g size d a off s
  | .vld g w mask d imm => Sys2Proof.Machine.execVld g w mask d imm s
  | .vst g w mask d imm => Sys2Proof.Machine.execVst g w mask d imm s
  | .vstQ g w q a fmt => Sys2Proof.Machine.execVstQ g w q a fmt s
  | .fence g scope pred succ => Sys2Proof.Machine.execFence g scope pred succ s
  | .amo g op acq rel scope d a b => Sys2Proof.Machine.execAmo g op acq rel scope d a b s
  | .cas g acq rel scope d a b c => Sys2Proof.Machine.execCas g acq rel scope d a b c s
  | .vamo g op ret mask d a b => Sys2Proof.Machine.execVamo g op ret mask d a b s
  | .marm g d a off => Sys2Proof.Machine.execMarm g d a off s
  | .mwait g ne d b => Sys2Proof.Machine.execMwait g ne d b s
  | .dset g d w b => Sys2Proof.Machine.execDset g d w b s
  | .drld g all d => Sys2Proof.Machine.execDrld g all d s
  | .sstart g cls line => Sys2Proof.Machine.execSstart g cls line s
  | .sstop g cls sig => Sys2Proof.Machine.execSstop g cls sig s
  | .qput g q d n => Sys2Proof.Machine.execQput g q d n s
  | .qget g d q n => Sys2Proof.Machine.execQget g d q n s
  | .wadv g d b => Sys2Proof.Machine.execWadv g d b s
  | .unfold g d b => Sys2Proof.Machine.execUnfold g d b s
  | .pswap g => Sys2Proof.Machine.execPswap g s
  | .talloc g win d n size key => Sys2Proof.Machine.execTalloc g win d n size key s
  | .tfree g n => Sys2Proof.Machine.execTfree g n s
  | .tsetFill g n => Sys2Proof.Machine.execTsetFill g n s
  | .tsetFillfor g n b => Sys2Proof.Machine.execTsetFillfor g n b s
  | .tsetDrain g n => Sys2Proof.Machine.execTsetDrain g n s
  | .tsetAbort g n => Sys2Proof.Machine.execTsetAbort g n s
  | .tsetAdv g n => Sys2Proof.Machine.execTsetAdv g n s
  | .tsetOrg g n b => Sys2Proof.Machine.execTsetOrg g n b s
  | .tsetWstep g n b => Sys2Proof.Machine.execTsetWstep g n b s
  | .tsetKey g n b => Sys2Proof.Machine.execTsetKey g n b s
  | .tqry g d n w => Sys2Proof.Machine.execTqry g d n w s
  | .tpost g scope n => Sys2Proof.Machine.execTpost g scope n s
  | .trot g dn dst src mask sig => Sys2Proof.Machine.execTrot g dn dst src mask sig s
  | .tres g d a core => Sys2Proof.Machine.execTres g d a core s
  | .taddr g d n b core => Sys2Proof.Machine.execTaddr g d n b core s
  | .enq g d a => Sys2Proof.Machine.execEnq g d a s
  | .enqnb g d a => Sys2Proof.Machine.execEnqnb g d a s
  | .split g d a n => Sys2Proof.Machine.execSplit g d a n s
  | .srad g b => Sys2Proof.Machine.execSrad g b s
  | .retire g => Sys2Proof.Machine.execRetire g s
  | .yield g d => Sys2Proof.Machine.execYield g d s
  | .glaunch g d a => Sys2Proof.Machine.execGlaunch g d a s
  | .dbar g nw d => Sys2Proof.Machine.execDbar g nw d s
  | .pin g d a m => Sys2Proof.Machine.execPin g d a m s
  | .glean g d a => Sys2Proof.Machine.execGlean g d a s
  | .copy g d t src dst => Sys2Proof.Machine.execCopy g d t src dst s
  | .tmplw g t w b => Sys2Proof.Machine.execTmplw g t w b s
  | .swait g d t b => Sys2Proof.Machine.execSwait g d t b s
  | .nmc g d a => Sys2Proof.Machine.execNmc g d a s
  | .nmfence g d => Sys2Proof.Machine.execNmfence g d s
  | .arm g d a b => Sys2Proof.Machine.execArm g d a b s
  | .disarm g d a => Sys2Proof.Machine.execDisarm g d a s
  | .crd g d a => Sys2Proof.Machine.execCrd g d a s
  | .cadd g d a b => Sys2Proof.Machine.execCadd g d a b s
  | .cwait g d a b => Sys2Proof.Machine.execCwait g d a b s
  | .send g d a => Sys2Proof.Machine.execSend g d a s
  | .hret g n => Sys2Proof.Machine.execHret g n s
  | .rsalloc g d a => Sys2Proof.Machine.execRsalloc g d a s
  | .rscon g d a b c => Sys2Proof.Machine.execRscon g d a b c s
  | .rsclose g drop d a => Sys2Proof.Machine.execRsclose g drop d a s
  | .tsrd g sel d => Sys2Proof.Machine.execTsrd g sel d s
  | .trap g n => Sys2Proof.Machine.execTrap g n s
  | .tret g skip => Sys2Proof.Machine.execTret g skip s
  | .sysrd g d sel => Sys2Proof.Machine.execSysrd g d sel s
  | .syswr g a sel => Sys2Proof.Machine.execSyswr g a sel s
  | .ppoint g d m => Sys2Proof.Machine.execPpoint g d m s
  | .xinv g d a b => Sys2Proof.Machine.execXinv g d a b s
  | .partStop g d a => Sys2Proof.Machine.execPartStop g d a s
  | .partRelease g d a => Sys2Proof.Machine.execPartRelease g d a s
  | .partReset g d a => Sys2Proof.Machine.execPartReset g d a s
  | .partRequest g d a => Sys2Proof.Machine.execPartRequest g d a s
  | .cryoQuery g d a => Sys2Proof.Machine.execCryoQuery g d a s
  | .cryoCool g d a => Sys2Proof.Machine.execCryoCool g d a s
  | .cryoWarm g d a => Sys2Proof.Machine.execCryoWarm g d a s
  | .cryoForceRetreat g d a => Sys2Proof.Machine.execCryoForceRetreat g d a s
  | .cryoReleaseRetreat g d a => Sys2Proof.Machine.execCryoReleaseRetreat g d a s
  | .cryoClearRatev g d a => Sys2Proof.Machine.execCryoClearRatev g d a s
  | .lineAdvance a => Sys2Proof.Machine.execLineAdvance a s
  | .streamUnblock a => Sys2Proof.Machine.execStreamUnblock a s
  | .asyncTrapDelivery core slot => Sys2Proof.Machine.execAsyncTrapDelivery core slot s
  | .freezeStart core => Sys2Proof.Machine.execFreezeStart core s
  | .vectorReplyArrival core slot seq => Sys2Proof.Machine.execVectorReplyArrival core slot seq s
  | .freezeWatchdogExpiry core => Sys2Proof.Machine.execFreezeWatchdogExpiry core s
  | .taskBinding core slot => Sys2Proof.Machine.execTaskBinding core slot s
  | .retirementComplete core slot => Sys2Proof.Machine.execRetirementComplete core slot s
  | .launchWaitJoin part => Sys2Proof.Machine.execLaunchWaitJoin part s
  | .stealRequest core => Sys2Proof.Machine.execStealRequest core s
  | .stealAnswer thief => Sys2Proof.Machine.execStealAnswer thief s
  | .gangBinding bay => Sys2Proof.Machine.execGangBinding bay s
  | .gleaningPreemptTimeout core slot => Sys2Proof.Machine.execGleaningPreemptTimeout core slot s
  | .domainStallTimeout part level domain => Sys2Proof.Machine.execDomainStallTimeout part level domain s
  | .barrierCompletion part level domain => Sys2Proof.Machine.execBarrierCompletion part level domain s
  | .unitsPass core => Sys2Proof.Machine.execUnitsPass core s
  | .unitIdleExpiry core => Sys2Proof.Machine.execUnitIdleExpiry core s
  | .unitHoldExpiry core => Sys2Proof.Machine.execUnitHoldExpiry core s
  | .gleaningDrainTimeout core => Sys2Proof.Machine.execGleaningDrainTimeout core s
  | .transferRowset a => Sys2Proof.Machine.execTransferRowset a s
  | .planeSwap core => Sys2Proof.Machine.execPlaneSwap core s
  | .matrixStep core slot => Sys2Proof.Machine.execMatrixStep core slot s
  | .readoutRowset core slot => Sys2Proof.Machine.execReadoutRowset core slot s
  | .rotationStart bay core => Sys2Proof.Machine.execRotationStart bay core s
  | .rotationEnd bay core => Sys2Proof.Machine.execRotationEnd bay core s
  | .residencyViewUpdate die core => Sys2Proof.Machine.execResidencyViewUpdate die core s
  | .copyAdmission bay => Sys2Proof.Machine.execCopyAdmission bay s
  | .copyExecution bay eng => Sys2Proof.Machine.execCopyExecution bay eng s
  | .copyCompletion bay eng => Sys2Proof.Machine.execCopyCompletion bay eng s
  | .nmcLineUpdate stack => Sys2Proof.Machine.execNmcLineUpdate stack s
  | .translationWalkComplete u part granule => Sys2Proof.Machine.execTranslationWalkComplete u part granule s
  | .writeQueueDrain ctrl => Sys2Proof.Machine.execWriteQueueDrain ctrl s
  | .countPeriodClear part => Sys2Proof.Machine.execCountPeriodClear part s
  | .crcReplay ctrl channel lane again => Sys2Proof.Machine.execCrcReplay ctrl channel lane again s
  | .laneRepair ctrl channel lane => Sys2Proof.Machine.execLaneRepair ctrl channel lane s
  | .patrolScrubRead line => Sys2Proof.Machine.execPatrolScrubRead line s
  | .packetReceive p => Sys2Proof.Machine.execPacketReceive p s
  | .barrierArrivalMessage p => Sys2Proof.Machine.execBarrierArrivalMessage p s
  | .handlerStart part => Sys2Proof.Machine.execHandlerStart part s
  | .eventHandlerStart part => Sys2Proof.Machine.execEventHandlerStart part s
  | .handlerWatchdog t => Sys2Proof.Machine.execHandlerWatchdog t s
  | .counterAdvance msg => Sys2Proof.Machine.execCounterAdvance msg s
  | .sendAcknowledged part idx => Sys2Proof.Machine.execSendAcknowledged part idx s
  | .sendTimeout part idx => Sys2Proof.Machine.execSendTimeout part idx s
  | .reductionSlotTimeout slot => Sys2Proof.Machine.execReductionSlotTimeout slot s
  | .hringResvRead fn => Sys2Proof.Machine.execHringResvRead fn s
  | .hringCommit fn v => Sys2Proof.Machine.execHringCommit fn v s
  | .hringEnable fn v => Sys2Proof.Machine.execHringEnable fn v s
  | .hrxEnable fn v => Sys2Proof.Machine.execHrxEnable fn v s
  | .hringReset fn => Sys2Proof.Machine.execHringReset fn s
  | .hringResume fn => Sys2Proof.Machine.execHringResume fn s
  | .registerWrite fn off v => Sys2Proof.Machine.execRegisterWrite fn off v s
  | .functionLevelResetVf n => Sys2Proof.Machine.execFunctionLevelResetVf n s
  | .functionLevelResetPf0 => Sys2Proof.Machine.execFunctionLevelResetPf0 s
  | .hostNop fn => Sys2Proof.Machine.execHostNop fn s
  | .launch fn => Sys2Proof.Machine.execLaunch fn s
  | .htod fn => Sys2Proof.Machine.execHtod fn s
  | .dtoh fn => Sys2Proof.Machine.execDtoh fn s
  | .hostCadd fn => Sys2Proof.Machine.execHostCadd fn s
  | .hostArm fn => Sys2Proof.Machine.execHostArm fn s
  | .indirect fn => Sys2Proof.Machine.execIndirect fn s
  | .domain fn => Sys2Proof.Machine.execDomain fn s
  | .peer fn => Sys2Proof.Machine.execPeer fn s
  | .plane fn => Sys2Proof.Machine.execPlane fn s
  | .pcreate fn => Sys2Proof.Machine.execPcreate fn s
  | .pdestroy fn => Sys2Proof.Machine.execPdestroy fn s
  | .preset fn => Sys2Proof.Machine.execPreset fn s
  | .update fn => Sys2Proof.Machine.execUpdate fn s
  | .commandCompletion fn ticket => Sys2Proof.Machine.execCommandCompletion fn ticket s
  | .updateQuiesceTimeout => Sys2Proof.Machine.execUpdateQuiesceTimeout s
  | .firmwareWatchdogFailover => Sys2Proof.Machine.execFirmwareWatchdogFailover s
  | .moduleColdReset => Sys2Proof.Machine.execModuleColdReset s
  | .temperatureSample r => Sys2Proof.Machine.execTemperatureSample r s
  | .cryoSettleExpiry die => Sys2Proof.Machine.execCryoSettleExpiry die s
  | .timingSetChange ctrl channel => Sys2Proof.Machine.execTimingSetChange ctrl channel s
  | .limiterTick e => Sys2Proof.Machine.execLimiterTick e s
  | .telemetrySample => Sys2Proof.Machine.execTelemetrySample s
  | .translationInvalidateComplete idx => Sys2Proof.Machine.execTranslationInvalidateComplete idx s
  | .sendRetransmit part idx => Sys2Proof.Machine.execSendRetransmit part idx s
  | .ptpMessageReceive time locked master => Sys2Proof.Machine.execPtpMessageReceive time locked master s

end Sys2Proof.Machine
end

