-- ==== Sys2Proof/Machine/Turn.lean ====
section
/-! DEFINITION. What a step does around its instruction: whose turn it is, whether a stream can issue and what its turn
then brings (R25 to R28, R38, R41, R132, R137, R379, R381, R388), and the passing of time. -/

namespace Sys2Proof.Machine

/-- The rows of the opcode table without an encoding that take place in a turn of their own. Five others belong to the
turn of an agent: LINE_ADVANCE, STREAM_UNBLOCK, TRANSFER_ROWSET, ASYNC_TRAP_DELIVERY and FREEZE_START. -/
def isEvent : Instr → Bool
  | .vectorReplyArrival _ _ _ | .freezeWatchdogExpiry _ | .taskBinding _ _ | .retirementComplete _ _ | .launchWaitJoin _ | .stealRequest _
  | .stealAnswer _ | .gangBinding _ | .gleaningPreemptTimeout _ _ | .domainStallTimeout _ _ _ | .barrierCompletion _ _ _
  | .unitsPass _ | .unitIdleExpiry _ | .unitHoldExpiry _ | .gleaningDrainTimeout _ | .planeSwap _
  | .matrixStep _ _ | .readoutRowset _ _ | .rotationStart _ _ | .rotationEnd _ _ | .residencyViewUpdate _ _
  | .copyAdmission _ | .copyExecution _ _ | .copyCompletion _ _ | .nmcLineUpdate _ | .translationWalkComplete _ _ _
  | .writeQueueDrain _ | .countPeriodClear _ | .crcReplay _ _ _ _ | .laneRepair _ _ _ | .patrolScrubRead _
  | .packetReceive _ | .barrierArrivalMessage _ | .handlerStart _ | .eventHandlerStart _ | .handlerWatchdog _
  | .counterAdvance _ | .sendAcknowledged _ _ | .sendTimeout _ _ | .reductionSlotTimeout _ | .hringResvRead _
  | .hringCommit _ _ | .hringEnable _ _ | .hrxEnable _ _ | .hringReset _ | .hringResume _ | .registerWrite _ _ _
  | .functionLevelResetVf _ | .functionLevelResetPf0 | .hostNop _ | .launch _ | .htod _ | .dtoh _ | .hostCadd _
  | .hostArm _ | .indirect _ | .domain _ | .peer _ | .plane _ | .pcreate _ | .pdestroy _ | .preset _ | .update _
  | .commandCompletion _ _ | .updateQuiesceTimeout | .firmwareWatchdogFailover | .moduleColdReset | .temperatureSample _
  | .cryoSettleExpiry _ | .timingSetChange _ _ | .limiterTick _ | .telemetrySample | .translationInvalidateComplete _
  | .sendRetransmit _ _ | .ptpMessageReceive _ _ _ => true
  | _ => false

/-- What the turn of an agent brings. -/
inductive Doing where
  | nothing
  | run (i : Instr)
  | illegal (sub : Nat)
  deriving DecidableEq, Repr

/-- The instruction, the transfer or the wait at which a running stream stands. -/
def State.atWord (s : State) (a : Agent) : Doing :=
  let t := s.strm a
  if t.mode = .blocked then .run (.streamUnblock a)
  else if t.xfer.isSome then .run (.transferRowset a)
  else if t.word = 0 ∨ 16 ≤ t.word then .run (.lineAdvance a)
  else
    match s.decodeAt a with
    | .ok i => .run i
    | .error n => .illegal n

/-- An asynchronous trap is due, or a stop is to be made (R381, R389, R397); while an abandoned stop waits for a record, the
piece runs on. -/
def State.trapDue (s : State) (c k : Nat) : Bool :=
  let x := s.slot c k
  let waits := s.stopWaits c k
  x.phase == .running && ((x.stopping.isSome && !waits) ||
    (!x.trap.intrap && (x.trap.en || !waits) && (x.dueFault.isSome || !x.trap.pend.isEmpty)))

/-- A displaced gleaning piece has reached no pre-emption point within 65,536 core cycles (R31). -/
def State.gleanDue (s : State) (c k : Nat) : Bool :=
  let x := s.slot c k
  x.phase == .running && !s.stopWaits c k && x.gleanSince.any (fun t => decide (t + 65536 ≤ s.cycle))

/-- A gleaning owner has reached no drain point within 65,536 core cycles of a normal slot's request (R135). -/
def State.drainOverdue (s : State) (c : Nat) : Bool :=
  let x := s.core c
  x.units.valid && x.displaced && !x.drained && x.ownerSlot.phase == .running && !s.stopWaits c x.units.owner &&
    x.units.askedAt.any (fun t => decide (t + 65536 ≤ s.cycle))

/-- The event by which the units pass, by the condition of R134 that holds. -/
def Core.passEvent (x : Core) (c now : Nat) : Instr :=
  if !x.units.valid || x.offered || x.displaced then .unitsPass c
  else if x.idle64 now then .unitIdleExpiry c
  else .unitHoldExpiry c

/-- What a rule has happen on the core before the stream may go on: the watchdog's end of a freeze (R390); a plane swap at
the first drain point (R175); a stop that is due (R31, R135); the passing of the units (R134). -/
def State.forced (s : State) (c k : Nat) (cls : Cls) : Option Instr :=
  let x := s.core c
  match x.frz.since with
  | some b => if b + 2 ^ (10 + x.frz.limit.toNat) ≤ s.cycle then some (.freezeWatchdogExpiry c) else none
  | none =>
    if s.swapDue c then some (.planeSwap c)
    else if s.gleanDue c k then some (.gleaningPreemptTimeout c k)
    else if s.drainOverdue c then some (.gleaningDrainTimeout c)
    else if (cls = .vec ∨ cls = .mat) ∧ x.passDue s.cycle then some (x.passEvent c s.cycle)
    else none

def State.doing (s : State) (a : Agent) : Doing :=
  if s.cryo.halted then .nothing
  else
    match a with
    | .thread t => if s.npd.threads.any (fun (i, _) => i == t) then s.atWord a else .nothing
    | .strm c k cls =>
      let x := s.slot c k
      let t := x.strm cls
      match s.forced c k cls with
      | some i => .run i
      | none =>
        if x.phase ≠ .running ∨ x.piece.isNone ∨ !s.clockOn c then .nothing
        else if s.trapDue c k then .run (.asyncTrapDelivery c k)
        else if cls = .net ∨ (x.trap.intrap ∧ cls ≠ .ctl) then .nothing
        else
          match t.mode with
          | .halted => .nothing
          | .draining _ =>
            if x.v.inflight.any (fun r => !r.arrived) then .run (.freezeStart c) else .run (.streamUnblock a)
          | .blocked =>
            if s.mayNot a ∨ (s.core c).mayIssue k cls s.cycle then .run (.streamUnblock a) else .nothing
          | .running =>
            if s.noBeat a then s.atWord a
            else if !(s.core c).mayIssue k cls s.cycle then .nothing
            else if cls = .vec ∧ x.late then .run (.freezeStart c)
            else s.atWord a

/-! ## Time -/

/-- A normal task, a saved piece of one, or a gang is eligible for the core while no slot of it is free (R31): its die runs,
its partition is in RUN, and the barrier network has room for its domain. -/
def State.normalWaits (s : State) (c : Nat) : Bool :=
  let x := s.core c
  let fits (q : Piece) : Bool := s.domainRoom q && !(s.part q.part).inReset
  s.dieRuns (dieOf c) && (List.range 4).all (fun k => (x.slot k).phase != .free) &&
    (x.queue.any (fun e => e.piece.kind == .normal && fits e.piece) || ((s.bay (bayOf c)).gangFor c).any (fun g => fits g.piece))

/-- Core `c`'s counts over `n` cycles that now pass; in a frozen core they stand still (R388). -/
def State.coreTime (s : State) (n c : Nat) (x : Core) : Core :=
  let d := s.duty (dieOf c)
  let off := if x.frz.since.isSome then n else n - (enabledBefore (s.cycle + n) d - enabledBefore s.cycle d)
  let w := s.normalWaits c
  let x := x.markAsked s.cycle
  let x := { x with slots := x.slots.map (fun (k, y) => (k, y.markGlean w s.cycle)) }
  if off = 0 then x else x.skipCycles off

/-- The end of a core cycle: flags and tiles stand as its changes leave them (R97, R197), and the count of R318 goes on. -/
def State.endCycle (s : State) : State :=
  State.noteStalls { s with cores := s.cores.map (fun (c, x) => (c, x.newCycle)), parts := s.parts.map (fun (p, x) => (p, x.newCycle)),
                            rank := 0 }

/-- `n` core cycles pass. -/
def State.pass (s : State) (n : Nat) : State :=
  if n = 0 then s
  else State.endCycle { s with cores := s.cores.map (fun (c, x) => (c, s.coreTime n c x)), cycle := s.cycle + n }

/-- What falls due as the present core cycle goes on from place `lo` to place `hi`, each in its own place: the re-placements of dies
that have entered retreat (R315, R321); the launches that join a queue and the reduction slots that time out (R316, R367); the
rotations that start (R203). -/
def State.crossed (s : State) (lo hi : Nat) : State :=
  let by1 (n : Nat) (f : State → State) (s : State) : State := if !s.cryo.halted && decide (lo < n) && decide (n ≤ hi) then f s else s
  by1 40000 (fun s => s.startRots s.cycle 1) (by1 30000 (fun s => s.closeAllDue.joinWaits) (by1 20000 State.replaceDue s))

/-- The core cycle ends, and `n` in all pass; what falls due on the way is done. -/
def State.lapse (s : State) (n : Nat) : State :=
  if n = 0 then s
  else
    let s := s.crossed s.rank 100000
    (if n = 1 ∨ s.cryo.halted then s else s.replaceDue.startRots (s.cycle + 1) (n - 1)).pass n

/-- The next core cycle, at place `r`. -/
def State.nextAt (s : State) (r : Nat) : State := { (s.lapse 1).crossed 0 r with rank := r }

/-- The end of a step: unless the part is halted (R433), a memory event record moves, a memory upset may strike, windows that are
overdue open (R431) and the firmware does what no instruction of it shows (R423, R424); and time passes. (DESIGN CHOICE, log 2, 93) -/
def State.tock (s : State) (stepNo : Nat) : State :=
  let live (s : State) : State :=
    { s with dram := (s.dram.upset (Config.upset stepNo)).openOverdue s.cycle, fw := s.fw.acts s.cycle stepNo }
  (if s.cryo.halted then s else live s.sendRecord).lapse (Config.stepCycles stepNo)

/-! ## The order within a core cycle (R197, R272, R315) -/

/-- The place of a turn in the order of one core cycle, as the place before which the cycle must stand and the one at which
it then stands: bindings; re-placements; the NPD's deliveries and firings; host commands; rotations; engines; admissions of copy
commands, one a core cycle in each bay (R268); plane swaps; slots by core and number, their streams in the order of classes;
steal answers. (DESIGN CHOICE, log 1) -/
def turnRank : Turn → Option (Nat × Nat)
  | .agent (.thread _) => some (30001, 30000)
  | .agent (.strm c k cls) =>
    let j := match cls with
      | .ctl => 0 | .vec => 1 | .mat => 2 | .ldr => 5 | .str => 6 | .net => 7
    some (80000 + 16 * (4 * c + k) + j, 80000 + 16 * (4 * c + k) + j)
  | .event i =>
    let at1 (n : Nat) : Option (Nat × Nat) := some (n, n)
    match i with
    | .taskBinding c _ => at1 (10000 + c)
    | .gangBinding b => some (10000 + 6 * b, 10005 + 6 * b)
    | .temperatureSample _ | .cryoSettleExpiry _ => at1 20000
    | .packetReceive _ | .barrierArrivalMessage _ | .counterAdvance _ | .sendAcknowledged _ _ | .reductionSlotTimeout _
    | .launchWaitJoin _ | .barrierCompletion _ _ _ => some (30001, 30000)
    | .hostNop _ | .launch _ | .htod _ | .dtoh _ | .hostCadd _ | .hostArm _ | .indirect _ | .domain _ | .peer _ | .plane _
    | .pcreate _ | .pdestroy _ | .preset _ | .update _ => some (36001, 36000)
    | .rotationStart _ c | .rotationEnd _ c => at1 (40000 + c)
    | .copyExecution b e | .copyCompletion b e => at1 (50000 + 4 * b + e)
    | .copyAdmission b => at1 (60000 + b)
    | .planeSwap c => at1 (70000 + c)
    | .matrixStep c k => at1 (80000 + 16 * (4 * c + k) + 3)
    | .readoutRowset c k => at1 (80000 + 16 * (4 * c + k) + 4)
    | .retirementComplete c k => at1 (80000 + 16 * (4 * c + k) + 7)
    | .stealAnswer c => at1 (90000 + c)
    | _ => none

/-- A turn begins: in the present core cycle where its place is still to come, else in the next. -/
def State.enter (s : State) (t : Turn) : State :=
  match turnRank t with
  | none => s
  | some (lo, hi) => if s.rank < lo then { s.crossed s.rank hi with rank := hi } else s.nextAt hi

/-- The turn that a step takes, and the state in which it begins. -/
def State.tick (s : State) : State × Turn :=
  match s.agenda with
  | t :: ts => (State.enter { s with agenda := ts, stepNo := s.stepNo + 1 } t, t)
  | [] => (State.enter { s with stepNo := s.stepNo + 1 } (Config.schedule s.stepNo), Config.schedule s.stepNo)

/-- A register read returns values as the core cycle before left them (R74, R314, R400): it begins a cycle of its own. -/
def State.readsRegs (s : State) (a : Agent) : Bool :=
  (s.strm a).inLine &&
    (match s.decodeAt a with
     | .ok (.sysrd _ _ _) => true
     | .ok _ | .error _ => false)

/-- An event that the turn of an agent brings takes its own place in the order of a cycle. -/
def State.bring (s : State) (i : Instr) : State × Option Instr := (s.enter (.event i), some i)

/-- The state in which the turn of an agent begins: the agent executes, and walk faults of an earlier instruction of it are
spent. -/
def State.begins (s : State) (a : Agent) : State :=
  let s := if (s.strm a).mode = .blocked then { s with agent := a } else State.spent { s with agent := a } (.agent a)
  if s.readsRegs a then s.nextAt s.rank else s

/-- The instruction of a turn; a turn without one gives only a state. -/
def State.prepare (s : State) : Turn → State × Option Instr
  | .agent a =>
    let s := s.begins a
    match s.doing a with
    | .nothing => (s, none)
    | .run i => s.bring i
    | .illegal n => (s.illegal a n, none)
  | .event i =>
    if isEvent i && (!s.cryo.halted || i == .moduleColdReset) then (s, some i) else (s, none)

def after (stepNo : Nat) : Out → Out
  | .next s => .next (s.tock stepNo)
  | .fault f => .fault f
  | .refused r => .refused r

end Sys2Proof.Machine
end

