-- ==== Sys2Proof/Machine/Loader.lean ====
section
/-! DEFINITION. One instruction placed where the next step fetches: the shortest way from a state to a stream or packet
thread that stands at it. Programs reach the machine from outside (HTOD, PLANE, LAUNCH); this stands for that load. -/

namespace Sys2Proof.Machine

/-- The words of a table instruction; the bits above `nbits` are 0. -/
def tableWords (nbits w : Nat) : List Word :=
  let v := w % 2 ^ nbits
  [BitVec.ofNat 32 v, BitVec.ofNat 32 (v >>> 32), BitVec.ofNat 32 (v >>> 64)]

/-- The first class of stream whose set holds the instruction. (DESIGN CHOICE, log 5) -/
def classFor (ws : List Word) : Cls :=
  (([Cls.ctl, .vec, .mat, .ldr, .str, .net].find? (fun c =>
    match decode (some c) ws with
    | .ok _ => true
    | .error _ => false))).getD .ctl

/-- The line: its link word of the class, with neither NEXT nor a wait, and the words (R40). -/
def lineBytes (cls : Cls) (ws : List Word) : List Byte :=
  (BitVec.ofNat 32 (clsCode cls * 2 ^ 29) :: ws).flatMap (fun w => leBytes 4 w.toNat)

/-- A stream that stands at the first word after the link word of line 0. -/
def atFirst (t : Stream) (plane : Nat) : Stream :=
  { t.done with mode := .running, line := 0, word := 1, plane := plane, reached := true, passed := true }

/-- A piece of partition 1 with nothing in its header. -/
def loadPiece : Piece :=
  { uid := 1, part := 1, kind := .normal, hdr := [], lo := 0, hi := 0, id := 0, pin := 0, gang := none, arrived := none }

def State.placeSlot (s : State) (cls : Cls) (ws : List Word) : State :=
  let x := s.core 0
  let y := x.slot 0
  let y : Slot := { y.setStrm cls (atFirst (y.strm cls) x.activePlane) with
    phase := .running, piece := some (y.piece.getD loadPiece), stopping := none, gleanSince := none,
    trap := { y.trap with intrap := false, pend := [] }, v := { y.v with inflight := [] } }
  let p := x.plane x.activePlane
  let x : Core := ({ (x.setSlot 0 y) with
    units := { x.units with valid := true, owner := 0, since := s.cycle, offer := false },
    frz := { x.frz with since := none } } : Core).setPlane x.activePlane
      (memWrite (memClear p (storeAt cls).1 64) (storeAt cls).1 (lineBytes cls ws))
  { (s.setCore 0 x).updBay 0 (fun b => { b with owner := some (b.owner.getD 1) }) with
    cycle := s.cycle + 4, rank := 0, cryo := { s.cryo with mstate := 2, dstate := [], halted := false },
    power := { s.power with duty := 256 }, agenda := [.agent (.strm 0 0 cls)] }

def State.placeThread (s : State) (ws : List Word) : State :=
  let t := s.thread 0
  let p := s.part t.part
  let l : Int := (p.hbase : Int)
  let s := s.updPart t.part (fun p =>
    if p.hsize = 0 then { p with npart3 := setField p.npart3 37 (1 : BitVec 14) } else p)
  let s := s.updThread 0 (fun t => { t with strm := { atFirst t.strm 0 with line := l } })
  { s with
    npd := { s.npd with handlers := memWrite (memClear s.npd.handlers (64 * p.hbase) 64) (64 * p.hbase) (lineBytes .net ws) },
    rank := 0, cryo := { s.cryo with halted := false }, agenda := [.agent (.thread 0)] }

/-- The instruction stands where the next step fetches. -/
def State.place (s : State) (nbits w : Nat) : State :=
  let ws := tableWords nbits w
  match classFor ws with
  | .net => s.placeThread ws
  | cls => s.placeSlot cls ws

end Sys2Proof.Machine
end

