-- ==== Sys2Proof/Machine/Step.lean ====
section
/-! DEFINITION. One step: a turn is taken, its instruction runs, time passes. -/

namespace Sys2Proof.Machine

/-- The step of the part. -/
def step (s : State) : Host.Outcome State Fault Refusal :=
  match s.tick.1.prepare s.tick.2 with
  | (t, none) => after s.stepNo (.next t)
  | (t, some i) => after s.stepNo (exec i t)

/-- The machine with a table instruction placed where `step` fetches next. (DESIGN CHOICE, log 4) -/
def State.withFetchWord (s : State) (nbits w : Nat) : State := s.place nbits w

end Sys2Proof.Machine
end

