-- ==== Sys2Proof/Safety.lean ====
section
/-! DEFINITION. The words in which statements are made: what a safe step and a safe run are, the reading of one byte of
any of the machine's byte stores, the canonical form of all of them, and what an instruction leaves alone. -/

namespace Sys2Proof.Machine

/-! ## Safe steps and runs -/

/-- The step answers a next state: no fault, no refusal. -/
def Safe (s : State) : Prop := ∃ t, step s = .next t

/-- `n` steps from `s`, each answering a next state, end in `t`. -/
def runsTo : Nat → State → State → Prop
  | 0, s, t => s = t
  | n + 1, s, t => ∃ u, step s = .next u ∧ runsTo n u t

/-! ## The byte stores -/

/-- The byte-addressed memories of the part: a core's scratchpad (R188) and its two code planes (R39, R174), the
handler store (R339), the cells of both tiers (R240), host memory, the slot-private bytes of a crib record (R392). -/
inductive Store where
  | scratch (core : Nat)
  | plane (core n : Nat)
  | handlers
  | tiers
  | host
  | crib (part rec : Nat)
  deriving DecidableEq, Repr

def State.store (s : State) : Store → Memory
  | .scratch c => (s.core c).scratch
  | .plane c n => (s.core c).plane n
  | .handlers => s.npd.handlers
  | .tiers => s.dram.cells
  | .host => s.hostMem
  | .crib p r =>
    match (s.part p).recs.find? (fun (i, _) => i == r) with
    | some (_, x) => x.priv
    | none => []

/-- One byte of one store. -/
def State.byteAt (s : State) (m : Store) (a : Nat) : Byte := memGet (s.store m) a

/-- Every byte of every store reads as before. -/
def State.sameBytes (s t : State) : Prop := ∀ m a, t.byteAt m a = s.byteAt m a

/-- Every store is in its canonical form. -/
def State.canonical (s : State) : Prop := ∀ m, memWf (s.store m) = true

/-- The youngest value of a byte of the tiers: that of the last queued write whose mask covers it, else the stored
one (R255). -/
def Dram.byteAt (d : Dram) (pa : Nat) : Byte :=
  match (d.queue (ctrlOf pa)).reverse.find? (fun w => w.line == pa / 64 && w.bm.getLsbD (pa % 64)) with
  | some w => w.data.extractLsb' (8 * (pa % 64)) 8
  | none => memGet d.cells pa

/-! ## What falls due as time passes -/

/-- Nothing falls due as core cycles pass: no die's queues are to be placed anew (R315, R321), no launch waits for a queue (R316), no
reduction slot has a timeout (R368), no rotation is pending (R203). -/
def State.nothingDue (s : State) : Prop :=
  s.cryo.replace = [] ∧ (∀ r ∈ s.parts, r.2.waits = []) ∧ (∀ r ∈ s.npd.rslots, r.2.deadline = none) ∧ ∀ c, (s.core c).rot = none

/-! ## Agents -/

/-- A stream of one of the five classes of a slot, or a packet thread: no slot has a stream of class net (R40, R341). -/
def realAgent : Agent → Bool
  | .strm _ _ .net => false
  | .strm _ _ _ => true
  | .thread _ => true

/-- An agent of whose issue no vector or matrix unit takes part: its instruction has no issue-beat (R126). -/
def scalarAgent : Agent → Bool
  | .strm _ _ .ctl => true
  | .strm _ _ .ldr => true
  | .strm _ _ .str => true
  | .strm _ _ .vec => false
  | .strm _ _ .mat => false
  | .strm _ _ .net => false
  | .thread _ => true

/-! ## What an instruction leaves alone -/

/-- Scalar registers of `t` other than `d` are those of `s`. -/
def Stream.keepsRegs (s t : Stream) (d : BitVec 6) : Prop := ∀ r : BitVec 6, r ≠ d → t.reg r = s.reg r

/-- `u` is `t` after the rotation of its loop predicates by one pass, p8 taking `fill` (R115). -/
def Stream.rotated (t u : Stream) (fill : Bool) : Prop :=
  u.regs = t.regs ∧ (∀ q, q < 8 → u.preds.getLsbD q = t.preds.getLsbD q) ∧ u.preds.getLsbD 8 = fill ∧
    ∀ q, 9 ≤ q → q < 16 → u.preds.getLsbD q = t.preds.getLsbD (q - 1)

/-- The scalar register that an instruction of one result writes: classes 000 and 001, and the reads of flags,
system registers and time (R100, R112, R117, R370, R398). -/
def scalarDest : Instr → Option (BitVec 6)
  | .add _ d _ _ | .sub _ d _ _ | .mul _ d _ _ | .mulh _ d _ _ | .mulhu _ d _ _ | .div _ d _ _ | .divu _ d _ _
  | .rem _ d _ _ | .remu _ d _ _ | .and _ d _ _ | .or _ d _ _ | .xor _ d _ _ | .andn _ d _ _ | .shl _ d _ _
  | .shr _ d _ _ | .sra _ d _ _ | .rotl _ d _ _ | .rotr _ d _ _ | .clz _ d _ | .ctz _ d _ | .popc _ d _
  | .bfx _ d _ _ | .bfi _ d _ _ | .movi _ _ _ d _ | .lea _ _ d _ _ | .min _ d _ _ | .max _ d _ _ | .minu _ d _ _
  | .maxu _ d _ _ | .sel _ _ d _ _ | .call _ d _ | .callx _ d _ _ | .fread _ d _ | .tsrd _ _ d | .sysrd _ d _ => some d
  | .addShortReg d _ _ | .subShortReg d _ _ | .mulShortReg d _ _ | .andShortReg d _ _ | .orShortReg d _ _
  | .xorShortReg d _ _ | .shlShortReg d _ _ | .shrShortReg d _ _ | .sraShortReg d _ _ | .minShortReg d _ _
  | .maxShortReg d _ _ | .addShortImm d _ _ | .andShortImm d _ _ | .orShortImm d _ _ | .xorShortImm d _ _
  | .shlShortImm d _ _ | .shrShortImm d _ _ | .sraShortImm d _ _ | .addShortB d _ | .moviShort d _
  | .callShort d _ => some (wide5 d)
  | _ => none

/-- XINV, PART and CRYO: only streams of the firmware's partition may issue them (R398). -/
def firmwareRow : Instr → Bool
  | .xinv _ _ _ _ | .partStop _ _ _ | .partRelease _ _ _ | .partReset _ _ _ | .partRequest _ _ _ | .cryoQuery _ _ _
  | .cryoCool _ _ _ | .cryoWarm _ _ _ | .cryoForceRetreat _ _ _ | .cryoReleaseRetreat _ _ _ | .cryoClearRatev _ _ _ => true
  | _ => false

/-- Nothing but the register set, position and issue state of agent `a`'s own stream differs. -/
def State.onlyStream (s t : State) (a : Agent) : Prop := t = s.updStrm a (fun _ => t.strm a)

/-- What a blocked control stream's instruction has under way; none while it begins (R38). -/
def State.ctlToken (s : State) (c k : Nat) : Option Nat := (s.slot c k).ctl.token

/-- A partition whose handlers are loaded and whose event queue has room holds one event more in `t` (R369). -/
def State.told (s t : State) (p kind sub index : Nat) (i1 i2 : DWord) : Prop :=
  (s.part p).hsize ≠ 0 → (s.part p).events.length < 256 → ∃ e, (t.part p).events = (s.part p).events ++ [e] ∧
    e.kind = kind ∧ e.sub = sub ∧ e.index = index ∧ e.info1 = i1 ∧ e.info2 = i2 ∧ e.time = s.time

/-- No entry that watches counter `n` fires when it comes to `v` (R356). -/
def State.calm (s : State) (n : Nat) (v : DWord) : Prop := ∀ m ∈ s.watchers n, (s.entry m).fires v = false

/-! ## Vector results -/

/-- The 1,024 elements of a result and its flags (R139): element `e`, at row e / 64 and column e % 64, is `op e` where
the mask allows the cell, and only those cells raise flags. -/
def elementResults (lanes : Mask) (op : Nat → Nat × FFlags) : List Nat × FFlags :=
  ((List.range 1024).map (fun e => if lanes.getLsbD e then (op e).1 else 0),
   (List.range 1024).foldl (fun f e => if lanes.getLsbD e then f ||| (op e).2 else f) ffNone)

/-- The state after a vector instruction of `n` words whose result goes to the register or pair `d`, in flight for `lat`
beats (R127, R139); `y` is its slot after the queue sources have popped. The instruction names its registers, and reads
them, in the vector file with every result due by its beat written (`Slot.seen`). -/
def State.vectorResult (s : State) (y : Slot) (wide : Bool) (d lat n : Nat) (lanes : Mask) (op : Nat → Nat × FFlags) :
    State :=
  let r := elementResults lanes op
  (s.updOwn s.agent (fun x => Slot.issue { y with v := x.v } lat (.regs ((s.own s.agent).seen.v.dest wide d r.1)) lanes r.2)).advance
    s.agent n

/-- The same for a result that is a lane mask: bit `e` is 1 where `op e` gives 1 (R128, R144). -/
def State.maskResult (s : State) (y : Slot) (d lat n : Nat) (lanes : Mask) (op : Nat → Nat × FFlags) : State :=
  let r := elementResults lanes op
  (s.updOwn s.agent (fun x => Slot.issue { y with v := x.v } lat (.mask d (maskOfLanes (r.1.map (· == 1)))) lanes r.2)).advance
    s.agent n

/-- Two's complement reading of the low `n` bits, and the low `n` bits of an integer. -/
def signedOf (n a : Nat) : Int := (BitVec.ofNat n a).toInt
def bitsOf (n : Nat) (x : Int) : Nat := (BitVec.ofInt n x).toNat

/-! ## Where an access goes -/

/-- The byte at address `a` is, for accesses of kind `kind` of the running agent, byte `off` of core `c`'s scratchpad, and
the access is allowed without a claim (R188, R189, R195). -/
def State.spByte (s : State) (kind : AKind) (a c off : Nat) : Prop :=
  s.flatAt (s.accOf s.agent) a kind = .ok (.sp c off) none

/-- The same of `n` bytes from `a` on, none beyond the flat space. -/
def State.inScratch (s : State) (kind : AKind) (a n c off : Nat) : Prop :=
  a + n ≤ 2 ^ 32 ∧ ∀ j, j < n → s.spByte kind (a + j) c (off + j)

/-- The same for another requester's access: a copy, or a delivery of the network processor. -/
def State.spFor (s : State) (x : Acc) (kind : AKind) (a n c off : Nat) : Prop :=
  a + n ≤ 2 ^ 32 ∧ ∀ j, j < n → s.flatAt x (a + j) kind = .ok (.sp c (off + j)) none

/-- The `n` bytes from virtual address `a` on stand in the requester's translations, in pages that allow it accesses of kind
`kind`, on channels that are neither fenced nor hold new accesses (R241 to R247, R256, R431). -/
def State.mapped (s : State) (x : Acc) (kind : AKind) (a n : Nat) : Prop :=
  x.space = .virt ∧ a % 64 = 0 ∧ 2 ^ 32 ≤ a ∧ a + n ≤ 2 ^ 48 ∧ (∀ f ∈ s.xl.faults, f.who ≠ x.who) ∧
  ∀ j, j < n → ∃ e pa key cnt, s.xl.tlb.find? (fun e => e.covers x.unit x.part (a + j)) = some e ∧
    s.useLeaf x.part (a + j) kind e.leaf e.bits = .ok pa key cnt ∧ s.dram.fenced pa = false ∧
      s.dram.holds pa s.cycle = false

/-- The `n` bytes from virtual address `a` on are, for accesses of kind `kind`, those from `pa` on of a tier, undisturbed: in
pages that allow the access and are not counted, on lines stored soundly under their keys with no queued write, on channels that
are neither fenced nor hold new accesses (R241 to R256, R431). -/
def State.inTier (s : State) (x : Acc) (kind : AKind) (a n pa : Nat) : Prop :=
  2 ^ 32 ≤ a ∧ a + n ≤ 2 ^ 48 ∧ a % 4096 = pa % 4096 ∧ (∀ f ∈ s.xl.faults, f.who ≠ x.who) ∧
  ∀ j, j < n → ∃ e key, s.xl.tlb.find? (fun e => e.covers x.unit x.part (a + j)) = some e ∧
    s.useLeaf x.part (a + j) kind e.leaf e.bits = .ok (pa + j) key false ∧ s.dram.fenced (pa + j) = false ∧
    s.dram.holds (pa + j) s.cycle = false ∧ s.dram.verifies (pa + j) key = true ∧
    Tbl.get .sound s.dram.cond ((pa + j) / 64) = .sound ∧ ∀ w ∈ s.dram.queue (ctrlOf (pa + j)), w.line ≠ (pa + j) / 64

/-- An access of a stream of slot (`c`, `k`) at flat address `a` is refused, with sub-cause `f` of R206 (R189, R195). -/
def State.tileRefused (s : State) (c k : Nat) (kind : AKind) (a f : Nat) : Prop :=
  let p := s.partOf (.strm c k .ctl)
  let loc := a / 2 ^ 31 % 2 = 1
  let off := a % 2 ^ 24
  let d := if a / 2 ^ 31 % 2 = 1 then c else a / 2 ^ 24 % 128
  a < 2 ^ 32 ∧
  ((f = 1 ∧ (71 < a / 2 ^ 24 % 128 ∨ (loc ∧ a / 2 ^ 24 % 128 ≠ 0) ∨ 0xC00000 ≤ off)) ∨
   (a / 2 ^ 24 % 128 ≤ 71 ∧ (loc → a / 2 ^ 24 % 128 = 0) ∧ off < 0xC00000 ∧
     ((f = 2 ∧ s.holdsCore p d = false ∧ p ≠ 0) ∨
      (s.holdsCore p d = true ∧
        ((f = 3 ∧ 0x800000 ≤ off ∧ (c, k) ≠ (d, (off - 0x800000) / 0x100000)) ∨
         (f = 4 ∧ off < 0x800000 ∧ (s.core d).tileAt s.stepNo off = none) ∨
         (f = 5 ∧ off < 0x800000 ∧ kind ≠ .rd ∧
           ∃ n t, (s.core d).tileAt s.stepNo off = some (n, t) ∧ (t.state = 1 ∨ t.state = 3)))))))

/-- An access at virtual address `a` gives the translation fault with sub-cause `f` (R247): of the address, of its walk, of a
partition without tables, or of the leaf that the unit has cached. -/
def State.xlRefused (s : State) (x : Acc) (kind : AKind) (a f : Nat) : Prop :=
  let cached := s.xl.tlb.find? (fun e => e.covers x.unit x.part a)
  (f = 1 ∧ 2 ^ 48 ≤ a) ∨
  (2 ^ 32 ≤ a ∧ a < 2 ^ 48 ∧
    ((∃ w, s.xl.faults.find? (fun w => w.who == x.who && w.granule == a / 4096) = some w ∧ w.sub = f) ∨
     ((∀ w ∈ s.xl.faults, w.who ≠ x.who) ∧
       ((f = 2 ∧ cached = none ∧ (s.part x.part).root = none) ∨
        (∃ e, cached = some e ∧ e.leaf.m = false ∧
          let w : Prop := (kind = .wr ∨ kind = .at ∨ kind = .nmw) ∧ e.leaf.w = false
          let nm : Prop := (kind = .nm ∨ kind = .nmw) ∧ e.leaf.nm = false
          let held : Prop := (s.dram.key e.leaf.key).owner = some x.part ∧ (e.leaf.key = 0 → x.part = 0)
          (f = 4 ∧ w) ∨ (f = 5 ∧ ¬ w ∧ nm) ∨ (f = 6 ∧ ¬ w ∧ ¬ nm ∧ ¬ held) ∨
            (f = 7 ∧ ¬ w ∧ ¬ nm ∧ held ∧ tierOf (e.leaf.pa + a % 2 ^ e.bits) = none))))))

/-- The virtual address `a` of a near-memory command stands for byte `pa` of a tier, in a page that allows accesses of kind
`kind`, on a channel that does not hold new accesses (R287). -/
def State.nmPlace (s : State) (x : Acc) (kind : AKind) (a pa : Nat) : Prop :=
  2 ^ 32 ≤ a ∧ a < 2 ^ 48 ∧ (∀ w ∈ s.xl.faults, w.who ≠ x.who) ∧ s.dram.holds pa s.cycle = false ∧
  ∃ e key cnt, s.xl.tlb.find? (fun e => e.covers x.unit x.part a) = some e ∧
    s.useLeaf x.part a kind e.leaf e.bits = .ok pa key cnt

/-- `s` with another scratchpad content in core `c`, and nothing else changed. -/
def State.withScratch (s : State) (c : Nat) (m : Memory) : State := s.updCore c (fun x => { x with scratch := m })

/-- `s` after a write to the scratchpad of core `c`, or to the cells of the tiers: its bytes, and the counts of writes to
doublewords on which a stream waits (R265, R284). -/
def State.withBytes (s : State) (c : Nat) (m : Memory) (w : Tbl Nat) : State :=
  s.updCore c (fun x => { x with scratch := m, watch := w })
def State.withCells (s : State) (m : Memory) (w : Tbl Nat) : State :=
  { s with dram := { s.dram with cells := m, watch := w } }
/-- What an access of the running agent raises when it is refused: its walk faults are spent. -/
def State.refused (s : State) (e : Exc) : State := (s.spent (.agent s.agent)).raise s.agent e

/-- The integer of `n` bytes of a memory, little-endian (R4). -/
def memNat (m : Memory) (a n : Nat) : Nat :=
  (List.range n).foldl (fun v j => v + (memGet m (a + j)).toNat * 256 ^ j) 0

/-- `m'` is `m` but for the `n` bytes from `a`, which hold `v` (R4). -/
def memHolds (m m' : Memory) (a n v : Nat) : Prop :=
  memNat m' a n = v ∧ ∀ i, i < a ∨ a + n ≤ i → memGet m' i = memGet m i

end Sys2Proof.Machine
end

