-- ==== Sys2Proof/Certificates/Slice0/Obligations.lean ====
section
/-! DEFINITION. The statements for the provers. Each says what the part does, in the model's own words; its docstring
names the rules of spec/ it rests on. Steps of one shape stand together in one statement. -/

open Sys2Proof Sys2Proof.Machine

/-! # Encoding (file 03) -/

/-- Words written out in the spec's worked examples, and words of each class written out from its tables, decode to the
instructions they stand for (R43 to R61); so do those of the tables of the SGD and the Bloom filter programs (R464, R470). -/
def Obligations.WrittenWordsDecode : Prop :=
  decode (some .vec) [0x00316A94] = .ok (.fmaBf16Short 10 11 12) ∧
  decode (some .vec) [0x0A599472, 0x3000092D] =
    .ok (.vmax ⟨⟨true, 9⟩, .bf16, 0, 3, 300, .reg 301, .queue 2, 0⟩) ∧
  decode (some .ctl) [0x0190C540] = .ok (.addShortImm 5 6 100) ∧
  decode (some .ctl) [0x000A0003, 0x00000006, 0x00012345] = .ok (.add ⟨false, 0⟩ 5 6 (.lit 0x12345)) ∧
  decode (some .ctl) [0x080E0056, 0x00C02004] = .ok (.bfx ⟨false, 0⟩ 7 4 (.imm 8 12)) ∧
  decode (some .ctl) [0x0000021B, 0x10000000, 0x00000003] = .ok (.loop ⟨false, 0⟩ 1 (.lit 3)) ∧
  decode (some .ldr) [0x08120232, 0x00000000] = .ok (.shalt ⟨false, 0⟩ (some 9)) ∧
  decode (some .ctl) [0x40080A02, 0x00004005] = .ok (.ld ⟨false, 0⟩ 2 4 5 (.off 16)) ∧
  decode (some .str) [0x00000A12, 0x10001002] = .ok (.fence ⟨false, 0⟩ 1 2 4) ∧
  decode (some .ldr) [0x00040C12, 0x00000C03] = .ok (.qput ⟨false, 0⟩ 2 3 (.imm 3)) ∧
  decode (some .ctl) [0x000A0E92, 0x00000800] = .ok (.ppoint ⟨false, 0⟩ 5 (.mask false 2)) ∧
  decode (some .net) [0x00040E03, 0x00000003, 0x00000140] = .ok (.arm ⟨false, 0⟩ 2 3 (.lit 0x140)) ∧
  decode (some .ctl) [0x000E0062, 0x1000100A] = .ok (.lea ⟨false, 0⟩ 1 7 10 (.reg 4)) ∧
  decode (some .ctl) [0x001A0CCE, 0x00000007] = .ok (.nmc ⟨false, 0⟩ 13 7) ∧
  decode (some .ctl) [0x001C0CD2, 0x00000000] = .ok (.nmfence ⟨false, 0⟩ 14) ∧
  decode (some .ctl) [0x002E0056, 0x00905814] = .ok (.bfx ⟨false, 0⟩ 23 20 (.regs 22 9)) ∧
  decode (some .vec) [0x10080A0A, 0x00100000] = .ok (.vld ⟨false, 0⟩ true 0 4 (.imm 0x100000)) ∧
  decode (some .vec) [0x100C0A0A, 0x00101000] = .ok (.vld ⟨false, 0⟩ true 0 6 (.imm 0x101000)) ∧
  decode (some .vec) [0x20000A1E, 0x00001804] = .ok (.vamo ⟨false, 0⟩ 2 false 0 0 4 (.reg 6)) ∧
  decode (some .vec) [0x00000A12, 0x00000803] = .ok (.fence ⟨false, 0⟩ 0 3 2) ∧
  decode (some .ctl) [0x00000402, 0x00000000] = .error 3 ∧
  decode (some .ldr) [0x00000C2A, 0x00000000] = .error 2 ∧
  decode (some .vec) [0x0000048A, 0x00000000] = .error 2

/-- Decoding and encoding agree on every well-formed instruction of the short forms, and of the long and literal forms of
the scalar and control classes 000 and 001 (R45 to R49, R59, R60, R100 to R119). -/
def Obligations.ScalarFormsRoundTrip : Prop :=
  (∀ i : Instr, i.short?.isSome = true → i.wf = true → decode none (encode i) = .ok i.decoded) ∧
  ∀ (i : Instr) (l : Long), i.long? = some l → l.opc.toNat < 0x100 → i.wf = true →
    decode none (encode i) = .ok i.decoded

/-- Decoding and encoding agree on every well-formed long or literal form of the vector classes 010 and 011 (R51, R138,
R146). -/
def Obligations.VectorClassesRoundTrip : Prop :=
  ∀ (i : Instr) (l : Long), i.long? = some l → 0x100 ≤ l.opc.toNat → l.opc.toNat < 0x200 → i.wf = true →
    decode none (encode i) = .ok i.decoded

/-- Decoding and encoding agree on every well-formed long or literal form of classes 100 to 111: matrix, memory, queues,
tiles, tasks, copies, network and system (R178, R207, R223, R260, R281, R291, R332, R370, R398). The six CRYO rows have
one encoding, whose request is a register's value, and come back as the first of them. -/
def Obligations.EngineClassesRoundTrip : Prop :=
  ∀ (i : Instr) (l : Long), i.long? = some l → 0x200 ≤ l.opc.toNat → i.wf = true →
    decode none (encode i) = .ok i.decoded

/-- Whatever words a stream decodes, what it answers is a well-formed instruction (R61): no check of R61 is passed over
in any stream. -/
def Obligations.DecodedInstructionsAreWellFormed : Prop :=
  ∀ (cls : Option Cls) (ws : List Word) (i : Instr), decode cls ws = .ok i → i.wf = true

/-! # The step -/

/-- A step in an agent's turn: when no event of its core comes first and a stream may issue, or a packet thread runs, and
the words where it stands decode to an instruction, the step is the meaning of that instruction in the state in which the
turn begins, with the passing of time around it (R25, R28, R38, R339, R341). In that state the turn is taken from the
agenda, the agent is the stream or the thread, and walk faults of an earlier instruction are spent; the beginning of a turn
changes no stream and no byte where nothing falls due in the core cycle that it may end. In the turn of
something that has no encoding (an engine's step, an arrival, a timeout, a host register or command) the step is its
meaning; a part that the excursion rules have halted takes only a module cold reset (R433).
Readings of the model: log 1. -/
def Obligations.StepRunsTheDecodedInstruction : Prop :=
  (∀ (s u v : State) (c k : Nat) (cls : Cls) (i : Instr),
    s.tick = (u, .agent (.strm c k cls)) → u.begins (.strm c k cls) = v → cls ≠ .net → v.cryo.halted = false →
    v.forced c k cls = none → (v.slot c k).phase = .running → (v.slot c k).piece.isSome = true → v.clockOn c = true →
    v.trapDue c k = false → ((v.slot c k).trap.intrap = true → cls = .ctl) →
    (v.strm (.strm c k cls)).mode = .running → (v.core c).mayIssue k cls v.cycle = true →
    (cls = .vec → (v.slot c k).late = false) →
    (v.strm (.strm c k cls)).xfer = none → (v.strm (.strm c k cls)).inLine = true →
    v.decodeAt (.strm c k cls) = .ok i →
    step s = after s.stepNo (exec i v)) ∧
  (∀ (s u v : State) (t : Nat) (i : Instr),
    s.tick = (u, .agent (.thread t)) → u.begins (.thread t) = v → v.cryo.halted = false →
    v.npd.threads.any (fun (n, _) => n == t) = true →
    (v.thread t).strm.mode ≠ .blocked → (v.thread t).strm.xfer = none → (v.thread t).strm.inLine = true →
    v.decodeAt (.thread t) = .ok i →
    step s = after s.stepNo (exec i v)) ∧
  (∀ (u : State) (a : Agent), u.nothingDue → (u.begins a).agent = a ∧ (u.begins a).cryo = u.cryo ∧
    (∀ b, (u.begins a).strm b = u.strm b) ∧ u.sameBytes (u.begins a)) ∧
  (∀ (s u : State) (i : Instr), s.tick = (u, .event i) → isEvent i = true →
    (s.cryo.halted = false ∨ i = .moduleColdReset) → step s = after s.stepNo (exec i u))

/-- Every step of every state answers a next state: the part answers each condition with an effect, a trap, a status, an
event record or a block, and no instruction of the table ends the machine. The passing of time at its end, where nothing falls due
in it, moves core cycles and the counts that depend on them; scalar registers, predicates, positions and bytes do not change.
Readings of the model: log 1, 2, 93. -/
def Obligations.StepsAnswerAndTimeLeavesDataAlone : Prop :=
  (∀ s : State, Safe s) ∧
  ∀ (s : State) (n : Nat), s.nothingDue →
    (s.tock n).cycle = s.cycle + Config.stepCycles n ∧ (s.tock n).cryo = s.cryo ∧
    (∀ a, (s.tock n).strm a = s.strm a) ∧ s.sameBytes (s.tock n)

/-- A halted part stays halted through every step but a module cold reset (R433): no instruction runs, and no trap, event
or save occurs; an excursion that came in the core cycle of the halt is held at most.
Readings of the model: log 74, 118. -/
def Obligations.HaltedPartStaysHalted : Prop :=
  ∀ s t : State, s.cryo.halted = true → s.tick.2 ≠ .event .moduleColdReset → step s = .next t →
    t.cryo = s.cryo ∧ (∀ a, t.strm a = s.strm a) ∧
    (∀ c k, let u := (t.slot c k).trap
      let v := (s.slot c k).trap
      u.intrap = v.intrap ∧ u.tcause = v.tcause ∧ u.tpc = v.tpc ∧ u.taddr = v.taddr ∧ u.tinfo = v.tinfo ∧ u.tvec = v.tvec) ∧
    (∀ p, (t.part p).events = (s.part p).events ∧
      (t.part p).recs.map (fun (n, x) => (n, x.slot.piece, x.held)) = (s.part p).recs.map (fun (n, x) => (n, x.slot.piece, x.held))) ∧
    s.sameBytes t

/-! # Scalar arithmetic (R50, R94, R100 to R109) -/

/-- Addition, subtraction and products, in the long, literal and short forms, are those of the integers, reduced modulo
2^64; MULH and MULHU take bits [127:64] of the signed and of the unsigned product (R101, R59, R60). -/
def Obligations.SumsAndProducts : Prop :=
  ∀ s : State, ∀ (g : Guard) (d a : BitVec 6) (b : Src) (d5 a5 b5 : BitVec 5) (i : BitVec 14) (j : BitVec 19),
    let me := s.agent
    let x := s.reg me a
    let y := s.src me b
    let p := s.reg me (wide5 a5)
    let q := s.reg me (wide5 b5)
    (s.acts me g = true →
      exec (.add g d a b) s = .next (s.result me d (.ofInt 64 (x.toInt + y.toInt)) (srcWords b)) ∧
      exec (.sub g d a b) s = .next (s.result me d (.ofInt 64 (x.toInt - y.toInt)) (srcWords b)) ∧
      exec (.mul g d a b) s = .next (s.result me d (.ofInt 64 (x.toInt * y.toInt)) (srcWords b)) ∧
      exec (.mulh g d a b) s = .next (s.result me d (.ofInt 64 (x.toInt * y.toInt / 2 ^ 64)) (srcWords b)) ∧
      exec (.mulhu g d a b) s = .next (s.result me d (.ofNat 64 (x.toNat * y.toNat / 2 ^ 64)) (srcWords b))) ∧
    ((s.strm me).skip = false →
      exec (.addShortReg d5 a5 b5) s = .next (s.result me (wide5 d5) (.ofInt 64 (p.toInt + q.toInt)) 1) ∧
      exec (.subShortReg d5 a5 b5) s = .next (s.result me (wide5 d5) (.ofInt 64 (p.toInt - q.toInt)) 1) ∧
      exec (.mulShortReg d5 a5 b5) s = .next (s.result me (wide5 d5) (.ofInt 64 (p.toInt * q.toInt)) 1) ∧
      exec (.addShortImm d5 a5 i) s = .next (s.result me (wide5 d5) (.ofInt 64 (p.toInt + i.toInt)) 1) ∧
      exec (.addShortB d5 j) s =
        .next (s.result me (wide5 d5) (.ofInt 64 ((s.reg me (wide5 d5)).toInt + j.toInt)) 1))

/-- Division (R102): the quotient truncated toward zero, the remainder with the dividend's sign, a = q b + r, and the
borderline results: division by 0 gives all ones with the dividend as remainder, −2^63 by −1 gives −2^63 and 0. -/
def Obligations.DivisionAndRemainder : Prop :=
  ∀ (s : State) (g : Guard) (d a : BitVec 6) (b : Src), s.acts s.agent g = true →
    let x := s.reg s.agent a
    let y := s.src s.agent b
    ∃ q r qu ru : DWord,
      exec (.div g d a b) s = .next (s.result s.agent d q (srcWords b)) ∧
      exec (.rem g d a b) s = .next (s.result s.agent d r (srcWords b)) ∧
      exec (.divu g d a b) s = .next (s.result s.agent d qu (srcWords b)) ∧
      exec (.remu g d a b) s = .next (s.result s.agent d ru (srcWords b)) ∧
      (y = 0 → q = 0xFFFFFFFFFFFFFFFF ∧ r = x ∧ qu = 0xFFFFFFFFFFFFFFFF ∧ ru = x) ∧
      (y ≠ 0 → qu.toNat = x.toNat / y.toNat ∧ ru.toNat = x.toNat % y.toNat ∧
        x = q * y + r ∧ x = qu * y + ru ∧ r.toInt = x.toInt.tmod y.toInt ∧
        (¬ (x.toInt = -2 ^ 63 ∧ y.toInt = -1) → q.toInt = x.toInt.tdiv y.toInt) ∧
        (x.toInt = -2 ^ 63 ∧ y.toInt = -1 → q = x ∧ r = 0))

/-- Bitwise logic, bit by bit; the smaller and the larger of two values, signed and unsigned (R101, R59); shifts by the
whole unsigned count and rotations by the count modulo 64, as products and quotients by powers of two (R103); in every
form. The short immediate forms of shifts are encodings only for counts 0 to 63. -/
def Obligations.LogicShiftsAndMinima : Prop :=
  (∀ s : State, ∀ (g : Guard) (d a : BitVec 6) (b : Src) (d5 a5 b5 : BitVec 5) (i : BitVec 14),
    let me := s.agent
    let ofBits (x y v : DWord) (f : Bool → Bool → Bool) : Prop :=
      ∀ n, n < 64 → v.getLsbD n = f (x.getLsbD n) (y.getLsbD n)
    (s.acts me g = true → ∃ v1 v2 v3 v4 : DWord,
      ofBits (s.reg me a) (s.src me b) v1 (fun x y => x && y) ∧
      ofBits (s.reg me a) (s.src me b) v2 (fun x y => x || y) ∧
      ofBits (s.reg me a) (s.src me b) v3 (fun x y => x != y) ∧
      ofBits (s.reg me a) (s.src me b) v4 (fun x y => x && !y) ∧
      exec (.and g d a b) s = .next (s.result me d v1 (srcWords b)) ∧
      exec (.or g d a b) s = .next (s.result me d v2 (srcWords b)) ∧
      exec (.xor g d a b) s = .next (s.result me d v3 (srcWords b)) ∧
      exec (.andn g d a b) s = .next (s.result me d v4 (srcWords b))) ∧
    ((s.strm me).skip = false → ∃ v1 v2 v3 w1 w2 w3 : DWord,
      ofBits (s.reg me (wide5 a5)) (s.reg me (wide5 b5)) v1 (fun x y => x && y) ∧
      ofBits (s.reg me (wide5 a5)) (s.reg me (wide5 b5)) v2 (fun x y => x || y) ∧
      ofBits (s.reg me (wide5 a5)) (s.reg me (wide5 b5)) v3 (fun x y => x != y) ∧
      ofBits (s.reg me (wide5 a5)) (i.signExtend 64) w1 (fun x y => x && y) ∧
      ofBits (s.reg me (wide5 a5)) (i.signExtend 64) w2 (fun x y => x || y) ∧
      ofBits (s.reg me (wide5 a5)) (i.signExtend 64) w3 (fun x y => x != y) ∧
      exec (.andShortReg d5 a5 b5) s = .next (s.result me (wide5 d5) v1 1) ∧
      exec (.orShortReg d5 a5 b5) s = .next (s.result me (wide5 d5) v2 1) ∧
      exec (.xorShortReg d5 a5 b5) s = .next (s.result me (wide5 d5) v3 1) ∧
      exec (.andShortImm d5 a5 i) s = .next (s.result me (wide5 d5) w1 1) ∧
      exec (.orShortImm d5 a5 i) s = .next (s.result me (wide5 d5) w2 1) ∧
      exec (.xorShortImm d5 a5 i) s = .next (s.result me (wide5 d5) w3 1))) ∧
  (∀ s : State, ∀ (g : Guard) (d a : BitVec 6) (b : Src) (d5 a5 b5 : BitVec 5),
    let me := s.agent
    let x := s.reg me a
    let y := s.src me b
    let p := s.reg me (wide5 a5)
    let q := s.reg me (wide5 b5)
    (s.acts me g = true →
      exec (.min g d a b) s = .next (s.result me d (.ofInt 64 (min x.toInt y.toInt)) (srcWords b)) ∧
      exec (.max g d a b) s = .next (s.result me d (.ofInt 64 (max x.toInt y.toInt)) (srcWords b)) ∧
      exec (.minu g d a b) s = .next (s.result me d (.ofNat 64 (min x.toNat y.toNat)) (srcWords b)) ∧
      exec (.maxu g d a b) s = .next (s.result me d (.ofNat 64 (max x.toNat y.toNat)) (srcWords b))) ∧
    ((s.strm me).skip = false →
      exec (.minShortReg d5 a5 b5) s = .next (s.result me (wide5 d5) (.ofInt 64 (min p.toInt q.toInt)) 1) ∧
      exec (.maxShortReg d5 a5 b5) s = .next (s.result me (wide5 d5) (.ofInt 64 (max p.toInt q.toInt)) 1))) ∧
  (∀ s : State, ∀ (g : Guard) (d a : BitVec 6) (b : Src) (d5 a5 b5 : BitVec 5) (i : BitVec 14),
    let me := s.agent
    let x := s.reg me a
    let n := (s.src me b).toNat
    let p := s.reg me (wide5 a5)
    let m := (s.reg me (wide5 b5)).toNat
    (s.acts me g = true →
      exec (.shl g d a b) s = .next (s.result me d (.ofNat 64 (x.toNat * 2 ^ n)) (srcWords b)) ∧
      exec (.shr g d a b) s = .next (s.result me d (.ofNat 64 (x.toNat / 2 ^ n)) (srcWords b)) ∧
      exec (.sra g d a b) s = .next (s.result me d (.ofInt 64 (x.toInt / 2 ^ n)) (srcWords b)) ∧
      exec (.rotl g d a b) s =
        .next (s.result me d (.ofNat 64 (x.toNat * 2 ^ (n % 64) + x.toNat / 2 ^ (64 - n % 64))) (srcWords b)) ∧
      exec (.rotr g d a b) s =
        .next (s.result me d (.ofNat 64 (x.toNat / 2 ^ (n % 64) + x.toNat * 2 ^ (64 - n % 64))) (srcWords b))) ∧
    ((s.strm me).skip = false →
      exec (.shlShortReg d5 a5 b5) s = .next (s.result me (wide5 d5) (.ofNat 64 (p.toNat * 2 ^ m)) 1) ∧
      exec (.shrShortReg d5 a5 b5) s = .next (s.result me (wide5 d5) (.ofNat 64 (p.toNat / 2 ^ m)) 1) ∧
      exec (.sraShortReg d5 a5 b5) s = .next (s.result me (wide5 d5) (.ofInt 64 (p.toInt / 2 ^ m)) 1) ∧
      (i.toNat ≤ 63 →
        exec (.shlShortImm d5 a5 i) s = .next (s.result me (wide5 d5) (.ofNat 64 (p.toNat * 2 ^ i.toNat)) 1) ∧
        exec (.shrShortImm d5 a5 i) s = .next (s.result me (wide5 d5) (.ofNat 64 (p.toNat / 2 ^ i.toNat)) 1) ∧
        exec (.sraShortImm d5 a5 i) s = .next (s.result me (wide5 d5) (.ofInt 64 (p.toInt / 2 ^ i.toNat)) 1))) ∧
    (63 < i.toNat → (Instr.shlShortImm d5 a5 i).wf = false ∧ (Instr.shrShortImm d5 a5 i).wf = false ∧
      (Instr.sraShortImm d5 a5 i).wf = false))

/-- CLZ, CTZ and POPC: `k` zeros above or below the first one, 64 for a zero; the number of ones (R103). BFX and BFI, bit by
bit: of a field of width `wid` at offset `off`, `n` bits exist, none where the width is 0 or the offset 64 or more; BFX
returns them with zeros above, BFI writes them and keeps the rest of sD; offset and width are the whole registers, the two
immediates, or the literal's sub-fields (R104). MOVI writes a constant sign-extended, zero-extended, or its upper half
alone (R105). -/
def Obligations.FieldsCountsAndConstants : Prop :=
  (∀ (s : State) (g : Guard) (d a : BitVec 6), s.acts s.agent g = true →
    let x := s.reg s.agent a
    (∀ k, k ≤ 64 → (∀ i, 64 - k ≤ i → i < 64 → x.getLsbD i = false) → (k < 64 → x.getLsbD (63 - k) = true) →
      exec (.clz g d a) s = .next (s.result s.agent d (.ofNat 64 k) 2)) ∧
    (∀ k, k ≤ 64 → (∀ i, i < k → x.getLsbD i = false) → (k < 64 → x.getLsbD k = true) →
      exec (.ctz g d a) s = .next (s.result s.agent d (.ofNat 64 k) 2)) ∧
    exec (.popc g d a) s =
      .next (s.result s.agent d (.ofNat 64 (Finset.univ.filter (fun i : Fin 64 => x.getLsbD i = true)).card) 2)) ∧
  (∀ (s : State) (g : Guard) (d a : BitVec 6) (f : BField), s.acts s.agent g = true →
    let x := s.reg s.agent a
    let old := s.reg s.agent d
    let off := match f with
      | .regs b _ => (s.reg s.agent b).toNat
      | .imm o _ => o.toNat
      | .lit w => w.toNat % 64
    let wid := match f with
      | .regs _ c => (s.reg s.agent c).toNat
      | .imm _ w => w.toNat
      | .lit w => w.toNat / 64 % 64
    let n := if wid ≠ 0 ∧ off < 64 then min wid (64 - off) else 0
    ∃ v w : DWord,
      exec (.bfx g d a f) s = .next (s.result s.agent d v (bfieldWords f)) ∧
      exec (.bfi g d a f) s = .next (s.result s.agent d w (bfieldWords f)) ∧
      (∀ i, i < 64 → v.getLsbD i = (decide (i < n) && x.getLsbD (off + i))) ∧
      (∀ i, i < 64 → w.getLsbD i = if off ≤ i ∧ i < off + n then x.getLsbD (i - off) else old.getLsbD i)) ∧
  (∀ (s : State) (g : Guard) (d : BitVec 6) (w : Word) (d5 : BitVec 5) (j : BitVec 19),
    let me := s.agent
    (s.acts me g = true →
      exec (.movi g false false d w) s = .next (s.result me d (.ofInt 64 w.toInt) 3) ∧
      exec (.movi g false true d w) s = .next (s.result me d (.ofNat 64 w.toNat) 3) ∧
      exec (.movi g true false d w) s =
        .next (s.result me d (.ofNat 64 (w.toNat * 2 ^ 32 + (s.reg me d).toNat % 2 ^ 32)) 3)) ∧
    ((s.strm me).skip = false →
      exec (.moviShort d5 j) s = .next (s.result me (wide5 d5) (.ofInt 64 j.toInt) 1)))

/-- LEA computes an address modulo 2^64 and checks nothing (R106); SEL takes one of its sources by the predicate of MODE,
its own guard deciding whether it acts (R108). -/
def Obligations.AddressesAndSelections : Prop :=
  (∀ (s : State) (g : Guard) (sh : BitVec 3) (d a : BitVec 6) (b : Src), s.acts s.agent g = true →
    exec (.lea g sh d a b) s =
      .next (s.result s.agent d (.ofNat 64 ((s.reg s.agent a).toNat + (s.src s.agent b).toNat * 2 ^ sh.toNat)) (srcWords b))) ∧
  (∀ (s : State) (g : Guard) (pm : BitVec 4) (d a : BitVec 6) (b : Src), s.acts s.agent g = true →
    ((s.strm s.agent).pred pm = true →
      exec (.sel g pm d a b) s = .next (s.result s.agent d (s.reg s.agent a) (srcWords b))) ∧
    ((s.strm s.agent).pred pm = false →
      exec (.sel g pm d a b) s = .next (s.result s.agent d (s.src s.agent b) (srcWords b))))

/-- CMP and PLOG write one predicate (R107, R109); NOP moves past its word without an issue (R43). -/
def Obligations.ComparisonsAndPredicates : Prop :=
  ∀ (s : State) (g : Guard) (c : BitVec 5) (d : BitVec 4) (a : BitVec 6) (b : Src) (table p : BitVec 4) (q : PlogB),
    let me := s.agent
    let x := s.reg me a
    let y := s.src me b
    let holds := match c.toNat with
      | 0 => decide (x = y)
      | 1 => decide (x ≠ y)
      | 2 => decide (x.toInt < y.toInt)
      | 3 => decide (y.toInt ≤ x.toInt)
      | 4 => decide (x.toNat < y.toNat)
      | 5 => decide (y.toNat ≤ x.toNat)
      | 6 => decide (x &&& y ≠ 0)
      | _ => decide (x &&& y = 0)
    let second := match q with
      | .pred r => (s.strm me).pred r
      | .lit w => w.getLsbD 0
    (s.acts me g = true → c.toNat ≤ 7 →
      exec (.cmp g c d a b) s = .next ((s.setPred me d holds).advance me (srcWords b))) ∧
    (s.acts me g = true →
      exec (.plog g table d p q) s =
        .next ((s.setPred me d (table.getLsbD (2 * b2n ((s.strm me).pred p) + b2n second))).advance me (plogWords q))) ∧
    exec .nop s = .next (s.updStrm me (fun t => { t with word := t.word + 1, skip := false }))

/-- The result of an instruction is written to one register, and a result addressed to s0 or p0 is discarded (R53, R94):
what the register set, the predicates and the position of the stream hold afterwards. -/
def Obligations.ResultsAndDiscards : Prop :=
  ∀ (s : State) (d r : BitVec 6) (p q : BitVec 4) (v : DWord) (x : Bool) (n : Nat), realAgent s.agent = true →
    let me := s.agent
    let t := s.result me d v n
    let u := (s.setPred me p x).advance me n
    t.reg me r = (if r = 0 then 0 else if r = d then v else s.reg me r) ∧
    (t.strm me).pred q = (s.strm me).pred q ∧ (t.strm me).word = (s.strm me).word + n ∧
    (t.strm me).line = (s.strm me).line ∧
    (u.strm me).pred q = (if q = 0 then true else if q = p then x else (s.strm me).pred q) ∧
    u.reg me r = s.reg me r ∧ (u.strm me).word = (s.strm me).word + n

/-- An instruction whose guard fails, and one that TRET.skip passes over, only issues: it moves past its words, taking
its issue-beat (R50, R387). Every long and literal form, but that the opcodes of the firmware's partition are refused to
a tenant's stream before its guard is read (R62, R398).
Readings of the model: log 32. -/
def Obligations.FailedGuardOnlyIssues : Prop :=
  ∀ (s : State) (i : Instr) (g : Guard), i.guard? = some g →
    (firmwareRow i = false ∨ s.partOf s.agent = 0) → s.acts s.agent g = false → exec i s = .next (s.advance s.agent i.words)

/-- The frame of the instructions that write one scalar register, in the streams that hold scalar registers and in packet
threads: that register and the position of the stream change; no other register, no predicate, no loop count, no other
stream, no byte of any memory and no other part of the machine does. -/
def Obligations.ScalarResultFrame : Prop :=
  ∀ (s t : State) (i : Instr) (d : BitVec 6), scalarAgent s.agent = true → scalarDest i = some d → exec i s = .next t →
    s.onlyStream t s.agent ∧ (s.strm s.agent).keepsRegs (t.strm s.agent) d ∧
    (t.strm s.agent).preds = (s.strm s.agent).preds ∧ (t.strm s.agent).lcnt = (s.strm s.agent).lcnt ∧
    (t.strm s.agent).ecnt = (s.strm s.agent).ecnt ∧ (∀ a, realAgent a = true → a ≠ s.agent → t.strm a = s.strm a) ∧
    s.sameBytes t

/-! # Branches, loops, flags, waits (R110 to R119) -/

/-- Branches go to the exact target line, of the line that holds the branch or of a register (R110, R111); calls write the
return line, all ones where the line has no NEXT, and CALLX takes its target before that write (R112). After a branch the
stream stands at its target line, still to be reached; registers, predicates, loop counts, other streams and every byte
are as before; a target outside the store raises the fetch fault only when it is reached.
Readings of the model: log 23. -/
def Obligations.BranchesAndCalls : Prop :=
  (∀ (s : State) (g : Guard) (d a : BitVec 6) (off : Word) (o : BitVec 18) (d5 : BitVec 5) (j : BitVec 19),
    let me := s.agent
    let l := (s.strm me).line
    let next := s.nextOf me
    let back : DWord := if next = 0 then 0xFFFFFFFFFFFFFFFF else .ofInt 64 (l + next)
    let abs : Int := ((s.reg me a).toNat : Int)
    (s.acts me g = true →
      exec (.br g off) s = .next (s.branch me (l + off.toInt)) ∧
      exec (.brx g a o) s = .next (s.branch me (abs + (o.toNat : Int))) ∧
      exec (.call g d off) s = .next ((s.setReg me d back).branch me (l + off.toInt)) ∧
      exec (.callx g d a o) s = .next ((s.setReg me d back).branch me (abs + (o.toNat : Int))) ∧
      exec (.ret g a) s = .next (s.branch me abs)) ∧
    ((s.strm me).skip = false →
      exec (.brShort j) s = .next (s.branch me (l + j.toInt)) ∧
      exec (.callShort d5 j) s = .next ((s.setReg me (wide5 d5) back).branch me (l + j.toInt)))) ∧
  (∀ (s : State) (l : Int), realAgent s.agent = true →
    let t := s.branch s.agent l
    let u := t.strm s.agent
    let v := s.strm s.agent
    u.line = l ∧ u.word = 0 ∧ u.reached = false ∧ u.mode = .running ∧ u.regs = v.regs ∧ u.preds = v.preds ∧
    u.lcnt = v.lcnt ∧ u.ecnt = v.ecnt ∧ (∀ a, realAgent a = true → a ≠ s.agent → t.strm a = s.strm a) ∧ s.sameBytes t)

/-- LOOP sets N trips, at most 2^32, and S stages (R114). BLOOP, while trips remain and then while drain passes remain, counts
one off, rotates the predicates and branches; the last pass rotates and falls through; without a loop nothing changes. In
the vector stream a rotation turns the rotating region too (R115). -/
def Obligations.HardwareLoops : Prop :=
  (∀ (s : State) (g : Guard) (s1 : BitVec 3) (n : Src), s.acts s.agent g = true →
    let me := s.agent
    let trips := min (s.srcZ me n).toNat (2 ^ 32)
    let t := s.strm me
    ∃ u : Stream, exec (.loop g s1 n) s = .next ((s.updStrm me (fun _ => u)).advance me (srcWords n)) ∧
      u.regs = t.regs ∧ u.lcnt.toNat = trips - 1 ∧ u.ecnt.toNat = (if trips = 0 then 1 else s1.toNat + 1) ∧
      u.preds.getLsbD 8 = decide (trips ≠ 0) ∧ (∀ q, 9 ≤ q → u.preds.getLsbD q = false) ∧
      (∀ q, q < 8 → u.preds.getLsbD q = t.preds.getLsbD q)) ∧
  (∀ (s : State) (g : Guard) (off : Word) (j : BitVec 19),
    let me := s.agent
    let t := s.strm me
    let turned (u : Stream) : State :=
      if agentCls me = .vec then (s.updStrm me (fun _ => u)).updOwn me (fun x => { x with v := x.v.turn })
      else s.updStrm me (fun _ => u)
    let pass (i : Instr) (n : Nat) (dest : Int) : Prop :=
      (t.lcnt ≠ 0 → ∃ u, t.rotated u true ∧ u.lcnt.toNat + 1 = t.lcnt.toNat ∧ u.ecnt = t.ecnt ∧
        exec i s = .next ((turned u).branch me dest)) ∧
      (t.lcnt = 0 → 1 < t.ecnt.toNat → ∃ u, t.rotated u false ∧ u.lcnt = 0 ∧ u.ecnt.toNat + 1 = t.ecnt.toNat ∧
        exec i s = .next ((turned u).branch me dest)) ∧
      (t.lcnt = 0 → t.ecnt = 1 → ∃ u, t.rotated u false ∧ u.lcnt = 0 ∧ u.ecnt = 0 ∧
        exec i s = .next ((turned u).advance me n)) ∧
      (t.lcnt = 0 → t.ecnt = 0 → exec i s = .next (s.advance me n))
    (s.acts me g = true → pass (.bloop g off) 3 (t.line + off.toInt)) ∧
    (t.skip = false → pass (.bloopShort j) 1 (t.line + j.toInt)))

/-- FWAIT goes on once its flag has reached the value, and blocks the stream until then; FREAD reads a flag (R117). FSIG adds
to a flag modulo 2^16 and FSET sets it: in the control, loader and storer streams at once, and so in a vector or matrix
stream with no earlier result still to be written; with a result in flight or an operation running the flag keeps its
value while the stream goes on (R97, R98). Reads in the core cycle of the change see the value from before it; at the
cycle's end the FSET of highest priority gives the base and every increment is added, in whatever order they came (R97). -/
def Obligations.CompletionFlags : Prop :=
  (∀ (s : State) (g : Guard) (d f : BitVec 6) (lit : Bool) (v : BitVec 16) (f5 : BitVec 5),
    let me := s.agent
    let w := if lit = true then 3 else 2
    let now (n : Nat) := ((s.own me).flag n).toNat
    (s.acts me g = true →
      (v.toNat ≤ now f.toNat → exec (.fwait g f lit v) s = .next (s.advance me w)) ∧
      (now f.toNat < v.toNat → exec (.fwait g f lit v) s = .next (s.block me)) ∧
      exec (.fread g d f) s = .next (s.result me d (.ofNat 64 (now f.toNat)) 2)) ∧
    ((s.strm me).skip = false →
      (v.toNat ≤ now f5.toNat → exec (.fwaitShort f5 v) s = .next (s.advance me 1)) ∧
      (now f5.toNat < v.toNat → exec (.fwaitShort f5 v) s = .next (s.block me)))) ∧
  (∀ (s : State) (g : Guard) (f : BitVec 6) (lit : Bool) (v : BitVec 16) (f5 : BitVec 5),
    let me := s.agent
    let x := s.own me
    let w := if lit = true then 3 else 2
    (agentCls me = .vec → x.v.inflight = [] ∧ x.sigs = []) →
    (agentCls me = .mat → x.m.cop = none ∧ x.m.rop = none ∧ x.m.clr = none ∧ x.m.gread = none ∧ x.m.followOns = [] ∧
      x.sigs = []) →
    (s.acts me g = true →
      exec (.fsig g f lit v) s = .next ((s.updOwn me (fun y => y.addFlag f.toNat v)).advance me w) ∧
      exec (.fset g f lit v) s = .next ((s.updOwn me (fun y => y.setFlag (clsCode (agentCls me)) f.toNat v)).advance me w)) ∧
    ((s.strm me).skip = false →
      exec (.fsigShort f5 v) s = .next ((s.updOwn me (fun y => y.addFlag f5.toNat v)).advance me 1))) ∧
  (∀ (x : Slot) (f n p q : Nat) (u v w : BitVec 16),
    (x.addFlag f v).flag n = x.flag n ∧ (x.setFlag p f v).flag n = x.flag n ∧
    (x.flagCyc = [] →
      (x.addFlag f v).newCycle.flag n = (if n = f then x.flag f + v else x.flag n) ∧
      (x.setFlag p f v).newCycle.flag n = (if n = f then v else x.flag n) ∧
      (p < q → ∀ y ∈ [((x.addFlag f u).setFlag p f v).setFlag q f w, ((x.setFlag q f w).setFlag p f v).addFlag f u,
          ((x.setFlag p f v).addFlag f u).setFlag q f w], y.newCycle.flag f = v + u))) ∧
  (∀ (x : Slot) (f : Nat) (set : Bool) (v : BitVec 16), x.sigs = [] →
    ((∃ r ∈ x.v.inflight, r.ix < x.v.nextIx) →
      (x.signal .vec f set v).flags = x.flags ∧ (x.signal .vec f set v).flagCyc = x.flagCyc ∧
      (x.signal .vec f set v).sigs.length = 1) ∧
    ((∃ o, x.m.cop = some o ∧ o.stat = .running ∧ o.kind = .mm ∧ o.seq < x.m.nextSeq) →
      (x.signal .mat f set v).flags = x.flags ∧ (x.signal .mat f set v).flagCyc = x.flagCyc ∧
      (x.signal .mat f set v).sigs.length = 1))

/-- WAITB takes `n` issue-beats, each a step of the stream at its place: begun with none left to take, the n-th step of it
moves the stream past its words (R118). SHALT halts the stream and, where it names a flag, signals it by 1: in a loader or
storer stream at once; in a matrix stream at once where no operation of it is unfinished, else when the last has finished;
in a vector stream whose replies have all arrived after its results in flight are written, none left; while replies are
outstanding the vector stream drains first (R119, R130). -/
def Obligations.WaitsAndHalts : Prop :=
  (∀ (s : State) (g : Guard) (lit : Bool) (n : BitVec 16), s.acts s.agent g = true →
    let me := s.agent
    let w := if lit = true then 3 else 2
    let k := (s.strm me).waitLeft
    let left := if k = 0 then n.toNat else k
    (left ≤ 1 → exec (.waitb g lit n) s = .next (s.advance me w)) ∧
    (1 < left → exec (.waitb g lit n) s =
      .next ((s.updStrm me (fun t => { t with mode := .running, waitLeft := left - 1 })).issued me)) ∧
    (realAgent me = true → k = 0 → 1 ≤ n.toNat → ∃ us : List State, us.length = n.toNat + 1 ∧ us.head? = some s ∧
      (∀ (i : Nat) (a b : State), us[i]? = some a → us[i + 1]? = some b → exec (.waitb g lit n) a = .next b) ∧
      (∀ (i : Nat) (a : State), us[i]? = some a → i < n.toNat → (a.strm me).word = (s.strm me).word) ∧
      ∀ b, us.getLast? = some b → (b.strm me).word = (s.strm me).word + w ∧ (b.strm me).mode = .running ∧
        (b.strm me).regs = (s.strm me).regs ∧ s.sameBytes b)) ∧
  (∀ (s : State) (g : Guard) (f : Option (BitVec 6)) (c k : Nat) (cls : Cls), s.agent = .strm c k cls →
    s.acts s.agent g = true →
    let x := s.slot c k
    ∃ t, exec (.shalt g f) s = .next t ∧
      let signalled : Prop := ∀ n, (t.slot c k).flagNow n = x.flagNow n + (if f.map (·.toNat) = some n then 1 else 0)
      let halted : Prop := (t.strm s.agent).mode = .halted ∧ (t.strm s.agent).word = (s.strm s.agent).word + 2 ∧
        (t.strm s.agent).regs = (s.strm s.agent).regs
      s.sameBytes t ∧ (∀ n, (t.slot c k).flag n = x.flag n) ∧
      (cls = .ldr ∨ cls = .str → halted ∧ signalled) ∧
      (cls = .mat → halted ∧
        (x.m.cop = none → x.m.rop = none → x.m.clr = none → x.m.gread = none → x.m.followOns = [] → x.sigs = [] → signalled) ∧
        (∀ o, x.m.cop = some o → o.stat = .running → o.kind = .mm → o.seq < x.m.nextSeq → x.sigs = [] →
          (∀ n, (t.slot c k).flagNow n = x.flagNow n) ∧ (t.slot c k).sigs.length = f.toList.length)) ∧
      (cls = .vec → (∀ r ∈ x.v.inflight, r.arrived = true ∧ r.fault = none) →
        halted ∧ (t.slot c k).v.inflight = [] ∧ (x.sigs = [] → signalled)) ∧
      (cls = .vec → (∃ r ∈ x.v.inflight, r.arrived = false) →
        (t.strm s.agent).mode = .draining (f.map (·.toNat)).toList ∧ (∀ n, x.sigs = [] → (t.slot c k).flagNow n = x.flagNow n)))

/-! # The vector stream (file 06) -/

/-- Element-wise instructions whose queue sources, if any, hold what they need (R138 to R145): on integer types the exact
result, wrapped or under ROUND 001 saturated; on floating-point types the operation of file 04 in the instruction's
rounding mode on operands that FTZVEC may have flushed; every latency is that of R129. -/
def Obligations.VectorArithmetic : Prop :=
  ∀ (s : State) (x : VArgs), s.acts s.agent x.g = true →
    let me := (s.own s.agent).seen
    let w := vWide x.ty
    let n := if w = true then 32 else 16
    let a := me.srcA w x.a
    let b := a.2.srcB w x.b
    let c := me.v.elems w (((x.d.toNat : Int) + x.c.toInt) % 1024).toNat
    let f : Fmt := if w = true then .fp32 else .bf16
    let z := me.regs.fpctl.getLsbD 0
    let m := Rm.ofCode x.round.toNat
    let sr (e : Nat) := me.srAt x.round (e / 64) (e % 64)
    let A (e : Nat) := a.1.getD e 0
    let B (e : Nat) := b.1.getD e 0
    let C (e : Nat) := c.getD e 0
    let I (g : Int → Int → Int → Int) (e : Nat) : Nat × FFlags :=
      let v := g (signedOf n (A e)) (signedOf n (B e)) (signedOf n (C e))
      (bitsOf n (if x.round = 1 then max (-2 ^ (n - 1)) (min (2 ^ (n - 1) - 1) v) else v), ffNone)
    let done (lat16 lat32 : Nat) (op : Nat → Nat × FFlags) : Host.Outcome State Fault Refusal :=
      .next (s.vectorResult b.2 w x.d.toNat (if w = true then lat32 else lat16) (vsrcBWords x.b) (me.v.mask x.mask.toNat) op)
    me.qSay ((qOfA w x.a).toList ++ (qOfB w x.b).toList) 3 = .go →
    (vInt x.ty = true →
      exec (.vadd x) s = done 3 4 (I (fun a b _ => a + b)) ∧ exec (.vsub x) s = done 3 4 (I (fun a b _ => a - b)) ∧
      exec (.vmul x) s = done 4 5 (I (fun a b _ => a * b)) ∧ exec (.fma x) s = done 4 6 (I (fun a b c => a * b + c)) ∧
      exec (.fms x) s = done 4 6 (I (fun a b c => a * b - c)) ∧
      exec (.fnma x) s = done 4 6 (I (fun a b c => -(a * b) + c)) ∧
      exec (.vabs x) s = done 1 2 (I (fun a _ _ => |a|)) ∧ exec (.vneg x) s = done 1 2 (I (fun a _ _ => -a))) ∧
    (vInt x.ty = false →
      exec (.vadd x) s = done 3 4 (fun e => addOp f (flush f z (A e)) (flush f z (B e)) m (sr e) z) ∧
      exec (.vsub x) s = done 3 4 (fun e => addOp f (flush f z (A e)) (negOp f (flush f z (B e))) m (sr e) z) ∧
      exec (.vmul x) s = done 4 5 (fun e => mulOp f (flush f z (A e)) (flush f z (B e)) m (sr e) z) ∧
      exec (.fma x) s =
        done 4 6 (fun e => fmaOp f (flush f z (A e)) (flush f z (B e)) (flush f z (C e)) m (sr e) z) ∧
      exec (.fms x) s =
        done 4 6 (fun e => fmaOp f (flush f z (A e)) (flush f z (B e)) (negOp f (flush f z (C e))) m (sr e) z) ∧
      exec (.fnma x) s =
        done 4 6 (fun e => fmaOp f (negOp f (flush f z (A e))) (flush f z (B e)) (flush f z (C e)) m (sr e) z) ∧
      exec (.vdiv x) s = done 12 24 (fun e => divOp f (flush f z (A e)) (flush f z (B e)) m (sr e) z) ∧
      exec (.vsqrt x) s = done 12 24 (fun e => sqrtOp f (flush f z (A e)) m (sr e) z) ∧
      exec (.vabs x) s = done 1 2 (fun e => (A e % 2 ^ (n - 1), ffNone)) ∧
      exec (.vneg x) s = done 1 2 (fun e => (A e ^^^ 2 ^ (n - 1), ffNone)))

/-- Logic, shifts, selections, moves, minima and comparisons (R140 to R145). -/
def Obligations.VectorLogicAndSelection : Prop :=
  ∀ (s : State) (x : VArgs), s.acts s.agent x.g = true →
    let me := (s.own s.agent).seen
    let w := vWide x.ty
    let n := if w = true then 32 else 16
    let a := me.srcA w x.a
    let b := a.2.srcB w x.b
    let f : Fmt := if w = true then .fp32 else .bf16
    let z := me.regs.fpctl.getLsbD 0
    let A (e : Nat) := a.1.getD e 0
    let B (e : Nat) := b.1.getD e 0
    let lanes := me.v.mask x.mask.toNat
    let done (lat16 lat32 : Nat) (op : Nat → Nat × FFlags) : Host.Outcome State Fault Refusal :=
      .next (s.vectorResult b.2 w x.d.toNat (if w = true then lat32 else lat16) (vsrcBWords x.b) lanes op)
    let fmin (isMax num : Bool) (e : Nat) := minOp f isMax num (flush f z (A e)) (flush f z (B e))
    me.qSay ((qOfA w x.a).toList ++ (qOfB w x.b).toList) 3 = .go →
    (vInt x.ty = true →
      exec (.vand x) s = done 1 2 (fun e => (A e &&& B e, ffNone)) ∧
      exec (.vor x) s = done 1 2 (fun e => (A e ||| B e, ffNone)) ∧
      exec (.vxor x) s = done 1 2 (fun e => (A e ^^^ B e, ffNone)) ∧
      exec (.vshl x) s = done 2 2 (fun e => (if B e < n then A e * 2 ^ B e % 2 ^ n else 0, ffNone)) ∧
      exec (.vshr x) s = done 2 2 (fun e => (if B e < n then A e / 2 ^ B e else 0, ffNone)) ∧
      exec (.vsra x) s = done 2 2 (fun e => (bitsOf n (signedOf n (A e) / 2 ^ min (B e) n), ffNone)) ∧
      exec (.vmin x) s = done 2 3 (fun e => (if signedOf n (A e) ≤ signedOf n (B e) then A e else B e, ffNone)) ∧
      exec (.vmax x) s = done 2 3 (fun e => (if signedOf n (A e) < signedOf n (B e) then B e else A e, ffNone)) ∧
      (x.c.toNat ≤ 5 → exec (.vcmp x) s = .next (s.maskResult b.2 x.d.toNat (if w = true then 3 else 2) (vsrcBWords x.b)
        lanes (fun e => (b2n (match x.c.toNat with
          | 0 => decide (signedOf n (A e) = signedOf n (B e))
          | 1 => decide (signedOf n (A e) ≠ signedOf n (B e))
          | 2 => decide (signedOf n (A e) < signedOf n (B e))
          | 3 => decide (signedOf n (A e) ≤ signedOf n (B e))
          | 4 => decide (signedOf n (B e) < signedOf n (A e))
          | _ => decide (signedOf n (B e) ≤ signedOf n (A e))), ffNone))))) ∧
    (vInt x.ty = false →
      exec (.vmin x) s = done 2 3 (fmin false false) ∧ exec (.vmax x) s = done 2 3 (fmin true false) ∧
      exec (.vminnum x) s = done 2 3 (fmin false true) ∧ exec (.vmaxnum x) s = done 2 3 (fmin true true) ∧
      exec (.vcmp x) s = .next (s.maskResult b.2 x.d.toNat (if w = true then 3 else 2) (vsrcBWords x.b) lanes
        (fun e => let r := fCmp f x.c.toNat (flush f z (A e)) (flush f z (B e)); (b2n r.1, r.2)))) ∧
    exec (.vsel x) s = done 1 2 (fun e => (if (me.v.mask x.c.toNat).getLsbD e then A e else B e, ffNone)) ∧
    exec (.vmov x) s =
      done 1 2 (fun e => (match x.b with | .lit _ => B e | .reg _ => A e | .queue _ => A e, ffNone))

/-- A short vector instruction is the long one on window-relative registers under p0, k0 and RNE, of one word (R54, R59);
in the short FMA the destination is the addend. With an odd START an fp32 pair begins at an odd register, as log 110 has it.
Readings of the model: log 110. -/
def Obligations.ShortVectorForms : Prop :=
  ∀ (s : State) (d a b : BitVec 5), (s.strm s.agent).skip = false →
    let me := (s.own s.agent).seen
    let reg (r : BitVec 5) : Nat := ((if me.v.size = 0 then 0 else me.v.start) + r.toNat) % 1024
    let z := me.regs.fpctl.getLsbD 0
    let E (w : Bool) (r : BitVec 5) (e : Nat) : Nat := (me.v.elems w (reg r)).getD e 0
    let done (w : Bool) (lat : Nat) (op : (BitVec 5 → Nat) → Nat × FFlags) : Host.Outcome State Fault Refusal :=
      .next (s.vectorResult me w (reg d) lat 1 (BitVec.allOnes 1024) (fun e => op (fun r => E w r e)))
    let F (f : Fmt) (x : Nat) := flush f z x
    exec (.vaddBf16Short d a b) s = done false 3 (fun v => addOp .bf16 (F .bf16 (v a)) (F .bf16 (v b)) .rne 0 z) ∧
    exec (.vaddFp32Short d a b) s = done true 4 (fun v => addOp .fp32 (F .fp32 (v a)) (F .fp32 (v b)) .rne 0 z) ∧
    exec (.vsubBf16Short d a b) s =
      done false 3 (fun v => addOp .bf16 (F .bf16 (v a)) (negOp .bf16 (F .bf16 (v b))) .rne 0 z) ∧
    exec (.vmulBf16Short d a b) s = done false 4 (fun v => mulOp .bf16 (F .bf16 (v a)) (F .bf16 (v b)) .rne 0 z) ∧
    exec (.vmulFp32Short d a b) s = done true 5 (fun v => mulOp .fp32 (F .fp32 (v a)) (F .fp32 (v b)) .rne 0 z) ∧
    exec (.fmaBf16Short d a b) s =
      done false 4 (fun v => fmaOp .bf16 (F .bf16 (v a)) (F .bf16 (v b)) (F .bf16 (v d)) .rne 0 z) ∧
    exec (.fmaFp32Short d a b) s =
      done true 6 (fun v => fmaOp .fp32 (F .fp32 (v a)) (F .fp32 (v b)) (F .fp32 (v d)) .rne 0 z) ∧
    exec (.vminBf16Short d a b) s = done false 2 (fun v => minOp .bf16 false false (F .bf16 (v a)) (F .bf16 (v b))) ∧
    exec (.vmaxBf16Short d a b) s = done false 2 (fun v => minOp .bf16 true false (F .bf16 (v a)) (F .bf16 (v b))) ∧
    exec (.vmovBf16Short d a) s = done false 1 (fun v => (v a, ffNone))

/-- Axis instructions (R146 to R152): an element of a rotation or broadcast comes from the row and column that the rule
names; a reduction gives every cell the tree of its row or column, masked-out lanes standing as the identity; conversions
go element by element, two to a cell where the narrow format has one byte. -/
def Obligations.VectorAxisInstructions : Prop :=
  ∀ (s : State) (g : Guard) (ty : VType) (mask : BitVec 4) (d a : BitVec 10) (n : NSrc) (round : BitVec 3) (fn fm : BitVec 8),
    s.acts s.agent g = true →
    let me := (s.own s.agent).seen
    let w := vWide ty
    let lanes := me.v.mask mask.toNat
    let k := nsrcNat n
    let at2 (r c : Nat) : Nat := (me.v.elems w a.toNat).getD (64 * r + c) 0
    let moved (lat : Nat) (src : Nat → Nat → Nat) : Host.Outcome State Fault Refusal :=
      .next ((s.updOwn s.agent (fun y => y.issue lat (.regs (me.v.dest w d.toNat
        ((List.range 1024).map (fun e => src (e / 64) (e % 64))))) lanes ffNone)).advance s.agent (nsrcWords n))
    let kept (r c : Nat) : Nat := if lanes.getLsbD (64 * r + c) then at2 r c else redIdentity ty fn.toNat
    let z := me.regs.fpctl.getLsbD 0
    let m := Rm.ofCode round.toNat
    let from1 := cvtSrc fm
    let to1 := cvtDst fm
    let src1 (r e : Nat) : Nat := (me.v.elems (from1.size == 4) r).getD e 0
    exec (.vrotRow g ty mask d a n) s = moved 2 (fun r c => at2 r ((c + k) % 64)) ∧
    exec (.vrotCol g ty mask d a n) s = moved 4 (fun r c => at2 ((r + k) % 16) c) ∧
    (k < 64 → exec (.vbcastRow g ty mask d a n) s = moved 2 (fun r _ => at2 r k)) ∧
    (k < 16 → exec (.vbcastCol g ty mask d a n) s = moved 4 (fun _ c => at2 k c)) ∧
    (∃ xs fl, exec (.vredRow g ty round mask d a fn) s =
        .next ((s.updOwn s.agent (fun y => y.issue (if w = true then 8 else 6) (.regs (me.v.dest w d.toNat xs))
          (BitVec.allOnes 1024) fl)).advance s.agent 2) ∧ xs.length = 1024 ∧
      ∀ r c, r < 16 → c < 64 → xs.getD (64 * r + c) 0 =
        (treeFold (redNode ty round fn.toNat z (me.srAt round r 0)) 6 ((List.range 64).map (kept r))).1) ∧
    (∃ xs fl, exec (.vredCol g ty round mask d a fn) s =
        .next ((s.updOwn s.agent (fun y => y.issue (if w = true then 10 else 8) (.regs (me.v.dest w d.toNat xs))
          (BitVec.allOnes 1024) fl)).advance s.agent 2) ∧ xs.length = 1024 ∧
      ∀ r c, r < 16 → c < 64 → xs.getD (64 * r + c) 0 =
        (treeFold (redNode ty round fn.toNat z (me.srAt round 0 c)) 4 ((List.range 16).map (fun r => kept r c))).1) ∧
    exec (.vcvt g round mask d a fm) s =
      .next (s.vectorResult me (to1.size == 4) d.toNat 4 2 lanes (fun e =>
        convert to1 from1 (src1 a.toNat e) m (me.srAt round (e / 64) (e % 64)) z)) ∧
    (∃ fl, exec (.vpack g round mask d a fm) s =
      .next ((s.updOwn s.agent (fun y => y.issue 4 (.regs (me.v.dest false d.toNat ((List.range 1024).map (fun e =>
        let half (i : Nat) : Nat := if lanes.getLsbD e then (convert to1 from1
          (src1 (a.toNat + i * (if from1.size == 4 then 2 else 1)) e) m (me.srAt round (e / 64) (2 * (e % 64) + i)) z).1 else 0
        half 0 % 256 + half 1 % 256 * 256)))) lanes fl)).advance s.agent 2)) ∧
    (∃ fl, exec (.vunpk g mask d a fm) s =
      .next ((s.updOwn s.agent (fun y => y.issue 3 (.regs (
        let cell (e : Nat) : Nat := (me.v.elems false a.toNat).getD e 0
        let half (p : Nat → Nat) : List Nat := (List.range 1024).map (fun e =>
          if lanes.getLsbD e then (convert to1 from1 (p (cell e)) .rne 0 z).1 else 0)
        me.v.dest (to1.size == 4) d.toNat (half (· % 256)) ++
          me.v.dest (to1.size == 4) (d.toNat + (if to1.size == 4 then 2 else 1)) (half (· / 256)))) lanes fl)).advance s.agent 2))

/-- Lane masks are combined bit by bit, or filled by a rectangle of rows and columns, one beat in flight (R153, R154). VRGN
sets the rotating region with its base at the first register (R125); VYIELD takes wait beats while results are in flight
and then offers the units, where another slot asks for them (R137). -/
def Obligations.MasksRegionAndYield : Prop :=
  (∀ (s : State) (g : Guard) (d a b : BitVec 4) (f : KFillArgs), s.acts s.agent g = true →
    let me := (s.own s.agent).seen
    let done (n : Nat) (m : Mask) : Host.Outcome State Fault Refusal :=
      .next ((s.updOwn s.agent (fun y => y.issue 1 (.mask d.toNat m) (BitVec.allOnes 1024) ffNone)).advance s.agent n)
    let two (h : Bool → Bool → Bool) : Mask → Prop := fun m =>
      ∀ e, e < 1024 → m.getLsbD e = h ((me.v.mask a.toNat).getLsbD e) ((me.v.mask b.toNat).getLsbD e)
    let bounds := kfillBounds f
    (∃ m, two (fun x y => x && y) m ∧ exec (.kand g d a b) s = done 2 m) ∧
    (∃ m, two (fun x y => x || y) m ∧ exec (.kor g d a b) s = done 2 m) ∧
    (∃ m, two (fun x y => x != y) m ∧ exec (.kxor g d a b) s = done 2 m) ∧
    (∃ m, two (fun x y => x && !y) m ∧ exec (.kandn g d a b) s = done 2 m) ∧
    (∃ m, (∀ r c, r < 16 → c < 64 → m.getLsbD (64 * r + c) =
        decide (bounds.2.2.1 ≤ r ∧ r < bounds.2.2.2 ∧ bounds.1 ≤ c ∧ c < bounds.2.1)) ∧
      exec (.kfill g d f) s = done (kfillWords f) m)) ∧
  (∀ (s : State) (g : Guard) (first : BitVec 10) (count : NSrc), s.acts s.agent g = true → nsrcNat count ≤ 1024 →
    let me := s.agent
    ∃ v : VecState, exec (.vrgn g first count) s =
        .next ((s.updOwn me (fun x => { x with v := v })).advance me (nsrcWords count)) ∧
      v.size = nsrcNat count ∧ v.start = first.toNat ∧ v.rot = 0 ∧ v.regs = (s.own me).v.regs ∧
      v.masks = (s.own me).v.masks ∧ v.inflight = (s.own me).v.inflight ∧
    ((s.strm me).waitLeft = 0 ∨ (s.own me).v.inflight ≠ [] →
      exec (.vyield g) s = .next ((s.updStrm me (fun t => { t with mode := .running, waitLeft := 1 })).issued me)) ∧
    (∀ c k cls, me = .strm c k cls → (s.strm me).waitLeft ≠ 0 → (s.own me).v.inflight = [] →
      ∃ t, exec (.vyield g) s = .next t ∧ (t.strm me).mode = .running ∧
        (cls ≠ .net → (t.strm me).word = (s.strm me).word + 2) ∧
        (∀ j, j ≠ k → (t.slot c j) = (s.slot c j)) ∧
        (t.core c).units.offer = ((t.core c).owns k && (!(t.core c).normalAsks.isEmpty || !(t.core c).gleanAsks.isEmpty))))

/-- A vector result's life (R127, R128): it joins the results in flight, due at its beat, and until then its destination
keeps what it held; when the instruction of that beat issues it is written: a register takes the new cells where the lanes
allow and keeps the others, a mask likewise, and its flags join VECF (R74). -/
def Obligations.VectorResultLands : Prop :=
  ∀ (x : Slot) (lat : Nat) (dest : VDest) (lanes : Mask) (fl : FFlags) (beat : Nat),
    let y := x.issue lat dest lanes fl
    let z := y.landDue beat
    x.v.inflight = [] → x.sigs = [] →
    (beat < x.v.beat + lat → z = y) ∧
    (x.v.beat + lat ≤ beat →
      z.v.inflight = [] ∧ (z.regs.fpstat = x.regs.fpstat ||| fl.setWidth 64) ∧
      (∀ r v, dest = .regs [(r, v)] → (∀ q, q ≠ r → z.v.reg q = x.v.reg q) ∧
        ∀ e, e < 1024 → rowCell (z.v.reg r) e = if lanes.getLsbD e then rowCell v e else rowCell (x.v.reg r) e) ∧
      (∀ k m, dest = .mask k m → k ≠ 0 → z.v.regs = x.v.regs ∧
        ∀ e, e < 1024 → (z.v.mask k).getLsbD e = if lanes.getLsbD e then m.getLsbD e else (x.v.mask k).getLsbD e)) ∧
    (∀ w : Slot, w.v.inflight = [] → w.sigs = [] → w.beat = { w with v := { w.v with beat := w.v.beat + 1 } })

/-- A queue source that does not serve the vector stream raises the stream fault with sub-cause 3, and one that holds
fewer row-sets than the instruction needs blocks the stream with nothing popped (R138, R166): of every element-wise
instruction. -/
def Obligations.VectorQueueSources : Prop :=
  ∀ (s : State) (x : VArgs), s.acts s.agent x.g = true →
    let me := s.own s.agent
    let needs := (qOfA (vWide x.ty) x.a).toList ++ (qOfB (vWide x.ty) x.b).toList
    (∀ i ∈ [Instr.vadd x, .vsub x, .vmul x, .fma x, .fms x, .fnma x, .vmin x, .vmax x, .vminnum x, .vmaxnum x, .vabs x,
        .vneg x, .vand x, .vor x, .vxor x, .vshl x, .vshr x, .vsra x, .vcmp x, .vsel x, .vmov x, .vdiv x, .vsqrt x],
      (me.qSay needs 3 = .wait → exec i s = .next (s.block s.agent)) ∧
      (me.qSay needs 3 = .bad → exec i s = .next (s.raise s.agent (Exc.of 3 3)))) ∧
    (∀ y : Slot, ∀ q k : Nat, (y.queue q).popBy 3 = true → (y.queue q).ready < k → y.qSay [(q, k)] 3 = .wait) ∧
    (∀ y : Slot, ∀ q k : Nat, (y.queue q).popBy 3 = true → k ≤ (y.queue q).ready → y.qSay [(q, k)] 3 = .go)

/-- A value that a format holds is rounded to itself, without a flag, in every mode (R69, R80): no bit of an exact result
is lost on the way through an operation. -/
def Obligations.RoundingKeepsRepresentableValues : Prop :=
  ∀ (f : Fmt) (x sr : Nat) (m : Rm), x < 2 ^ f.width → sr < 2 ^ 32 → isNaN f x = false → isInf f x = false →
    roundTo f (value f x) m sr false = (x, ffNone)

/-- What the issue of an instruction of a stream changes beside its own effect `f` on its slot: the stream moves on, and
where it is the vector stream a beat passes for its results. No register, predicate or loop count of it or of any other
stream, no other slot, no trap register, no partition and no byte of any memory changes, unless `f` changes it. -/
def Obligations.IssueFrame : Prop :=
  ∀ (s : State) (c k n : Nat) (cls : Cls) (f : Slot → Slot), cls ≠ .net →
    let me : Agent := .strm c k cls
    let y := f (s.slot c k)
    let t := (s.updOwn me f).advance me n
    (t.strm me).word = (y.strm cls).word + n ∧ (t.strm me).regs = (y.strm cls).regs ∧
    (t.strm me).preds = (y.strm cls).preds ∧ (t.strm me).lcnt = (y.strm cls).lcnt ∧ (t.strm me).ecnt = (y.strm cls).ecnt ∧
    (∀ d, d ≠ cls → d ≠ .net → (t.slot c k).strm d = y.strm d) ∧
    (t.slot c k).trap = y.trap ∧ (t.slot c k).queues = y.queues ∧ (t.slot c k).descs = y.descs ∧ (t.slot c k).m = y.m ∧
    (cls ≠ .vec → t.slot c k = y.setStrm cls (t.strm me)) ∧
    (∀ d j, (d, j) ≠ (c, k) → t.slot d j = s.slot d j) ∧ (∀ d, (t.core d).tiles = (s.core d).tiles) ∧
    t.parts = s.parts ∧ t.npd = s.npd ∧ t.dram = s.dram ∧ t.xl = s.xl ∧ t.host = s.host ∧ s.sameBytes t

/-! # The matrix unit (file 09) -/

/-- Parameters and scale tables (R218, R219, R222): MPSET writes the fields of its parameter in the shadow set, which is
then to be taken at the next start; MSCL takes the port's head row-set into a shadow table, 192 or 384 words of it, and
blocks while the port is empty. -/
def Obligations.MatrixParameters : Prop :=
  ∀ (s : State) (g : Guard) (sel : BitVec 3) (v : MpVal) (tabB : Bool) (q : BitVec 4), s.acts s.agent g = true →
    let me := s.agent
    let x := s.own me
    let old := x.m.shadow
    let w := (mpVal v).toNat
    (∃ p, exec (.mpset g sel v) s =
        .next ((s.updOwn me (fun y => { y with m := { y.m with shadow := p, dirty := true } })).advance me (mpWords v)) ∧
      (sel = 0 → p = { old with m := w }) ∧ (sel = 1 → p = { old with n := w }) ∧ (sel = 2 → p = { old with k := w }) ∧
      (sel = 3 → p = { old with qa := w % 16, qb := w / 16 % 16 }) ∧
      (sel = 4 → p = { old with gr := w % 8, gc := w / 8 % 4 }) ∧
      (sel = 5 → p = { old with arow := w % 128, acol := w / 256 % 128 }) ∧
      (sel = 6 → p = { old with sca := w % 4, scb := w / 4 % 4 })) ∧
    ((x.queue q.toNat).popBy 2 = true → (x.queue q.toNat).entries = [] → exec (.mscl g tabB q) s = .next (s.block me)) ∧
    (∀ e es, (x.queue q.toNat).popBy 2 = true → (x.queue q.toNat).entries = e :: es → 0 < (x.queue q.toNat).ready → e.fmt = 0 →
      ∃ p, exec (.mscl g tabB q) s = .next ((s.updOwn me (fun y =>
          { (y.popQ q.toNat 1) with m := { y.m with shadow := p, dirty := true } })).advance me 2) ∧
        (∀ i, i < (if tabB = true then 384 else 192) →
          Tbl.get 0 (if tabB = true then p.tabB else p.tabA) i = e.rows.extractLsb' (32 * i) 32) ∧
        (if tabB = true then p.tabA = old.tabA else p.tabB = old.tabB))

/-- Products and cleared banks (R216, R219, R224 to R227). On an idle path with its bank free, MM takes the active
set, or the shadow set where one waits, and starts: with OVW its region becomes +0 and no other cell changes; without
rows, columns or depth it completes at once and signals. MMG from a gang's leader starts there and gives every member its
share, which waits for the member's path and bank. ACCLR clears its bank alone.
Readings of the model: log 36, 37. -/
def Obligations.MatrixProducts : Prop :=
  ∀ (s : State) (g : Guard) (bank : BitVec 2) (ovw : Bool) (sig : Option (BitVec 6)) (c k : Nat),
    s.agent = .strm c k .mat → s.acts s.agent g = true →
    let x := s.slot c k
    let idle (y : Slot) : Prop :=
      y.m.cop = none ∧ y.m.rop = none ∧ y.m.clr = none ∧ y.m.gread = none ∧ y.m.share = none ∧ y.m.shareR = none ∧
        y.m.followOns = []
    let p := if x.m.dirty = true then x.m.shadow else x.m.active
    let b := bank.toNat
    idle x → x.sigs = [] → s.clockOn c = true →
    let flagged (t : State) : Prop := ∀ n, (t.slot c k).flagNow n = x.flagNow n + (if sig.map (·.toNat) = some n then 1 else 0)
    (p.arow + p.m ≤ 96 → p.acol + p.n ≤ 128 → ∃ t, exec (.mm g bank ovw sig) s = .next t ∧
      (t.strm s.agent).word = (s.strm s.agent).word + 2 ∧ s.sameBytes t ∧ (t.slot c k).m.active = p ∧
      (p.m = 0 ∨ p.n = 0 ∨ p.k = 0 → (t.slot c k).m.cop = none ∧ flagged t) ∧
      (p.m ≠ 0 → p.n ≠ 0 → p.k ≠ 0 →
        (∃ o, (t.slot c k).m.cop = some o ∧ o.kind = .mm ∧ o.bank = b ∧ o.stat = .running ∧ o.steps = 0 ∧ o.ml = p.m ∧
          o.nl = p.n ∧ o.ovw = ovw ∧ o.sig = sig.map (·.toNat)) ∧
        ∀ bk i j, i < 96 → j < 128 → (t.slot c k).m.cell bk i j =
          if ovw = true ∧ bk = b ∧ p.arow ≤ i ∧ i < p.arow + p.m ∧ p.acol ≤ j ∧ j < p.acol + p.n then 0
          else x.m.cell bk i j)) ∧
    (∃ t, exec (.acclr g bank sig) s = .next t ∧ (t.strm s.agent).word = (s.strm s.agent).word + 2 ∧ s.sameBytes t ∧
      (t.slot c k).m.cop = none ∧ flagged t ∧
      ∀ bk i j, i < 96 → j < 128 → (t.slot c k).m.cell bk i j = if bk = b then 0 else x.m.cell bk i j) ∧
    (∀ gs : List (Nat × Nat), s.gangOf c k = gs → gs.Nodup → gs.head? = some (c, k) → x.gangPlace = some (gs.length, 0) →
      (∀ d j, (d, j) ∈ gs → idle (s.slot d j) ∧ (s.slot d j).inGang gs = true) → gangFits p gs.length = true → p.m ≠ 0 → p.n ≠ 0 → p.k ≠ 0 →
      ∃ t, exec (.mmg g bank ovw sig) s = .next t ∧ (t.strm s.agent).word = (s.strm s.agent).word + 2 ∧
        ∀ i d j, gs[i]? = some (d, j) → ∃ o, (t.slot d j).m.cop = some o ∧ o.kind = .mmg ∧ o.member = i ∧ o.bank = b ∧
          o.stat = (if i = 0 then .running else .waiting) ∧ o.placed = true ∧ o.ml = (share p i).1 ∧ o.nl = (share p i).2.1)

/-- Read-outs and resumption (R217, R230 to R237). On an idle read-out path, ACRD and ACCVT of a slot's own bank place
their operation, with what they take at issue (FTZMAT, SYS.SRCTX, SYS.SRBASE); it waits for its bank, and in a gang for the
members. A busy path blocks. MPROG waits while operations run, moves on where no record stands, and sends a stopped
operation to its bank again as one issued now, staying until it has completed.
Readings of the model: log 91. -/
def Obligations.MatrixReadOuts : Prop :=
  ∀ (s : State) (r : ReadOutArgs) (int lay : Bool) (round : BitVec 3) (fmt : BitVec 4) (g : Guard) (c k : Nat),
    s.agent = .strm c k .mat → s.acts s.agent r.g = true → s.acts s.agent g = true →
    let x := s.slot c k
    let placed (i : Instr) (cvt int lay : Bool) (rnd fm : Nat) : Prop :=
      ∃ t o, exec i s = .next t ∧ (t.slot c k).m.rop = some o ∧ (t.strm s.agent).word = (s.strm s.agent).word + 2 ∧
        s.sameBytes t ∧ o.stat = .waiting ∧ o.cvt = cvt ∧ o.bank = r.bank.toNat ∧ o.first = r.first.toNat ∧
        o.rows = r.rows.toNat ∧ o.done = 0 ∧ o.tgt = r.tgt ∧ o.int = int ∧ o.lay = lay ∧ o.round = rnd ∧ o.fmt = fm ∧
        o.target = (if r.tgt = true then r.target.toNat else r.target.toNat % 16) ∧
        o.sig = (if r.sig = true then some r.flag.toNat else none) ∧ o.gang = r.gang ∧ o.ftz = x.regs.fpctl.getLsbD 1 ∧
        o.srctx = x.regs.srctx ∧ o.srbase = x.regs.srbase
    (x.m.pathBusyR = false →
      placed (.acrd r int lay) false int lay 0 0 ∧ placed (.accvt r round fmt) true false false round.toNat fmt.toNat) ∧
    (x.m.pathBusyR = true → exec (.acrd r int lay) s = .next (s.block s.agent) ∧
      exec (.accvt r round fmt) s = .next (s.block s.agent)) ∧
    (x.m.busy = true → exec (.mprog g) s = .next (s.block s.agent)) ∧
    (x.m.busy = false → x.m.cop = none → x.m.rop = none → x.gangPlace = none →
      exec (.mprog g) s = .next (s.advance s.agent 2)) ∧
    (x.m.busy = false → x.gangPlace = none →
      let goes (t : State) : Prop := (t.strm s.agent).mode = .blocked ∧ (t.strm s.agent).word = (s.strm s.agent).word ∧ s.sameBytes t
      (∀ o, x.m.cop = some o → o.kind ≠ .mmg → (o.stat = .stopped 2 ∨ o.stat = .stopped 3) → ∃ t q,
        exec (.mprog g) s = .next t ∧ goes t ∧ x.m.nextSeq ≤ q ∧
          (t.slot c k).m.cop = some { o with stat := .waiting, seq := q }) ∧
      (∀ o, x.m.rop = some o → o.gang = false → (o.stat = .stopped 2 ∨ o.stat = .stopped 3) → ∃ t q,
        exec (.mprog g) s = .next t ∧ goes t ∧ x.m.nextSeq ≤ q ∧
          (t.slot c k).m.rop = some { o with stat := .waiting, seq := q }))

/-! # Memory instructions (R188 to R196, R253 to R265) -/

/-- LD and ST over bytes of a scratchpad, or through translation over bytes of a tier (R4, R261): LD reads 2^(SIZE mod 4) bytes
little-endian and extends them with zeros or with their sign, and nothing else changes; ST writes the low bytes of its source
to exactly the bytes that its address, register plus offset, names, and every other byte of every memory and all other state
stay, but the counts of writes to doublewords that are waited on. An access within a line that the tile rules refuse raises
cause 4 with its sub-cause and address (R189, R195, R206); one that translation refuses cause 6 (R247); one whose page is in
no cache starts a walk and blocks (R245).
Readings of the model: log 12, 14, 15, 16, 101. -/
def Obligations.LoadsAndStores : Prop :=
  ∀ (s : State) (g : Guard) (size : BitVec 3) (d a : BitVec 6) (off : Off) (c o : Nat), s.acts s.agent g = true →
    let me := s.agent
    let n := 2 ^ (size.toNat % 4)
    let ea := (s.reg me a + offVal off).toNat
    let m := s.store (.scratch c)
    (s.inScratch .rd ea n c o → ∃ v : DWord,
      exec (.ld g size d a off) s = .next (s.result me d v (offWords off)) ∧
      v.toNat % 256 ^ n = memNat m o n ∧
      (size.getLsbD 2 = false → v.toNat < 256 ^ n) ∧
      (size.getLsbD 2 = true → -(256 ^ n : Int) ≤ 2 * v.toInt ∧ 2 * v.toInt < 256 ^ n)) ∧
    (s.inScratch .wr ea n c o → ∃ (m' : Memory) (wt : Tbl Nat),
      exec (.st g size d a off) s = .next ((s.withBytes c m' wt).advance me (offWords off)) ∧
      memHolds m m' o n ((s.reg me d).toNat % 256 ^ n) ∧ ∀ x i, x ≠ .scratch c → (s.withBytes c m' wt).byteAt x i = s.byteAt x i) ∧
    (∀ pa, s.inTier (s.accOf me) .rd ea n pa → ∃ v : DWord,
      exec (.ld g size d a off) s = .next (s.result me d v (offWords off)) ∧
      v.toNat % 256 ^ n = memNat s.dram.cells pa n ∧
      (size.getLsbD 2 = false → v.toNat < 256 ^ n) ∧
      (size.getLsbD 2 = true → -(256 ^ n : Int) ≤ 2 * v.toInt ∧ 2 * v.toInt < 256 ^ n)) ∧
    (∀ pa, s.inTier (s.accOf me) .wr ea n pa → (∀ q, (s.dram.queue q).length < 63) → ∃ dr : Dram,
      exec (.st g size d a off) s = .next (({ s with dram := dr } : State).advance me (offWords off)) ∧ dr.cells = s.dram.cells ∧
      ∀ i, dr.byteAt i = if pa ≤ i ∧ i < pa + n then (s.reg me d).extractLsb' (8 * (i - pa)) 8 else s.dram.byteAt i) ∧
    (∀ k cls f, me = .strm c k cls → ea % 64 + n ≤ 64 →
      (s.tileRefused c k .rd ea f → exec (.ld g size d a off) s = .next (s.refused ⟨4, f, .ofNat 64 ea, 0⟩)) ∧
      (s.tileRefused c k .wr ea f → exec (.st g size d a off) s = .next (s.refused ⟨4, f, .ofNat 64 ea, 0⟩))) ∧
    (∀ f, ea % 64 + n ≤ 64 →
      (s.xlRefused (s.accOf me) .rd ea f → exec (.ld g size d a off) s = .next (s.refused ⟨6, f, .ofNat 64 ea, 0⟩)) ∧
      (s.xlRefused (s.accOf me) .wr ea f → exec (.st g size d a off) s = .next (s.refused ⟨6, f, .ofNat 64 ea, 0⟩))) ∧
    (let x := s.accOf me
     ea % 64 + n ≤ 64 → 2 ^ 32 ≤ ea → ea < 2 ^ 48 → (∀ f ∈ s.xl.faults, f.who ≠ x.who) →
      (∀ e ∈ s.xl.tlb, e.covers x.unit x.part ea = false) → (s.part x.part).root.isSome = true →
      ∀ i, i = Instr.ld g size d a off ∨ i = Instr.st g size d a off →
        exec i s = .next (({ s with xl := s.xl.attach x.unit x.part (ea / 4096) x.who } : State).block me))

/-- Atomics on an aligned doubleword of a scratchpad, or through translation of a tier (R261): the old value goes to sD and the new one is stored, in one
step: sum, logic, signed and unsigned minimum and maximum, exchange; CAS stores only where the old value is the expected
one. A release first waits for the stream's engine work (R297); an address that is no multiple of 8 raises cause 7,
sub-cause 1, and nothing is stored; one that the tile rules or translation refuse raises cause 4 or 6. MARM reads an aligned
doubleword and arms the slot's monitor with its address (R265); MWAIT reads it as it issues, and again after each write that
meets the doubleword, and after no other, and goes on with the value once it meets the condition (not equal, or at least,
unsigned), else the stream blocks; with no monitor armed it gives 0 at once.
FENCE waits for engine work in its first set and otherwise only advances (R308).
Readings of the model: log 12, 15, 16, 52, 101. -/
def Obligations.AtomicsMonitorsAndFences : Prop :=
  (∀ (s : State) (g : Guard) (op : BitVec 4) (acq rel : Bool) (scope : BitVec 3) (d a b2 b3 : BitVec 6) (b : Src)
    (c o : Nat), s.acts s.agent g = true →
    let me := s.agent
    let ea := (s.reg me a).toNat
    let m := s.store (.scratch c)
    let old : DWord := .ofNat 64 (memNat m o 8)
    let y := s.src me b
    let new : DWord := match op.toNat with
      | 0 => old + y | 1 => old &&& y | 2 => old ||| y | 3 => old ^^^ y
      | 4 => if y.toInt < old.toInt then y else old
      | 5 => if old.toInt < y.toInt then y else old
      | 6 => if y.toNat < old.toNat then y else old
      | 7 => if old.toNat < y.toNat then y else old
      | _ => y
    let stored (i : Instr) (v : DWord) (n : Nat) : Prop := ∃ (m' : Memory) (wt : Tbl Nat),
      exec i s = .next ((s.withBytes c m' wt).result me d old n) ∧ memHolds m m' o 8 v.toNat
    (rel = true ∧ s.workOut me (BitVec.allOnes 6) = true →
      exec (.amo g op acq rel scope d a b) s = .next (s.block me) ∧
      exec (.cas g acq rel scope d a b2 b3) s = .next (s.block me)) ∧
    (rel = false ∨ s.workOut me (BitVec.allOnes 6) = false →
      (ea % 8 = 0 → s.inScratch .at ea 8 c o →
        stored (.amo g op acq rel scope d a b) new (srcWords b) ∧
        stored (.cas g acq rel scope d a b2 b3) (if old = s.reg me b2 then s.reg me b3 else old) 2) ∧
      (ea % 8 ≠ 0 →
        exec (.amo g op acq rel scope d a b) s = .next (s.raise me ⟨7, 1, s.reg me a, 0⟩) ∧
        exec (.cas g acq rel scope d a b2 b3) s = .next (s.raise me ⟨7, 1, s.reg me a, 0⟩)) ∧
      (∀ f, ea % 8 = 0 → ∀ i, i = Instr.amo g op acq rel scope d a b ∨ i = Instr.cas g acq rel scope d a b2 b3 →
        (∀ k cls, me = .strm c k cls → s.tileRefused c k .at ea f → exec i s = .next (s.refused ⟨4, f, s.reg me a, 0⟩)) ∧
        (s.xlRefused (s.accOf me) .at ea f → exec i s = .next (s.refused ⟨6, f, s.reg me a, 0⟩))))) ∧
  (∀ (s : State) (g : Guard) (op : BitVec 4) (acq rel : Bool) (scope : BitVec 3) (d a b2 b3 : BitVec 6) (b : Src) (pa : Nat),
    s.acts s.agent g = true →
    let me := s.agent
    let ea := (s.reg me a).toNat
    let old := memNat s.dram.cells pa 8
    (rel = false ∨ s.workOut me (BitVec.allOnes 6) = false) → ea % 8 = 0 → s.inTier (s.accOf me) .at ea 8 pa →
      let stored (i : Instr) (v n : Nat) : Prop := ∃ (m' : Memory) (wt : Tbl Nat),
        exec i s = .next ((s.withCells m' wt).result me d (.ofNat 64 old) n) ∧ memHolds s.dram.cells m' pa 8 v
      stored (.amo g op acq rel scope d a b) (amoOp 64 op.toNat old (s.src me b).toNat % 2 ^ 64) (srcWords b) ∧
      stored (.cas g acq rel scope d a b2 b3) (if old = (s.reg me b2).toNat then (s.reg me b3).toNat else old) 2) ∧
  (∀ (s : State) (g : Guard) (d a : BitVec 6) (off : Off) (c o : Nat), s.acts s.agent g = true →
    let ea := (s.reg s.agent a + offVal off).toNat
    (ea % 8 = 0 → s.inScratch .rd ea 8 c o → ∃ v : DWord, v.toNat = memNat (s.store (.scratch c)) o 8 ∧
      exec (.marm g d a off) s =
        .next ((s.setMon s.agent (.ofNat 64 (2 ^ 63 + ea))).result s.agent d v (offWords off))) ∧
    (ea % 8 ≠ 0 → exec (.marm g d a off) s = .next (s.raise s.agent ⟨7, 1, .ofNat 64 ea, 0⟩))) ∧
  (∀ (s : State) (g : Guard) (ne : Bool) (d : BitVec 6) (b : Src) (c o : Nat), s.acts s.agent g = true →
    let ea := (s.mon s.agent).toNat % 2 ^ 48
    let v : DWord := .ofNat 64 (memNat (s.store (.scratch c)) o 8)
    let w := s.srcZ s.agent b
    let met := if ne = true then v ≠ w else w.toNat ≤ v.toNat
    ((s.mon s.agent).getLsbD 63 = false → exec (.mwait g ne d b) s = .next (s.result s.agent d 0 (srcWords b))) ∧
    ((s.mon s.agent).getLsbD 63 = true → s.inScratch .rd ea 8 c o →
      let again (u : State) : Bool := u.readsAgain s.agent (u.accOf s.agent) ea
      ((s.strm s.agent).watch = none → again s = true) ∧
      (again s = true → met → exec (.mwait g ne d b) s = .next (s.result s.agent d v (srcWords b))) ∧
      (again s = false → exec (.mwait g ne d b) s = .next (s.block s.agent)) ∧
      (again s = true → ¬ met → ∃ t, exec (.mwait g ne d b) s = .next t ∧
        (ea % 8 = 0 → realAgent s.agent = true → (t.strm s.agent).mode = .blocked ∧ s.sameBytes t ∧ again t = false ∧
          ∀ (i : Nat) (bs : List Byte), bs ≠ [] →
            again (t.updCore c (fun x => x.write i bs)) = decide (i < o + 8 ∧ o < i + bs.length))))) ∧
  (∀ (s : State) (g : Guard) (scope : BitVec 3) (pred succ : BitVec 6), s.acts s.agent g = true →
    (s.workOut s.agent pred = false → exec (.fence g scope pred succ) s = .next (s.advance s.agent 2)) ∧
    (s.workOut s.agent pred = true → succ ≠ 0 → scope.toNat ≤ 5 →
      exec (.fence g scope pred succ) s = .next (s.block s.agent)))

/-- Vector loads and stores over a scratchpad, or through translation over a tier (R262, R263): element e lies at VBASE + immediate + e times its size. VLD
puts the elements of the enabled lanes in flight, 8 beats long or 10 for wide elements, their reply still to arrive; VST
writes the enabled elements and no other byte; an access that the tile rules or translation refuse raises cause 4 or 6 with
nothing read or written; VST.q puts its registers on a queue of the vector stream, or blocks until there is room for all.
Readings of the model: log 12, 14, 15, 16, 101. -/
def Obligations.VectorLoadsAndStores : Prop :=
  ∀ (s : State) (g : Guard) (w : Bool) (mask : BitVec 4) (d : BitVec 10) (imm : VImm) (c o : Nat),
    s.acts s.agent g = true →
    let me := s.agent
    let x := (s.own me).seen
    let z := if w = true then 4 else 2
    let lane (e : Nat) : Bool := (x.v.mask mask.toNat).getLsbD e
    let ea := (x.regs.vbase.toNat + (match imm with | .imm i => i.toNat | .lit i => i.toNat)) % 2 ^ 64
    let m := s.store (.scratch c)
    let covered (kind : AKind) : Prop := ea + 1024 * z ≤ 2 ^ 32 ∧
      ∀ e, e < 1024 → lane e = true → ∀ j, j < z → s.spByte kind (ea + z * e + j) c (o + z * e + j)
    (covered .rd → ∃ (r : InFlight) (vals : List Nat), exec (.vld g w mask d imm) s =
        .next ((s.updOwn me (fun y => { y with v := { y.v with nextIx := y.v.nextIx + 1, inflight := y.v.inflight ++ [r] } })).advance
          me (vimmWords imm)) ∧
      r.ix = x.v.nextIx ∧ r.due = x.v.beat + (if w = true then 10 else 8) ∧ r.arrived = false ∧ r.fault = none ∧
      r.lanes = x.v.mask mask.toNat ∧ r.flags = 0 ∧ r.dest = .regs (x.v.dest w d.toNat vals) ∧ vals.length = 1024 ∧
      ∀ e, e < 1024 → lane e = true → vals.getD e 0 = memNat m (o + z * e) z) ∧
    (∀ pa, (∀ e, e < 1024 → lane e = true → s.inTier (s.accOf me) .rd (ea + z * e) z (pa + z * e)) →
      ∃ (r : InFlight) (vals : List Nat), exec (.vld g w mask d imm) s =
        .next ((s.updOwn me (fun y => { y with v := { y.v with nextIx := y.v.nextIx + 1, inflight := y.v.inflight ++ [r] } })).advance
          me (vimmWords imm)) ∧
      r.ix = x.v.nextIx ∧ r.due = x.v.beat + (if w = true then 10 else 8) ∧ r.arrived = false ∧ r.fault = none ∧
      r.lanes = x.v.mask mask.toNat ∧ r.dest = .regs (x.v.dest w d.toNat vals) ∧ vals.length = 1024 ∧
      ∀ e, e < 1024 → lane e = true → vals.getD e 0 = memNat s.dram.cells (pa + z * e) z) ∧
    (∀ pa, (∃ e, e < 1024 ∧ lane e = true) → (∀ q, s.dram.queue q = []) →
      (∀ e, e < 1024 → lane e = true → s.inTier (s.accOf me) .wr (ea + z * e) z (pa + z * e)) →
      ∃ dr : Dram, exec (.vst g w mask d imm) s = .next (({ s with dram := dr } : State).advance me (vimmWords imm)) ∧
      (∀ e j, e < 1024 → lane e = true → j < z →
        (dr.byteAt (pa + z * e + j)).toNat = (x.v.elems w d.toNat).getD e 0 / 256 ^ j % 256) ∧
      ∀ i, (∀ e, e < 1024 → lane e = true → i < pa + z * e ∨ pa + z * e + z ≤ i) → dr.byteAt i = s.dram.byteAt i) ∧
    (∀ e f, e < 1024 → (∀ i, i < 1024 → (lane i = true ↔ i = e)) → (ea + z * e) % 64 + z ≤ 64 → ea + z * e < 2 ^ 64 →
      let at1 := ea + z * e
      (∀ k cls, me = .strm c k cls →
        (s.tileRefused c k .rd at1 f → exec (.vld g w mask d imm) s = .next (s.refused ⟨4, f, .ofNat 64 at1, 0⟩)) ∧
        (s.tileRefused c k .wr at1 f → exec (.vst g w mask d imm) s = .next (s.refused ⟨4, f, .ofNat 64 at1, 0⟩))) ∧
      (s.xlRefused (s.accOf me) .rd at1 f → exec (.vld g w mask d imm) s = .next (s.refused ⟨6, f, .ofNat 64 at1, 0⟩)) ∧
      (s.xlRefused (s.accOf me) .wr at1 f → exec (.vst g w mask d imm) s = .next (s.refused ⟨6, f, .ofNat 64 at1, 0⟩))) ∧
    ((∀ e, e < 1024 → lane e = false) → exec (.vst g w mask d imm) s = .next (s.advance me (vimmWords imm))) ∧
    ((∃ e, e < 1024 ∧ lane e = true) → covered .wr → ∃ (m' : Memory) (wt : Tbl Nat), exec (.vst g w mask d imm) s =
        .next ((s.withBytes c m' wt).advance me (vimmWords imm)) ∧
      (∀ e, e < 1024 → lane e = true → memNat m' (o + z * e) z = (x.v.elems w d.toNat).getD e 0) ∧
      ∀ i, (∀ e, e < 1024 → lane e = true → i < o + z * e ∨ o + z * e + z ≤ i) → memGet m' i = memGet m i) ∧
    (∀ (q fmt : BitVec 4) (cc kk : Nat) (cls : Cls), me = .strm cc kk cls → (x.queue q.toNat).putBy 3 = true →
      let n := if w = true then 2 else 1
      let put : List QEntry := (List.range n).map (fun i => { rows := x.v.log (d.toNat + i), side := 0, pad := false,
                                                              last := false, scv := false, fmt := fmt.toNat })
      ((x.queue q.toNat).room < n → exec (.vstQ g w q d fmt) s = .next (s.block me)) ∧
      (n ≤ (x.queue q.toNat).room → ∃ t, exec (.vstQ g w q d fmt) s = .next t ∧
        (t.slot cc kk).queue q.toNat = { x.queue q.toNat with entries := (x.queue q.toNat).entries ++ put, puts := (x.queue q.toNat).puts + n } ∧
        (∀ p, p ≠ q.toNat → (t.slot cc kk).queue p = x.queue p) ∧
        ∀ y i, y ≠ .scratch cc ∨ i < queueArea kk q.toNat 0 ∨ queueArea kk q.toNat 0 + 0x8C00 ≤ i →
          t.byteAt y i = s.byteAt y i))

/-- VAMO (R264) over a scratchpad, or through translation over a tier: the enabled elements act one by one in rising index, each
on the word at VBASE plus its own offset, so that a later element sees what an earlier one left there; the old words are the
result, 24 beats in flight. A misaligned element, or one that the tile rules or translation refuse, raises its trap before any
element is performed.
Readings of the model: log 15, 16, 27, 101, 117. -/
def Obligations.VectorAtomics : Prop :=
  ∀ (s : State) (g : Guard) (op : BitVec 4) (ret : Bool) (mask : BitVec 4) (d a : BitVec 10) (b : VSrcB) (c z : Nat),
    s.acts s.agent g = true → (s.strm s.agent).again = none →
    let me := s.agent
    let x := s.own me
    let lanes := x.seen.v.mask mask.toNat
    let at1 (e : Nat) : Nat := (x.regs.vbase.toNat + (x.seen.v.elems true a.toNat).getD e 0) % 2 ^ 64
    let opnd (e : Nat) : Nat := (x.seen.srcB true b).1.getD e 0
    let es := (List.range 1024).filter (fun e => lanes.getLsbD e)
    -- the elements act on the memory `m0`, element `e` at its byte `place e`; `into m w` is the state with the memory `m`
    let performs (m0 : Memory) (place : Nat → Nat) (into : Memory → Tbl Nat → State) : Prop :=
      ∃ (ms : List Memory) (wt : Tbl Nat) (olds : List Nat) (y : Slot), ms.length = es.length + 1 ∧
        ms.head? = some m0 ∧ olds.length = 1024 ∧
        (∀ n e, es[n]? = some e → ∀ m m', ms[n]? = some m → ms[n + 1]? = some m' →
          let old := memNat m (place e) 4
          olds.getD e 0 = old ∧ memHolds m m' (place e) 4 (amoOp 32 op.toNat old (opnd e) % 2 ^ 32)) ∧
        exec (.vamo g op ret mask d a b) s =
          .next (((into (ms.getLastD []) wt).updOwn me (fun _ => y)).advance me (vsrcBWords b)) ∧
        (ret = false → y = x) ∧
        (ret = true → ∃ r : InFlight, y = { x with v := { x.v with nextIx := x.v.nextIx + 1, inflight := x.v.inflight ++ [r] } } ∧
          r.due = x.v.beat + 24 ∧ r.arrived = false ∧ r.lanes = lanes ∧ r.dest = .regs (x.v.dest true d.toNat olds))
    (es ≠ [] → (∀ e ∈ es, at1 e % 4 = 0 ∧ z ≤ at1 e ∧ s.inScratch .at (at1 e) 4 c (at1 e - z)) →
      performs (s.store (.scratch c)) (fun e => at1 e - z) (s.withBytes c)) ∧
    (∀ pa : Nat → Nat, (∀ e ∈ es, at1 e % 4 = 0 ∧ s.inTier (s.accOf me) .at (at1 e) 4 (pa e)) →
      performs s.dram.cells pa s.withCells) ∧
    (∀ e, es.find? (fun e => at1 e % 4 ≠ 0) = some e →
      exec (.vamo g op ret mask d a b) s = .next (s.raise me ⟨7, 1, .ofNat 64 (at1 e), 0⟩)) ∧
    (∀ e f, es = [e] → at1 e % 4 = 0 →
      (∀ k cls, me = .strm c k cls → s.tileRefused c k .at (at1 e) f →
        exec (.vamo g op ret mask d a b) s = .next (s.refused ⟨4, f, .ofNat 64 (at1 e), 0⟩)) ∧
      (s.xlRefused (s.accOf me) .at (at1 e) f →
        exec (.vamo g op ret mask d a b) s = .next (s.refused ⟨6, f, .ofNat 64 (at1 e), 0⟩)))

/-! # The tiers (R253 to R256) -/

/-- Reads and writes of a line (R253 to R255). A read through the key under which a sound line was written gives each byte
its youngest queued value, else the stored one, and changes no byte; under another key, or of a corrupted line, it gives
no byte, and a record tells firmware. A write of a whole line, or of part of one that verifies, to a controller with room
gives its bytes and changes no other.
Readings of the model: log 16, 94. -/
def Obligations.TierLinesReadAndWrite : Prop :=
  ∀ (s : State) (pa n key : Nat) (cnt : Bool) (bs : List Byte), pa % 64 + n ≤ 64 → s.dram.fenced pa = false →
    let q := s.dram.queue (ctrlOf pa)
    ((∀ w ∈ q, w.line = pa / 64 → w.key = key) → s.dram.verifies pa key = true → ∃ t r,
      s.readPhys pa n key cnt = (t, some r) ∧ r.length = n ∧ (∀ j, j < n → r.getD j 0 = s.dram.byteAt (pa + j)) ∧
      ∀ i, t.dram.byteAt i = s.dram.byteAt i) ∧
    ((∀ w ∈ q, w.line ≠ pa / 64) → s.dram.verifies pa key = false → ∃ t,
      s.readPhys pa n key cnt = (t, none) ∧ (∀ i, t.dram.byteAt i = s.dram.byteAt i) ∧
      ∃ r, Tbl.get [] s.dram.events (ctrlOf pa) ++ [r] <+: Tbl.get [] t.dram.events (ctrlOf pa) ∧
        ((∀ p, (s.dram.key key).owner = some p → p < 64) → pa < 2 ^ 42 → r.1.toNat / 2 ^ 62 = 2)) ∧
    (bs.length = n → q.length < 64 → (n = 64 ∨ s.dram.verifies pa key = true) →
      ∀ i, (s.writePhys pa key cnt bs).dram.byteAt i =
        if pa ≤ i ∧ i < pa + n then bs.getD (i - pa) 0 else s.dram.byteAt i)

/-! # Streams, queues, planes (file 07) -/

/-- Descriptor instructions (R170, R179, R180, R184, R185) wait until no transfer of another stream holds the descriptor,
then change their field, leave every other bit, and put its walk at the origin. DRLD loads the 64 bytes of the active
plane's image, for all 32 descriptors in its `.all` form; a descriptor that a transfer holds is loaded when that ends, and a
DRLD that names one whose reload by its own stream is still to come waits. PSWAP leaves a token, up to three, and a token
exchanges the planes at a drain point (R175, R186): no vector result is in flight on the core, no transfer is part-way
through a row-set, and no host command writes the shadow plane; elsewhere it stays. A result in the landing buffer counts as in
flight (log 111).
Readings of the model: log 38, 40, 111. -/
def Obligations.DescriptorsAndPlanes : Prop :=
  (∀ (s : State) (g : Guard) (d : BitVec 5) (w : BitVec 3) (b : Src) (c k : Nat) (cls : Cls) (r : BitVec 6) (v : BitVec 20),
    s.agent = .strm c k cls → s.acts s.agent g = true →
    let me := s.agent
    let old := (s.own me).desc d.toNat
    let y := s.src me b
    let wait (i : Instr) : Prop := exec i s = .next (s.block me)
    let sets (i : Instr) (n : Nat) (p : Nat → Prop) (q : BitVec 512 → Prop) : Prop := ∃ dw : BitVec 512,
      (∀ j, j < 512 → ¬ p j → dw.getLsbD j = old.dw.getLsbD j) ∧ q dw ∧
      exec i s = .next ((s.updDesc me d.toNat (fun x => { x with dw := dw, i0 := 0, i1 := 0, i2 := 0, i3 := 0 })).advance me n)
    (old.freeFor cls = false → wait (.dset g d w b) ∧ wait (.wadv g d b) ∧ wait (.unfold g d .off) ∧ wait (.unfold g d (.reg r))) ∧
    (old.freeFor cls = true →
      sets (.dset g d w b) (srcWords b) (fun j => 64 * w.toNat ≤ j ∧ j < 64 * w.toNat + 64)
        (fun dw => dw.extractLsb' (64 * w.toNat) 64 = y) ∧
      (old.unf = false → sets (.wadv g d b) (srcWords b) (fun j => j < 64)
        (fun dw => dw.extractLsb' 0 64 = old.dw.extractLsb' 0 64 + y)) ∧
      (old.unf = true → sets (.wadv g d b) (srcWords b) (fun j => 432 ≤ j ∧ j < 448)
        (fun dw => dw.extractLsb' 432 16 = old.dw.extractLsb' 432 16 + y.setWidth 16)) ∧
      sets (.unfold g d .off) 2 (fun j => j = 285) (fun dw => dw.getLsbD 285 = false) ∧
      (s.reg me r = v.setWidth 64 → sets (.unfold g d (.reg r)) 2
        (fun j => j = 285 ∨ (288 ≤ j ∧ j < 308) ∨ (432 ≤ j ∧ j < 448))
        (fun dw => dw.getLsbD 285 = true ∧ dw.extractLsb' 288 20 = v ∧ dw.extractLsb' 432 16 = 0)) ∧
      sets (.unfold g d (.lit (v.setWidth 32))) 3 (fun j => j = 285 ∨ (288 ≤ j ∧ j < 308) ∨ (432 ≤ j ∧ j < 448))
        (fun dw => dw.getLsbD 285 = true ∧ dw.extractLsb' 288 20 = v ∧ dw.extractLsb' 432 16 = 0) ∧
      (2 ^ 20 ≤ (s.reg me r).toNat → exec (.unfold g d (.reg r)) s = .next (s.raise me ⟨3, 5, 0, 0⟩)))) ∧
  (∀ (s : State) (g : Guard) (all : Bool) (d : BitVec 5) (c k : Nat) (cls : Cls), s.agent = .strm c k cls → cls ≠ .net →
    s.acts s.agent g = true →
    let named (n : Nat) : Prop := (all = true ∧ n < 32) ∨ (all = false ∧ n = d.toNat)
    ((∃ n, named n ∧ cls ∈ ((s.slot c k).desc n).reload) → exec (.drld g all d) s = .next (s.block s.agent)) ∧
    ((∀ n, named n → cls ∉ ((s.slot c k).desc n).reload) →
    ∃ t, exec (.drld g all d) s = .next t ∧ (t.strm s.agent).word = (s.strm s.agent).word + 2 ∧ s.sameBytes t ∧
      ∀ n, let old := (s.slot c k).desc n
        let new := (t.slot c k).desc n
        (¬ named n → new = old) ∧ (named n →
          (old.holder.isSome = true → new = { old with reload := cls :: old.reload }) ∧
          (old.holder = none → new = { old with dw := new.dw, i0 := 0, i1 := 0, i2 := 0, i3 := 0 } ∧
            ∀ j, j < 64 → new.dw.extractLsb' (8 * j) 8 =
              s.byteAt (.plane c (s.core c).activePlane) (0x60000 + 64 * n + j))))) ∧
  (∀ (s : State) (g : Guard) (c k : Nat) (cls : Cls), s.agent = .strm c k cls → s.acts s.agent g = true →
    ((s.core c).tokens < 3 → exec (.pswap g) s =
      .next ((s.updCore c (fun x => { x with tokens := x.tokens + 1 })).advance s.agent 2)) ∧
    (3 ≤ (s.core c).tokens → exec (.pswap g) s = .next (s.block s.agent))) ∧
  (∀ (s : State) (c : Nat),
    let still : Prop := (∀ k x, (k, x) ∈ (s.core c).slots → x.v.inflight = [] ∧ x.midRow = false) ∧ s.planeWrite c = false
    ((s.core c).tokens ≠ 0 → still → exec (.planeSwap c) s = .next (s.updCore c (fun x =>
      { x with activePlane := 1 - x.activePlane, tokens := x.tokens - 1, swaps := x.swaps + 1 }))) ∧
    ((s.core c).tokens = 0 ∨ ¬ still → exec (.planeSwap c) s = .next s))

/-- Transfers (R162, R166, R170, R172, R177, R183). QPUT and QGET of no row-sets only advance; a descriptor that another
stream holds blocks; a stream fault of R177 traps with nothing moved; otherwise the transfer takes the descriptor and
stands at its place. Each TRANSFER_ROWSET of a QPUT then forms the row-set at the walk's position and puts it at its
queue's tail, or, the queue full, blocks with the row-set formed; each of a QGET takes the queue's head and writes it along
the walk, or blocks on an empty queue; the last row-set ends the instruction and lets the descriptor go. Over segments of a
scratchpad that the stream may access, in one format, this comes to their bytes in walk order, and a transfer of as many
row-sets as its queue has room for, or holds, completes in as many TRANSFER_ROWSETs. A walk's four levels count like
digits, level 0 fastest, and the segment of a plain walk lies at the base plus each position times its stride, modulo 2^64
(R159). A plane descriptor with a conversion, a scale or unfolding is a fault of sub-cause 1 (log 113).
Readings of the model: log 38, 39, 113. -/
def Obligations.TransfersMoveRowSets : Prop :=
  (∀ (s : State) (g : Guard) (q : BitVec 4) (d : BitVec 5) (n : Cnt) (put : Bool), s.acts s.agent g = true →
    (s.strm s.agent).again = none →
    let me := s.agent
    let cls := agentCls me
    let i : Instr := if put = true then .qput g q d n else .qget g d q n
    let x := s.own me
    let desc := x.desc d.toNat
    let count := s.cnt me n
    let faults (f : Nat) : Prop :=
      (f = 1 ∧ desc.sound (!put) cls = false) ∨ (f = 2 ∧ desc.space = 2 ∧ (cls = .ldr ∨ cls = .ctl)) ∨
      (f = 3 ∧ (if put = true then (x.queue q.toNat).putBy (prodCode cls) else (x.queue q.toNat).popBy (consCode cls)) = false)
    (count = 0 → exec i s = .next (s.advance me 2)) ∧
    (count ≠ 0 → desc.freeFor cls = false → exec i s = .next (s.block me)) ∧
    (count ≠ 0 → desc.freeFor cls = true →
      (∀ f, faults f → (∀ h, faults h → f ≤ h) → exec i s = .next (s.raiseRows me ⟨3, f, 0, 0⟩ count)) ∧
      ((∀ f, ¬ faults f) → exec i s =
        .next ((s.updDesc me d.toNat (fun y => { y with holder := some cls })).updStrm me (fun t => { t with
          mode := .running, xfer := some { put := put, q := q.toNat, d := d.toNat, left := count,
                                           ftz := if put = true then x.ftzLdr else x.ftzStr, formed := none, mid := false } }))) ∧
      ((∀ f, ¬ faults f) → ∀ c k c0, me = .strm c k cls → cls ≠ .net → desc.space = 0 → desc.unf = false → desc.scmode = 0 →
        desc.mfmt = desc.qfmt →
        (∀ i0 i1 i2 i3, i0 < desc.count 0 → i1 < desc.count 1 → i2 < desc.count 2 → i3 < desc.count 3 → ∃ a o,
          Desc.seg { desc with i0 := i0, i1 := i1, i2 := i2, i3 := i3 } = some a ∧
          s.spFor (s.xferAcc c k (.transfer c k cls) desc) (if put = true then .rd else .wr) a desc.seglen c0 o) →
        desc.i0 < desc.count 0 → desc.i1 < desc.count 1 → desc.i2 < desc.count 2 → desc.i3 < desc.count 3 →
        (put = true → count ≤ (x.queue q.toNat).room) →
        (put = false → count ≤ (x.queue q.toNat).ready ∧ ∀ e ∈ (x.queue q.toNat).entries, e.fmt = desc.qfmt) →
        ∃ us : List State, us.length = count + 2 ∧ us.head? = some s ∧ (∀ u, us[1]? = some u → exec i s = .next u) ∧
          (∀ (j : Nat) (u v : State), us[j + 1]? = some u → us[j + 2]? = some v → exec (.transferRowset me) u = .next v) ∧
          ∀ t, us.getLast? = some t → (t.strm me).mode = .running ∧ (t.strm me).xfer = none ∧
            (t.strm me).word = (s.strm me).word + 2 ∧ ((t.slot c k).desc d.toNat).holder = none ∧
            (put = true → ∃ es : List QEntry, es.length = count ∧
              ((t.slot c k).queue q.toNat).entries = (x.queue q.toNat).entries ++ es) ∧
            (put = false → ((t.slot c k).queue q.toNat).entries = (x.queue q.toNat).entries.drop count)))) ∧
  (∀ (s : State) (c k : Nat) (cls : Cls) (x : Xfer), cls ≠ .net → (s.strm (.strm c k cls)).xfer = some x →
    let a : Agent := .strm c k cls
    let me := s.slot c k
    let desc := me.desc x.d
    desc.holder = some cls →
    let u := s.updDesc a x.d (fun y => { y with holder := some cls })
    let acc := s.xferAcc c k (.transfer c k cls) desc
    let segs := (desc.take desc.segs).1
    let plain (kind : AKind) (c0 : Nat) (o : Nat → Nat) : Prop := desc.sound (!x.put) cls = true ∧ desc.space = 0 ∧
      desc.scmode = 0 ∧ desc.mfmt = desc.qfmt ∧
      ∀ (i : Nat) (g : Seg), segs[i]? = some g → ∃ ad, g.addr = some ad ∧ s.spFor acc kind ad desc.seglen c0 (o i)
    let went (t : State) (d' : Desc) : Prop :=
      (1 < x.left → (t.strm a).xfer = some { x with left := x.left - 1, formed := none, mid := false } ∧
        (t.strm a).word = (s.strm a).word ∧
        (t.slot c k).desc x.d = { desc with i0 := d'.i0, i1 := d'.i1, i2 := d'.i2, i3 := d'.i3 }) ∧
      (x.left ≤ 1 → (t.strm a).xfer = none ∧ (t.strm a).word = (s.strm a).word + 2 ∧ ((t.slot c k).desc x.d).holder = none ∧
        (desc.reload = [] → (t.slot c k).desc x.d =
          { desc with i0 := d'.i0, i1 := d'.i1, i2 := d'.i2, i3 := d'.i3, holder := none }))
    let queue := me.queue x.q
    (x.put = true →
      (∀ e fl, x.formed = some (e, fl) →
        (queue.room = 0 → ∃ t, exec (.transferRowset a) s = .next t ∧ (t.strm a).mode = .blocked ∧
          (t.slot c k).queue x.q = queue ∧ s.sameBytes t) ∧
        (queue.room ≠ 0 → ∃ t, exec (.transferRowset a) s = .next t ∧
          ((t.slot c k).queue x.q).entries = queue.entries ++ [e] ∧ went t (desc.take desc.segs).2.1)) ∧
      (x.formed = none →
        (∀ r e d' fl, u.formRows acc desc x.ftz = (r, .ok e d' fl) →
          (queue.room = 0 → ∃ t, exec (.transferRowset a) s = .next t ∧ (t.strm a).mode = .blocked ∧
            (t.strm a).xfer = some { x with formed := some (e, fl), mid := true } ∧ (t.slot c k).queue x.q = queue ∧
            r.sameBytes t) ∧
          (queue.room ≠ 0 → ∃ t, exec (.transferRowset a) s = .next t ∧
            ((t.slot c k).queue x.q).entries = queue.entries ++ [e] ∧ went t d')) ∧
        (∀ c0 o, plain .rd c0 o → queue.room ≠ 0 → ∃ t e, exec (.transferRowset a) s = .next t ∧
          ((t.slot c k).queue x.q).entries = queue.entries ++ [e] ∧ went t (desc.take desc.segs).2.1 ∧
          (∀ i j, i < segs.length → j < desc.seglen →
            (rowBytes e.rows).getD (desc.seglen * i + j) 0 = s.byteAt (.scratch c0) (o i + j)) ∧
          (∀ j, desc.seglen * segs.length ≤ j → j < 2048 → (rowBytes e.rows).getD j 0 = 0) ∧
          e.side = 0 ∧ e.pad = decide (segs.length < desc.segs) ∧ e.last = (desc.take desc.segs).2.2 ∧ e.scv = false ∧
          e.fmt = desc.qfmt ∧
          (∀ y i, y ≠ .scratch c ∨ i < queueArea k x.q 0 ∨ queueArea k x.q 0 + 0x8C00 ≤ i →
            t.byteAt y i = s.byteAt y i)))) ∧
    (x.put = false →
      (queue.ready = 0 → ∃ t, exec (.transferRowset a) s = .next t ∧ (t.strm a).mode = .blocked ∧ s.sameBytes t) ∧
      (∀ e es, queue.entries = e :: es → queue.ready ≠ 0 →
        (e.fmt ≠ desc.qfmt → exec (.transferRowset a) s = .next (u.xferTrap a x ⟨3, 4, 0, 0⟩)) ∧
        (e.fmt = desc.qfmt → ∀ r d' fl, u.writeRows acc c desc e x.ftz = (r, .ok d' fl) →
          ∃ t, exec (.transferRowset a) s = .next t ∧ ((t.slot c k).queue x.q).entries = es ∧ went t d') ∧
        (e.fmt = desc.qfmt → ∀ c0 o, plain .wr c0 o →
          ∃ t, exec (.transferRowset a) s = .next t ∧ ((t.slot c k).queue x.q).entries = es ∧
            went t (desc.take desc.segs).2.1 ∧
            (∀ i j, i < segs.length → j < desc.seglen →
              (∀ i', i < i' → i' < segs.length → o i + j < o i' ∨ o i' + desc.seglen ≤ o i + j) →
              t.byteAt (.scratch c0) (o i + j) = (rowBytes e.rows).getD (desc.seglen * i + j) 0) ∧
            ∀ y i, y ≠ .scratch c0 ∨ (∀ j, j < segs.length → i < o j ∨ o j + desc.seglen ≤ i) →
              t.byteAt y i = s.byteAt y i)))) ∧
  (∀ (d : Desc), d.i0 < d.count 0 → d.i1 < d.count 1 → d.i2 < d.count 2 → d.i3 < d.count 3 →
    let n (d : Desc) : Nat := d.i0 + d.count 0 * (d.i1 + d.count 1 * (d.i2 + d.count 2 * d.i3))
    let total := d.count 0 * d.count 1 * d.count 2 * d.count 3
    (n d + 1 < total → d.step.2 = false ∧ n d.step.1 = n d + 1) ∧
    (n d + 1 = total → d.step.2 = true ∧ n d.step.1 = 0) ∧ n d < total ∧ d.step.1.dw = d.dw ∧
    (d.unf = false → ∃ a, d.seg = some a ∧ a < 2 ^ 64 ∧ ((a : Int) - (d.base + d.i0 * d.sfld 1 0 32 + d.i1 * d.sfld 1 32 32 +
      d.i2 * d.sfld 2 0 32 + d.i3 * d.sfld 2 32 32)) % 2 ^ 64 = 0))

/-- SSTART starts a halted stream at its line, and waits while it runs (R181). SSTOP stops a stream: its transfers end at
a row-set boundary, its matrix operations stop with CAUSE 10, a vector stream awaits its replies, and the flag named is
advanced, at once where the stream was halted already (R182, R235, R130); a vector stream that drains keeps the signals it
owes, and signals them all when it has halted. A line is reached through its checks (R41, R44): past its last word a stream
moves on by NEXT, and the link word's flag may hold it, once on each entry to the line (R42). A blocked stream's resumption
is the same instruction again (R27, R38); one that has not the units, or whose next reply is out, goes on as soon as it has
them, where its condition holds (R132).
Readings of the model: log 1. -/
def Obligations.StreamsStartStopAndResume : Prop :=
  (∀ (s : State) (g : Guard) (cls : Cls) (line : LineRef) (sig : Option (BitVec 6)) (c k : Nat), s.agent = .strm c k .ctl →
    s.acts s.agent g = true → cls ≠ .ctl → cls ≠ .net →
    let x := s.slot c k
    let old := x.strm cls
    let l := match line with | .imm i => i.toNat | .reg r => (s.reg s.agent r).toNat
    (old.mode ≠ .halted → exec (.sstart g cls line) s = .next (s.block s.agent)) ∧
    (old.mode = .halted → ∃ t, exec (.sstart g cls line) s = .next t ∧
      (t.strm s.agent).word = (s.strm s.agent).word + 2 ∧ s.sameBytes t ∧
      let new := t.strm (.strm c k cls)
      new.mode = .running ∧ new.line = l ∧ new.word = 0 ∧ new.reached = false ∧ new.regs = old.regs ∧
      new.preds = old.preds ∧ new.lcnt = old.lcnt ∧ new.ecnt = old.ecnt) ∧
    (∃ t, exec (.sstop g cls sig) s = .next t ∧ (t.strm s.agent).word = (s.strm s.agent).word + 2 ∧ s.sameBytes t ∧
      let new := t.strm (.strm c k cls)
      let signals : Prop := ∀ n, (t.slot c k).flagNow n = x.flagNow n + (if sig.map (·.toNat) = some n then 1 else 0)
      let awaits : Prop := ∃ r ∈ x.v.inflight, r.arrived = false
      new.regs = old.regs ∧ new.preds = old.preds ∧
      (old.mode = .halted → new = old ∧ signals) ∧
      (old.mode = .running ∨ old.mode = .blocked →
        (cls = .vec → awaits → new.mode = .draining (sig.map (·.toNat)).toList ∧
          ∀ n, x.sigs = [] → (t.slot c k).flagNow n = x.flagNow n) ∧
        (cls ≠ .vec ∨ ¬ awaits → new.mode = .halted ∧ new.xfer = none) ∧
        (cls = .ldr ∨ cls = .str → (∀ p ∈ x.sigs, x.sigReady p = false) → signals) ∧
        (cls = .mat ∨ (cls = .vec ∧ ¬ awaits) → x.sigs = [] → signals) ∧
        (cls = .ldr ∨ cls = .str → ∀ n d, (n, d) ∈ (t.slot c k).descs → d.holder ≠ some cls) ∧
        (cls = .mat → ∀ o, x.m.cop = some o → o.kind ≠ .mmg → o.live = true → x.m.share = none →
          (t.slot c k).m.cop = some { o with stat := .stopped 2 })) ∧
      (∀ fs, cls = .vec → old.mode = .draining fs → awaits → new.mode = .draining (fs ++ (sig.map (·.toNat)).toList)))) ∧
  (∀ (s : State) (a : Agent), realAgent a = true →
    let t := s.strm a
    let l := if t.word = 0 then t.line else nextLine t.line (s.nextOf a)
    let first : Prop := 16 ≤ t.word ∨ t.reached = false
    let plane := if 16 ≤ t.word ∨ t.reached = false then s.planeOf a else t.plane
    let w := s.codeWord a plane l 0
    let held : Prop := linkWaits w = true ∧ (t.word = 0 → t.passed = false) ∧ ((s.own a).flag (linkFlag w)).toNat < linkVal w
    (t.word = 0 ∨ (16 ≤ t.word ∧ s.nextOf a ≠ 0) → (first → s.reachFault a l = none) →
      ∃ u, exec (.lineAdvance a) s = .next u ∧ (u.strm a).line = l ∧ (u.strm a).plane = plane ∧ (u.strm a).reached = true ∧
        (u.strm a).regs = t.regs ∧ (u.strm a).preds = t.preds ∧ s.sameBytes u ∧
        (¬ held → (u.strm a).word = 1 ∧ (u.strm a).mode = .running) ∧
        (held → (u.strm a).word = 0 ∧ (u.strm a).mode = .blocked)) ∧
    (t.word = 0 → t.reached = false → ∀ n, s.reachFault a l = some n →
      exec (.lineAdvance a) s = .next (s.raise a ⟨2, n, 0, 0⟩)) ∧
    (16 ≤ t.word → s.nextOf a ≠ 0 → ∀ n, s.reachFault a l = some n → exec (.lineAdvance a) s =
      .next ((s.updStrm a (fun v => { v with line := l, word := 0, reached := false, passed := false })).raise a ⟨2, n, 0, 0⟩)) ∧
    (16 ≤ t.word → s.nextOf a = 0 → exec (.lineAdvance a) s = .next (s.raise a ⟨2, 5, 0, 0⟩)) ∧
    (t.mode = .blocked → s.mayNot a = false → t.xfer = none → t.word = 0 → t.reached = true →
      ∃ u, exec (.streamUnblock a) s = .next u ∧ s.sameBytes u ∧
        (¬ held → (u.strm a).word = 1 ∧ (u.strm a).mode = .running) ∧
        (held → (u.strm a).word = 0 ∧ (u.strm a).mode = .blocked))) ∧
  (∀ (s : State) (a : Agent) (i : Instr), (s.strm a).mode = .blocked → (s.strm a).xfer = none →
    (s.strm a).inLine = true → s.decodeAt a = .ok i → (i.short?.isSome ∨ i.long?.isSome) →
    ∃ t, exec i { s with agent := a } = .next t ∧
      (s.mayNot a = false → exec (.streamUnblock a) s = .next t) ∧
      (s.mayNot a = true → (t.strm a).mode ≠ .blocked → exec (.streamUnblock a) s =
        .next (s.updStrm a (fun u => { u with mode := .running, passed := (t.strm a).passed }))) ∧
      (s.mayNot a = false → realAgent a = true → ∀ g f lit v, i = .fwait g f lit v → s.acts a g = true →
        v.toNat ≤ ((s.own a).flag f.toNat).toNat →
        (t.strm a).mode = .running ∧ (t.strm a).word = (s.strm a).word + (if lit = true then 3 else 2))) ∧
  (∀ (s : State) (a : Agent), (s.strm a).mode = .blocked → s.mayNot a = false → (s.strm a).xfer.isSome = true →
    exec (.streamUnblock a) s = exec (.transferRowset a) { s with agent := a }) ∧
  (∀ (s : State) (c k : Nat) (fs : List Nat), (s.slot c k).vec.mode = .draining fs →
    let x := s.slot c k
    let a : Agent := .strm c k .vec
    ((∃ r ∈ x.v.inflight, r.arrived = false) → exec (.streamUnblock a) s = .next s) ∧
    ((∀ r ∈ x.v.inflight, r.arrived = true ∧ r.fault = none) → ∃ t, exec (.streamUnblock a) s = .next t ∧
      (t.strm a).mode = .halted ∧ (t.slot c k).v.inflight = [] ∧ s.sameBytes t ∧
      (x.sigs = [] → ∀ n, (t.slot c k).flagNow n = x.flagNow n + .ofNat 16 (fs.count n))))

/-! # Tiles (R191 to R214) -/

/-- Tile instructions. TALLOC takes the lowest free run of granules and answers 0, or a status that says why not, changing
nothing else (R194, R208). The others move one entry along R196 (free, fill, fillfor, drain, abort, post, advance,
origin, step, key), wait while the state calls for it or a lower slot's claim goes first (R210), and trap on an entry that is
FREE, on a number above 511 (TADDR too) and where R206 to R211 say so. TQRY reads an entry as the cycle before left it, TRES the
residency of a key, TADDR an address (R191, R204, R212 to R214). A transition is seen by the turn that makes it, and by the
other turns of its core cycle only when that cycle is over (R197).
Readings of the model: log 1, 52, 102. -/
def Obligations.TileInstructions : Prop :=
  (∀ (s : State) (g : Guard) (win : Bool) (d key : BitVec 6) (n : TileRef) (size : Src), s.acts s.agent g = true →
    let me := s.agent
    let c := agentCore me
    let sz := (s.srcZ me size).toNat
    let k := s.reg me key
    let ok := 1 ≤ sz ∧ sz ≤ 4096 ∧ k.toNat < 2 ^ 32
    let answers (v : DWord) : Prop := exec (.talloc g win d n size key) s = .next (s.result me d v (srcWords size))
    let fits (b : Nat) : Prop := b + sz ≤ 4096 ∧ ∀ i t, (i, t) ∈ (s.core c).tiles → t.state ≠ 0 →
      b + sz ≤ t.baseg ∨ t.baseg + t.sizeg ≤ b
    (s.tileNo me n = none → answers 1) ∧
    (∀ i, s.tileNo me n = some i →
      (¬ ok → answers 2) ∧ (ok → ((s.core c).tile i).state ≠ 0 → answers 3) ∧
      (ok → ((s.core c).tile i).state = 0 → (∀ b, ¬ fits b) → answers 4) ∧
      (ok → ((s.core c).tile i).state = 0 → ∀ b, fits b → (∀ b', fits b' → b ≤ b') →
        exec (.talloc g win d n size key) s = .next ((s.putTile c i
          { Tile.free with state := 1, win := win, baseg := b, sizeg := sz, key := k.setWidth 32 }).result me d 0 (srcWords size))))) ∧
  (∀ (s : State) (g : Guard) (n : TileRef) (scope : BitVec 3) (b : Src) (d : BitVec 6) (w : BitVec 2),
    s.acts s.agent g = true →
    let me := s.agent
    let c := agentCore me
    let code := 0x200 + 4 * c + agentSlot me
    let v := s.src me b
    let waits (i : Instr) : Prop := exec i s = .next (s.block me)
    (∀ r, n = .reg r → 511 < (s.reg me r).toNat → ∀ i ∈ [Instr.tfree g n, .tsetFill g n, .tsetDrain g n, .tsetAbort g n, .tsetAdv g n,
        .tsetFillfor g n b, .tsetOrg g n b, .tsetWstep g n b, .tsetKey g n b, .tpost g scope n, .tqry g d n w],
      exec i s = .next (s.raise me ⟨4, 6, 0, .ofNat 64 ((s.reg me r).toNat % 512)⟩)) ∧
    (∀ j, s.tileNo me n = some j →
      let t := (s.core c).tile j
      let sets (i : Instr) (words : Nat) (u : Tile) : Prop :=
        exec i s = .next ((s.putTile c j u).advance me words)
      let fails (i : Instr) (sub : Nat) : Prop := exec i s = .next (s.raise me ⟨4, sub, 0, .ofNat 64 (j % 512)⟩)
      let first (want : Nat) : Prop := s.lowerClaim c (agentSlot me) j want = false
      let empty : Tile := { t with state := 1, prod := 0, cons := 0, claimP := none, claimC := none }
      exec (.tqry g d n w) s = .next (s.result me d (((s.core c).tileOld j).dword w.toNat) 2) ∧
      (t.state = 0 → ∀ i ∈ [Instr.tfree g n, .tsetFill g n, .tsetDrain g n, .tsetAbort g n, .tsetAdv g n,
        .tsetFillfor g n b, .tsetOrg g n b, .tsetWstep g n b, .tsetKey g n b, .tpost g scope n], fails i 4) ∧
      (t.state = 1 → sets (.tfree g n) 2 Tile.free ∧
        (first 1 → sets (.tsetFill g n) 2 { t with state := 2, prod := code, cons := 0, claimP := none, claimC := none } ∧
          (s.consumerOk v = true → sets (.tsetFillfor g n b) (srcWords b)
            { t with state := 2, prod := code, cons := v.toNat, claimP := none, claimC := none })) ∧
        (¬ first 1 → waits (.tsetFill g n) ∧ (s.consumerOk v = true → waits (.tsetFillfor g n b))) ∧
        (s.consumerOk v = false → fails (.tsetFillfor g n b) 6) ∧
        (v.toNat < 2 ^ 32 → sets (.tsetKey g n b) (srcWords b) { t with key := v.setWidth 32 }) ∧
        waits (.tsetDrain g n) ∧ fails (.tsetAbort g n) 6) ∧
      (t.state = 1 ∨ t.state = 3 →
        (s.workOut me (BitVec.allOnes 6) = false → fails (.tpost g scope n) 6) ∧
        (s.workOut me (BitVec.allOnes 6) = true → waits (.tpost g scope n))) ∧
      (t.state = 2 ∨ t.state = 4 → fails (.tsetAdv g n) 6) ∧
      (t.state ≠ 0 → t.state ≠ 1 ∨ 2 ^ 32 ≤ v.toNat → fails (.tsetKey g n b) 6) ∧
      (t.state = 2 → waits (.tsetFill g n) ∧ waits (.tsetDrain g n) ∧ fails (.tfree g n) 6 ∧
        (s.workOut me (BitVec.allOnes 6) = false → t.prod = code → sets (.tpost g scope n) 2 { t with state := 3 }) ∧
        (s.workOut me (BitVec.allOnes 6) = true → waits (.tpost g scope n)) ∧
        (t.prod = code → sets (.tsetAbort g n) 2 empty) ∧
        (t.prod ≠ code → fails (.tsetAbort g n) 6 ∧
          (s.workOut me (BitVec.allOnes 6) = false → fails (.tpost g scope n) 6))) ∧
      (t.state = 3 → sets (.tfree g n) 2 Tile.free ∧ waits (.tsetFill g n) ∧ fails (.tsetAbort g n) 6 ∧
        (first 3 → sets (.tsetDrain g n) 2 { t with state := 4, cons := code, claimC := none }) ∧
        (¬ first 3 → waits (.tsetDrain g n))) ∧
      (t.state = 4 → waits (.tsetFill g n) ∧ waits (.tsetDrain g n) ∧ fails (.tfree g n) 6 ∧
        (s.workOut me (BitVec.allOnes 6) = false → t.cons = code → sets (.tpost g scope n) 2 empty) ∧
        (s.workOut me (BitVec.allOnes 6) = true → waits (.tpost g scope n)) ∧
        (t.cons = code → sets (.tsetAbort g n) 2 { t with state := 3, cons := 0, claimC := none }) ∧
        (t.cons ≠ code → fails (.tsetAbort g n) 6 ∧
          (s.workOut me (BitVec.allOnes 6) = false → fails (.tpost g scope n) 6))) ∧
      (t.state ≠ 0 → (t.win = true → sets (.tsetOrg g n b) (srcWords b) { t with origin := v } ∧
          sets (.tsetWstep g n b) (srcWords b) { t with wstep := v } ∧
          (t.state = 1 ∨ t.state = 3 → sets (.tsetAdv g n) 2 { empty with widx := t.widx + 1, origin := t.origin + t.wstep })) ∧
        (t.win = false → fails (.tsetOrg g n b) 6 ∧ fails (.tsetWstep g n b) 6 ∧ fails (.tsetAdv g n) 6)))) ∧
  (∀ (s : State) (g : Guard) (d a b : BitVec 6) (n : TileRef) (core : Option (BitVec 6)), s.acts s.agent g = true →
    let me := s.agent
    let c := match core with | some r => (s.reg me r).toNat | none => agentCore me
    let k := (s.reg me a).toNat
    let of1 (p : Tile → Bool) : List Tile := ((s.core c).tiles.map (·.2)).filter (fun t => t.state != 0 && t.key.toNat == k && p t)
    let size (ts : List Tile) : Nat := (ts.map (·.sizeg)).sum
    let held := s.holdsCore (s.partOf me) c
    (held = false → exec (.tres g d a core) s = .next (s.result me d 0xFFFFFFFFFFFFFFFF 2)) ∧
    (held = true → exec (.tres g d a core) s = .next (s.result me d (if k = 0 ∨ 2 ^ 32 ≤ k then 0 else
      .ofNat 64 ((of1 (fun _ => true)).length * 2 ^ 32 + size (of1 (fun t => t.state == 2)) * 2 ^ 16 +
        size (of1 (fun t => t.state == 3 || t.state == 4)))) 2)) ∧
    (∀ r, n = .reg r → 511 < (s.reg me r).toNat →
      exec (.taddr g d n b core) s = .next (s.raise me ⟨4, 6, 0, .ofNat 64 ((s.reg me r).toNat % 512)⟩)) ∧
    (∀ i, s.tileNo me n = some i →
      let t := (s.core c).tile i
      let off := (s.reg me b).toNat
      exec (.taddr g d n b core) s = .next (s.result me d
        (if held = true ∧ t.state ≠ 0 ∧ off < 2048 * t.sizeg then .ofNat 64 (c * 2 ^ 24 + t.baseg * 2048 + off)
         else 0xFFFFFFFFFFFFFFFF) 2))) ∧
  (∀ (x : Core) (rank r n i : Nat) (u : Tile),
    let y := x.putTile rank n u
    y.tile n = u ∧ (i ≠ n → y.tile i = x.tile i) ∧ y.tileSeen rank n u = u ∧ y.newCycle.tileSeen r n u = u ∧
    (x.tilesWas = [] → y.tileOld n = x.tile n ∧ (r ≠ rank → y.tileSeen r n u = x.tile n)))

/-- Rotations (R202, R203). TROT offers its tiles and goes on while other participants are still to come; a second TROT on
the core waits; the last to come goes on where every source is as large as the destination that it fills. With every participant there, the rotation starts once every source is READY and every destination
EMPTY: sources drain and destinations fill for the ring. When it ends, each participant's source bytes stand in the
destination of its neighbour, no other byte has changed, sources are EMPTY and destinations READY.
Readings of the model: log 42. -/
def Obligations.RingRotations : Prop :=
  (∀ (s : State) (g : Guard) (dn : Bool) (dst src : BitVec 9) (mask : BitVec 6) (sig : Option (BitVec 6)),
    s.acts s.agent g = true →
    let me := s.agent
    let c := agentCore me
    let x := s.core c
    let cs := ringCores (bayOf c) mask.toNat
    let i : Instr := .trot g dn dst src mask sig
    let mine : Rot := { src := src.toNat, dst := dst.toNat, mask := mask.toNat, dn := dn, slot := agentSlot me,
                        uid := s.uidAt c (agentSlot me), sig := sig.map (·.toNat), started := false, line := (s.strm me).line,
                        word := (s.strm me).word }
    ((x.tile src.toNat).state = 0 → exec i s = .next (s.raise me ⟨4, 4, 0, .ofNat 64 src.toNat⟩)) ∧
    ((x.tile src.toNat).state ≠ 0 → (x.tile dst.toNat).state ≠ 0 → 2 ≤ cs.length → c ∈ cs →
      (x.rot.isSome = true → exec i s = .next (s.block me)) ∧
      (x.rot = none → (∀ d ∈ cs, ∀ r, (s.core d).rot = some r → r.mask = mask.toNat ∧ r.dn = dn) →
        (∃ d ∈ cs, d ≠ c ∧ (s.core d).rot = none) ∨
          (∃ r : Nat → Rot, r c = mine ∧ (∀ d ∈ cs, d ≠ c → (s.core d).rot = some (r d)) ∧ ∀ d ∈ cs,
            ((s.core d).tile (r d).src).sizeg =
              ((s.core (ringNext cs dn d)).tile (r (ringNext cs dn d)).dst).sizeg) →
        exec i s = .next ((s.updCore c (fun y => { y with rot := some mine })).advance me 2)))) ∧
  (∀ (s : State) (bay mask : Nat) (r : Nat → Rot),
    let cs := ringCores bay mask
    (∀ c ∈ cs, (s.core c).rot = some (r c) ∧ (r c).mask = mask ∧ (r c).src ≠ (r c).dst ∧ s.clockOn c = true) →
    (∀ c ∈ cs, (r c).started = false ∧ ((s.core c).tile (r c).src).state = 3 ∧ ((s.core c).tile (r c).dst).state = 1) →
    ∀ core ∈ cs, ∃ t, exec (.rotationStart bay core) s = .next t ∧ s.sameBytes t ∧ ∀ c ∈ cs,
      (t.core c).rot = some { r c with started := true } ∧
      (t.core c).tile (r c).src = { (s.core c).tile (r c).src with state := 4, cons := 0x600, claimC := none } ∧
      (t.core c).tile (r c).dst =
        { (s.core c).tile (r c).dst with state := 2, prod := 0x600, cons := 0, claimP := none, claimC := none }) ∧
  (∀ (s : State) (bay mask : Nat) (dn : Bool) (r : Nat → Rot),
    let cs := ringCores bay mask
    let next (c : Nat) : Nat := ringNext cs dn c
    let src (c : Nat) : Tile := (s.core c).tile (r c).src
    let dst (c : Nat) : Tile := (s.core c).tile (r c).dst
    (∀ c ∈ cs, (s.core c).rot = some (r c) ∧ (r c).mask = mask ∧ (r c).dn = dn ∧ (r c).started = true ∧
      (r c).src ≠ (r c).dst ∧ s.clockOn c = true ∧ (dst (next c)).sizeg = (src c).sizeg) →
    ∀ core ∈ cs, ∃ t, exec (.rotationEnd bay core) s = .next t ∧
      (∀ c ∈ cs, (t.core c).rot = none ∧ ((t.core c).tile (r c).src).state = 1 ∧ ((t.core c).tile (r c).dst).state = 3 ∧
        ∀ j, j < (src c).sizeg * 2048 →
          t.byteAt (.scratch (next c)) ((dst (next c)).baseg * 2048 + j) = s.byteAt (.scratch c) ((src c).baseg * 2048 + j)) ∧
      (∀ c i, (c ∈ cs → i < (dst c).baseg * 2048 ∨ ((dst c).baseg + (dst c).sizeg) * 2048 ≤ i) →
        t.byteAt (.scratch c) i = s.byteAt (.scratch c) i))

/-! # Tasks (file 13) -/

/-- Enqueues (R310, R311, R316, R320, R327, R333). The header is the 16 doublewords at the address. A misaligned address
answers 1 and a header that fails a check of R311 its code, with nothing queued; else ENQ, ENQNB and GLEAN put one piece
with the header's range at the tail of an eligible core's queue that has room, SPLIT its parts under one id (a gleaning
task whole, R329), GLAUNCH a gang at a bay; sD takes the id in bits 63 to 32. Placement takes the largest score, then the largest filling score, then
the least load.
Readings of the model: log 53, 55. -/
def Obligations.EnqueuedTasksJoinQueues : Prop :=
  (∀ (s : State) (g : Guard) (d a : BitVec 6) (n : BitVec 10) (c k cs o : Nat), s.agent = .strm c k .ctl →
    s.acts s.agent g = true → s.ctlToken c k = none →
    let me := s.agent
    let p := s.partOf me
    let addr := (s.reg me a).toNat
    let hdr : List DWord := (List.range 16).map (fun i => .ofNat 64 (memNat (s.store (.scratch cs)) (o + 8 * i) 8))
    let gleaned := hdr.set 4 (hw hdr 4 ||| (1 : DWord) <<< 36)
    let id := (s.part p).nextId % 2 ^ 32
    let all : List Instr := [.enq g d a, .enqnb g d a, .split g d a n, .glaunch g d a, .glean g d a]
    let room (c' m : Nat) : Prop := (s.core c').queue.length + m ≤ 32 ∧ (s.core c').ringed = 0
    let accepted (t : State) : Prop := (t.strm me).word = (s.strm me).word + 2 ∧ s.sameBytes t ∧
      t.reg me d = (if d = 0 then 0 else .ofNat 64 (id * 2 ^ 32)) ∧ (t.part p).nextId = (id + 1) % 2 ^ 32
    let one (i : Instr) (h : List DWord) (kind : WorkKind) : Prop := ∃ t tgt e, exec i s = .next t ∧ accepted t ∧
      tgt ∈ s.eligible p h ∧ e.saved = none ∧ e.ring = none ∧ e.piece.part = p ∧ e.piece.kind = kind ∧ e.piece.hdr = h ∧
      e.piece.lo = hw h 0 ∧ e.piece.hi = hw h 1 ∧ e.piece.id.toNat = id ∧ e.piece.gang = none ∧
      ∀ c', (t.core c').queue = if c' = tgt then (s.core c').queue ++ [e] else (s.core c').queue
    (addr % 128 ≠ 0 → ∀ i ∈ all, exec i s = .next (s.result me d 1 2)) ∧
    (addr % 128 = 0 → s.inScratch .rd addr 128 cs o →
      (∀ v, v ≠ 0 → (s.checkHeader p .task hdr = v → exec (.enq g d a) s = .next (s.result me d (.ofNat 64 v) 2) ∧
          exec (.enqnb g d a) s = .next (s.result me d (.ofNat 64 v) 2)) ∧
        (s.checkHeader p .task gleaned = v → exec (.glean g d a) s = .next (s.result me d (.ofNat 64 v) 2)) ∧
        (s.checkHeader p .split hdr = v → exec (.split g d a n) s = .next (s.result me d (.ofNat 64 v) 2)) ∧
        (s.checkHeader p .gang hdr = v → exec (.glaunch g d a) s = .next (s.result me d (.ofNat 64 v) 2))) ∧
      (s.checkHeader p .task hdr = 0 → hGlean hdr = false → (∀ c', room c' 1) →
        one (.enq g d a) hdr .normal ∧ one (.enqnb g d a) hdr .normal) ∧
      (s.checkHeader p .task gleaned = 0 → (∀ c', room c' 1) → one (.glean g d a) gleaned .gleaning) ∧
      (s.checkHeader p .task hdr = 0 → (∀ c' ∈ s.eligible p hdr, (s.core c').full = true) →
        exec (.enqnb g d a) s = .next (s.result me d 8 2)) ∧
      (s.checkHeader p .split hdr = 0 →
        let ranges := halves (hw hdr 2).toNat (if hGlean hdr = true then 0 else n.toNat) [((hw hdr 0).toNat, (hw hdr 1).toNat)]
        (∀ c', room c' ranges.length) → ∃ (t : State) (tgts : List Nat), exec (.split g d a n) s = .next t ∧ accepted t ∧
          tgts.length = ranges.length ∧ (∀ x ∈ tgts, x ∈ s.eligible p hdr) ∧
          ∀ c', (s.core c').queue <+: (t.core c').queue ∧
            ((t.core c').queue.drop (s.core c').queue.length).map (fun e => (e.piece.lo.toNat, e.piece.hi.toNat)) =
              ((tgts.zip ranges).filter (fun x => x.1 == c')).map (·.2)) ∧
      (s.checkHeader p .gang hdr = 0 → (∀ b, (s.bay b).gangs.length < 16) →
        (∃ b ∈ s.baysOf p, hGang hdr ≤ ((s.coresOf p).filter (fun c' => unitHas (hLevel hdr) (s.unitOfTask p hdr) c' &&
          bayOf c' == b)).length) → ∃ t b x, exec (.glaunch g d a) s = .next t ∧ accepted t ∧
          b ∈ s.baysOf p ∧ x.piece.hdr = hdr ∧ x.piece.id.toNat = id ∧ x.size = hGang hdr ∧ x.slots = [] ∧ x.saved = [] ∧
          ∀ b', (t.bay b').gangs = if b' = b then (s.bay b').gangs ++ [x] else (s.bay b').gangs))) ∧
  (∀ (grain n lo hi : Nat), 0 < grain → lo < hi →
    let rs := halves grain n [(lo, hi)]
    rs.length ≤ 2 ^ n ∧ (rs.head?.map (·.1)) = some lo ∧ (rs.getLast?.map (·.2)) = some hi ∧
    (∀ r ∈ rs, r.1 < r.2 ∧ (r.1 - lo) % grain = 0) ∧ ∀ i r q, rs[i]? = some r → rs[i + 1]? = some q → r.2 = q.1) ∧
  (∀ (x : Die) (cores e : List Nat) (h : List DWord) (c : Nat),
    (∀ c', (x.score cores h c').1 < 2 ^ 64 ∧ (x.score cores h c').2 < 2 ^ 64) → x.place cores e h false = some c →
    c ∈ e ∧ ∀ c' ∈ e, (x.score cores h c').1 ≤ (x.score cores h c).1 ∧
      ((x.score cores h c').1 = (x.score cores h c).1 → (x.score cores h c').2 ≤ (x.score cores h c).2 ∧
        ((x.score cores h c').2 = (x.score cores h c).2 → (x.core c).load ≤ (x.core c').load)))

/-- The other task instructions. SRAD sets the steal range, PIN marks a queued task or answers a status, RETIRE begins the
retirement: the slot is retiring, held traps and requests dropped (R36, R334, R335, R338). YIELD answers 3 in a gang
member and 1 while no queued normal task lacks a slot; else the piece is saved, resumes with 0, and its slot is free
(R336, R392); a save that is abandoned answers 2, and one that is held blocks. Before a record is claimed transfers stop at a
row-set boundary and every result in flight stands in the landing buffer, or its fault among the held traps (R172, R385, R392).
DBAR at level task completes its own barrier; above it the piece arrives, and the stream goes on at once in
the `.nw` form, else when its SYS.DOM shows another epoch (R337).
Readings of the model: log 52, 53, 56, 57, 92, 106. -/
def Obligations.TaskInstructions : Prop :=
  (∀ (s : State) (g : Guard) (b : Src) (d a : BitVec 6) (c k : Nat) (cls : Cls), s.agent = .strm c k cls →
    s.acts s.agent g = true →
    let me := s.agent
    let v := (s.srcZ me b).toNat
    let id := (s.reg me a).toNat
    exec (.srad g b) s = .next ((s.updCore c (fun x => { x with range := .ofNat 2 (min v 3) })).advance me (srcWords b)) ∧
    (2 < v → exec (.pin g d a b) s = .next (s.result me d 2 (srcWords b))) ∧
    (v ≤ 2 → (∀ e ∈ (s.core c).queue, e.piece.id.toNat ≠ id) → exec (.pin g d a b) s = .next (s.result me d 1 (srcWords b))) ∧
    (v ≤ 2 → (∃ e ∈ (s.core c).queue, e.piece.id.toNat = id) → ∃ q : List TaskEntry, q.length = (s.core c).queue.length ∧
      (∃ t, exec (.pin g d a b) s = .next t ∧ (t.core c).queue = q ∧ s.sameBytes t ∧
        (realAgent me = true → (t.strm me).word = (s.strm me).word + srcWords b ∧ t.reg me d = 0) ∧
        (∀ e ∈ (s.core c).queue, e.piece.id.toNat = id → ∀ r y, e.saved = some r → s.savedRec e.piece.part r = some y →
          t.savedRec e.piece.part r =
            some { y with slot := { y.slot with piece := y.slot.piece.map (fun z => { z with pin := v }) } }) ∧
        ((∀ e ∈ (s.core c).queue, e.saved = none) →
          t = (s.updCore c (fun x => { x with queue := q })).result me d 0 (srcWords b))) ∧
      ∀ (i : Nat) (e : TaskEntry), (s.core c).queue[i]? = some e → q[i]? = some (if e.piece.id.toNat = id then
        { e with piece := { e.piece with pin := v } } else e)) ∧
    (∃ t, exec (.retire g) s = .next t ∧ (t.slot c k).phase = .retiring ∧ (t.slot c k).piece = (s.slot c k).piece ∧
      (t.slot c k).trap.pend = [] ∧ (t.slot c k).trap.intrap = false ∧ (t.slot c k).enq = [] ∧ s.sameBytes t) ∧
    ((s.slot c k).piece.bind (·.gang) ≠ none → exec (.yield g d) s = .next (s.result me d 3 2)) ∧
    ((s.slot c k).piece.bind (·.gang) = none →
      (s.yieldWanted c = false → exec (.yield g d) s = .next (s.result me d 1 2)) ∧
      let e := s.enterSave c k
      let at0 := e.result me d 0 2
      (s.yieldWanted c = true → ∀ u r, at0.saveSlot c k (fun _ => true) false none = (u, .saved r) →
        exec (.yield g d) s = .next u) ∧
      (s.yieldWanted c = true → ∀ q r, (s.slot c k).piece = some q → (s.part q.part).freeRec = some r →
        at0.mapped (at0.slotSync c k) .wr ((s.part q.part).recAt r) 0x400000 →
        ∃ t y, exec (.yield g d) s = .next t ∧ (t.slot c k).phase = .free ∧ t.savedRec q.part r = some y ∧ y.slot.piece = some q) ∧
      (s.yieldWanted c = true → ∀ u, at0.saveSlot c k (fun _ => true) false none = (u, .abandoned) →
        exec (.yield g d) s = .next ((e.abandonedAs u).result me d 2 2)) ∧
      (s.yieldWanted c = true → ∀ u, at0.saveSlot c k (fun _ => true) false none = (u, .held) →
        exec (.yield g d) s = .next (e.block me)))) ∧
  (∀ (s : State) (c k : Nat),
    let old := s.slot c k
    let t := s.enterSave c k
    let x := t.slot c k
    (∀ r ∈ x.v.inflight, r.arrived = true ∧ r.landing = true ∧ r.fault = none) ∧
    x.v.inflight.length + x.trap.pend.length = old.v.inflight.length + old.trap.pend.length ∧
    (∀ cls ∈ [Cls.ctl, .ldr, .str], (x.strm cls).xfer = none ∧ (x.strm cls).line = (old.strm cls).line ∧
      (x.strm cls).word = (old.strm cls).word ∧ (x.strm cls).regs = (old.strm cls).regs ∧
      ∀ f, (old.strm cls).xfer = some f → (x.strm cls).again = some f.left) ∧
    (∀ cls ∈ [Cls.vec, .mat], x.strm cls = old.strm cls) ∧
    (∀ n d, (n, d) ∈ x.descs → d.holder = none ∨ d.holder = some .mat) ∧
    x.m = old.m ∧ x.queues = old.queues ∧ x.flags = old.flags ∧ x.piece = old.piece ∧ x.phase = old.phase ∧ s.sameBytes t) ∧
  (∀ (s u : State) (c k r : Nat) (live : Tile → Bool) (held : Bool) (q : Piece), (s.slot c k).piece = some q →
    s.saveSlot c k live held none = (u, .saved r) →
    (s.part q.part).freeRec = some r ∧ (u.slot c k).phase = .free ∧ (u.slot c k).piece = none ∧
    (held = true → (u.core c).queue = (s.core c).queue) ∧
    (held = false → ∃ ring, (u.core c).queue = (s.core c).queue ++ [{ piece := q, saved := some r, ring := ring }] ∧
      ((s.core c).roomOnChip = true → ring = none)) ∧
    ∃ y, u.savedRec q.part r = some y ∧ y.held = held ∧ y.core = c ∧ y.slot.piece = some q ∧ y.slot.m.acc = (s.slot c k).m.acc ∧
      (∀ cls ∈ [Cls.ctl, .vec, .mat, .ldr, .str], y.slot.strm cls = (s.slot c k).strm cls) ∧ y.slot.v = (s.slot c k).v ∧ y.slot.queues = (s.slot c k).queues ∧
      y.slot.flags = (s.slot c k).flags ∧ y.slot.flagCyc = (s.slot c k).flagCyc ∧ (memWf (s.store (.scratch c)) = true →
        ∀ i, i < 0x100000 → u.byteAt (.crib q.part r) i = s.byteAt (.scratch c) (privBase k + i))) ∧
  (∀ (s : State) (g : Guard) (nw : Bool) (d : BitVec 6) (c k : Nat), s.agent = .strm c k .ctl → s.acts s.agent g = true →
    let me := s.agent
    let x := s.slot c k
    let r := x.regs.dom
    let level := r.toNat / 2 ^ 24 % 8
    let n := r.toNat % 2 ^ 16
    let epoch := r.toNat / 2 ^ 32 % 2 ^ 16
    let p := s.partOf me
    let idle := s.workOut me (BitVec.allOnes 6) = false
    (x.ctl.token = none → level = 0 → idle → ∃ v : DWord, v.toNat % 2 ^ 31 = level * 2 ^ 24 + n ∧
      v.toNat / 2 ^ 32 = (epoch + 1) % 2 ^ 16 ∧ v.getLsbD 31 = !r.getLsbD 31 ∧
      exec (.dbar g nw d) s = .next ((s.updOwn me (fun y => { y with regs := { y.regs with dom := v } })).result me d v 2)) ∧
    (∀ dom, x.ctl.token = none → level ≠ 0 → idle → (s.part p).dom level n = some dom → ∃ u,
      (u.slot c k).piece = x.piece.map (fun q => { q with arrived := some dom.epochx.toNat }) ∧ s.sameBytes u ∧
      (∀ a, realAgent a = true → u.strm a = s.strm a) ∧ exec (.dbar g nw d) s = .next (if nw = true then u.result me d r 2
        else u.updStrm me (fun t => { t with mode := .blocked, token := some 0, held := .ofNat 64 epoch }))) ∧
    (∀ w, x.ctl.token = some w → epoch ≠ x.ctl.held.toNat → exec (.dbar g nw d) s = .next (s.result me d r 2)))

/-- What happens to tasks without an instruction (R31 to R37, R134, R204, R313 to R331). A free slot binds the oldest
eligible entry of its core's queue: the piece runs, each stream at the header's entry line or halted where the header has
none. A quiet retiring piece signals, ends its claims and frees its slot. Waiting launches join when there is room; a
thief asks a candidate by views of which none is older than 64 cycles (R205, R320), and takes a whole piece, or its upper half, but none whose RADIUS is 00 (R324, R464, R470) or that is pinned there; a complete
gang binds; a domain that is wholly blocked
fails one enqueue; a domain barrier completes when its sum has come, and every member then reads the next epoch.
That a binding keeps every byte, the slot-private ones too, is log 33, and what a view's count of free slots is, log 60; the
barrier clause is of levels 1 to 4.
Readings of the model: log 33, 53, 54, 56, 58, 59, 60, 90. -/
def Obligations.TaskEvents : Prop :=
  (∀ (s : State) (c k i : Nat) (e : TaskEntry), (s.slot c k).phase = .free → s.mayBind c k = true →
    s.nextEntry c = some (i, e) → e.saved = none → (s.core c).ringed = 0 →
    let h := e.piece.hdr
    ∃ t, exec (.taskBinding c k) s = .next t ∧ s.sameBytes t ∧ (t.core c).queue = (s.core c).queue.eraseIdx i ∧
      (t.slot c k).phase = .running ∧ (t.slot c k).piece = some e.piece ∧ (t.slot c k).regs.itlo = e.piece.lo ∧
      (t.slot c k).regs.ithi = e.piece.hi ∧ (t.slot c k).trap = TrapRegs.reset ∧ (∀ f, (t.slot c k).flag f = 0) ∧
      (∀ cls, cls ≠ .net → let x := (t.slot c k).strm cls
        (x.mode = if hAbsent h cls = true then .halted else .running) ∧ x.line = hEntry h cls ∧ x.word = 0 ∧
        (∀ r, x.reg r = 0) ∧ ∀ j, j ≠ 0 → x.pred j = false)) ∧
  (∀ (s : State) (c k : Nat) (q : Piece), (s.slot c k).piece = some q → (s.slot c k).phase = .retiring →
    s.quiet c k q.uid = true → q.gang = none →
    (hCkind q.hdr = 0 → ∃ t, exec (.retirementComplete c k) s = .next t ∧ s.sameBytes t ∧ (t.slot c k).phase = .free ∧
      (t.slot c k).piece = none ∧ (∀ d n, ((t.core d).tile n).state =
        (let x := (s.core d).tile n
         if x.state = 2 ∧ x.prod = slotCode c k then 1
         else if ¬ (x.state = 2 ∧ x.cons = slotCode c k) ∧ x.state = 4 ∧ x.cons = slotCode c k then 3 else x.state))) ∧
    (∀ d j f, hCkind q.hdr = 2 → hTarget q.hdr = 256 * d + 64 * j + f → j < 4 → f < 64 → (d, j) ≠ (c, k) →
      (s.slot d j).piece.isSome = true → (s.slot d j).phase ≠ .restoring → (s.slot d j).sigs = [] → ∃ t, exec (.retirementComplete c k) s = .next t ∧
      (t.slot d j).flagNow f = (s.slot d j).flagNow f + (q.hi - q.lo).setWidth 16 ∧ (t.slot c k).phase = .free)) ∧
  (∀ (s : State) (p : Nat) (w : WaitLaunch) (ws : List WaitLaunch), (s.part p).waits = w :: ws → hGang w.piece.hdr = 0 →
    (s.core w.target).queue.length < 32 → (s.core w.target).ringed = 0 → w.host = none →
    ∃ t, exec (.launchWaitJoin p) s = .next t ∧ (t.part p).waits = ws ∧ s.sameBytes t ∧
      (t.core w.target).queue = (s.core w.target).queue ++
        [{ piece := { w.piece with id := .ofNat 32 ((s.part p).nextId % 2 ^ 32) }, saved := none, ring := none }]) ∧
  (∀ (s : State) (c : Nat), (s.core c).steal = none → (s.core c).stealAt ≤ s.cycle → s.idle c = true →
    let x := (s.core c).lfsr
    let u := s.freshViews (dieOf c) (((s.bay (bayOf c)).owner).getD 0)
    u.candidates c ≠ [] → ∃ v ∈ u.candidates c, ∃ l : BitVec 16, (∀ i, i < 15 → l.getLsbD (i + 1) = x.getLsbD i) ∧
      l.getLsbD 0 = (x.getLsbD 15 ^^ x.getLsbD 13 ^^ x.getLsbD 12 ^^ x.getLsbD 10) ∧
      (u.candidates c)[l.toNat % (u.candidates c).length]? = some v ∧
      exec (.stealRequest c) s = .next (u.updCore c (fun y => { y with lfsr := l, steal := some v }))) ∧
  (∀ (s : State) (c v i : Nat) (e : TaskEntry), (s.core c).steal = some v → c ≠ v → (s.core v).tailEntry = some (i, e) →
    (s.core v).ringed = 0 → (s.core c).ringed = 0 → (s.core c).queue.length < 32 →
    let q := e.piece
    (hRadius q.hdr = 0 ∨ q.pin = 2 → s.loot c v e = .refuse) ∧
    ∃ t, exec (.stealAnswer c) s = .next t ∧ (t.core c).steal = none ∧ s.sameBytes t ∧
      (s.loot c v e = .refuse → (t.core c).stealAt = s.cycle + 256 ∧ (t.core c).queue = (s.core c).queue ∧
        (t.core v).queue = (s.core v).queue) ∧
      (s.loot c v e = .whole → (t.core c).queue = (s.core c).queue ++ [e] ∧ (t.core v).queue = (s.core v).queue.eraseIdx i) ∧
      (∀ m, s.loot c v e = .upper m → m < 2 ^ 64 → ∃ e', (t.core c).queue = (s.core c).queue ++ [e'] ∧
        e'.piece.lo.toNat = m ∧ e'.piece.hi = q.hi ∧ e'.piece.hdr = q.hdr ∧
        (t.core v).queue = (s.core v).queue.set i { e with piece := { q with hi := .ofNat 64 m } })) ∧
  (∀ (s : State) (b : Nat) (x : Gang), (s.bay b).gangs = [x] → x.slots.length = x.size → x.saved = [] →
    s.dieRuns (b / 3) = true → s.domainRoom x.piece = true → x.slots.Nodup →
    ∃ t, exec (.gangBinding b) s = .next t ∧ (t.bay b).gangs = [] ∧ ∀ i c k, (sortSlots x.slots)[i]? = some (c, k) →
      (t.slot c k).phase = .running ∧ ((t.slot c k).piece.bind (·.gang)) =
        some { ticket := x.ticket, member := i, slots := sortSlots x.slots } ∧
      ((t.slot c k).piece.map (·.hdr)) = some x.piece.hdr) ∧
  (∀ (s : State) (p level d : Nat),
    let ms := s.domainSlots p level d
    (level ≠ 0 → (ms = [] ∨ ∃ x ∈ ms, s.stalled x = false) → exec (.domainStallTimeout p level d) s = .next s) ∧
    (level ≠ 0 → ms ≠ [] → (∀ x ∈ ms, s.stalled x = true) → ∃ t, exec (.domainStallTimeout p level d) s = .next t ∧
      (∃ c k, (c, k) ∈ ms ∧ ∀ w ∈ (t.slot c k).enq, some w.tag = (s.slot c k).ctl.token → w.failed = true) ∧
      (∀ c k, (c, k) ∈ ms → (t.slot c k).enqSince = some s.cycle) ∧ s.sameBytes t) ∧
    (level = 0 → (∀ x ∈ ms, s.stalled x = false) → exec (.domainStallTimeout p level d) s = .next s) ∧
    (level = 0 → (∃ x ∈ ms, s.stalled x = true) → ∃ t c k, exec (.domainStallTimeout p level d) s = .next t ∧ (c, k) ∈ ms ∧
      s.stalled (c, k) = true ∧ s.sameBytes t ∧
      ∀ w ∈ (t.slot c k).enq, some w.tag = (s.slot c k).ctl.token → w.failed = true)) ∧
  (∀ (s : State) (p level d : Nat) (x : Domain), (s.part p).dom level d = some x → 1 ≤ level → level ≤ 4 →
    (¬ (x.stir = true ∧ x.expect.toNat ≤ s.barrierSum p level d x) → exec (.barrierCompletion p level d) s = .next s) ∧
    (x.stir = true → x.expect.toNat ≤ s.barrierSum p level d x → ∃ t, exec (.barrierCompletion p level d) s = .next t ∧
      (t.part p).dom level d = some { x with epochx := x.epochx + 1, phase := !x.phase, stir := false, sent := false } ∧
      ∀ c k, (c, k) ∈ s.domainSlots p level d → (t.slot c k).regs.dom = domReg level d (x.epochx + 1) (!x.phase))) ∧
  (∀ (s : State) (die c : Nat), die < 4 → c < 72 → ∃ t, exec (.residencyViewUpdate die c) s = .next t ∧ s.sameBytes t ∧
    (((t.die die).core c).load = (s.core c).load) ∧ ((t.die die).core c).free = (s.core c).freeSlots ∧
    ∀ key, key < 2 ^ 32 → key ≠ 0 → (∃ n x, (n, x) ∈ (s.core c).tiles ∧ x.state ≠ 0 ∧ x.key.toNat = key) →
      (t.die die).resOf c key = ((s.core c).residency key).1) ∧
  (∀ (s : State) (die p c : Nat), c ∈ s.coresOf p →
    (((s.freshViews die p).die die).core c = if ((s.die die).core c).at1 + 64 ≤ s.cycle then (s.core c).toView s.cycle
      else (s.die die).core c))

/-- The units (R132 to R137) and pieces that have to give way (R31, R135). While a slot requests, units that no slot owns
pass at once; those that one owns pass at a drain point under the event's own condition, to the first requesting slot
after the owner; otherwise they stay. A running gleaning piece that has held a slot or the units too long is stopped: it is
saved into its crib and queued, or, where that has no free record, its partition is told and it runs on until the crib gains one (R392, R397).
A result in the landing buffer keeps the owner from a drain point (log 111).
Readings of the model: log 34, 35, 53, 92, 111. -/
def Obligations.UnitsPassAndPiecesGiveWay : Prop :=
  (∀ (s : State) (c k : Nat), (s.core c).frz.since = none → (s.core c).grantee = some k →
    let x := s.core c
    let cond : Instr → Prop := fun i =>
      (i = .unitsPass c ∧ (x.offered = true ∨ x.displaced = true)) ∨
      (i = .unitIdleExpiry c ∧ x.units.lastIssue + 64 ≤ s.cycle ∧ (x.ownerSlot.m.opsBusy = true → x.ownerSlot.m.lastAdvance + 64 ≤ s.cycle)) ∨
      (i = .unitHoldExpiry c ∧ x.units.since + 4096 ≤ s.cycle ∧ x.normalAsks ≠ [])
    let passes (i : Instr) : Prop := ∃ t, exec i s = .next t ∧ s.sameBytes t ∧ (∀ a, realAgent a = true → t.strm a = s.strm a) ∧
      (t.core c).units = { valid := true, owner := k, ever := true, since := s.cycle, lastIssue := s.cycle + 4,
                           offer := false, askedAt := none }
    k < 4 ∧ x.requests k = true ∧
    ∀ i ∈ [Instr.unitsPass c, .unitIdleExpiry c, .unitHoldExpiry c],
      (x.units.valid = false → passes i) ∧
      (x.units.valid = true → x.ownerSlot.v.inflight = [] → cond i → passes i) ∧
      (x.units.valid = true → ¬ cond i → exec i s = .next s) ∧
      (x.units.valid = true → x.ownerSlot.v.inflight ≠ [] → exec i s = .next s)) ∧
  (∀ (s : State) (c k : Nat) (q : Piece) (t0 : Nat), (s.slot c k).piece = some q → q.gang = none →
    (s.slot c k).stopping = none → (s.core c).frz.since = none →
    ∀ i, ((i = .gleaningPreemptTimeout c k ∧ (s.slot c k).gleanSince = some t0 ∧ (s.slot c k).phase = .running ∧
        t0 + 65536 ≤ s.cycle) ∨
      (i = .gleaningDrainTimeout c ∧ (s.core c).units.askedAt = some t0 ∧ (s.core c).units.valid = true ∧
        (s.core c).units.owner = k ∧ (s.core c).displaced = true ∧ (s.slot c k).phase = .running ∧
        (s.slot c k).v.inflight ≠ [] ∧ t0 + 65536 ≤ s.cycle)) →
    let e := s.enterSave c k
    (∀ u r, e.saveSlot c k (fun _ => true) false none = (u, .saved r) → exec i s = .next u) ∧
    (∀ r, (s.part q.part).freeRec = some r → e.mapped (e.slotSync c k) .wr ((s.part q.part).recAt r) 0x400000 →
      ∃ t ring y, exec i s = .next t ∧ (t.slot c k).phase = .free ∧ (t.slot c k).piece = none ∧
        (t.core c).queue = (s.core c).queue ++ [{ piece := q, saved := some r, ring := ring }] ∧
        t.savedRec q.part r = some y ∧ y.slot.piece = some q ∧ y.core = c ∧ y.held = false) ∧
    ((s.part q.part).freeRec = none → ∃ t, exec i s = .next t ∧ s.told t q.part 11 0 0 (.ofNat 64 (4 * c + k)) 0 ∧
      t.slot c k = { e.slot c k with stopping := some { held := false, after := some (s.part q.part).gains } } ∧
      s.sameBytes t))

/-! # Copies and near-memory commands (file 11) -/

/-- Copies (R268, R271 to R284). TMPLW writes one doubleword of a template. COPY checks its template and answers a status
with nothing changed, or draws the next sequence number, which stays in the template, and buffers its command; a fifth
waits, and is buffered once one of the four has left. SWAIT goes on once the stamp's doubleword has reached the number; while it
has not, it blocks and reads again once a write has come to that doubleword. Admission takes the head of one requester's
buffer to its engine. An engine moves a line at a time, each byte as a copy in increasing order leaves it; at its end come
the tiles, the stamp and the flag; while four follow-ons have not started, a further one holds its copy once the tiles are
READY (R279, R280).
Readings of the model: log 44, 45, 46, 101. -/
def Obligations.CopiesMoveBytes : Prop :=
  (∀ (s : State) (g : Guard) (n : BitVec 6) (w : BitVec 3) (b : Src) (d : BitVec 6) (src dst : Option (BitVec 6))
    (c k : Nat) (cls : Cls), s.agent = .strm c k cls → s.acts s.agent g = true → (s.strm s.agent).token = none →
    let me := s.agent
    let t0 := (s.core c).template n.toNat
    (∃ t1 : BitVec 512, exec (.tmplw g n w b) s =
        .next ((s.updCore c (fun x => x.setTemplate n.toNat t1)).advance me (srcWords b)) ∧
      ∀ j, j < 512 → t1.getLsbD j = if 64 * w.toNat ≤ j ∧ j < 64 * w.toNat + 64 then (s.src me b).getLsbD (j - 64 * w.toNat)
        else t0.getLsbD j) ∧
    (let t1 := match src with | some r => tset t0 0 0 (s.reg me r) | none => t0
     let t2 := match dst with | some r => tset t1 1 0 (s.reg me r) | none => t1
     let code := tCheck t2 (s.partOf me == 0)
     let seq := (tSeq t0 + 1) % 2 ^ 48
     (code ≠ 0 → exec (.copy g d n src dst) s = .next (s.result me d (.ofNat 64 (2 ^ 63 + code)) 2)) ∧
     (code = 0 → (s.slot c k).adm.length < 4 → ∃ t cmd, exec (.copy g d n src dst) s = .next t ∧
       t.sameBytes s ∧ (cls ≠ .net → t.reg me d = (if d = 0 then 0 else .ofNat 64 seq) ∧
         (t.strm me).word = (s.strm me).word + 2) ∧
       (t.slot c k).adm = (s.slot c k).adm ++ [cmd] ∧ cmd.part = s.partOf me ∧ tSeq cmd.t = seq ∧
       tSrc cmd.t = tSrc t2 ∧ tDst cmd.t = tDst t2 ∧ tRows cmd.t = tRows t0 ∧ tRowBytes cmd.t = tRowBytes t0 ∧
       tSeq ((t.core c).template n.toNat) = seq ∧ tSrc ((t.core c).template n.toNat) = tSrc t0) ∧
     (code = 0 → 4 ≤ (s.slot c k).adm.length → ∃ t tag cmd, exec (.copy g d n src dst) s = .next t ∧ t.sameBytes s ∧
       (t.slot c k).adm = (s.slot c k).adm ∧ (t.slot c k).copyWaits = (s.slot c k).copyWaits ++ [(tag, cmd)] ∧
       cmd.part = s.partOf me ∧ tSeq cmd.t = seq ∧ tSrc cmd.t = tSrc t2 ∧ tDst cmd.t = tDst t2 ∧
       tSeq ((t.core c).template n.toNat) = seq ∧ (cls ≠ .net → t.reg me d = (if d = 0 then 0 else .ofNat 64 seq) ∧
         (t.strm me).mode = .blocked ∧ (t.strm me).token = some tag ∧ (t.strm me).word = (s.strm me).word)))) ∧
  (∀ (s : State) (g : Guard) (n d : BitVec 6) (src dst : Option (BitVec 6)) (c k : Nat) (cls : Cls) (tag : Nat) (cmd : CopyCmd),
    s.agent = .strm c k cls → s.acts s.agent g = true → (s.strm s.agent).token = some tag →
    (s.slot c k).copyWaits.find? (fun x => x.1 == tag) = some (tag, cmd) →
    (4 ≤ (s.slot c k).adm.length → exec (.copy g d n src dst) s = .next (s.block s.agent)) ∧
    ((s.slot c k).adm.length < 4 → ∃ t, exec (.copy g d n src dst) s = .next t ∧
      (t.slot c k).adm = (s.slot c k).adm ++ [cmd] ∧ t.sameBytes s ∧
      (t.slot c k).copyWaits = (s.slot c k).copyWaits.filter (fun x => x.1 != tag) ∧
      (cls ≠ .net → (t.strm s.agent).word = (s.strm s.agent).word + 2))) ∧
  (∀ (s : State) (g : Guard) (n d : BitVec 6) (b : Src) (c k cs o : Nat) (cls : Cls), s.agent = .strm c k cls →
    s.acts s.agent g = true →
    let me := s.agent
    let at1 := if (s.strm me).token = none then tStamp ((s.core c).template n.toNat) else (s.strm me).held.toNat
    let v := memNat (s.store (.scratch cs)) o 8
    let want := (s.srcZ me b).toNat % 2 ^ 48
    let again (u : State) : Bool := u.readsAgain me (u.accOf me) at1
    (at1 = 0 → exec (.swait g d n b) s = .next (s.result me d 0 (srcWords b))) ∧
    (at1 % 8 ≠ 0 → exec (.swait g d n b) s = .next (s.raise me ⟨7, 1, .ofNat 64 at1, 0⟩)) ∧
    (at1 ≠ 0 → at1 % 8 = 0 → s.inScratch .rd at1 8 cs o →
      ((s.strm me).watch = none → again s = true) ∧
      (again s = false → exec (.swait g d n b) s = .next (s.block me)) ∧
      (again s = true → want ≤ v % 2 ^ 48 → exec (.swait g d n b) s = .next (s.result me d (.ofNat 64 v) (srcWords b))) ∧
      (again s = true → v % 2 ^ 48 < want → ∃ t, exec (.swait g d n b) s = .next t ∧ s.sameBytes t ∧
        (cls ≠ .net → (t.strm me).mode = .blocked ∧ (t.strm me).token = some 0 ∧ (t.strm me).held = .ofNat 64 at1 ∧
          again t = false ∧ ∀ (i : Nat) (bs : List Byte), bs ≠ [] →
            again (t.updCore cs (fun x => x.write i bs)) = decide (i < o + 8 ∧ o < i + bs.length))))) ∧
  (∀ (s : State) (b : Nat),
    (s.roundFrom b 26 (s.bay b).rrPos (s.bay b).rrCnt = none → exec (.copyAdmission b) s = .next s) ∧
    (∀ i n c k cmd rest, s.roundFrom b 26 (s.bay b).rrPos (s.bay b).rrCnt = some (i, n) → requester b i = some (c, k) →
      (s.slot c k).adm = cmd :: rest →
      let e := (s.bay b).engine (tEng cmd.t)
      e.ring = [] → e.onchip < 16 → ∃ t, exec (.copyAdmission b) s = .next t ∧ (t.slot c k).adm = rest ∧ t.sameBytes s ∧
        (t.bay b).engine (tEng cmd.t) = { e with queue := e.queue ++ [cmd] } ∧ (t.bay b).rrPos = i ∧ (t.bay b).rrCnt = n + 1)) ∧
  (∀ (s : State) (b e : Nat) (r : CopyRun) (cs os cd od : Nat), ((s.bay b).engine e).run = some r → r.phase = .moving →
    tPhys r.cmd.t = false → ((s.bay b).engine e).ring = [] ∨ 16 ≤ ((s.bay b).engine e).onchip →
    let t0 := r.cmd.t
    let src := rowAddr (tSrc t0) (tSstride t0) r.row r.pos
    let dst := rowAddr (tDst t0) (tDstride t0) r.row r.pos
    let n := min (tRowBytes t0 - r.pos) (64 - dst % 64)
    let acc := s.copyAcc b e r.cmd
    s.spFor acc .rd src n cs os → s.spFor acc .wr dst n cd od →
    ∃ t q, exec (.copyExecution b e) s = .next t ∧ ((t.bay b).engine e).run = some q ∧ q.cmd = r.cmd ∧
      (r.pos + n < tRowBytes t0 → q.row = r.row ∧ q.pos = r.pos + n ∧ q.phase = .moving) ∧
      (tRowBytes t0 ≤ r.pos + n → r.row + 1 < tRows t0 → q.row = r.row + 1 ∧ q.pos = 0 ∧ q.phase = .moving) ∧
      (tRowBytes t0 ≤ r.pos + n → tRows t0 ≤ r.row + 1 → q.phase = .complete) ∧
      (∀ j, j < n → t.byteAt (.scratch cd) (od + j) = s.byteAt (.scratch cs)
        (if cs = cd ∧ os < od ∧ od < os + n then os + j % (od - os) else os + j)) ∧
      (∀ x i, ¬ (x = .scratch cd ∧ od ≤ i ∧ i < od + n) → t.byteAt x i = s.byteAt x i)) ∧
  (∀ (s : State) (b e uid oc ok : Nat) (r : CopyRun) (cs o : Nat), ((s.bay b).engine e).run = some r → r.phase = .complete →
    r.err = none → r.followed = false → r.cmd.who = some (uid, oc, ok) → tFop r.cmd.t = 0 → ((s.bay b).engine e).ring = [] →
    s.findPiece uid = some (oc, ok) → (s.slot oc ok).sigs = [] →
    let free (t : State) : Prop := ((t.bay b).engine e).run = none
    (tStamp r.cmd.t = 0 → ∃ t, exec (.copyCompletion b e) s = .next t ∧ free t ∧ t.sameBytes s ∧
      (∀ c n, (c, n) ∈ r.tiles → s.holdsCore r.cmd.part c = true → ((s.core c).tile n).state = 2 → ((s.core c).tile n).prod = slotCode oc ok →
        ((t.core c).tile n).state = 3) ∧
      (r.tiles = [] → ∀ f, (t.slot oc ok).flagNow f =
        (s.slot oc ok).flagNow f + (if tFlgen r.cmd.t = true ∧ tFlag r.cmd.t = f then 1 else 0))) ∧
    (r.tiles = [] → tStamp r.cmd.t ≠ 0 → s.spFor { s.copyAcc b e r.cmd with claims := false } .wr (tStamp r.cmd.t) 8 cs o →
      ∃ t, exec (.copyCompletion b e) s = .next t ∧ free t ∧
        memHolds (s.store (.scratch cs)) (t.store (.scratch cs)) o 8 (tSeq r.cmd.t))) ∧
  (∀ (s : State) (b e uid oc ok : Nat) (r : CopyRun), ((s.bay b).engine e).run = some r → r.phase = .complete → r.err = none →
    r.followed = false → r.cmd.who = some (uid, oc, ok) → tFop r.cmd.t ≠ 0 → s.findPiece uid = some (oc, ok) →
    4 ≤ (s.slot oc ok).m.followOns.length →
    ∃ t, exec (.copyCompletion b e) s = .next t ∧ t.sameBytes s ∧ ((t.bay b).engine e).run = some { r with tiles := [] } ∧
      ∀ c n, (c, n) ∈ r.tiles → s.holdsCore r.cmd.part c = true → ((s.core c).tile n).state = 2 →
        ((s.core c).tile n).prod = slotCode oc ok → ((t.core c).tile n).state = 3)

/-- Near-memory commands (R285 to R291). NMC traps on a misaligned block, answers 1 and 2 for a bad block and misaligned
arrays, 3 with the lowest sub-cause of a translation fault of its lines, 4 where a line lies outside the near tier, 5 where a
line of the target and that of array a lie in different units (3 to 5 are said of arrays of one line), and otherwise queues its
lines with status 0, or blocks while 64 commands of its piece are queued; NMFENCE waits for the piece's commands, gives SYS.NMSTAT and clears
it. A line update reads the lines of the target and of array a, combines them element by element, and writes the target's
elements below COUNT and no other byte.
Readings of the model: log 49, 50, 51. -/
def Obligations.NearMemoryCommands : Prop :=
  (∀ (s : State) (g : Guard) (d a : BitVec 6) (c k cs o : Nat) (cls : Cls), s.agent = .strm c k cls → s.acts s.agent g = true →
    let me := s.agent
    let addr := (s.reg me a).toNat
    let b : List DWord := (List.range 8).map (fun i => .ofNat 64 (memNat (s.store (.scratch cs)) (o + 8 * i) 8))
    let answers (v : DWord) : Prop := exec (.nmc g d a) s = .next (s.result me d v 2)
    (addr % 64 ≠ 0 → exec (.nmc g d a) s = .next (s.raise me ⟨7, 1, s.reg me a, 0⟩)) ∧
    (addr % 64 = 0 → s.inScratch .rd addr 64 cs o →
      (nmBad b = true → answers 1) ∧
      (nmBad b = false → (nmTgt b % 64 ≠ 0 ∨ (2 ≤ nmOp b ∧ nmSa b % 64 ≠ 0)) → answers 2) ∧
      (nmBad b = false → nmTgt b % 64 = 0 → (2 ≤ nmOp b → nmSa b % 64 = 0) → ∀ u ls, s.nmCheck (s.accOf me) b = (u, .ok ls) →
        ls ≠ [] → (u.dram.nm.filter (fun q => q.uid == u.uidAt c k)).length < 64 → ∃ t q, exec (.nmc g d a) s = .next t ∧
          t = State.result { u with dram := { u.dram with nm := u.dram.nm ++ [q] } } me d 0 2 ∧ q.block = b ∧ q.left = ls ∧
          q.part = u.partOf me ∧ q.uid = u.uidAt c k ∧ ls.length = (nmCount b + nmPerLine b - 1) / nmPerLine b) ∧
      (nmBad b = false → nmTgt b % 64 = 0 → (2 ≤ nmOp b → nmSa b % 64 = 0) →
        (∀ u ls, s.nmCheck (s.accOf me) b = (u, .ok ls) → ls ≠ [] →
          64 ≤ (u.dram.nm.filter (fun q => q.uid == u.uidAt c k)).length → exec (.nmc g d a) s = .next (u.block me)) ∧
        (∀ u, s.nmCheck (s.accOf me) b = (u, .hold) → exec (.nmc g d a) s = .next (u.block me)) ∧
        (0 < nmCount b → nmCount b ≤ nmPerLine b →
          let x := { s.accOf me with space := .virt }
          let two : Prop := 2 ≤ nmOp b
          let coded (v : Nat) : Prop := exec (.nmc g d a) s = .next ((s.spent (.agent me)).result me d (.ofNat 64 v) 2)
          let place (kind : AKind) (ea : Nat) : Option Nat → Prop
            | none => ea < 2 ^ 32
            | some pa => s.nmPlace x kind ea pa
          let near (r : Option Nat) : Prop := ∃ pa, r = some pa ∧ tierOf pa = some .near
          (∀ f, s.xlRefused x .nmw (nmTgt b) f → ¬ two ∨ (∃ r, place .nm (nmSa b) r) → coded (3 + 256 * f)) ∧
          (∀ f r, two → place .nmw (nmTgt b) r → s.xlRefused x .nm (nmSa b) f → coded (3 + 256 * f)) ∧
          (∀ f f2, two → s.xlRefused x .nmw (nmTgt b) f → s.xlRefused x .nm (nmSa b) f2 → coded (3 + 256 * min f f2)) ∧
          (∀ r r2, place .nmw (nmTgt b) r → (two → place .nm (nmSa b) r2) →
            (¬ near r ∨ (two ∧ ¬ near r2) → coded 4) ∧
            (∀ pa pa2, two → r = some pa → r2 = some pa2 → near r → near r2 → unitOf pa ≠ unitOf pa2 → coded 5))))) ∧
    (s.nmOf (s.uidAt c k) = true → exec (.nmfence g d) s = .next (s.block me)) ∧
    (s.nmOf (s.uidAt c k) = false → exec (.nmfence g d) s = .next ((s.updOwn me (fun x =>
      { x with regs := { x.regs with nmstat := 0 } })).result me d (s.slot c k).regs.nmstat 2))) ∧
  (∀ (s : State) (stack i : Nat) (q : NmCmd) (l : NmLine), nmNext stack s.dram.nm = some (i, q, l) →
    (∀ p x, (p, x) ∈ s.parts → x.inReset = false) →
    let d := s.dram
    let clean (pa key : Nat) : Prop := pa % 64 = 0 ∧ d.fenced pa = false ∧ d.verifies pa key = true ∧
      ∀ w ∈ d.queue (ctrlOf pa), w.line ≠ pa / 64
    let b := q.block
    let z := if nmType b = 0 then 2 else 4
    let per := 64 / z
    let n := min per (nmCount b - l.ix * per)
    let el (x : Dram) (pa e : Nat) : Nat := (List.range z).foldl (fun v j => v + (x.byteAt (pa + z * e + j)).toNat * 256 ^ j) 0
    let new (e : Nat) : Nat := (nmElem b (l.ix * per + e) (el d l.tpa e) (if 2 ≤ nmOp b then el d l.apa e else el d l.tpa e)).1
    clean l.tpa l.tkey → (2 ≤ nmOp b → clean l.apa l.akey) → (∀ e, e < n → new e < 256 ^ z) →
    ∃ t, exec (.nmcLineUpdate stack) s = .next t ∧ (∀ e, e < n → el t.dram l.tpa e = new e) ∧
      ∀ a, ¬ (l.tpa ≤ a ∧ a < l.tpa + z * n) → t.dram.byteAt a = d.byteAt a)

/-! # The network processor (file 14) -/

/-- Instructions of packet threads (R352, R356, R360 to R377). ARM writes an entry and arms it, or answers the code of the
first check that fails; DISARM clears V and waits for messages already matched. CRD, CADD and CWAIT read, advance and
await a counter of the partition; a counter outside it ends the thread. SEND builds a message of header and payload, or
answers a code; HRET ends the thread and its message advances its counter. RSALLOC, RSCON and RSCLOSE open a reduction
slot under a new generation, take one contribution, and close or drop it; a slot whose timeout has expired closes first, and they
answer 1 (R367, R368). TSRD reads the device's time.
Readings of the model: log 65, 67. -/
def Obligations.NetworkInstructions : Prop :=
  ∀ (s : State) (g : Guard) (t : Nat) (d a : BitVec 6) (b : Src), s.agent = .thread t → s.acts s.agent g = true →
    let me := s.agent
    let p := s.partOf me
    let w := srcWords b
    let addr := (s.reg me a).toNat
    (∀ cs o, let n := (s.srcZ me b).toNat
      let e : BitVec 512 := .ofNat 512 (memNat (s.store (.scratch cs)) o 64)
      let code := s.armCheck p n e
      (addr % 64 ≠ 0 → exec (.arm g d a b) s = .next (s.result me d 1 w)) ∧
      (addr % 64 = 0 → s.inScratch .rd addr 64 cs o →
        (code ≠ 0 → exec (.arm g d a b) s = .next (s.result me d (.ofNat 64 code) w)) ∧
        (code = 0 → eAct e = 0 ∨ (s.counter (eCnt e)).toNat < (eThresh e).toNat → ∃ dw : BitVec 512,
          (∀ j, j < 512 → dw.getLsbD j = (decide (j = 63) || e.getLsbD j)) ∧
          exec (.arm g d a b) s =
            .next ((s.updEntry n (fun _ => { dw := dw, rank := 0, tiles := [] })).result me d 0 w)))) ∧
    ((s.strm me).token = none →
      (s.hasEntry p addr = false → exec (.disarm g d a) s = .next (s.result me d 1 2)) ∧
      (s.hasEntry p addr = true → (s.entry addr).dw.getLsbD 63 = false → exec (.disarm g d a) s = .next (s.result me d 2 2)) ∧
      (s.hasEntry p addr = true → (s.entry addr).dw.getLsbD 63 = true → ∃ dw : BitVec 512,
        (∀ j, j < 512 → dw.getLsbD j = (decide (j ≠ 63) && (s.entry addr).dw.getLsbD j)) ∧
        let u := s.updEntry addr (fun e => { e with dw := dw })
        ((∀ m ∈ s.npd.msgs, m.entry ≠ addr) → exec (.disarm g d a) s = .next (u.result me d 0 2)) ∧
        ((∃ m ∈ s.npd.msgs, m.entry = addr ∧ m.stage ≠ .arrived) → exec (.disarm g d a) s =
          .next (u.updStrm me (fun x => { x with mode := .blocked, token := some 0 }))))) ∧
    (let v := s.counter addr
     (65536 ≤ addr ∨ s.hasCounter p addr = false → ∀ i ∈ [Instr.crd g d a, .cadd g d a b, .cwait g d a b],
       exec i s = .next (s.threadFault t 7 1 0)) ∧
     (addr < 65536 → s.hasCounter p addr = true →
       exec (.crd g d a) s = .next (s.result me d v 2) ∧
       (s.calm addr (v + s.src me b) →
         exec (.cadd g d a b) s = .next ((s.result me d v w).setCounter addr (v + s.src me b))) ∧
       ((s.srcZ me b).toNat ≤ v.toNat → exec (.cwait g d a b) s = .next (s.result me d v w)) ∧
       (v.toNat < (s.srcZ me b).toNat → exec (.cwait g d a b) s = .next (s.block me)))) ∧
    (∀ cs o cp po, let blk : List DWord := (List.range 8).map (fun i => .ofNat 64 (memNat (s.store (.scratch cs)) (o + 8 * i) 8))
      let code := s.sendCheck p blk
      let len := sbLen blk
      (addr % 64 ≠ 0 → exec (.send g d a) s = .next (s.result me d 1 2)) ∧
      (addr % 64 = 0 → s.inScratch .rd addr 64 cs o →
        (code ≠ 0 → exec (.send g d a) s = .next (s.result me d (.ofNat 64 code) 2)) ∧
        (code = 0 → (s.part p).sends.length < 4096 → sbPeer blk ≠ (s.part p).self →
          peerKind ((s.part p).peer (sbPeer blk)) = 1 → s.inScratch .rd (hw blk 2).toNat len cp po →
          ∃ u q, exec (.send g d a) s = .next u ∧ u.reg me d = 0 ∧ (u.strm me).word = (s.strm me).word + 2 ∧
            (u.part p).sends = (s.part p).sends ++ [q] ∧ q.peer = sbPeer blk ∧ q.rod = sbRod blk ∧ q.payload.length = len ∧
            (∀ j, j < len → q.payload.getD j 0 = s.byteAt (.scratch cp) (po + j)) ∧
            q.hdr.length = 4 ∧ hw q.hdr 1 = hw blk 1 ∧ hw q.hdr 3 = hw blk 4 ∧ q.arrived = false ∧ s.sameBytes u))) ∧
    (∀ r : Option (BitVec 6),
      (∀ k, (s.thread t).job = .event k → exec (.hret g r) s = .next (s.endThread t)) ∧
      (∀ m, (s.thread t).job = .msg m.id → s.npd.msgs = [m] → eHold m.dw = false → m.loop = false →
        let v := match r with
          | some x => s.reg me x
          | none => if eInc m.dw = true then .ofNat 64 (pkLen m.pkt) else 1
        s.calm (eCnt m.dw) (s.counter (eCnt m.dw) + v) → ∃ u, exec (.hret g r) s = .next u ∧ u.npd.msgs = [] ∧
          u.npd.threads = Tbl.erase s.npd.threads t ∧ u.counter (eCnt m.dw) = s.counter (eCnt m.dw) + v ∧ s.sameBytes u)) ∧
    (∀ cs o, let blk : List DWord := (List.range 8).map (fun i => .ofNat 64 (memNat (s.store (.scratch cs)) (o + 8 * i) 8))
      (addr % 64 ≠ 0 → exec (.rsalloc g d a) s = .next (s.result me d (.ofNat 64 (2 ^ 63 + 1)) 2)) ∧
      (addr % 64 = 0 → s.inScratch .rd addr 64 cs o → (∀ n, (s.rslot n).expired s.cycle = false) →
        (∀ n, s.rsCheck p blk = .error n → exec (.rsalloc g d a) s = .next (s.result me d (.ofNat 64 (2 ^ 63 + n)) 2)) ∧
        (∀ n, s.rsCheck p blk = .ok n → n < 256 ∧ (s.rslot n).isOpen = false ∧ ∃ x, exec (.rsalloc g d a) s =
            .next ((s.updRSlot n (fun _ => x)).result me d (.ofNat 64 (((s.rslot n).gen + 1).toNat * 256 + n)) 2) ∧
          x.isOpen = true ∧ x.part = p ∧ x.gen = (s.rslot n).gen + 1 ∧ x.bitmap = 0 ∧ x.ncon = hfld blk 0 51 7 ∧
          x.count = hfld blk 0 16 11 ∧ x.op = hfld blk 0 60 4 ∧ x.ty = hfld blk 0 58 2 ∧ x.dest = hw blk 1 ∧ x.closing = none))) ∧
    (∀ (r b2 : BitVec 6) (cs o : Nat), let x := s.rslot (addr % 256)
      let rank := (s.reg me r).toNat
      let code := s.contribCheck p addr rank (fun _ => false)
      let len := x.count * (if x.ty = 0 then 2 else 4)
      x.expired s.cycle = false →
      (code ≠ 0 → code ≠ 4 → exec (.rscon g d a b2 r) s = .next (s.result me d (.ofNat 64 code) 2)) ∧
      (code = 4 → exec (.rscon g d a b2 r) s =
        .next ((s.updRSlot (addr % 256) (fun y => { y with dup := true })).result me d 4 2)) ∧
      (code = 0 → s.inScratch .rd (s.reg me b2).toNat len cs o →
        let y := x.take rank (elemsOf (if x.ty = 0 then 2 else 4) (memRead (s.store (.scratch cs)) o len))
        popCount y.bitmap < x.ncon → y.bitmap = x.bitmap ||| (1 : DWord) <<< rank ∧
          exec (.rscon g d a b2 r) s = .next ((s.updRSlot (addr % 256) (fun _ => y)).result me d 0 2))) ∧
    (∀ (r b2 : BitVec 6) (drop : Bool) (cs o : Nat), let x := s.rslot (addr % 256)
      let bs := x.result (addr % 256) true false
      x.expired s.cycle = true → s.spFor (delivAcc x.part) .wr x.dest.toNat bs.length cs o → s.calm x.dcnt (s.counter x.dcnt + 1) →
      let t := s.closeDue (addr % 256)
      (t.rslot (addr % 256)).isOpen = false ∧ t.counter x.dcnt = s.counter x.dcnt + 1 ∧
      (∀ j, j < bs.length → t.byteAt (.scratch cs) (o + j) = bs.getD j 0) ∧
      exec (.rscon g d a b2 r) s = .next (t.result me d 1 2) ∧ exec (.rsclose g drop d a) s = .next (t.result me d 1 2)) ∧
    (∀ drop, let n := addr % 256
      (s.rslot n).expired s.cycle = false →
      (s.slotOpen p addr = false → exec (.rsclose g drop d a) s = .next (s.result me d 1 2)) ∧
      (s.slotOpen p addr = true → exec (.rsclose g true d a) s =
        .next ((s.updRSlot n (fun x => { RSlot.reset with gen := x.gen })).result me d 0 2)) ∧
      (∀ cs o, s.slotOpen p addr = true →
        let x := s.rslot n
        let bs := x.result n false true
        s.spFor (delivAcc p) .wr x.dest.toNat bs.length cs o → s.calm x.dcnt (s.counter x.dcnt + 1) →
        ∃ u, exec (.rsclose g false d a) s = .next u ∧ u.reg me d = 0 ∧ (u.rslot n).isOpen = false ∧
          (u.rslot n).gen = x.gen ∧ u.counter x.dcnt = s.counter x.dcnt + 1 ∧
          (∀ j, j < bs.length → u.byteAt (.scratch cs) (o + j) = bs.getD j 0))) ∧
    (∀ sel : BitVec 2, exec (.tsrd g sel d) s = .next (s.result me d (match sel.toNat with
      | 0 => s.time
      | 1 => (s.thread t).stamp
      | _ => .ofNat 64 ((if s.npd.master = true then 2 else 0) + (if s.npd.locked = true then 1 else 0))) 2))

/-- Counters that reach a threshold (R356 to R359): an armed entry with an action fires when its counter comes to its
threshold; a firing moves the threshold on by STEP, or disarms where STEP is 0. A launch reads its header and puts the piece on
an eligible core's queue, a copy gives its template's command to the bay's NPD requester without a flag or a follow-on, a send
hands its message to the transport, a chain advances its own counter; a check that fails, or a header or a block whose
translation faults, tells the partition and does no more.
Readings of the model: log 48, 53, 63, 64. -/
def Obligations.EntriesFire : Prop :=
  ∀ (s : State) (c n : Nat) (v : DWord), s.watchers c = [n] →
    let x := (s.entry n).dw
    let after := s.counter c + v
    let u := s.advanceCtr c v
    (after.toNat < (eThresh x).toNat ∨ eAct x = 0 → u = s.setCounter c after) ∧
    (eV x = true → (eThresh x).toNat ≤ after.toNat → eHold x = false → s.npd.firings = [] →
      let p := s.entryPart n
      let arg := (eArg x).toNat
      let tells (kind sub : Nat) : Prop := s.told u p kind sub n (eArg x) 0
      let stepped : Prop :=
        (eStep x = 0 → eV (u.entry n).dw = false ∧ eThresh (u.entry n).dw = eThresh x) ∧
        (eStep x ≠ 0 → eV (u.entry n).dw = true ∧ eThresh (u.entry n).dw = eThresh x + .ofNat 64 (eStep x))
      let fired : Prop := stepped ∧ ∀ k, u.counter k = if k = c then after else s.counter k
      (eAct x = 1 →
        (arg % 128 ≠ 0 → fired ∧ tells 4 1) ∧
        (∀ f, arg % 128 = 0 → s.xlRefused (npdAcc p) .rd arg f → fired ∧ tells 3 (32 + f)) ∧
        (∀ cs o, arg % 128 = 0 → s.spFor (npdAcc p) .rd arg 128 cs o →
          let h : List DWord := (List.range 16).map (fun i => .ofNat 64 (memNat (s.store (.scratch cs)) (o + 8 * i) 8))
          let code := s.checkHeader p .launch h
          (code ≠ 0 → fired ∧ tells 4 code) ∧
          (code = 0 → s.rank ≤ 30000 → hGang h = 0 → (s.part p).waits = [] →
            (∀ c', (s.core c').queue.length < 32 ∧ (s.core c').ringed = 0) →
            fired ∧ ∃ tgt e, tgt ∈ s.eligible p h ∧ e.saved = none ∧ e.piece.part = p ∧ e.piece.hdr = h ∧ e.piece.lo = hw h 0 ∧
              e.piece.hi = hw h 1 ∧ e.piece.id.toNat = (s.part p).nextId % 2 ^ 32 ∧
              ∀ c', (u.core c').queue = if c' = tgt then (s.core c').queue ++ [e] else (s.core c').queue))) ∧
      (eAct x = 2 →
        let c2 := arg / 256 % 128
        let t := arg % 64
        let t0 := (s.core c2).template t
        let t1 := tset (tset t0 5 51 (0 : BitVec 1)) 5 43 (0 : BitVec 2)
        let code := tCheck t1 (p == 0)
        let buf := (s.bay (bayOf c2)).npdBuf
        (s.holdsCore p c2 = false → fired ∧ tells 5 (2 * 32 + 31)) ∧
        (s.holdsCore p c2 = true → code ≠ 0 → fired ∧ tells 5 (2 * 32 + code)) ∧
        (s.holdsCore p c2 = true → code = 0 → buf.length < 16 → fired ∧ ∃ cmd : CopyCmd,
          (u.bay (bayOf c2)).npdBuf = buf ++ [cmd] ∧ cmd.part = p ∧ cmd.who = none ∧ tFlgen cmd.t = false ∧ tFop cmd.t = 0 ∧
          tSrc cmd.t = tSrc t0 ∧ tDst cmd.t = tDst t0 ∧ tSeq cmd.t = (tSeq t0 + 1) % 2 ^ 48 ∧
          tSeq ((u.core c2).template t) = (tSeq t0 + 1) % 2 ^ 48)) ∧
      (eAct x = 3 →
        (arg % 64 ≠ 0 → fired ∧ tells 5 (3 * 32 + 1)) ∧
        (∀ f, arg % 64 = 0 → s.xlRefused (npdAcc p) .rd arg f → fired ∧ tells 3 (32 + f)) ∧
        (∀ cs o cp po, arg % 64 = 0 → s.spFor (npdAcc p) .rd arg 64 cs o →
          let blk : List DWord := (List.range 8).map (fun i => .ofNat 64 (memNat (s.store (.scratch cs)) (o + 8 * i) 8))
          let code := s.sendCheck p blk
          let len := sbLen blk
          (code ≠ 0 → fired ∧ tells 5 (3 * 32 + code)) ∧
          (code = 0 → (s.part p).sends.length < 4096 → sbPeer blk ≠ (s.part p).self →
            peerKind ((s.part p).peer (sbPeer blk)) = 1 → s.spFor (npdAcc p) .rd (hw blk 2).toNat len cp po →
            fired ∧ ∃ q : Send, (u.part p).sends = (s.part p).sends ++ [q] ∧ q.peer = sbPeer blk ∧ q.rod = sbRod blk ∧
              q.payload.length = len ∧ (∀ j, j < len → q.payload.getD j 0 = s.byteAt (.scratch cp) (po + j)) ∧
              q.hdr.length = 4 ∧ hw q.hdr 1 = hw blk 1 ∧ hw q.hdr 3 = hw blk 4 ∧ q.arrived = false))) ∧
      (eAct x = 4 →
        let c2 := arg % 65536
        (s.hasCounter p c2 = false → fired ∧ tells 5 (4 * 32 + 1)) ∧
        (s.hasCounter p c2 = true → c2 ≠ c → s.watchers c2 = [] →
          u.counter c = after ∧ u.counter c2 = s.counter c2 + eAmt x ∧ (∀ k, k ≠ c → k ≠ c2 → u.counter k = s.counter k) ∧
          stepped)))

/-- What happens on the network processor without an instruction (R341 to R355, R365 to R369, R374). An unsound packet, or
one for no job, is counted and dropped; one seen before changes nothing; one without an entry tells the partition. A
matched one is written at its target, its message then waits for its handler or its advance; one by ROD out of its turn, one
that finds no room, or one for a partition in reset, is not taken. A barrier message advances its domain's counter once its
peer's earlier messages by ROD have passed stage 4 (R346, R349). Handlers start in their partition's turn (R420) on the
lowest free thread with the message's or the event's values; a thread that runs too long is ended. Messages pass stage
4, sends are acknowledged, repeated and given up; a slot's deadline closes it; the servo sets the time.
Readings of the model: log 61, 64, 66, 68, 88, 107. -/
def Obligations.NetworkEvents : Prop :=
  (∀ (s : State) (k : Packet),
    (pkSound k = false ∨ s.partByJob (pkJob k) = none →
      exec (.packetReceive k) s = .next { s with npd := { s.npd with discarded := s.npd.discarded + 1 } }) ∧
    (∀ p, pkSound k = true → s.partByJob (pkJob k) = some p →
      (s.npd.seen.contains (pkId p k) = true ∨ s.outOfTurn p k = true → exec (.packetReceive k) s = .next s) ∧
      (pkKind k ≠ 1 → exec (.barrierArrivalMessage k) s = .next s) ∧
      (s.npd.seen.contains (pkId p k) = false → s.outOfTurn p k = false → (s.part p).inReset = true →
        exec (.packetReceive k) s = .next (s.refuse p k)) ∧
      (s.npd.seen.contains (pkId p k) = false → (s.part p).inReset = false → s.outOfTurn p k = false →
        (∀ n, pkKind k = 0 → s.matchEntry p k = some n → s.noRoom p n k = true → exec (.packetReceive k) s = .next (s.refuse p k)) ∧
        (pkKind k = 1 → ∀ i ∈ [Instr.packetReceive k, .barrierArrivalMessage k],
          ((s.part p).dom 5 (pkMatch k).toNat = none → ∃ t, exec i s = .next t ∧ s.sameBytes t ∧
            s.told t p 1 1 0 (pkMatch k) (.ofNat 64 (pkRank k * 2 ^ 16 + k.peer))) ∧
          (∀ x, (s.part p).dom 5 (pkMatch k).toNat = some x → x.counter < 65536 →
            (∀ q ∈ s.npd.msgs, q.id < s.npd.nextMsg ∧ q.order < s.npd.nextMsg ∧ q.entry < 65536) →
            let behind := k.rod = true ∧ ∃ q ∈ s.npd.msgs, q.stage ≠ .arrived ∧ q.part = p ∧ q.pkt.peer = k.peer ∧
              q.pkt.rod = true ∧ q.loop = false
            (behind → ∃ t m, exec i s = .next t ∧ s.sameBytes t ∧ (∀ n, t.counter n = s.counter n) ∧
              t.npd.msgs = s.npd.msgs ++ [m] ∧ m.pkt = k ∧ m.part = p ∧ m.stage = .advance) ∧
            (¬ behind → s.calm x.counter (s.counter x.counter + 1) → ∃ t, exec i s = .next t ∧ s.sameBytes t ∧
              t.npd.msgs = s.npd.msgs ∧ t.npd.seen = pkId p k :: s.npd.seen ∧
              ∀ n, t.counter n = s.counter n + (if n = x.counter then 1 else 0)))) ∧
        (pkKind k = 0 → s.matchEntry p k = none → ∃ t, exec (.packetReceive k) s = .next t ∧ s.sameBytes t ∧
          s.told t p 1 0 0 (pkMatch k) (.ofNat 64 (pkRank k * 2 ^ 16 + k.peer))) ∧
        (∀ n cs o, pkKind k = 0 → s.matchEntry p k = some n → s.noRoom p n k = false →
          let x := (s.entry n).dw
          let a := eTarget x + pkOff k
          eDkind x = 1 → pkOff k + pkLen k ≤ eMaxlen x → s.spFor (delivAcc p) .wr a (pkLen k) cs o →
          (∀ m ∈ s.npd.msgs, m.id < s.npd.nextMsg) →
          ∃ t m, exec (.packetReceive k) s = .next t ∧ t.npd.msgs = s.npd.msgs ++ [m] ∧ m.entry = n ∧ m.pkt = k ∧
            m.stage = (if eHnd x = true then .start else .advance) ∧ (∀ q ∈ s.npd.msgs, q.order < s.npd.nextMsg → q.order < m.order) ∧
            (∀ j, j < pkLen k → t.byteAt (.scratch cs) (o + j) = k.payload.getD j 0) ∧
            ∀ y i, ¬ (y = .scratch cs ∧ o ≤ i ∧ i < o + pkLen k) → t.byteAt y i = s.byteAt y i)))) ∧
  (∀ (s : State) (p : Nat) (m : Msg) (e : Event) (es : List Event), s.mayStart p = true →
    (s.npd.msgs.find? (fun q => q.part == p && q.stage == .start) = some m → ∃ t, exec (.handlerStart p) s = .next t ∧
      let x := t.thread (s.freeThread p)
      x.part = p ∧ x.job = .msg m.id ∧ x.strm.mode = .running ∧ x.strm.line = (s.part p).hbase + eHline m.dw ∧
      x.strm.word = 0 ∧ x.strm.reg 1 = .ofNat 64 m.entry ∧ x.strm.reg 2 = pkUser m.pkt ∧
      x.strm.reg 4 = .ofNat 64 (pkLen m.pkt) ∧ x.strm.reg 6 = pkMatch m.pkt) ∧
    ((s.part p).events = e :: es → ∃ t, exec (.eventHandlerStart p) s = .next t ∧ (t.part p).events = es ∧
      let x := t.thread (s.freeThread p)
      x.part = p ∧ x.job = .event e.kind ∧ x.strm.mode = .running ∧ x.strm.line = (s.part p).hbase + (s.part p).evline ∧
      x.strm.reg 2 = e.info1 ∧ x.strm.reg 3 = e.info2 ∧ x.strm.reg 4 = e.time)) ∧
  (∀ (s : State) (t : Nat) (x : Thread), s.npd.threads = [(t, x)] →
    (npdCycles s.cycle < npdCycles x.start + 2 ^ 24 → exec (.handlerWatchdog t) s = .next s) ∧
    (npdCycles x.start + 2 ^ 24 ≤ npdCycles s.cycle → ∃ u, exec (.handlerWatchdog t) s = .next u ∧ u.npd.threads = [] ∧
      s.sameBytes u)) ∧
  (∀ (s : State) (m : Msg), s.npd.msgs = [m] → m.stage = .advance → s.npd.firings = [] → (s.part m.part).inReset = false →
    eHold m.dw = false → m.loop = false → s.calm (eCnt m.dw) (s.counter (eCnt m.dw) + m.amount) →
    ∃ t, exec (.counterAdvance m.id) s = .next t ∧ t.npd.msgs = [] ∧
      t.counter (eCnt m.dw) = s.counter (eCnt m.dw) + m.amount ∧ s.sameBytes t) ∧
  (∀ (s : State) (p : Nat) (q : Send), (s.part p).sends = [q] →
    (q.arrived = true → (∀ c, q.cen = some c → s.calm c (s.counter c + 1)) → ∃ t, exec (.sendAcknowledged p q.idx) s = .next t ∧
      (t.part p).sends = [] ∧ ∀ c, t.counter c = s.counter c + (if q.cen = some c then 1 else 0)) ∧
    (q.arrived = false → q.first + 2 ^ 28 ≤ npdCycles s.cycle → ∃ t, exec (.sendTimeout p q.idx) s = .next t ∧
      (t.part p).sends = [] ∧ s.told t p 12 0 0 q.block (.ofNat 64 q.peer)) ∧
    (q.arrived = false → npdCycles s.cycle < q.first + 2 ^ 28 → exec (.sendTimeout p q.idx) s = .next s) ∧
    (q.arrived = false → (s.part p).inReset = false → q.peer ≠ (s.part p).self → peerKind ((s.part p).peer q.peer) = 1 →
      ∃ t, exec (.sendRetransmit p q.idx) s = .next t ∧ (t.part p).sends = [{ q with tries := q.tries + 1 }])) ∧
  (∀ (s : State) (n cs o t0 : Nat), let x := s.rslot n
    x.isOpen = true → x.closing = none → x.deadline = some t0 →
    (npdCycles s.cycle < t0 → exec (.reductionSlotTimeout n) s = .next s) ∧
    (t0 ≤ npdCycles s.cycle → let bs := x.result n true false
      s.spFor (delivAcc x.part) .wr x.dest.toNat bs.length cs o → s.calm x.dcnt (s.counter x.dcnt + 1) →
      ∃ t, exec (.reductionSlotTimeout n) s = .next t ∧ (t.rslot n).isOpen = false ∧ (t.rslot n).gen = x.gen ∧
        t.counter x.dcnt = s.counter x.dcnt + 1 ∧ ∀ j, j < bs.length → t.byteAt (.scratch cs) (o + j) = bs.getD j 0)) ∧
  (∀ (s : State) (time : DWord) (locked master : Bool), ∃ t, exec (.ptpMessageReceive time locked master) s = .next t ∧
    t.npd.locked = locked ∧ t.npd.master = master ∧ (locked = true → t.time = time) ∧ (locked = false → t.time = s.time) ∧
    s.sameBytes t)

/-! # Traps and freezes (file 17) -/

/-- Taking a trap and returning from it (R344, R378 to R390, R399). TRAP raises cause 9 with its code; any synchronous
exception writes the frame, sets INTRAP and sends the control stream to the handler's line, or, where no handler may run,
writes the frame and stops the piece; in a packet thread it ends the thread. TRET clears INTRAP and restores the control
stream and the stream that trapped, or takes the next held trap. An asynchronous trap enters the same way with ASYNC
set, after a synchronous trap of the same core cycle that comes before it (R381); SYS.TROWS of a transfer that it stops is
kept, and the return re-issues that transfer for as many row-sets, where its stream still stands at it (R172). A missing reply
freezes its core; its arrival, or the watchdog, ends the freeze; the result is written as the instruction of its beat issues
(R127). That a rotation's fault held for a participant is the synchronous trap of its TROT (ASYNC 0, CLINE and CWORD those of
the TROT) is log 42, TROWS and its stream are log 29, and the view in which a reply lands is log 28.
Readings of the model: log 25, 26, 28, 29, 30, 31, 42, 97, 98. -/
def Obligations.TrapsAndReturns : Prop :=
  (∀ (s : State) (g : Guard) (n : NSrc), s.acts s.agent g = true →
    exec (.trap g n) s = .next (s.raise s.agent ⟨9, 0, 0, .ofNat 64 (nsrcNat n)⟩)) ∧
  (∀ (s : State) (c k : Nat) (cls : Cls) (e : Exc), cls ≠ .net →
    let me : Agent := .strm c k cls
    let x := s.slot c k
    let t := s.raise me e
    let y := t.slot c k
    let cause : DWord := .ofNat 64 (e.cause * 2 ^ 56 + e.sub * 2 ^ 48 + clsCode cls * 2 ^ 45)
    let at1 := s.shownAt (.strm c k .ctl)
    let at2 := s.shownAt me
    let pc : DWord := .ofNat 64 (at1.1 * 2 ^ 48 + at1.2 * 2 ^ 44 + at2.1 * 2 ^ 16 + at2.2)
    let rows : DWord := .ofNat 64 ((x.stoppedRows.map (·.2)).getD 0)
    let framed : TrapRegs := { x.trap with
      tcause := cause, tpc := pc, taddr := e.addr, tinfo := e.info, trows := rows, trow := x.stoppedRows.map (·.1) }
    x.phase = .running →
    (x.trap.en = true → x.trap.intrap = false →
      y.trap.tcause = cause ∧ y.trap.tpc = pc ∧ y.trap.taddr = e.addr ∧ y.trap.tinfo = e.info ∧ y.trap.trows = rows ∧
      y.trap.trow = x.stoppedRows.map (·.1) ∧ y.trap.intrap = true ∧ y.trap.tvec = x.trap.tvec ∧ y.ctl.line = fieldNat x.trap.tvec 0 12 ∧ y.ctl.word = 0 ∧
      y.ctl.mode = .running ∧ (∀ d, y.phase = x.phase ∧ (y.strm d).regs = (x.strm d).regs ∧
        (y.strm d).preds = (x.strm d).preds ∧ (d ≠ .ctl → d ≠ .net →
          t.shownAt (.strm c k d) = s.shownAt (.strm c k d))) ∧
      y.regs = x.regs ∧ y.m = x.m ∧ y.v.regs = x.v.regs ∧ y.queues = x.queues ∧
      (∀ d j, (d, j) ≠ (c, k) → t.slot d j = s.slot d j) ∧ t.parts = s.parts ∧ t.npd = s.npd ∧ t.dram = s.dram ∧
      s.sameBytes t) ∧
    ((x.trap.en = false ∨ x.trap.intrap = true) →
      t = State.stopAndHold ((s.updStrm me (fun z => { z with mode := .running })).updSlot c k
        (fun z => { z with trap := framed })) c k)) ∧
  (∀ (s : State) (t : Nat) (e : Exc), ((s.raise (.thread t) e).npd.threads = Tbl.erase s.npd.threads t) ∧
    s.sameBytes (s.raise (.thread t) e)) ∧
  (∀ (s : State) (g : Guard) (skip : Bool) (c k : Nat) (cls : Cls), s.agent = .strm c k cls → s.acts s.agent g = true →
    let x := s.slot c k
    let cline := fieldNat x.trap.tpc 48 16
    let cword := fieldNat x.trap.tpc 44 4
    (x.trap.intrap = false → exec (.tret g skip) s = .next (s.advance s.agent 2)) ∧
    (∀ h hs, x.trap.intrap = true → x.trap.en = true → x.trap.pend = h :: hs → h.word < 16 → x.v.inflight = [] →
      ∃ t, exec (.tret g skip) s = .next t ∧
      let y := t.slot c k
      y.trap.intrap = true ∧ y.trap.pend = hs ∧ y.trap.taddr = h.addr ∧ y.trap.tinfo = h.info ∧
      y.trap.tcause = .ofNat 64 (h.cause * 2 ^ 56 + h.sub * 2 ^ 48 + h.strm * 2 ^ 45 + if h.sync = true then 0 else 2 ^ 44) ∧
      (h.sync = false → ∀ v, x.trap.ctl = some v → x.trap.trow ≠ some .ctl → y.trap.ctl = some v.stopXfer) ∧
      fieldNat y.trap.tpc 48 16 = (if h.sync = true then low 16 h.line else cline) ∧
      fieldNat y.trap.tpc 44 4 = (if h.sync = true then h.word else cword) ∧
      y.ctl.line = fieldNat x.trap.tvec 0 12 ∧ y.ctl.word = 0) ∧
    (x.trap.intrap = true → (x.trap.pend = [] ∨ x.trap.en = false) → ∃ t, exec (.tret g skip) s = .next t ∧ s.sameBytes t ∧
      let y := t.slot c k
      let async := x.trap.tcause.getLsbD 44
      let from1 := fieldNat x.trap.tcause 45 3
      y.trap.intrap = false ∧ y.trap.pend = x.trap.pend ∧ y.ctl.mode = .running ∧
      (x.trap.ctl = none → y.ctl.line = cline ∧ y.ctl.word = cword) ∧
      (∀ v, x.trap.ctl = some v → v.shown = (cline, cword) → y.ctl.line = v.line ∧ y.ctl.word = v.word) ∧
      (∀ v, x.trap.ctl = some v → v.shown ≠ (cline, cword) → y.ctl.line = cline ∧ y.ctl.word = cword) ∧
      (async = true → ∀ d, d ≠ .ctl → d ≠ .net → x.trap.trow ≠ some d → y.strm d = x.strm d) ∧
      (∀ d ∈ [Cls.ldr, .str], x.trap.trow = some d →
        async = true ∨ clsCode d ≠ from1 ∨ s.shownAt (.strm c k d) = (fieldNat x.trap.tpc 16 16, fieldNat x.trap.tpc 0 4) →
        (y.strm d).again = (if (x.strm d).again = none then none else some x.trap.trows.toNat)) ∧
      (x.trap.trow = some .ctl → ∀ v, x.trap.ctl = some v → v.shown = (cline, cword) →
        y.ctl.again = (if v.again = none then none else some x.trap.trows.toNat) ∧ y.ctl.xfer = v.xfer) ∧
      (async = false → from1 = 1 → y.vec.again =
        some (if fieldNat x.trap.tcause 56 8 = 5 then 0 else x.trap.tinfo.toNat % 1024)) ∧
      (async = false → from1 = 0 → y.ctl.skip = skip) ∧
      (∀ d, async = false → d ≠ .ctl → d ≠ .net → clsCode d = from1 →
        (y.strm d).skip = skip ∧ (y.strm d).regs = (x.strm d).regs ∧
        (s.shownAt (.strm c k d) = (fieldNat x.trap.tpc 16 16, fieldNat x.trap.tpc 0 4) →
          (y.strm d).line = (x.strm d).line ∧ (y.strm d).word = (x.strm d).word) ∧
        (s.shownAt (.strm c k d) ≠ (fieldNat x.trap.tpc 16 16, fieldNat x.trap.tpc 0 4) →
          (y.strm d).line = fieldNat x.trap.tpc 16 16 ∧ (y.strm d).word = fieldNat x.trap.tpc 0 4)))) ∧
  (∀ (s : State) (g : Guard) (skip : Bool) (t : Nat), s.agent = .thread t → s.acts s.agent g = true →
    exec (.tret g skip) s = .next (s.raise s.agent ⟨9, 0, 0, 0⟩)) ∧
  (∀ (s : State) (c k : Nat) (h : HeldTrap) (hs : List HeldTrap), let x := s.slot c k
    x.stopping = none → x.phase = .running → x.trap.en = true → x.v.inflight = [] → x.trap.pend = h :: hs → h.word < 16 →
    (x.trap.intrap = true → exec (.asyncTrapDelivery c k) s = .next s) ∧
    (∀ u, x.trap.intrap = false → s.syncFirst c k h.rank = some u → exec (.asyncTrapDelivery c k) s = .next u) ∧
    (x.trap.intrap = false → (h.rank ≤ 3 ∨ s.syncFirst c k h.rank = none) → ∃ t, exec (.asyncTrapDelivery c k) s = .next t ∧
      s.sameBytes t ∧
      let y := t.slot c k
      y.trap.intrap = true ∧ y.trap.pend = hs ∧ y.trap.taddr = h.addr ∧ y.trap.tinfo = h.info ∧
      y.trap.trows = .ofNat 64 ((x.stoppedRows.map (·.2)).getD 0) ∧
      y.trap.tcause = .ofNat 64 (h.cause * 2 ^ 56 + h.sub * 2 ^ 48 + h.strm * 2 ^ 45 + if h.sync = true then 0 else 2 ^ 44) ∧
      (let at1 := if h.sync = true then (low 16 h.line, h.word) else s.shownAt (.strm c k .ctl)
       fieldNat y.trap.tpc 48 16 = at1.1 ∧ fieldNat y.trap.tpc 44 4 = at1.2) ∧
      y.ctl.line = fieldNat x.trap.tvec 0 12 ∧ y.ctl.word = 0)) ∧
  (∀ (s : State) (c k : Nat) (x : Slot) (r : InFlight), (s.core c).slots = [(k, x)] → k < 4 → x.phase = .running →
    x.trap.intrap = false → x.vec.mode = .running → (s.core c).owns k = true → x.v.inflight = [r] → r.arrived = false → r.due ≤ x.v.beat →
    let f := (s.core c).frz
    let passed (t : State) (b : Nat) : Prop := (t.core c).frz.since = none ∧ (t.core c).frz.count = f.count ∧
      (t.core c).frz.last = .ofNat 32 (min (s.cycle - b) (2 ^ 32 - 1))
    (f.since = none → ∃ t, exec (.freezeStart c) s = .next t ∧
      (t.core c).frz = { f with since := some s.cycle, count := f.count + 1 } ∧ (t.core c).slots = [(k, x)]) ∧
    (∀ b, f.since = some b → r.fault = none → ∃ t, exec (.vectorReplyArrival c k r.ix) s = .next t ∧ passed t b ∧
      (t.slot c k).v.inflight = [{ r with arrived := true, landing := false }] ∧ (t.slot c k).v.regs = x.v.regs ∧
      (t.slot c k).v.seen.regs = (x.v.land r).regs ∧ s.sameBytes t) ∧
    (∀ b, f.since = some b →
      (s.cycle < b + 2 ^ (10 + f.limit.toNat) → exec (.freezeWatchdogExpiry c) s = .next s) ∧
      (b + 2 ^ (10 + f.limit.toNat) ≤ s.cycle → x.trap.pend = [] → ∃ t, exec (.freezeWatchdogExpiry c) s = .next t ∧
        passed t b ∧ (t.slot c k).v.inflight = [] ∧ s.sameBytes t ∧ ∃ h, (t.slot c k).trap.pend = [h] ∧ h.cause = 10 ∧
        h.sub = 0 ∧ h.strm = 1 ∧ h.addr = r.addr)))

/-! # System registers and firmware's instructions (files 18 to 21) -/

/-- System registers, PPOINT, and the instructions of firmware (R246, R340, R392 to R404, R421, R434, R441). SYSRD reads
the register of its selector. SYSWR writes the writable fields of it; what is firmware's alone only in partition 0.
PPOINT answers 3 in a gang and 1 without a request, and else saves the piece or answers 2. XINV, PART and CRYO in a
tenant's stream are illegal; in firmware's they begin an invalidation, stop, release, reset and request, and move the
cold states; a PART that stops its own piece has its result in the record (log 79).
SYS.VUNIT.HELD reads 0 while VALID is 0 (log 112).
Readings of the model: log 32, 52, 53, 77, 79, 80, 81, 92, 112. -/
def Obligations.SystemInstructions : Prop :=
  (∀ (s : State) (g : Guard) (d : BitVec 6) (sel : BitVec 10), s.acts s.agent g = true →
    let me := s.agent
    let x := s.own me
    let p := s.part (s.partOf me)
    let w := s.core (agentCore me)
    ∃ v, exec (.sysrd g d sel) s = .next (s.result me d v 2) ∧
      (sel = 0x000 → v = x.regs.itlo) ∧ (sel = 0x001 → v = x.regs.ithi) ∧ (sel = 0x002 → v = x.regs.itgrain) ∧
      (sel = 0x003 → v = x.regs.dom) ∧ (sel = 0x008 → v = x.regs.fpstat) ∧ (sel = 0x009 → v = x.regs.fpctl) ∧
      (sel = 0x00A → v = x.regs.srctx) ∧ (sel = 0x00B → v = x.regs.srbase) ∧ (sel = 0x018 → v = x.v.vrgn) ∧
      (∀ cls : Cls, cls ≠ .net → sel = .ofNat 10 (0x10 + clsCode cls) →
        v = .ofNat 64 ((x.strm cls).ecnt.toNat * 2 ^ 32 + (x.strm cls).lcnt.toNat)) ∧
      (sel = 0x019 → v = w.vunit s.cycle) ∧ (sel = 0x01C → v = x.qocc 0) ∧ (sel = 0x01D → v = x.qocc 1) ∧
      (sel = 0x01E → v = w.planeReg) ∧ (sel = 0x020 → v = w.tarea) ∧ (sel = 0x021 → v = x.gstat) ∧
      (sel = 0x022 → v = x.m.mprogc) ∧ (sel = 0x023 → v = x.m.mprogr) ∧ (sel = 0x028 → v = x.regs.vbase) ∧
      (sel = 0x029 → v = s.mon me) ∧ (sel = 0x02A → v = x.regs.nmstat) ∧ (sel = 0x02B → v = p.hotcfg) ∧
      (sel = 0x02C → v = (s.bay (bayOf (agentCore me))).cpeng) ∧ (sel = 0x030 → v = w.tq) ∧
      (sel = 0x031 → v = .ofNat 64 (w.range.toNat * 2 ^ 16 + w.lfsr.toNat)) ∧ (sel = 0x038 → v = p.npart0) ∧
      (sel = 0x039 → v = p.npart1) ∧ (sel = 0x03A → v = p.npart2) ∧ (sel = 0x03B → v = p.npart3) ∧
      (sel = 0x040 → v = x.trap.tcause) ∧ (sel = 0x041 → v = x.trap.tpc) ∧ (sel = 0x042 → v = x.trap.taddr) ∧
      (sel = 0x043 → v = x.trap.tinfo) ∧ (sel = 0x044 → v = x.trap.tvec) ∧ (sel = 0x045 → v = x.tstat) ∧
      (sel = 0x046 → v = x.trap.tscr0) ∧ (sel = 0x047 → v = x.trap.tscr1) ∧ (sel = 0x048 → v = x.trap.tscr2) ∧
      (sel = 0x049 → v = x.trap.tscr3) ∧ (sel = 0x04A → v = s.pstat (s.partOf me) x) ∧
      (sel = 0x04B → v = w.frz.limit ++ (0 : BitVec 12) ++ w.frz.count ++ w.frz.last) ∧ (sel = 0x04C → v = p.crib) ∧
      (sel = 0x04D → v = x.trap.trows) ∧ (sel = 0x080 → v = s.cryoReg) ∧ (sel = 0x081 → v = s.cryo.tband) ∧
      (sel = 0x082 → v = s.cryo.temp) ∧ (sel = 0x083 → v = s.power.pwrcfg) ∧ (sel = 0x084 → v = s.power.stat) ∧
      (sel = 0x085 → v = s.power.telcfg) ∧ (sel = 0x086 → v = s.power.limpwr) ∧ (sel = 0x087 → v = s.power.limlink) ∧
      ∀ i, i < 10 → sel = .ofNat 10 (0x88 + i) → v = s.power.counter i) ∧
  (∀ (s : State) (g : Guard) (a : BitVec 6) (sel : BitVec 10) (c k : Nat) (cls : Cls), s.agent = .strm c k cls →
    s.acts s.agent g = true →
    let me := s.agent
    let x := s.slot c k
    let v := s.reg me a
    let p := s.partOf me
    ∃ u, exec (.syswr g a sel) s = .next (u.advance me 2) ∧ s.sameBytes u ∧
      let y := u.slot c k
      let q := u.part p
      let q0 := s.part p
      y = { x with regs := y.regs, trap := y.trap } ∧ (∀ d j, (d, j) ≠ (c, k) → u.slot d j = s.slot d j) ∧
      (p ≠ 0 → sel ≠ 0x03B → u = s.setSlot c k y) ∧
      (sel = 0x008 → y.regs = { x.regs with fpstat := (x.regs.fpstat &&& ~~~v) ||| x.fpNew }) ∧
      (sel = 0x009 → y.regs = { x.regs with fpctl := v &&& 0xF }) ∧
      (sel = 0x00A → y.regs = { x.regs with srctx := v &&& 0x001FFFFF00000000 }) ∧
      (sel = 0x00B → y.regs = { x.regs with srbase := v }) ∧ (sel = 0x028 → y.regs = { x.regs with vbase := v }) ∧
      (sel = 0x029 → y.regs = { x.regs with mon := v &&& 0x8000FFFFFFFFFFF8 }) ∧
      (sel = 0x040 → y.trap = { x.trap with tcause := v &&& 0xFFFFF00000000000 }) ∧
      (sel = 0x041 → y.trap = { x.trap with tpc := v &&& 0xFFFFF01FFFFF000F }) ∧
      (sel = 0x042 → y.trap = { x.trap with taddr := v }) ∧ (sel = 0x043 → y.trap = { x.trap with tinfo := v }) ∧
      (sel = 0x044 → y.trap = { x.trap with tvec := v &&& 0xC000000000000FFF }) ∧
      (sel = 0x046 → y.trap = { x.trap with tscr0 := v }) ∧ (sel = 0x047 → y.trap = { x.trap with tscr1 := v }) ∧
      (sel = 0x048 → y.trap = { x.trap with tscr2 := v }) ∧ (sel = 0x049 → y.trap = { x.trap with tscr3 := v }) ∧
      (sel = 0x04D → y.trap = { x.trap with trows := v }) ∧
      (sel ∉ [0x008, 0x009, 0x00A, 0x00B, 0x028, 0x029] → y.regs = x.regs) ∧
      (sel ∉ [0x040, 0x041, 0x042, 0x043, 0x044, 0x046, 0x047, 0x048, 0x049, 0x04D] → y.trap = x.trap) ∧
      (sel = 0x03B → p ≠ 0 → q = { q0 with npart3 := q0.npart3 &&& ~~~(v &&& 0xF80000) }) ∧
      (p = 0 → (sel = 0x02B → q = { q0 with hotcfg := v &&& 0x0000FFFF0000FFFF }) ∧
        (sel = 0x038 → q = { q0 with npart0 := v &&& 0x0001FFFF0000FFFF }) ∧
        (sel = 0x039 → q = { q0 with npart1 := v &&& 0x0001FFFF0000FFFF }) ∧
        (sel = 0x03A → q = { q0 with npart2 := v &&& 0xFFFFFFFFFFFFFFC0 }) ∧
        (sel = 0x03B → q = { q0 with npart3 := (q0.npart3 &&& ~~~(v &&& 0xF80000) &&& ~~~0xFFFFFFFFFF07FFF0) |||
          (v &&& 0xFFFFFFFFFF07FFF0) }) ∧
        (sel = 0x04C → let y := { q0 with crib := v &&& 0xFFF0FFFFFFC00000 }
          q = { y with gains := q0.gains + (if q0.cribFree < y.cribFree then 1 else 0) }) ∧
        (sel = 0x04B → (u.core c).frz = { (s.core c).frz with limit := v.extractLsb' 60 4 }) ∧
        (sel = 0x083 → u.power = { s.power with pwrcfg := pwrClamp s.power.limpwr v }) ∧
        (sel = 0x085 → u.power = { s.power with telcfg := v &&& 0xFFFEFFFFFFFFFFFF }))) ∧
  (∀ (s : State) (g : Guard) (d : BitVec 6) (m : PMask) (c k : Nat) (cls : Cls) (q : Piece), s.agent = .strm c k cls →
    s.acts s.agent g = true → (s.slot c k).piece = some q →
    let me := s.agent
    let n := pmaskWords m
    let req := (s.slot c k).regs.req
    (q.gang.isSome = true → exec (.ppoint g d m) s = .next (s.result me d 3 n)) ∧
    (q.gang = none → req = 0 → exec (.ppoint g d m) s = .next (s.result me d 1 n)) ∧
    (let e := s.enterSave c k
     let s0 := e.result me d 0 n
     (q.gang = none → req ≠ 0 → (s.part q.part).freeRec = none →
      exec (.ppoint g d m) s = .next ((e.abandonedAs (s0.event q.part 11 0 0 (.ofNat 64 (4 * c + k)) 0)).result me d 2 n)) ∧
     (∀ u, q.gang = none → req ≠ 0 → let save := s0.saveSlot c k (pointLive m q.hdr) false none
      (∀ r, save = (u, .saved r) → exec (.ppoint g d m) s = .next u) ∧
      (save = (u, .abandoned) → exec (.ppoint g d m) s = .next ((e.abandonedAs u).result me d 2 n)) ∧
      (save = (u, .held) → exec (.ppoint g d m) s = .next (e.block me))) ∧
     (∀ r u, q.gang = none → req ≠ 0 → (s.part q.part).freeRec = some r →
      s0.storeRec (s0.slotSync c k) ((s0.part q.part).recAt r) (Config.cribLines (s0.slot c k).context
        (memSlice (s0.core c).scratch (privBase k) 0x100000)) = (u, .ok) → (u.slot c k).piece = some q →
      ∃ t y, exec (.ppoint g d m) s = .next t ∧ (t.slot c k).phase = .free ∧ (t.slot c k).piece = none ∧
        (r, y) ∈ (t.part q.part).recs ∧ y.core = c ∧ y.held = false ∧ y.slot.piece = some q ∧
        (∀ e ∈ [Cls.ctl, .vec, .mat, .ldr, .str], y.slot.strm e = (u.slot c k).strm e) ∧ y.slot.v = (u.slot c k).v ∧
        ∃ ring, (t.core c).queue = (u.core c).queue ++ [{ piece := q, saved := some r, ring := ring }]))) ∧
  (∀ (s : State) (g : Guard) (d a b : BitVec 6), let me := s.agent
    (∀ i, firmwareRow i = true → s.partOf me ≠ 0 → (s.strm me).skip = false →
      i ∈ [.xinv g d a b, .partStop g d a, .partRelease g d a, .partReset g d a, .partRequest g d a, .cryoQuery g d a,
        .cryoCool g d a, .cryoWarm g d a, .cryoForceRetreat g d a, .cryoReleaseRetreat g d a, .cryoClearRatev g d a] →
      exec i s = .next (s.raise me ⟨1, 3, 0, 0⟩)) ∧
    (s.partOf me = 0 → s.acts me g = true → realAgent me = true →
      let v := s.reg me a
      let tok := (s.strm me).token
      let r := s.reg me b
      (tok = none → (r &&& 0x73F ≠ r ∨ fieldNat r 8 3 = 5 ∨ fieldNat r 8 3 = 6) →
        exec (.xinv g d a b) s = .next (s.result me d 1 2)) ∧
      (∀ bits, tok = none → r &&& 0x73F = r → xinvBits (fieldNat r 8 3) = some bits → ∃ t w, exec (.xinv g d a b) s = .next t ∧
        t.xl.invals = s.xl.invals ++ [w] ∧ w.part = fieldNat r 0 6 ∧ w.base = v.toNat / 2 ^ bits * 2 ^ bits ∧ w.bits = bits ∧
        (t.strm me).mode = .blocked ∧ (t.strm me).token = some w.idx) ∧
      (∀ i, tok = some i → exec (.xinv g d a b) s = .next (if s.xl.invals.any (fun w => w.idx == i) = true then s.block me
        else s.result me d 0 2)) ∧
      (∀ c k, c = fieldNat v 2 7 → k = fieldNat v 0 2 → let x := s.slot c k
        (x.piece = none → exec (.partStop g d a) s = .next (s.result me d (.ofNat 64 (2 ^ 63 + 1)) 2) ∧
          exec (.partRequest g d a) s = .next (s.result me d 1 2)) ∧
        (∀ q, x.piece = some q →
          (x.phase ≠ .restoring → exec (.partRequest g d a) s =
            .next ((s.setSlot c k { x with regs := { x.regs with req := 2 } }).result me d 0 2)) ∧
          (x.phase = .restoring → exec (.partRequest g d a) s =
            .next ((s.updPiece q.uid (fun y => { y with regs := { y.regs with req := 2 } })).result me d 0 2)) ∧
          (x.phase ≠ .running ∨ (s.core c).frz.since.isSome = true → exec (.partStop g d a) s = .next (s.block me)) ∧
          (x.phase = .running → (s.core c).frz.since = none → q.gang = none →
            (∀ c' k' cls, me = .strm c' k' cls → (s.slot c' k').piece ≠ none) →
            let stores (e u : State) (n : Nat) : Prop := e.storeRec (e.slotSync c k) ((e.part q.part).recAt n)
              (Config.cribLines (e.slot c k).context (memSlice (e.core c).scratch (privBase k) 0x100000)) = (u, .ok) ∧
              (u.slot c k).piece = some q
            ((s.part q.part).freeRec = none → exec (.partStop g d a) s = .next
              (((s.enterSave c k).event q.part 11 0 0 (.ofNat 64 (4 * c + k)) 0).result me d (.ofNat 64 (2 ^ 63 + 2)) 2)) ∧
            ∀ n u, (s.part q.part).freeRec = some n → stores (s.enterSave c k) u n →
              let word : DWord := .ofNat 64 (q.part * 2 ^ 12 + n)
              ((∀ cls, me ≠ .strm c k cls) → ∃ (t : State) (y : SavedPiece), exec (.partStop g d a) s =
                .next (t.result me d word 2) ∧ (t.slot c k).phase = .free ∧
                (n, y) ∈ (t.part q.part).recs ∧ y.held = true ∧ y.slot.piece = some q ∧ y.core = c) ∧
              (∀ cls u2, me = .strm c k cls → stores ((s.result me d word 2).enterSave c k) u2 n →
                ∃ (t : State) (y : SavedPiece), exec (.partStop g d a) s = .next t ∧ (t.slot c k).phase = .free ∧
                (n, y) ∈ (t.part q.part).recs ∧ y.held = true ∧ y.slot.piece = some q ∧ y.core = c ∧
                y.slot.strm cls = (u2.slot c k).strm cls)))) ∧
      (∀ y, let p := v.toNat / 2 ^ 12
        let n := v.toNat % 2 ^ 12
        (2 ^ 18 ≤ v.toNat ∨ s.savedRec p n = none → exec (.partRelease g d a) s = .next (s.result me d 1 2)) ∧
        (v.toNat < 2 ^ 18 → s.savedRec p n = some y →
          (y.held = false → exec (.partRelease g d a) s = .next (s.result me d 1 2)) ∧
          ∀ q, y.held = true → y.gang = none → y.slot.piece = some q →
            ((s.core y.core).roomOnChip = true → exec (.partRelease g d a) s = .next
              (((s.updPart p (fun x => { x with recs := Tbl.set x.recs n { y with held := false } })).updCore y.core
                (fun x => { x with queue := x.queue ++ [{ piece := q, saved := some n, ring := none }] })).result me d 0 2)) ∧
            ((s.core y.core).roomOnChip = false → ∃ (u : State) (i : Nat), exec (.partRelease g d a) s = .next (u.result me d 0 2) ∧
              (u.core y.core).queue = (s.core y.core).queue ++ [{ piece := q, saved := some n, ring := some i }]))) ∧
      (let p := v.toNat
        let bad := p = 0 ∨ 64 ≤ p ∨ (s.part p).live = false
        (tok = none → bad → exec (.partReset g d a) s = .next (s.result me d 1 2)) ∧
        (tok = none → ¬ bad → ∃ t, exec (.partReset g d a) s = .next t ∧ (t.part p).inReset = true ∧
          (t.strm me).mode = .blocked ∧ (t.strm me).token = some 0) ∧
        (tok.isSome = true → s.resetWaits p = false → exec (.partReset g d a) s =
          .next ((s.endReset p).result me d 0 2)) ∧
        (tok.isSome = true → (s.part p).inReset = true → s.resetWaits p = true → exec (.partReset g d a) s =
          .next (s.updStrm me (fun t => { t with mode := .blocked, token := some 0 })))) ∧
      (∀ i ∈ [Instr.cryoQuery g d a, .cryoCool g d a, .cryoWarm g d a, .cryoForceRetreat g d a, .cryoReleaseRetreat g d a,
          .cryoClearRatev g d a],
        let code := v.toNat % 2 ^ 8
        let die := v.toNat / 2 ^ 8 % 4
        let m := s.cryo.mstate
        let bad := 2 ^ 10 ≤ v.toNat ∨ 6 ≤ code
        ∃ u st, exec i s = .next (u.result me d (setField u.cryoReg 56 (BitVec.ofNat 8 st)) 2) ∧
          (bad → u = s ∧ st = 1) ∧
          (¬ bad →
            (code = 0 → u = s ∧ st = 0) ∧
            (code = 1 → m = 0 → st = 0 ∧ u.cryo.mstate = 1 ∧ ∀ j, j < 4 → u.dstate j = 1) ∧
            (code = 2 → (m = 1 ∨ m = 2) → s.anyBound = true → u = s ∧ st = 3) ∧
            (code = 2 → (m = 1 ∨ m = 2) → s.anyBound = false → st = 0 ∧ u.cryo.mstate = 5 ∧ ∀ j, j < 4 → u.dstate j = 5) ∧
            (code = 3 → m = 2 → st = 0 ∧ u.cryo.forced.getLsbD die = true ∧
              (s.dstate die = 2 ∨ s.dstate die = 3 → u.dstate die = 4)) ∧
            (code = 4 → m = 2 → st = 0 ∧ u.cryo.forced.getLsbD die = false ∧ u.cryo.dstate = s.cryo.dstate) ∧
            (code = 5 → st = 0 ∧ u = { s with cryo := { s.cryo with ratev := false } }) ∧
            ((code = 1 ∧ m ≠ 0) ∨ (code = 2 ∧ m ≠ 1 ∧ m ≠ 2) ∨ ((code = 3 ∨ code = 4) ∧ m ≠ 2) → u = s ∧ st = 2)))))

/-! # Engines and controllers that work on their own (files 09 to 11) -/

/-- Steps of the matrix paths, walks, and the controllers' work (R220 to R222, R225, R230, R241 to R257). A product's step
takes its operands from the ports and adds their products to its cells and to no other; the last one ends it. A read-out
puts its next row-set. A walk that ends installs its leaf or tells its requesters; an invalidation drops the entries of
its pages. A queued write reaches its line, and no read sees the difference; on a fenced channel it is lost. A lane's
sixteenth error asks for its repair, which waits while a replay of the lane is outstanding. A patrol read corrects its line, or
queues its record. The step of a product is stated of BF16 and INT8 operands, the bytes of a read-out of layout 0. When a line's
read fails is log 16, that the record of a patrol read is queued though 256 events wait is log 94.
Readings of the model: log 16, 17, 18, 19, 80, 91, 94. -/
def Obligations.EnginesAndControllers : Prop :=
  (∀ (s : State) (c k f : Nat) (o : ComputeOp), let x := s.slot c k
    let p := x.m.active
    let A := (x.queue p.qa).entries.take (ceilDiv o.ml 32)
    let B := (x.queue p.qb).entries.take (ceilDiv o.nl 32)
    s.clockOn c = true → (s.core c).owns k = true → x.m.cop = some o → o.kind = .mm → o.stat = .running →
    x.m.clr = none → x.m.share = none → p.m ≠ 0 → p.n ≠ 0 → p.k ≠ 0 → o.ml ≠ 0 → o.nl ≠ 0 → p.arow + o.ml ≤ 96 → p.acol + o.nl ≤ 128 → p.qa ≠ p.qb →
    (x.queue p.qa).popBy 2 = true → (x.queue p.qb).popBy 2 = true →
    ceilDiv o.ml 32 ≤ (x.queue p.qa).ready → ceilDiv o.nl 32 ≤ (x.queue p.qb).ready → (∀ e ∈ A ++ B, e.fmt = f) → (f = 1 ∨ f = 4) →
    (o.fmts = none ∨ o.fmts = some (f, f)) →
    let per := if f = 1 then 32 else 64
    let size := if f = 1 then 2 else 1
    let pairs (i j : Nat) := ((segOf A i size).zip (segOf B j size)).take (p.k - o.steps * per)
    let old (i j : Nat) := x.m.cell o.bank (p.arow + i) (p.acol + j)
    let new (i j : Nat) := if f = 1 then (accBf16 (pairs i j) o.ftz (old i j)).1 else accInt8 (pairs i j) (old i j)
    (∀ i j, i < o.ml → j < o.nl → new i j < 2 ^ 32) →
    ∃ t, exec (.matrixStep c k) s = .next t ∧ s.sameBytes t ∧
      (∀ i j, i < o.ml → j < o.nl → (t.slot c k).m.cell o.bank (p.arow + i) (p.acol + j) = new i j) ∧
      (∀ bk i j, i < 96 → j < 128 →
        ¬ (bk = o.bank ∧ p.arow ≤ i ∧ i < p.arow + o.ml ∧ p.acol ≤ j ∧ j < p.acol + o.nl) →
        (t.slot c k).m.cell bk i j = x.m.cell bk i j) ∧
      ((t.slot c k).queue p.qa).entries = (x.queue p.qa).entries.drop (ceilDiv o.ml 32) ∧
      ((t.slot c k).queue p.qb).entries = (x.queue p.qb).entries.drop (ceilDiv o.nl 32) ∧
      ((o.steps + 1) * per < p.k → (t.slot c k).m.cop = some { o with steps := o.steps + 1, fmts := some (f, f) }) ∧
      (p.k ≤ (o.steps + 1) * per → (t.slot c k).m.cop = none)) ∧
  (∀ (s : State) (c k : Nat) (o : ReadOp), let x := s.slot c k
    s.clockOn c = true → (s.core c).owns k = true → x.m.rop = some o → o.stat = .running → o.gang = false →
    o.tgt = false → (x.queue o.target).putBy 2 = true →
    (x.queue o.target).entries.length + (x.queue o.target).pops < 16 →
    let e := (o.form x.m).1
    let halfway := o.cvt = false ∧ o.lay = true ∧ o.half = false
    ∃ t, exec (.readoutRowset c k) s = .next t ∧
      ((t.slot c k).queue o.target).entries = (x.queue o.target).entries ++ [e] ∧ e.fmt = o.tag ∧
      (o.cvt = false → o.lay = false → ∀ i j, i < 4 → j < 128 → fieldNat e.rows (32 * (128 * i + j)) 32 =
        if o.done + i < o.rows then x.m.cell o.bank (o.first + (o.done + i)) j else 0) ∧
      (halfway → (t.slot c k).m.rop = some { o with half := true }) ∧
      (¬ halfway → o.done + o.q < o.rows → (t.slot c k).m.rop = some { o with half := false, done := o.done + o.q }) ∧
      (¬ halfway → o.rows ≤ o.done + o.q → (t.slot c k).m.rop = x.m.shareR)) ∧
  (∀ (s : State) (u : XUnit) (p n : Nat) (w : Walk), s.xl.walks = [w] → w.unit = u → w.part = p → w.granule = n →
    s.xl.invals = [] →
    let va := n * 4096
    (∀ v leaf bits, s.walkFor p va = (v, .ok (leaf, bits)) → exec (.translationWalkComplete u p n) s =
      .next { v with xl := { v.xl with walks := [], tlb := XEntry u p va leaf bits :: v.xl.tlb } }) ∧
    (∀ v sub, s.walkFor p va = (v, .error sub) → exec (.translationWalkComplete u p n) s = .next { v with
      xl := { v.xl with walks := [], faults := w.who.map (fun r => { who := r, granule := n, sub := sub }) ++ v.xl.faults } }) ∧
    (∀ r (e3 e2 e1 e0 : DWord), (s.part p).root = some r →
      let next (e : DWord) : Nat := fieldNat e 12 30 * 2 ^ 12
      let pointer (e : DWord) : Prop := e = .ofNat 64 (next e + 3)
      s.readTable (r + 8 * (va / 2 ^ 39 % 512)) = (s, .ok e3) → pointer e3 →
      s.readTable (next e3 + 8 * (va / 2 ^ 30 % 512)) = (s, .ok e2) → pointer e2 →
      s.readTable (next e2 + 8 * (va / 2 ^ 21 % 512)) = (s, .ok e1) → pointer e1 →
      s.readTable (next e1 + 8 * (va / 2 ^ 12 % 512)) = (s, .ok e0) →
      (e0.getLsbD 0 = false → s.walkFor p va = (s, .error 2)) ∧
      (e0.getLsbD 0 = true → e0.getLsbD 1 = false → fieldNat e0 42 16 = 0 → fieldNat e0 6 6 = 0 →
        s.walkFor p va = (s, .ok
          (⟨next e0, fieldNat e0 58 6, e0.getLsbD 5, e0.getLsbD 4, e0.getLsbD 3, e0.getLsbD 2⟩, 12)))) ∧
    (∀ pa, (tierOf pa = none → s.readTable pa = (s, .error 7)) ∧
      ((tierOf pa).isSome = true → s.dram.fenced pa = true → s.readTable pa = (s, .error 8)))) ∧
  (∀ (s : State) (u : XUnit) (p n : Nat) (w : Walk) (v : Inval), s.xl.walks = [w] → w.unit = u → w.part = p → w.granule = n →
    s.xl.invals = [v] → v.part = p → (∃ t leaf bits, s.walkFor p (n * 4096) = (t, .ok (leaf, bits)) ∧
      v.base < n * 4096 / 2 ^ bits * 2 ^ bits + 2 ^ bits ∧ n * 4096 / 2 ^ bits * 2 ^ bits < v.base + 2 ^ v.bits) →
    exec (.translationWalkComplete u p n) s = .next s) ∧
  (∀ (s : State) (v : Inval), s.xl.invals = [v] →
    (s.dram.nm.any (fun w => w.part == v.part) = true → exec (.translationInvalidateComplete v.idx) s = .next s) ∧
    (s.dram.nm.any (fun w => w.part == v.part) = false → (∀ c, (s.core c).ringed = 0) →
      (∀ b e, ((s.bay b).engine e).stalled = false) → ∃ t, exec (.translationInvalidateComplete v.idx) s = .next t ∧
        t.xl.invals = [] ∧ s.sameBytes t ∧ t.xl.tlb = s.xl.tlb.filter (fun e => !(e.part == v.part &&
          decide (v.base < e.base + 2 ^ e.bits) && decide (e.base < v.base + 2 ^ v.bits))))) ∧
  (∀ (s : State) (n : Nat) (w : QWrite) (ws : List QWrite), s.dram.queue n = w :: ws → ctrlOf (w.line * 64) = n →
    ∃ t, exec (.writeQueueDrain n) s = .next t ∧ t.dram.queue n = ws ∧
      (s.dram.fenced (w.line * 64) = true → t.dram.cells = s.dram.cells) ∧
      (s.dram.fenced (w.line * 64) = false → (w.bm = BitVec.allOnes 64 ∨ s.dram.verifies (w.line * 64) w.key = true) →
        (∀ j, j < 64 → memGet t.dram.cells (w.line * 64 + j) =
          if w.bm.getLsbD j = true then w.data.extractLsb' (8 * j) 8 else memGet s.dram.cells (w.line * 64 + j)) ∧
        ∀ a, t.dram.byteAt a = s.dram.byteAt a)) ∧
  (∀ (s : State) (p : Nat), exec (.countPeriodClear p) s = .next (if fieldNat (s.part p).hotcfg 0 16 = 0 then s
    else { s with dram := { s.dram with counts := s.dram.counts.filter (fun e => e.2.1 != p) } })) ∧
  (∀ (s : State) (n ch lane : Nat) (again : Bool), let x := s.dram.chan (chanNo n ch)
    let errors := Tbl.get 0 x.lanes lane + 1
    let spares := x.spares.getD Config.spareLanes
    n < 16 → ch < (if n < 8 then 32 else 16) → x.fenced = false →
    (x.replays.contains lane = false → ∃ t, exec (.crcReplay n ch lane again) s = .next t ∧ s.sameBytes t ∧
      let y := t.dram.chan (chanNo n ch)
      (again = true → y.fenced = true) ∧ (again = false → y.replays = x.replays ++ [lane]) ∧
      (8 ≤ n → y.lanes = x.lanes ∧ y.fenced = again) ∧
      (n < 8 → Tbl.get 0 y.lanes lane = errors) ∧
      (n < 8 → errors ≠ 16 → y.repair = x.repair ∧ y.fenced = again) ∧
      (n < 8 → errors = 16 → spares ≠ 0 → y.repair = x.repair ++ [lane]) ∧
      (n < 8 → errors = 16 → spares = 0 → y.fenced = true)) ∧
    (x.replays.contains lane = true → ∃ t, exec (.crcReplay n ch lane again) s = .next t ∧ s.sameBytes t ∧
      let y := t.dram.chan (chanNo n ch)
      y.replays = x.replays.erase lane ∧ y.lanes = x.lanes ∧ y.fenced = again) ∧
    (n < 8 → x.repair.contains lane = true → x.replays.contains lane = true → x.want = none →
      ∃ t, exec (.laneRepair n ch lane) s = .next t ∧ s.sameBytes t ∧
        t.dram.chan (chanNo n ch) = { x with repair := lane :: x.repair.erase lane }) ∧
    (n < 8 → x.repair.contains lane = true → x.replays.contains lane = false → spares ≠ 0 → x.want = none → ∃ t, exec (.laneRepair n ch lane) s = .next t ∧
      s.sameBytes t ∧ t.dram.chan (chanNo n ch) =
        { x with repair := x.repair.erase lane, lanes := Tbl.erase x.lanes lane, spares := some (spares - 1),
                 map := Tbl.set x.map lane (Config.spareLanes - spares + 1) })) ∧
  (∀ (s : State) (line : Nat), let pa := line * 64
    let key := (Tbl.get (0, 0) s.dram.lineKey line).1
    (tierOf pa).isSome = true → s.dram.fenced pa = false → ∃ t, exec (.patrolScrubRead line) s = .next t ∧ s.sameBytes t ∧
      (∀ a, t.dram.byteAt a = s.dram.byteAt a) ∧
      (s.dram.verifies pa key = true → Tbl.get .sound t.dram.cond line = .sound) ∧
      (s.dram.verifies pa key = false → t.dram.cond = s.dram.cond ∧
        Tbl.get [] t.dram.events (ctrlOf pa) = Tbl.get [] s.dram.events (ctrlOf pa) ++
          [memRecord 2 ((s.dram.key key).owner.getD 0) line 1 (unitOf pa) (decide (8 ≤ ctrlOf pa)) (chanOf pa)]))

/-! # The host link (file 18) -/

/-- Function registers, function level resets and completion (R406 to R416, R420, R421, R424). A function of no partition
ignores writes. A read of RESV gives out a ticket while the ring has one; COMMIT takes a ticket that is out and counts any
other; CFG enables a disabled ring, empty, to which commands of the ring before report no longer; RST empties it once its
commands are over. A partition reset ends what the
partition runs, lets the writes under way finish (R21), and clears what it holds. A completed command writes its record and moves DONE. The update's and the
firmware's watchdogs act at their limits: a failover runs the standby's image, and with no standby the tenants run on without
firmware.
Readings of the model: log 68, 77, 83, 84, 87, 88, 107. -/
def Obligations.HostRegistersAndResets : Prop :=
  (∀ (s : State) (fn : Nat) (v : DWord), let x := s.hostFn fn
    let gives (i : Instr) (y : HostFn) : Prop := ∃ t, exec i s = .next t ∧ t.hostFn fn = y ∧
      t = s.updHost fn (fun _ => y)
    let n := v.toNat % 2 ^ 32
    let log := v.toNat % 2 ^ 5
    (s.fnLive fn = false → ∀ i ∈ [Instr.hringResvRead fn, .hringCommit fn v, .hringEnable fn v, .hrxEnable fn v, .hringReset fn,
      .hringResume fn], exec i s = .next s) ∧
    (∀ off, s.fnLive fn = false → exec (.registerWrite fn off v) s = .next s) ∧
    (s.fnLive fn = true →
      (x.ringEn = true → ahead x.next x.doneT < 2 ^ x.rlog → x.resv.2 = .ofNat 64 x.next ∧
        gives (.hringResvRead fn) { x with next := (x.next + 1) % 2 ^ 32 }) ∧
      (x.ringEn = false ∨ 2 ^ x.rlog ≤ ahead x.next x.doneT → x.resv.2 = .ofNat 64 (2 ^ 63) ∧ gives (.hringResvRead fn) x) ∧
      (ahead n x.doneT < ahead x.next x.doneT → x.commits.contains n = false →
        gives (.hringCommit fn v) { x with commits := x.commits ++ [n] }) ∧
      (ahead x.next x.doneT ≤ ahead n x.doneT ∨ x.commits.contains n = true →
        gives (.hringCommit fn v) { x with badc := min (x.badc + 1) 0xFFFF }) ∧
      (x.ringEn = true → gives (.hringEnable fn v) { x with ringEn := v.getLsbD 63 }) ∧
      (x.ringEn = false → (v.getLsbD 63 = false ∨ log < 6 ∨ 16 < log) → gives (.hringEnable fn v) { x with rlog := log }) ∧
      (x.ringEn = false → v.getLsbD 63 = true → 6 ≤ log → log ≤ 16 → ∃ t, exec (.hringEnable fn v) s = .next t ∧
        (∀ j ∈ t.jobs, j.fn = fn → j.ticket = 2 ^ 32) ∧ (∀ u, t.fw.update = some u → u.fn = fn → u.ticket = 2 ^ 32) ∧
        (∀ w ∈ (t.part fn).waits, ∀ f n i, w.host = some (f, n, i) → n = 2 ^ 32) ∧ t.hostFn fn = { x with
          rlog := log, ringEn := true, next := 0, head := 0, doneT := 0, commits := [], cmds := [], frames := [], resetting := false }) ∧
      (x.rxEn = true → gives (.hrxEnable fn v) { x with rxEn := v.getLsbD 63 }) ∧
      (x.rxEn = false → gives (.hrxEnable fn v) { x with
        xlog := log, rxEn := v.getLsbD 63 && decide (12 ≤ log) && decide (log ≤ 30) }) ∧
      (x.cmds = [] → gives (.hringReset fn) { x with
        next := 0, head := 0, doneT := 0, commits := [], frames := [], resetting := false }) ∧
      (x.cmds ≠ [] → gives (.hringReset fn) { x with
        resetting := true, frames := [], cmds := x.cmds.map (fun c => { c with issuing := false }) }) ∧
      gives (.hringResume fn) { x with fault := false } ∧
      (x.ringEn = false → gives (.registerWrite fn 0x000 v) { x with ringBase := v } ∧
        gives (.registerWrite fn 0x010 v) { x with cqBase := v }) ∧
      (x.ringEn = true → gives (.registerWrite fn 0x000 v) x ∧ gives (.registerWrite fn 0x010 v) x) ∧
      (x.rxEn = false → gives (.registerWrite fn 0x040 v) { x with rxBase := v }) ∧
      gives (.registerWrite fn 0x058 v) { x with rxHead := v } ∧
      exec (.registerWrite fn 0x008 v) s = exec (.hringEnable fn v) s ∧
      exec (.registerWrite fn 0x020 v) s = exec (.hringCommit fn v) s ∧
      exec (.registerWrite fn 0x048 v) s = exec (.hrxEnable fn v) s ∧
      (v = 1 → exec (.registerWrite fn 0x038 v) s = exec (.hringResume fn) s) ∧
      (v = 2 → exec (.registerWrite fn 0x038 v) s = exec (.hringReset fn) s))) ∧
  (∀ (s : State) (p : Nat), let x := s.part p
    ((p = 0 ∨ 64 ≤ p ∨ x.live = false) → exec (.functionLevelResetVf p) s = .next s) ∧
    (0 < p → p < 64 → x.live = true → x.inReset = false → ∃ t, exec (.functionLevelResetVf p) s = .next t ∧
      (t.part p).inReset = true ∧ (t.part p).events = [] ∧ (t.part p).recs = [] ∧ (t.part p).sends = [] ∧
      (t.part p).root = x.root ∧ (t.part p).key = x.key ∧ t.dram = s.dram ∧
      (∀ c k, c < 72 → s.holdsCore p c = true → t.slot c k = Slot.reset ∧ (t.core c).queue = [] ∧
        (t.core c).scratch = (s.core c).scratch ∧ (t.core c).frz = Frz.reset ∧ (t.core c).swaps = 0 ∧ (t.core c).range = 0) ∧
      (∀ m ∈ s.npd.msgs, m.part = p → m.stage = .deliver → m.done ≠ 0 → m ∈ t.npd.msgs) ∧
      (∀ j ∈ s.jobs, j.fn = p → j.op = 2 → j.done ≠ 0 → j ∈ t.jobs) ∧
      (∀ c, s.holdsCore p c = false → t.core c = s.core c) ∧ ∀ y ∈ t.npd.threads, y.2.part ≠ p) ∧
    (0 < p → p < 64 → x.live = true → x.inReset = true →
      (∃ w ∈ s.dram.nm, w.part = p) ∨ (∃ m ∈ s.npd.msgs, m.part = p) ∨ (∃ j ∈ s.jobs, j.fn = p) →
      exec (.functionLevelResetVf p) s = .next s) ∧
    (0 < p → p < 64 → x.live = true → x.inReset = true → (∀ w ∈ s.dram.nm, w.part ≠ p) → (∀ m ∈ s.npd.msgs, m.part ≠ p) →
      (∀ j ∈ s.jobs, j.fn ≠ p) →
      ∃ t, exec (.functionLevelResetVf p) s = .next t ∧ (t.part p).inReset = false ∧ (t.part p).doms = [] ∧
        t.dram = s.dram ∧ (t.part p).npart3 = x.npart3 &&& ~~~0xF80000 ∧
        (t.hostFn p = { HostFn.reset with vectors := (t.hostFn p).vectors }) ∧
        (∀ c, s.holdsCore p c = true → (t.core c).tiles = [] ∧ (t.core c).templates = [] ∧
          ∀ a, (a < 0x800000 → t.byteAt (.scratch c) a = 0) ∧ t.byteAt (.plane c 0) a = 0 ∧ t.byteAt (.plane c 1) a = 0) ∧
        (∀ n, x.hasCounter n = true → t.counter n = 0) ∧ (∀ n, x.hasCounter n = false → t.counter n = s.counter n)) ∧
    ((s.hostFn 0).cmds = [] → ∃ t, exec .functionLevelResetPf0 s = .next t ∧ t.hostFn 0 = { s.hostFn 0 with
      rxEn := false, next := 0, head := 0, doneT := 0, commits := [], frames := [], resetting := false })) ∧
  (∀ (s : State) (fn : Nat) (c : HostCmd), let x := s.hostFn fn
    x.cmds = [c] → (∀ e ∈ s.parts, e.2.inReset = false) → s.linkTurn fn = true →
    (c.subs ≠ 0 ∨ c.issuing = true → exec (.commandCompletion fn c.ticket) s = .next s) ∧
    (c.subs = 0 → c.issuing = false → x.resetting = false → ∃ t, exec (.commandCompletion fn c.ticket) s = .next t ∧
      let y := t.hostFn fn
      let at1 := x.cqBase.toNat + c.ticket % 2 ^ x.rlog * 16
      y.cmds = [] ∧ y.doneT = x.head ∧ y.next = x.next ∧ y.head = x.head ∧ y.fault = x.fault ∧
      (c.ticket < 2 ^ 32 → c.status < 2 ^ 16 →
        memNat t.hostMem at1 8 = c.ticket * 2 ^ 32 + c.status * 2 ^ 16 ∧
        memNat t.hostMem (at1 + 8) 8 = c.tag.toNat * 2 ^ 32 + c.detail % 2 ^ 32) ∧
      (∀ a, a < at1 ∨ at1 + 16 ≤ a → memGet t.hostMem a = memGet s.hostMem a) ∧
      (∀ m a, m ≠ .host → t.byteAt m a = s.byteAt m a) ∧
      ∀ n, Tbl.get 0 y.vectors n = Tbl.get 0 x.vectors n + (if c.irq = true ∧ n = 0 then 1 else 0) +
        (if c.status = 6 ∧ n = 1 then 1 else 0))) ∧
  (∀ (s : State) (u : Update), s.fw.update = some u →
    (npdCycles s.cycle < u.start + 2 ^ 20 ∨ s.fwBusy = false → exec .updateQuiesceTimeout s = .next s) ∧
    (u.start + 2 ^ 20 ≤ npdCycles s.cycle → s.fwBusy = true → ∃ t, exec .updateQuiesceTimeout s = .next t ∧
      t.fw = { s.fw with update := none } ∧ ∀ c, (s.hostFn u.fn).cmds = [c] → c.ticket = u.ticket → c.status = 0 → c.index = 0 →
        (t.hostFn u.fn).cmds = [{ c with subs := c.subs - 1, status := 0x13, detail := 0 }])) ∧
  (∀ s : State, let late := npdCycles s.fw.served + 2 ^ 22 ≤ npdCycles s.cycle
    (¬ late ∨ s.fw.up = false → exec .firmwareWatchdogFailover s = .next s) ∧
    (late → s.fw.up = true → s.fw.update = none → s.fw.sby = false → ∃ t, exec .firmwareWatchdogFailover s = .next t ∧
      t.fw.up = false ∧ t.fw.complexB = s.fw.complexB ∧ ∀ y ∈ t.npd.threads, y.2.part ≠ 0) ∧
    (late → s.fw.up = true → s.fw.update = none → s.fw.sby = true → ∃ t n x, exec .firmwareWatchdogFailover s = .next t ∧
      t.fw.up = true ∧ t.fw.complexB = (!s.fw.complexB) ∧ t.fw.ver = s.fw.sbyVer ∧ t.fw.img = s.fw.sbyImg ∧ t.fw.sby = false ∧
      t.fw.served = s.cycle ∧ (n, x) ∈ t.npd.threads ∧ x.job = .boot ∧ x.strm.line = imgEntry s.fw.sbyImg ∧ x.strm.word = 0 ∧
      x.strm.mode = .running ∧ ∀ y ∈ t.npd.threads, y.2.part = 0 → y = (n, x)))

/-- Commands of the host ring (R409 to R424). Where the ring serves, its next ticket is committed and nothing runs, the row
of the command's op takes its 64 bytes: a command that fails a common check ends with its status, else it acts. Ended
commands keep their status and detail until their completion; a copy that is longer than a line goes on as a job.
Readings of the model: log 82, 85, 86, 87, 103, 107. -/
def Obligations.HostCommandsRun : Prop :=
  ∀ (s : State) (fn : Nat), let x := s.hostFn fn
    let at1 := x.ringBase.toNat + x.head % 2 ^ x.rlog * 64
    let c : List DWord := (List.range 8).map (fun i => .ofNat 64 (memNat s.hostMem (at1 + 8 * i) 8))
    let op := cOp c
    let a (i : Nat) : Nat := (hw c i).toNat
    let ended (t : State) (status detail : Nat) : Prop := (t.hostFn fn).head = (x.head + 1) % 2 ^ 32 ∧
      (t.hostFn fn).cmds = [{ ticket := x.head, tag := cTag c, irq := cIrq c, status := status, detail := detail, subs := 0, index := 0, issuing := false }]
    let goesOn (t : State) (j : HostJob) : Prop := t.jobs = [j] ∧ (t.hostFn fn).head = (x.head + 1) % 2 ^ 32 ∧
      (t.hostFn fn).cmds = [{ ticket := x.head, tag := cTag c, irq := cIrq c, status := 0, detail := 0, subs := 1, index := 0, issuing := false }]
    let ends (i : Instr) (status : Nat) : Prop := ∃ t, exec i s = .next t ∧ ended t status 0 ∧ s.sameBytes t
    s.ringServes fn = true → x.frames = [] → x.cmds = [] → x.commits.contains x.head = true → x.head ≠ x.next → s.jobs = [] →
    Config.busError at1 s.stepNo = false →
    let st := s.cmdStatus fn c
    (∀ i n, (n, i) ∈ [(0x00, Instr.hostNop fn), (0x01, .launch fn), (0x02, .htod fn), (0x03, .dtoh fn), (0x04, .hostCadd fn),
        (0x05, .hostArm fn), (0x06, .indirect fn), (0x07, .domain fn), (0x08, .peer fn), (0x09, .plane fn),
        (0x20, .pcreate fn), (0x21, .pdestroy fn), (0x22, .preset fn), (0x23, .update fn)] →
      (op = n → st ≠ 0 → ends i st) ∧ (op ≠ n → n ≠ 0 → exec i s = .next s)) ∧
    (argMasks op = none → ends (.hostNop fn) 1) ∧
    (st = 0 →
      (op = 0x00 → ends (.hostNop fn) 0) ∧
      (op = 0x01 →
        (a 1 % 128 ≠ 0 → ends (.launch fn) 0x11) ∧
        ∀ cs o, let h : List DWord := (List.range 16).map (fun i => .ofNat 64 (memNat (s.store (.scratch cs)) (o + 8 * i) 8))
          let code := s.checkHeader fn .launch h
          a 1 % 128 = 0 → s.spFor (npdAcc fn) .rd (a 1) 128 cs o →
          (code ≠ 0 → ends (.launch fn) (0x10 + code)) ∧
          (code = 0 → hGang h = 0 → (s.part fn).waits = [] →
            (∀ d, (s.core d).queue.length < 32 ∧ (s.core d).ringed = 0) → ∃ t tgt e, exec (.launch fn) s = .next t ∧
              ended t 0 ((s.part fn).nextId % 2 ^ 32) ∧ tgt ∈ s.eligible fn h ∧ e.piece.part = fn ∧ e.piece.hdr = h ∧
              e.saved = none ∧ e.piece.id.toNat = (s.part fn).nextId % 2 ^ 32 ∧
              ∀ d, (t.core d).queue = if d = tgt then (s.core d).queue ++ [e] else (s.core d).queue)) ∧
      (op = 0x02 → ∀ cs o, let n := min (a 3) (64 - a 2 % 64)
        Config.busError (a 1) s.stepNo = false → s.spFor (delivAcc fn) .wr (a 2) n cs o →
        ∃ t, exec (.htod fn) s = .next t ∧
          (∀ j, j < n → t.byteAt (.scratch cs) (o + j) = s.byteAt .host (a 1 + j)) ∧
          (∀ m i, ¬ (m = .scratch cs ∧ o ≤ i ∧ i < o + n) → t.byteAt m i = s.byteAt m i) ∧
          (a 3 = n → ended t 0 0) ∧ (n < a 3 → ∃ j, goesOn t j ∧ j.done = n ∧ j.op = 0x02)) ∧
      (op = 0x03 → ∀ cs o, let n := min (a 3) (64 - a 1 % 64)
        Config.busError (a 2) s.stepNo = false → s.spFor (npdAcc fn) .rd (a 1) n cs o →
        ∃ t, exec (.dtoh fn) s = .next t ∧ (∀ j, j < n → t.byteAt .host (a 2 + j) = s.byteAt (.scratch cs) (o + j)) ∧
          (∀ m i, ¬ (m = .host ∧ a 2 ≤ i ∧ i < a 2 + n) → t.byteAt m i = s.byteAt m i) ∧
          (a 3 = n → ended t 0 0) ∧ (n < a 3 → ∃ j, goesOn t j ∧ j.done = n ∧ j.op = 0x03)) ∧
      (op = 0x04 → (s.hasCounter fn (a 1) = false → ends (.hostCadd fn) 0x11) ∧
        (s.hasCounter fn (a 1) = true → s.calm (a 1) (s.counter (a 1) + hw c 2) → ∃ t, exec (.hostCadd fn) s = .next t ∧
          ended t 0 0 ∧ s.sameBytes t ∧ t.counter (a 1) = s.counter (a 1) + hw c 2)) ∧
      (op = 0x05 → (a 1 % 64 ≠ 0 → ends (.hostArm fn) 0x11) ∧
        ∀ cs o, let e : BitVec 512 := .ofNat 512 (memNat (s.store (.scratch cs)) o 64)
          let code := s.armCheck fn (a 2) e
          a 1 % 64 = 0 → s.spFor (npdAcc fn) .rd (a 1) 64 cs o →
          (code ≠ 0 → ends (.hostArm fn) (0x10 + code)) ∧
          (code = 0 → (eAct e = 0 ∨ (s.counter (eCnt e)).toNat < (eThresh e).toNat) → ∃ t, exec (.hostArm fn) s = .next t ∧
            ended t 0 0 ∧ s.sameBytes t ∧
            ∀ j, j < 512 → (t.entry (a 2)).dw.getLsbD j = (decide (j = 63) || e.getLsbD j))) ∧
      (op = 0x06 → ∃ t, exec (.indirect fn) s = .next t ∧ s.sameBytes t ∧ (t.hostFn fn).frames = [{ addr := a 1, left := a 2 }] ∧
        (t.hostFn fn).cmds = [{ ticket := x.head, tag := cTag c, irq := cIrq c, status := 0, detail := 0, subs := 0, index := 0, issuing := true }]) ∧
      (op = 0x07 → let level := hfld c 1 61 3
        (((s.part fn).dom level (a 4)).isSome = true → ends (.domain fn) 0x11) ∧
        ((s.part fn).dom level (a 4) = none → s.domainBad fn c = true → ends (.domain fn) 0x12) ∧
        ((s.part fn).dom level (a 4) = none → s.domainBad fn c = false → (s.part fn).doms.length < 16384 →
          ∃ t d, exec (.domain fn) s = .next t ∧ ended t 0 0 ∧ s.sameBytes t ∧ (t.part fn).dom level (a 4) = some d ∧
            d.level = level ∧ d.unit = hfld c 1 53 7 ∧ d.counter = hfld c 1 0 16 ∧ d.expect = hw c 2 ∧
            d.peers = hfld c 3 48 15 ∧ d.epochx = 0 ∧ d.retired = 0)) ∧
      (op = 0x08 → s.fw.up = true →
        ((s.part fn).peercnt < a 2 + a 3 → ends (.peer fn) 0x11) ∧
        ∀ cs o, let e (i : Nat) : BitVec 256 := .ofNat 256 (memNat (s.store (.scratch cs)) (o + 32 * i) 32)
          a 2 + a 3 ≤ (s.part fn).peercnt → s.spFor (npdAcc fn) .rd (a 1) (32 * a 3) cs o →
          ((∃ i, i < a 3 ∧ peerBad (s.part fn).nvec (e i) = true) → ends (.peer fn) 0x12) ∧
          ((∀ i, i < a 3 → peerBad (s.part fn).nvec (e i) = false) → ∃ t, exec (.peer fn) s = .next t ∧ ended t 0 0 ∧
            s.sameBytes t ∧ (∀ i, i < a 3 → (t.part fn).peer (a 2 + i) = e i) ∧
            ∀ n, (n < a 2 ∨ a 2 + a 3 ≤ n) → (t.part fn).peer n = (s.part fn).peer n)) ∧
      (op = 0x09 → let d := a 2 % 128
        (s.holdsCore fn d = false → ends (.plane fn) 0x11) ∧
        ∀ cs o, s.holdsCore fn d = true → s.fw.up = true → (s.core d).tokens = 0 → (s.core d).activePlane ≤ 1 →
          s.spFor (npdAcc fn) .rd (a 1) 0x60880 cs o → ∃ t, exec (.plane fn) s = .next t ∧ ended t 0 0 ∧
            (∀ j, j < 0x60880 →
              t.byteAt (.plane d (1 - (s.core d).activePlane)) j = s.byteAt (.scratch cs) (o + j)) ∧
            (∀ j, t.byteAt (.plane d (s.core d).activePlane) j = s.byteAt (.plane d (s.core d).activePlane) j) ∧
            (t.core d).tokens = (if (hw c 2).getLsbD 8 = true then 1 else 0) ∧
            (t.core d).activePlane = (s.core d).activePlane) ∧
      (op = 0x20 → ∀ cs o, let b : List DWord := (List.range 16).map (fun i =>
          .ofNat 64 (memNat (s.store (.scratch cs)) (o + 8 * i) 8))
        let p := hfld b 0 58 6
        s.spFor (npdAcc 0) .rd (a 1) 128 cs o →
        (∀ n, s.createCheck b = .error n → ends (.pcreate fn) n) ∧
        (∀ k, s.createCheck b = .ok k → p ≠ 0 → ∃ t, exec (.pcreate fn) s = .next t ∧ ended t 0 0 ∧ (t.part p).live = true ∧
          (t.part p).key = some k ∧ (t.dram.key k).owner = some p ∧ (t.part p).root = some (hw b 5).toNat ∧
          (t.part p).crib = hw b 6 ∧ (t.part p).npart0 = hw b 1 ∧ (t.part p).npart3 = hw b 4 ∧
          ∀ i, i < 12 → (t.bay i).owner = if (hw b 0).getLsbD (46 + i) = true then some p else (s.bay i).owner)) ∧
      (∀ i ∈ [Instr.pdestroy fn, .preset fn], op = (if i = .pdestroy fn then 0x21 else 0x22) →
        ((a 1 = 0 ∨ (s.part (a 1)).live = false) → ends i 0x11) ∧
        (a 1 ≠ 0 → (s.part (a 1)).live = true → ∃ t j, exec i s = .next t ∧ goesOn t j ∧ j.done = 1 ∧ j.a1 = hw c 1 ∧
          (t.part (a 1)).inReset = true)) ∧
      (op = 0x23 → s.fw.update = none → ∀ cs o, let img := memRead (s.store (.scratch cs)) o (a 2)
        s.spFor (npdAcc 0) .rd (a 1) (a 2) cs o →
        (imgCheck img ≠ 0 → ∃ t, exec (.update fn) s = .next t ∧ ended t 0x11 (imgCheck img) ∧
          t.fw = { s.fw with berr := imgCheck img }) ∧
        (∀ tabv, imgCheck img = 0 → s.tableVersion.2 = tabv →
          (∀ v, tabv = some v → v < imgMin img ∨ imgMax img < v) → ∃ t, exec (.update fn) s = .next t ∧
          ended t 0x12 0 ∧ t.fw.update = none ∧ t.fw.sbyVer = imgVer img) ∧
        (∀ v, imgCheck img = 0 → s.tableVersion.2 = some v → imgMin img ≤ v → v ≤ imgMax img →
          ∃ t j u, exec (.update fn) s = .next t ∧
          goesOn t j ∧ j.done = 1 ∧ t.fw.update = some u ∧ u.ver = imgVer img ∧ u.tabv = imgTabv img ∧ u.img = img ∧
          u.start = npdCycles s.cycle)))

/-- Host commands that go on (R414, R415, R421, R424): with nothing more in its ring, the event of a command's row takes its next
line, of HTOD or DTOH, in the function's turn on the host link (R420), a tile passing to READY with the last byte written into it;
it ends the reset that it began once no near-memory command and no write under way of the partition is left, and lets the
complexes change places once no handler of firmware runs: the state table then has the new image's version, and that image runs.
The commands of an INDIRECT's buffer issue in order: one that fails a common check gives the INDIRECT its status and its index,
the buffer goes on, and an INDIRECT of it opens a buffer deeper, or at depth 4 is a command fault.
Readings of the model: log 68, 86, 87, 107. -/
def Obligations.HostJobsEnd : Prop :=
  (∀ (s : State) (fn : Nat) (f : IFrame) (fs : List IFrame) (d : HostCmd), let x := s.hostFn fn
    let c : List DWord := (List.range 8).map (fun i => .ofNat 64 (memNat s.hostMem (f.addr + 8 * i) 8))
    let op := cOp c
    s.ringServes fn = true → x.frames = f :: fs → 0 < f.left → (∀ g ∈ fs, 0 < g.left) → x.cmds = [d] → d.issuing = true →
    d.status = 0 → 0 < d.subs ∨ cWait c = false → s.jobs = [] → Config.busError f.addr s.stepNo = false →
    let wait := cWait c = true ∧ d.subs ≠ 0
    let rest : List IFrame := if f.left = 1 then fs else { addr := f.addr + 64, left := f.left - 1 } :: fs
    let after (t : State) (status detail : Nat) (frames : List IFrame) : Prop := s.sameBytes t ∧ (t.hostFn fn).frames = frames ∧
      (t.hostFn fn).fault = x.fault ∧ (t.hostFn fn).cmds = [{ d with index := d.index + 1, status := status, detail := detail, issuing := !frames.isEmpty }]
    (wait → ∀ i ∈ [Instr.hostNop fn, .indirect fn], exec i s = .next s) ∧
    (¬ wait →
      (op = 0 → s.cmdStatus fn c = 0 → ∃ t, exec (.hostNop fn) s = .next t ∧ after t 0 d.detail rest) ∧
      (op = 0 → s.cmdStatus fn c ≠ 0 → ∃ t, exec (.hostNop fn) s = .next t ∧ after t (s.cmdStatus fn c) d.index rest) ∧
      (op = 6 → fs.length < 3 → s.cmdStatus fn c ≠ 0 → ∃ t, exec (.indirect fn) s = .next t ∧
        after t (s.cmdStatus fn c) d.index rest) ∧
      (op = 6 → fs.length < 3 → s.cmdStatus fn c = 0 → ∃ t, exec (.indirect fn) s = .next t ∧
        after t 0 d.detail ({ addr := (hw c 1).toNat, left := (hw c 2).toNat } :: { addr := f.addr + 64, left := f.left - 1 } :: fs)) ∧
      (op = 6 → fs.length = 3 → ∃ t, exec (.indirect fn) s = .next t ∧ s.sameBytes t ∧ (t.hostFn fn).frames = [] ∧
        (t.hostFn fn).fault = true ∧ (t.hostFn fn).depth = 4 ∧
        (t.hostFn fn).cmds = [{ d with index := d.index + 1, status := 6, detail := d.index, issuing := false }]))) ∧
  ∀ (s : State) (j : HostJob) (d : HostCmd), let x := s.hostFn j.fn
    s.jobs = [j] → x.commits = [] → x.frames = [] → x.cmds = [d] → d.ticket = j.ticket → d.subs = 1 → d.index = 0 → d.status = 0 →
    (s.part j.fn).inReset = false →
    let ended (t : State) : Prop := t.jobs = [] ∧ (t.hostFn j.fn).cmds = [{ d with subs := 0, status := 0, detail := 0 }]
    (j.op = 0x02 → ∀ cs o, let dst := j.a2.toNat + j.done
      let n := min (j.a3.toNat - j.done) (64 - dst % 64)
      s.linkTurn j.fn = true → Config.busError (j.a1.toNat + j.done) s.stepNo = false → s.spFor (delivAcc j.fn) .wr dst n cs o →
      ∃ t, exec (.htod j.fn) s = .next t ∧
        (∀ i, i < n → t.byteAt (.scratch cs) (o + i) = s.byteAt .host (j.a1.toNat + j.done + i)) ∧
        (∀ c m, (c, m) ∈ j.tiles → s.holdsCore j.fn c = true → ((s.core c).tile m).state = 2 →
          ((s.core c).tile m).prod = npdCode → (j.a3.toNat ≤ j.done + n ∨ s.tileHolds (dst + n) (c, m) = false) →
          ((t.core c).tile m).state = 3) ∧
        (j.a3.toNat ≤ j.done + n → ended t) ∧ (j.done + n < j.a3.toNat → ∃ q, t.jobs = [q] ∧ q.done = j.done + n)) ∧
    (j.op = 0x03 → ∀ cs o, let src := j.a1.toNat + j.done
      let n := min (j.a3.toNat - j.done) (64 - src % 64)
      s.linkTurn j.fn = true → 0 < n → Config.busError (j.a2.toNat + j.done) s.stepNo = false →
      s.spFor (npdAcc j.fn) .rd src n cs o →
      ∃ t, exec (.dtoh j.fn) s = .next t ∧
        (∀ i, i < n → t.byteAt .host (j.a2.toNat + j.done + i) = s.byteAt (.scratch cs) (o + i)) ∧
        (∀ m i, ¬ (m = .host ∧ j.a2.toNat + j.done ≤ i ∧ i < j.a2.toNat + j.done + n) → t.byteAt m i = s.byteAt m i) ∧
        (j.a3.toNat ≤ j.done + n → ended t) ∧ (j.done + n < j.a3.toNat → t.jobs = [{ j with done := j.done + n }])) ∧
    (∀ p, p = j.a1.toNat → j.done = 1 → p ≠ 0 → p ≠ j.fn → (s.part p).inReset = true → (∀ w ∈ s.dram.nm, w.part ≠ p) →
      (∀ m ∈ s.npd.msgs, m.part ≠ p) →
      (j.op = 0x22 → ∃ t, exec (.preset j.fn) s = .next t ∧ ended t ∧ (t.part p).inReset = false ∧
        (t.part p).live = (s.part p).live) ∧
      (j.op = 0x21 → (s.part p).live = true → ∃ t, exec (.pdestroy j.fn) s = .next t ∧ ended t ∧ (t.part p).live = false ∧
        (∀ k, (s.part p).key = some k → (t.dram.key k).owner = none) ∧ ∀ b, s.holdsBay p b = true → (t.bay b).owner = none)) ∧
    (∀ u, j.op = 0x23 → j.done = 1 → s.fw.update = some u →
      (s.fwBusy = true → ∃ t, exec (.update j.fn) s = .next t ∧ t.jobs = [j] ∧ t.fw = s.fw) ∧
      (s.fwBusy = false → ∃ t n x, exec (.update j.fn) s = .next t ∧ ended t ∧ t.fw.complexB = (!s.fw.complexB) ∧
        t.fw.ver = u.ver ∧ t.fw.img = u.img ∧ t.fw.sbyImg = s.fw.img ∧ t.fw.update = none ∧ t.fw.sby = true ∧
        (n, x) ∈ t.npd.threads ∧ x.part = 0 ∧ x.job = .boot ∧ x.strm.line = imgEntry u.img ∧ x.strm.word = 0 ∧
        x.strm.mode = .running ∧ (∀ y ∈ t.npd.threads, y.2.job = .boot → y = (n, x)) ∧
        ∀ i, i < 4 → t.dram.byteAt (stateTableAt + 4 + i) = .ofNat 8 (u.tabv / 256 ^ i)))

/-! # Cold operation, power and reset (files 02, 05, 17 to 19) -/

/-- What the module does without an instruction (R8, R422, R425, R427 to R440). A sample sets SYS.TEMP and each die's band;
above HALTK it halts the part, and in cold running it moves a die to excursion or retreat. A settled die, or the module,
falls back. A window without a replay changes a channel's timing. A tick sets the limiter's power, duty and the cores of chaff and
moves the energy counters. A telemetry sample ends an interval. A cold reset leaves every register at its reset value, host memory
and the fuse counter alone; where the ROM accepts the image, the active complex has its state table and runs that image.
Readings of the model: log 6, 7, 8, 10, 11, 68, 71, 73, 75, 76, 87, 88, 119. -/
def Obligations.ModuleEvents : Prop :=
  (∀ (s : State) (r : Readings), let rd (d : Nat) : Nat := min (r.dies.getD d 0) 1023
    let hot := (∃ d, d < 4 ∧ s.power.halt < rd d) ∨ s.power.halt < min r.npd 1023
    ∃ t, exec (.temperatureSample r) s = .next t ∧
      (∀ d, d < 4 → fieldNat t.cryo.temp (10 * d) 10 = rd d) ∧ fieldNat t.cryo.temp 40 10 = min r.npd 1023 ∧
      fieldNat t.cryo.temp 50 10 = min (r.hbms.foldl max 0) 1023 ∧
      (hot → t.cryo.halted = true ∧ t.cryo.mstate = 6 ∧ (∀ d, t.dstate d = 6) ∧ t.cores = s.cores ∧ t.parts = s.parts ∧
        s.sameBytes t ∧ ∀ n ch, n < 16 → ch < (if n < 8 then 32 else 16) → (t.dram.chan (chanNo n ch)).refresh = .self) ∧
      (¬ hot → t.cryo.halted = s.cryo.halted ∧ ∀ d, d < 4 → let b := s.cryo.bandFor (s.band d) (rd d)
        let old := s.dstate d
        t.band d = b ∧ (s.cryo.mstate = 2 → t.cryo.mstate = 2 ∧ t.dstate d =
          if 3 ≤ b ∧ (old = 2 ∨ old = 3) then 4 else if b = 2 ∧ old = 2 then 3 else old) ∧
        (let warm := (∀ u ∈ r.hbms, 1000 < u) ∧ ∀ e, e < 4 → 1000 < rd e
         s.cryo.mstate = 5 → (warm → t.cryo.mstate = 0 ∧ t.dstate d = 0) ∧ (¬ warm → t.cryo.mstate = 5 ∧ t.dstate d = old)) ∧
        (s.cryo.mstate ≠ 2 → s.cryo.mstate ≠ 5 → t.cryo.mstate = s.cryo.mstate ∧ t.dstate d = old))) ∧
  (∀ (x : Cryo) (old t : Nat), let b := x.bandFor old t
    (∀ n, 1 ≤ n → n ≤ 5 → x.th n ≤ t → n ≤ b) ∧ (b ≤ old ∨ (1 ≤ b ∧ b ≤ 5 ∧ x.th b ≤ t)) ∧ old ≤ b + 1 ∧
    (b < old → t + x.hyst < x.th old)) ∧
  (∀ (s : State) (d : Nat), let m := s.cryo.mstate
    let settled (e : Nat) : Prop := ∃ c, Tbl.get none s.cryo.since e = some c ∧ c + s.cryo.settle * 1700000 ≤ s.cycle
    s.cryo.replace = [] →
    (m = 1 → (∀ e, e < 4 → settled e) → ∃ t, exec (.cryoSettleExpiry d) s = .next t ∧ t.cryo.mstate = 2 ∧
      (∀ e, t.dstate e = 2) ∧ s.sameBytes t) ∧
    (m = 1 → (∃ e, e < 4 ∧ ¬ settled e) → exec (.cryoSettleExpiry d) s = .next s) ∧
    (m = 2 → d < 4 → ¬ settled d → exec (.cryoSettleExpiry d) s = .next s) ∧
    (m = 2 → d < 4 → settled d → ∃ t, exec (.cryoSettleExpiry d) s = .next t ∧ t.cryo.mstate = 2 ∧ s.sameBytes t ∧
      t.dstate d = (if s.dstate d = 4 ∧ s.cryo.forced.getLsbD d = false then 3 else if s.dstate d = 3 then 2 else s.dstate d) ∧
      ∀ e, e ≠ d → t.dstate e = s.dstate e)) ∧
  (∀ (s : State) (n ch : Nat), let x := s.dram.chan (chanNo n ch)
    n < 16 → ch < (if n < 8 then 32 else 16) → (x.replays ≠ [] → exec (.timingSetChange n ch) s = .next s) ∧
      (x.replays = [] → x.repair = [] → ∃ t, exec (.timingSetChange n ch) s = .next t ∧ s.sameBytes t ∧
        t.dram.chan (chanNo n ch) = (match x.want with
          | none => x
          | some true => { x with want := none, slow := false, refresh := .off }
          | some false => { x with want := none, slow := true }))) ∧
  (∀ (s : State) (e : EnergyDelta), let p := s.power
    let dm := s.demand e
    let sf := e.npd + e.hbm + e.silo + e.link
    let cd (d : Nat) : Nat := e.cd.getD d 0
    let free := (List.range 4).filter (fun d => decide (256 ≤ s.dieCap d))
    let capped := (List.range 4).filter (fun d => decide (s.dieCap d < 256))
    let ep := min (max dm.toNat (max (p.e - p.rampop) p.pfloor)) (min (p.e + p.rampop) p.pcapop)
    dm = (sf + (capped.map cd).sum : Nat) + (((free.map cd).sum : Nat) - (e.chaff : Int)) * 256 / p.duty ∧ (
    p.chaffw ≠ 0 → ∃ t, exec (.limiterTick e) s = .next t ∧ s.sameBytes t ∧ t.power.e = ep ∧ t.power.d = dm ∧
      (dm ≤ ep → t.power.duty = 256) ∧ (ep < dm → 1 ≤ t.power.duty ∧ t.power.duty ≤ 256) ∧
      (ep < dm → dm ≠ sf → t.power.duty = max 1 (min 256 (256 * max ((ep : Int) - sf) 0 / (dm - sf)))) ∧
      t.power.chaffOn = (((List.range 72).map (fun i => (p.cptr + i) % 72)).filter (fun c =>
        decide (s.dstate (dieOf c) = 2 ∨ s.dstate (dieOf c) = 3))).take
          ((((ep : Int) - dm).toNat + p.chaffw - 1) / p.chaffw) ∧ t.power.cptr = (p.cptr + 1) % 72 ∧
      t.power.emax = max p.emax ep ∧ t.power.emin = min p.emin ep ∧
      t.power.counter 0 = p.counter 0 + .ofNat 64 (cd 0 + cd 1 + cd 2 + cd 3 + sf) ∧
      (∀ d, d < 4 → t.power.counter (1 + d) = p.counter (1 + d) + .ofNat 64 (cd d)) ∧
      t.power.counter 5 = p.counter 5 + .ofNat 64 e.npd ∧ t.power.counter 6 = p.counter 6 + .ofNat 64 e.hbm ∧
      t.power.counter 7 = p.counter 7 + .ofNat 64 e.silo ∧ t.power.counter 8 = p.counter 8 + .ofNat 64 e.link ∧
      t.power.counter 9 = p.counter 9 + .ofNat 64 e.chaff)) ∧
  (∀ s : State, let p := s.power
    let interval (t : State) : Prop := t.power.telStart = s.time ∧ t.power.emax = p.e ∧ t.power.emin = p.e ∧
      t.power.thr = 0 ∧ t.power.short = 0 ∧ t.power.e = p.e ∧ t.power.energy = p.energy
    p.telWait = [] →
    (p.telEn = false → ∃ t, exec .telemetrySample s = .next t ∧ interval t ∧ (t.part 0).sends = (s.part 0).sends) ∧
    (p.telEn = true → 4096 ≤ (s.part 0).sends.length → ∃ t, exec .telemetrySample s = .next t ∧ interval t ∧
      t.power.telWait = [s.telRecord] ∧ t.power.telSeq = p.telSeq + 1) ∧
    (p.telEn = true → (s.part 0).sends.length < 4096 → p.telPeer ≠ (s.part 0).self →
      peerKind ((s.part 0).peer p.telPeer) = 1 → ∃ t q, exec .telemetrySample s = .next t ∧ interval t ∧ s.sameBytes t ∧
        t.power.telWait = [] ∧ t.power.telSeq = p.telSeq + 1 ∧ t.power.telLost = 0 ∧
        (t.part 0).sends = (s.part 0).sends ++ [q] ∧ q.peer = p.telPeer ∧ q.payload.length = 128)) ∧
  (∀ s : State, ∃ t, exec .moduleColdReset s = .next t ∧ t.hostMem = s.hostMem ∧ t.cores = [] ∧ t.bays = [] ∧ t.dies = [] ∧
    (t.fw.up = false → t.npd = State.reset.npd ∧ t.dram = State.reset.dram) ∧
    (t.fw.up = true → (∃ n x, t.npd = { State.reset.npd with threads := [(n, x)] } ∧ x.part = 0 ∧ x.job = .boot ∧
        x.strm.line = imgEntry Config.bootImage ∧ x.strm.word = 0 ∧ x.strm.mode = .running) ∧
      t.dram.cells = [] ∧ (∀ i, i < 4 → t.dram.byteAt (stateTableAt + 4 + i) = .ofNat 8 (imgTabv Config.bootImage / 256 ^ i)) ∧
      ∀ a, ¬ (stateTableAt ≤ a ∧ a < stateTableAt + 8) → t.dram.byteAt a = 0) ∧
    t.cryo = State.reset.cryo ∧ t.host = [] ∧ t.jobs = [] ∧ t.cycle = 0 ∧ t.fw.leaf = s.fw.leaf ∧
    (∀ p, p ≠ 0 → (t.part p).live = false) ∧ t.fw.up = (imgCheck Config.bootImage == 0) ∧
    t.fw.berr = imgCheck Config.bootImage ∧ t.fw.complexB = false ∧ t.power.duty = 256 ∧ t.power.e = t.power.pfloor) ∧
  (∀ s : State, s = State.reset →
    (∀ c k, (s.slot c k).phase = .free ∧ (s.slot c k).piece = none ∧ (s.slot c k).regs.fpstat = 0 ∧
      (∀ f, (s.slot c k).flag f = 0) ∧ (∀ cls r, ((s.slot c k).strm cls).reg r = 0 ∧ ((s.slot c k).strm cls).mode = .halted) ∧
      (∀ p, (s.slot c k).ctl.pred p = decide (p = 0)) ∧ (s.slot c k).trap.tvec = 0 ∧ (s.slot c k).trap.intrap = false) ∧
    (∀ c n, (s.core c).activePlane = 0 ∧ ((s.core c).tile n).state = 0 ∧ (s.core c).template n = 0 ∧
      (s.core c).units.valid = false ∧ (s.core c).frz.limit = 10) ∧
    (∀ m a, s.byteAt m a = 0) ∧ s.canonical ∧ (∀ n, s.counter n = 0 ∧ (s.entry n).dw = 0 ∧ (s.rslot n).isOpen = false) ∧
    s.cryoReg = 0 ∧ s.cryo.th 1 = 312 ∧ s.cryo.th 5 = 400 ∧ s.cryo.hyst = 8 ∧ s.cryo.settle = 100 ∧
    s.power.halt = 440 ∧ s.power.pcapop = 2200000 ∧ s.power.rampop = 100 ∧ s.power.pfloor = 400000 ∧
    ∀ fn, (s.hostFn fn).ringEn = false ∧ (s.hostFn fn).rxEn = false)

/-- Every byte store of the part keeps its canonical form through every step: scratchpads, both code planes of every core,
the handler store, both tiers, host memory and the slot-private bytes of the crib records. -/
def Obligations.MemoriesStayCanonical : Prop :=
  ∀ s t : State, s.canonical → step s = .next t → t.canonical
end

