-- ==== Sys2Proof/Laws/Crib.lean ====
section
/-! SUPPORT. The stores of a crib record: over mapped pages they succeed, whatever the record holds, and change the tiers
alone. -/

namespace Sys2Proof.Machine

theorem leBytes_length (n v : Nat) : (leBytes n v).length = n := by
  induction n generalizing v with
  | zero => rfl
  | succ n ih => simp [leBytes, ih]

/-- What no line write changes: keys and channels. -/
def Dram.sameKeys (d e : Dram) : Prop := e.keys = d.keys ∧ e.chans = d.chans

theorem Dram.sameKeys_trans {d e f : Dram} (h : d.sameKeys e) (g : e.sameKeys f) : d.sameKeys f :=
  ⟨g.1.trans h.1, g.2.trans h.2⟩

theorem Dram.lineEvent_keys (d : Dram) (kind pa key : Nat) : d.sameKeys (d.lineEvent kind pa key) := by
  simp only [Dram.lineEvent, Dram.pushEvent]
  split
  · split <;> exact ⟨rfl, rfl⟩
  · exact ⟨rfl, rfl⟩

theorem Dram.resolve_keys (d : Dram) (pa key : Nat) : d.sameKeys (d.resolve pa key).1 := by
  simp only [Dram.resolve]
  split
  · split
    · exact Dram.sameKeys_trans ⟨rfl, rfl⟩ (Dram.lineEvent_keys _ 1 pa key)
    · exact ⟨rfl, rfl⟩
  · exact Dram.lineEvent_keys _ 2 pa key

theorem Dram.perform_keys (d : Dram) (w : QWrite) : d.sameKeys (d.perform w) := by
  have h := Dram.resolve_keys d (w.line * 64) w.key
  simp only [Dram.perform]
  split
  · exact ⟨rfl, rfl⟩
  · split
    · exact ⟨rfl, rfl⟩
    · split <;> next e => rw [e] at h; exact h

theorem Dram.push_keys (d : Dram) (w : QWrite) : d.sameKeys (d.push w) := by
  have h (c : Nat) : d.sameKeys (d.drainOldest c) := by
    simp only [Dram.drainOldest]
    split
    · exact ⟨rfl, rfl⟩
    · exact Dram.sameKeys_trans ⟨rfl, rfl⟩ (Dram.perform_keys _ _)
  simp only [Dram.push]
  split
  · exact Dram.sameKeys_trans (h _) ⟨rfl, rfl⟩
  · exact ⟨rfl, rfl⟩

theorem State.count_dram (s : State) (pa key : Nat) (cnt : Bool) :
    ∃ d, s.dram.sameKeys d ∧ s.count pa key cnt = { s with dram := d } := by
  unfold State.count
  dsimp only
  split_ifs <;> refine ⟨_, ?_, rfl⟩ <;> exact ⟨rfl, rfl⟩

/-- A queued write changes the tiers alone, and no key and no channel of them. -/
theorem State.writePhys_dram (s : State) (pa key : Nat) (cnt : Bool) (bs : List Byte) :
    ∃ d, s.dram.sameKeys d ∧ s.writePhys pa key cnt bs = { s with dram := d } := by
  obtain ⟨d, hd, h⟩ := State.count_dram { s with dram := s.dram.push _ } pa key cnt
  exact ⟨d, Dram.sameKeys_trans (Dram.push_keys _ _) hd, h⟩

/-- Mapped pages stay mapped as long as keys and channels stand. -/
theorem State.mapped_dram {s : State} {x : Acc} {kind : AKind} {a n : Nat} {d : Dram} (hd : s.dram.sameKeys d)
    (h : s.mapped x kind a n) : State.mapped { s with dram := d } x kind a n := by
  obtain ⟨h1, h2, h3, h4, h5, h6⟩ := h
  refine ⟨h1, h2, h3, h4, h5, fun j hj => ?_⟩
  obtain ⟨e, pa, key, cnt, he, hu, hf, hh⟩ := h6 j hj
  refine ⟨e, pa, key, cnt, he, ?_, ?_, ?_⟩
  · rw [← hu]
    simp only [State.useLeaf, Dram.key, hd.1]
    rfl
  · rw [← hf]
    simp only [Dram.fenced, Dram.chan, hd.2]
  · rw [← hh]
    simp only [Dram.holds, Dram.chan, hd.2]

/-- An aligned line is one part of an access. -/
theorem pieces_line {a : Nat} (h : a % 64 = 0) (ha : a + 64 ≤ 2 ^ 64) : pieces a 64 = [(a, 64)] := by
  rw [pieces, Nat.mod_eq_of_lt (by omega)]
  simp [splitLines, h]

/-- One line of a mapped range takes its 64 bytes. -/
theorem State.writeMem_mapped {s : State} {x : Acc} {a n i : Nat} (h : s.mapped x .wr a n) (hi : 64 * i + 64 ≤ n)
    (bs : List Byte) (hb : bs.length = 64) :
    ∃ d, s.dram.sameKeys d ∧ s.writeMem x (a + 64 * i) bs = ({ s with dram := d }, .ok ()) := by
  obtain ⟨h1, h2, h3, h4, h5, h6⟩ := h
  obtain ⟨e, pa, key, cnt, he, hu, hf, hh⟩ := h6 (64 * i) (by omega)
  obtain ⟨d, hd, hw⟩ := State.writePhys_dram s pa key cnt bs
  have hp := pieces_line (a := a + 64 * i) (by omega) (by omega)
  have ht : s.translate x (a + 64 * i) .wr = (s, .ok pa key cnt) := by
    have hn : s.xl.faults.find? (fun f => f.who == x.who && f.granule == (a + 64 * i) / 4096) = none :=
      List.find?_eq_none.2 (fun f hf => by simp [h5 f hf])
    simp only [State.translate, hn, he, hu]
  have hdec : s.decideAt x (a + 64 * i) .wr = (s, .ok (.pa pa key cnt) none) := by
    simp only [State.decideAt, h1, ht, hh]
    rw [if_neg (by simp), if_neg (by omega), if_neg (by simp)]
  have hc : s.check x (a + 64 * i) 64 .wr = (s, .ok [⟨a + 64 * i, 64, .pa pa key cnt⟩] []) := by
    simp [State.check, State.checkParts, hp, State.decideAll, hdec, State.judge, lowestExc, missesOf, firstRace, fencedExc, hf]
  refine ⟨d, hd, ?_⟩
  simp only [State.writeMem, hb, hc, State.primeParts, State.primePart, hf, State.readForWrite]
  simp [State.claim, State.writeAll, State.writePart, List.take_of_length_le (Nat.le_of_eq hb), hw]

/-- A page whose M bit holds accesses holds the stores of a record at its first line (R249, R392). -/
theorem State.storeRec_held {s : State} {x : Acc} {a i : Nat} {w : BitVec 512} (ws : List (Nat × BitVec 512)) (hx : x.space = .virt)
    (h64 : (a + 64 * (i % 65536)) % 64 = 0) (h1 : 2 ^ 32 ≤ a + 64 * (i % 65536)) (h2 : a + 64 * (i % 65536) < 2 ^ 48)
    (ht : s.translate x (a + 64 * (i % 65536)) .wr = (s, .hold)) : s.storeRec x a ((i, w) :: ws) = (s, .hold) := by
  generalize hb : a + 64 * (i % 65536) = b at *
  have hd : s.decideAt x b .wr = (s, .hold none) := by
    simp only [State.decideAt, hx, ht]
    rw [if_neg (by simp), if_neg (by omega)]
  simp [State.storeRec, hb, State.writeMem, leBytes_length, State.check, State.checkParts, pieces_line h64 (by omega), State.decideAll,
    hd, State.judge, lowestExc, missesOf, firstRace, fencedExc]

/-- The stores of a record at a mapped address succeed, whatever its lines are, and change the tiers alone (R392). -/
theorem State.storeRec_mapped (ws : List (Nat × BitVec 512)) (s : State) (x : Acc) (a : Nat) (h : s.mapped x .wr a 0x400000) :
    ∃ d, s.dram.sameKeys d ∧ s.storeRec x a ws = ({ s with dram := d }, .ok) := by
  induction ws generalizing s with
  | nil => exact ⟨s.dram, ⟨rfl, rfl⟩, rfl⟩
  | cons w ws ih =>
    obtain ⟨i, w⟩ := w
    have hi : i % 65536 < 65536 := Nat.mod_lt _ (by omega)
    obtain ⟨d, hd, hw⟩ := State.writeMem_mapped h (i := i % 65536) (by omega) (leBytes 64 w.toNat) (leBytes_length _ _)
    obtain ⟨e, he, hs⟩ := ih { s with dram := d } (State.mapped_dram hd h)
    exact ⟨e, Dram.sameKeys_trans hd he, by simp only [State.storeRec, hw, hs]⟩

/-- So a save over a mapped record is made (R392). -/
theorem State.saveSlot_mapped {s : State} {c k r : Nat} {q : Piece} (live : Tile → Bool) (held : Bool) (gang : Option Nat)
    (hp : (s.slot c k).piece = some q) (hr : (s.part q.part).freeRec = some r)
    (hm : s.mapped (s.slotSync c k) .wr ((s.part q.part).recAt r) 0x400000) :
    ∃ d, s.dram.sameKeys d ∧
      s.saveSlot c k live held gang = (State.saveInto { s with dram := d } c k q.part q.uid r live held gang, .saved r) := by
  obtain ⟨d, hd, hs⟩ := State.storeRec_mapped
    (Config.cribLines (s.slot c k).context (memSlice (s.core c).scratch (privBase k) 0x100000)) s _ _ hm
  exact ⟨d, hd, by simp only [State.saveSlot, hp, hr, hs]⟩

end Sys2Proof.Machine
end

