-- ==== Sys2Proof/Laws/Encoding.lean ====
section
/-! SUPPORT. Decoding against encoding: the fields of a long word come back from it, the words of a long form reach
`decodeLong`, and what is left of a round trip is one check per instruction. -/

namespace Sys2Proof

/-! ## Fields of appended words -/


/-- A field of the upper part. -/
theorem extract_hi {n m : Nat} (x : BitVec n) (y : BitVec m) (st len : Nat) (h : m ≤ st) :
    (x ++ y).extractLsb' st len = x.extractLsb' (st - m) len := by
  apply BitVec.eq_of_getLsbD_eq; intro i hi
  simp only [BitVec.getLsbD_extractLsb', BitVec.getLsbD_append, hi, decide_true, Bool.true_and]
  rw [if_neg (by omega)]; congr 1; omega

/-- A field of the lower part. -/
theorem extract_lo {n m : Nat} (x : BitVec n) (y : BitVec m) (st len : Nat) (h : st + len ≤ m) :
    (x ++ y).extractLsb' st len = y.extractLsb' st len := by
  apply BitVec.eq_of_getLsbD_eq; intro i hi
  simp only [BitVec.getLsbD_extractLsb', BitVec.getLsbD_append, hi, decide_true, Bool.true_and]
  rw [if_pos (by omega)]

theorem extract_all {n : Nat} (x : BitVec n) : x.extractLsb' 0 n = x := by
  apply BitVec.eq_of_getLsbD_eq; intro i hi; simp [hi]

theorem getLsbD_extract {n : Nat} (x : BitVec n) (i : Nat) : x.getLsbD i = (x.extractLsb' i 1).getLsbD 0 := by simp

/-- Word 0 of R48, as an append whose type is the sum of the widths. -/
theorem word0_fields (l : Long) : ∃ x : BitVec (5 + 10 + 1 + 4 + 10 + 1 + 1), (l.word0 : BitVec 32) = x ∧
   x = l.func ++ l.d ++ BitVec.ofBool l.g.neg ++ l.g.p ++ l.opc ++ (1#1) ++ BitVec.ofBool l.lit.isSome := ⟨_, rfl, rfl⟩

/-- Word 1 of R48. -/
theorem word1_fields (l : Long) : ∃ x : BitVec (4 + 8 + 10 + 10), (l.word1 : BitVec 32) = x ∧
   x = l.mode ++ l.c ++ l.b ++ l.a := ⟨_, rfl, rfl⟩


/-- The two words give back every field. -/
theorem ofWords_words (l : Long) : Long.ofWords l.word0 l.word1 l.lit = l := by
  obtain ⟨x, hx, ex⟩ := word0_fields l
  obtain ⟨y, hy, ey⟩ := word1_fields l
  have g16 : x.getLsbD 16 = l.g.neg := by
    rw [ex, getLsbD_extract]
    simp (disch := omega) only [extract_hi, extract_lo]
    simp
  rw [hx, hy]
  unfold Long.ofWords
  rw [g16]
  subst ex ey
  simp (disch := omega) only [extract_hi, extract_lo, Nat.reduceSub, extract_all]

/-- Bits [1:0] of word 0 tell a long form from a literal form (R45). -/
theorem word0_low (l : Long) : l.word0.extractLsb' 0 2 = 1#1 ++ BitVec.ofBool l.lit.isSome := by
  obtain ⟨x, hx, ex⟩ := word0_fields l
  rw [hx, ex]
  apply BitVec.eq_of_getLsbD_eq; intro i hi
  simp only [BitVec.getLsbD_extractLsb', BitVec.getLsbD_append, hi, decide_true, Bool.true_and, Nat.zero_add]
  interval_cases i <;> simp

/-- The words of a long or literal form decode as such. -/
theorem decode_long (cls : Option Cls) (l : Long) : decode cls l.words = decodeLong cls l := by
  have h := ofWords_words l
  have h0 := word0_low l
  cases hl : l.lit with
  | none =>
    rw [hl] at h h0
    simp only [Long.words, hl, decode, h0, Option.toList]
    simp; rw [h]
  | some w =>
    rw [hl] at h h0
    simp only [Long.words, hl, decode, h0, Option.toList]
    simp; rw [h]

/-- A narrower field fits. -/
theorem fits_set {n k : Nat} (x : BitVec n) (_h : n ≤ k) : fits n (x.setWidth k) = true := by
  have := x.isLt
  simp only [fits, BitVec.toNat_setWidth, decide_eq_true_eq]
  exact Nat.lt_of_le_of_lt (Nat.mod_le _ _) this

/-- A narrower field comes back. -/
theorem set_set {n k : Nat} (x : BitVec n) (h : n ≤ k) : (x.setWidth k).setWidth n = x := by
  simp [BitVec.setWidth_setWidth_of_le, h]

/-- Well-formedness is the three checks of R61. -/
theorem wf_iff (i : Instr) : i.wf = true ↔ i.codeOk = true ∧ i.limitOk = true ∧ i.guardOk = true := by
  simp [Instr.wf, and_assoc]

/-- A well-formed instruction passes the checks. -/
theorem check_ok (o : OpDec) (i : Instr) (hi : o.ins = i) (h : i.wf) (h5 : o.c5 = true) (h6 : o.c6 = true) (hf : o.form = true) :
   check none o = .ok i := by
  obtain ⟨a, b, c⟩ := (wf_iff i).1 h
  simp [check, streamMay, hf, h5, h6, hi, a, b, c]

/-- Two-source instructions of class 000. -/
theorem rt_alu (mk : Guard → BitVec 6 → BitVec 6 → Src → Instr) (opc g d a b) (h : (mk g d a b).wf) :
   check none (decAlu mk (encAlu opc g d a b)) = .ok (mk g d a b) := by
  apply check_ok _ _ _ h
  all_goals cases b <;> simp [decAlu, encAlu, Long.zero, Long.withSrc, Long.d6, Long.a6, Long.b6, Long.src, Long.fmc0, Long.litB0, Long.isLit, Long.srcFits, fits_set]

end Sys2Proof
end

