-- ==== Sys2Proof/Laws/Memory.lean ====
section
/-! SUPPORT. The laws of a memory of bytes: every operation keeps the canonical form; a read gives what was written, and
a write leaves every other byte; memories in canonical form that read alike are equal. -/

namespace Sys2Proof.Machine

theorem memWfFrom_cons {lo i : Nat} {b : Byte} {m : Memory} :
    memWfFrom lo ((i, b) :: m) = true ↔ lo ≤ i ∧ b ≠ 0 ∧ memWfFrom (i + 1) m = true := by
  simp [memWfFrom, and_assoc]

theorem memWfFrom_mono {m : Memory} {lo lo' : Nat} (h : memWfFrom lo m = true) (hl : lo' ≤ lo) : memWfFrom lo' m = true := by
  cases m with
  | nil => rfl
  | cons e m =>
    obtain ⟨i, b⟩ := e
    rw [memWfFrom_cons] at h ⊢
    exact ⟨by omega, h.2⟩

theorem memFilter_wfFrom {m : Memory} {lo : Nat} (p : Host.Cell → Bool) (h : memWfFrom lo m = true) :
    memWfFrom lo (m.filter p) = true := by
  induction m generalizing lo with
  | nil => rfl
  | cons e m ih =>
    obtain ⟨i, x⟩ := e
    rw [memWfFrom_cons] at h
    simp only [List.filter_cons]
    split
    · exact memWfFrom_cons.2 ⟨h.1, h.2.1, ih h.2.2⟩
    · exact memWfFrom_mono (ih h.2.2) (by omega)

theorem memIns_wfFrom {m : Memory} {lo a : Nat} {b : Byte} (hb : b ≠ 0) (h : memWfFrom lo m = true) (ha : lo ≤ a) :
    memWfFrom lo (memIns m a b) = true := by
  induction m generalizing lo with
  | nil => exact memWfFrom_cons.2 ⟨ha, hb, rfl⟩
  | cons e m ih =>
    obtain ⟨i, x⟩ := e
    rw [memWfFrom_cons] at h
    simp only [memIns]
    split
    · next hlt => exact memWfFrom_cons.2 ⟨ha, hb, memWfFrom_cons.2 ⟨hlt, h.2⟩⟩
    · split
      · next he => subst he; exact memWfFrom_cons.2 ⟨h.1, hb, h.2.2⟩
      · next h1 h2 => exact memWfFrom_cons.2 ⟨h.1, h.2.1, ih h.2.2 (by omega)⟩

theorem memPut_wfFrom {m : Memory} {lo a : Nat} (b : Byte) (h : memWfFrom lo m = true) (ha : lo ≤ a) :
    memWfFrom lo (memPut m a b) = true := by
  simp only [memPut]
  split
  · exact memFilter_wfFrom _ h
  · next hb => exact memIns_wfFrom hb h ha

/-- A write of one byte keeps the canonical form. -/
theorem memPut_wf {m : Memory} (a : Nat) (b : Byte) (h : memWf m = true) : memWf (memPut m a b) = true :=
  memPut_wfFrom b h (Nat.zero_le a)

/-- A write of a run of bytes keeps it. -/
theorem memWrite_wf {m : Memory} (a : Nat) (bs : List Byte) (h : memWf m = true) : memWf (memWrite m a bs) = true := by
  induction bs generalizing m a with
  | nil => exact h
  | cons b bs ih => exact ih (a + 1) (memPut_wf a b h)

/-- Clearing a range keeps it. -/
theorem memClear_wf {m : Memory} (a n : Nat) (h : memWf m = true) : memWf (memClear m a n) = true :=
  memFilter_wfFrom _ h

theorem memShift_wfFrom {m : Memory} {lo a : Nat} (h : memWfFrom lo m = true) (ha : a ≤ lo) :
    memWfFrom (lo - a) (m.map (fun (i, b) => (i - a, b))) = true := by
  induction m generalizing lo with
  | nil => rfl
  | cons e m ih =>
    obtain ⟨i, x⟩ := e
    rw [memWfFrom_cons] at h
    have hh := ih h.2.2 (by omega)
    have e1 : i + 1 - a = i - a + 1 := by omega
    rw [e1] at hh
    exact memWfFrom_cons.2 ⟨by omega, h.2.1, hh⟩

theorem memWfFrom_raise {m : Memory} {lo lo' : Nat} (h : memWfFrom lo m = true) (hm : ∀ e ∈ m, lo' ≤ e.1) :
    memWfFrom lo' m = true := by
  cases m with
  | nil => rfl
  | cons e m =>
    obtain ⟨i, x⟩ := e
    rw [memWfFrom_cons] at h ⊢
    exact ⟨hm (i, x) (by simp), h.2⟩

/-- A slice moved to offset 0 has it. -/
theorem memSlice_wf {m : Memory} (a n : Nat) (h : memWf m = true) : memWf (memSlice m a n) = true := by
  have h1 := memFilter_wfFrom (fun (e : Host.Cell) => decide (a ≤ e.1) && decide (e.1 < a + n)) h
  have h2 : memWfFrom a (m.filter (fun (e : Host.Cell) => decide (a ≤ e.1) && decide (e.1 < a + n))) = true := by
    apply memWfFrom_raise h1
    intro e he
    simp only [List.mem_filter, Bool.and_eq_true, decide_eq_true_eq] at he
    exact he.2.1
  have h3 := memShift_wfFrom h2 (Nat.le_refl a)
  simpa [memWf, memSlice] using h3

/-- Below its bound a memory in canonical form lists nothing. -/
theorem memGet_below {m : Memory} {lo a : Nat} (h : memWfFrom lo m = true) (ha : a < lo) : memGet m a = 0 := by
  induction m generalizing lo with
  | nil => rfl
  | cons e m ih =>
    obtain ⟨i, x⟩ := e
    rw [memWfFrom_cons] at h
    have : i ≠ a := by omega
    simp only [memGet, this, if_false]
    exact ih h.2.2 (by omega)

theorem memGet_ins (m : Memory) (a : Nat) (b : Byte) (j : Nat) :
    memGet (memIns m a b) j = if j = a then b else memGet m j := by
  induction m with
  | nil => simp [memIns, memGet, eq_comm]
  | cons e m ih =>
    obtain ⟨i, x⟩ := e
    simp only [memIns]
    split
    · simp [memGet, eq_comm]
    · split
      · next h => subst h; simp only [memGet, eq_comm (a := j)]; split <;> rfl
      · next h =>
        simp only [memGet, ih]
        split
        · next hi => subst hi; simp [h]
        · rfl

theorem memGet_filter (m : Memory) (a j : Nat) :
    memGet (m.filter (fun e => e.1 != a)) j = if j = a then 0 else memGet m j := by
  induction m with
  | nil => simp [memGet]
  | cons e m ih =>
    obtain ⟨i, x⟩ := e
    simp only [List.filter_cons]
    split
    · next h =>
      simp only [memGet, ih]
      split
      · next hi => subst hi; simp at h; simp [h]
      · rfl
    · next h =>
      simp at h
      subst h
      rw [ih]
      simp only [memGet]
      split
      · rfl
      · next hj => simp [Ne.symm hj]

/-- One byte written: it reads as written, every other byte as before. -/
theorem memGet_put (m : Memory) (a : Nat) (b : Byte) (j : Nat) :
    memGet (memPut m a b) j = if j = a then b else memGet m j := by
  simp only [memPut]
  split
  · next h => subst h; exact memGet_filter m a j
  · exact memGet_ins m a b j

/-- A run of bytes written: byte `j` of it reads as written, every byte outside as before. -/
theorem memGet_write (m : Memory) (a : Nat) (bs : List Byte) (j : Nat) :
    memGet (memWrite m a bs) j = if a ≤ j ∧ j < a + bs.length then bs.getD (j - a) 0 else memGet m j := by
  induction bs generalizing m a with
  | nil =>
    simp [memWrite]
  | cons b bs ih =>
    simp only [memWrite, ih, memGet_put, List.length_cons]
    by_cases hj : j = a
    · subst hj
      simp
    · by_cases hr : a ≤ j ∧ j < a + (bs.length + 1)
      · have h1 : a + 1 ≤ j ∧ j < a + 1 + bs.length := by omega
        have h2 : j - a = (j - (a + 1)) + 1 := by omega
        simp [h1, hr, h2]
      · have h1 : ¬ (a + 1 ≤ j ∧ j < a + 1 + bs.length) := by omega
        rw [if_neg h1, if_neg hr, if_neg hj]

/-- A read of `n` bytes is the bytes one by one. -/
theorem memRead_eq (m : Memory) (a n : Nat) : memRead m a n = (List.range n).map (fun i => memGet m (a + i)) := by
  induction n generalizing a with
  | zero => rfl
  | succ n ih =>
    rw [List.range_succ_eq_map]
    simp only [memRead, ih, List.map_cons, List.map_map, Nat.add_zero, List.cons.injEq, true_and]
    apply List.map_congr_left
    intro i _
    simp only [Function.comp_apply]
    congr 1
    omega

/-- A read of the bytes just written gives them back. -/
theorem memRead_write (m : Memory) (a : Nat) (bs : List Byte) :
    memRead (memWrite m a bs) a bs.length = bs := by
  rw [memRead_eq]
  apply List.ext_getElem
  · simp
  · intro i h1 h2
    have hi : i < bs.length := h2
    simp [memGet_write, hi]

theorem memEq_from {m n : Memory} {lo lo' : Nat} (hm : memWfFrom lo m = true) (hn : memWfFrom lo' n = true)
    (h : ∀ a, memGet m a = memGet n a) : m = n := by
  induction m generalizing n lo lo' with
  | nil =>
    cases n with
    | nil => rfl
    | cons e n =>
      obtain ⟨i, x⟩ := e
      rw [memWfFrom_cons] at hn
      have := h i
      simp [memGet] at this
      simp [← this] at hn
  | cons e m ih =>
    obtain ⟨i, x⟩ := e
    rw [memWfFrom_cons] at hm
    cases n with
    | nil =>
      have := h i
      simp [memGet] at this
      simp [this] at hm
    | cons f n =>
      obtain ⟨k, y⟩ := f
      rw [memWfFrom_cons] at hn
      have hik : i = k := by
        rcases Nat.lt_trichotomy i k with hlt | he | hgt
        · have h1 := h i
          have h2 : ¬ k = i := by omega
          simp only [memGet, if_true, h2, if_false] at h1
          rw [memGet_below hn.2.2 (by omega)] at h1
          simp [h1] at hm
        · exact he
        · have h1 := h k
          have h2 : ¬ i = k := by omega
          simp only [memGet, if_true, h2, if_false] at h1
          rw [memGet_below hm.2.2 (by omega)] at h1
          simp [← h1] at hn
      subst hik
      have hxy : x = y := by simpa [memGet] using h i
      subst hxy
      have : m = n := by
        apply ih hm.2.2 hn.2.2
        intro a
        by_cases ha : i = a
        · subst ha
          rw [memGet_below hm.2.2 (by omega), memGet_below hn.2.2 (by omega)]
        · simpa [memGet, ha] using h a
      rw [this]

/-- Memories in canonical form that read alike are equal data. -/
theorem memEq {m n : Memory} (hm : memWf m = true) (hn : memWf n = true) (h : ∀ a, memGet m a = memGet n a) : m = n :=
  memEq_from hm hn h

end Sys2Proof.Machine
end

