-- ==== Sys2Proof/Laws/Tables.lean ====
section
/-! SUPPORT. The laws of the tables by number: reading what was written, leaving the rest, writing twice. -/

namespace Sys2Proof.Tbl

variable {α : Type}

@[simp] theorem get_nil (d : α) (k : Nat) : get d ([] : Tbl α) k = d := rfl

@[simp] theorem get_set_same (d : α) (t : Tbl α) (k : Nat) (v : α) : get d (set t k v) k = v := by
  induction t with
  | nil => simp [set, get]
  | cons h t ih =>
    obtain ⟨i, x⟩ := h
    simp only [set]
    split
    · simp [get]
    · split
      · simp [get]
      · next hne => simp [get, Ne.symm hne, ih]

theorem get_set_other (d : α) (t : Tbl α) {j k : Nat} (v : α) (h : j ≠ k) : get d (set t k v) j = get d t j := by
  induction t with
  | nil => simp [set, get, Ne.symm h]
  | cons e t ih =>
    obtain ⟨i, x⟩ := e
    simp only [set]
    split
    · simp [get, Ne.symm h]
    · split
      · next he => subst he; simp [get, Ne.symm h]
      · simp only [get, ih]

@[simp] theorem set_set (t : Tbl α) (k : Nat) (v w : α) : set (set t k v) k w = set t k w := by
  induction t with
  | nil => simp [set]
  | cons h t ih =>
    obtain ⟨i, x⟩ := h
    simp only [set]
    split
    · simp [set]
    · split
      · simp [set]
      · next h1 h2 => simp [set, h1, h2, ih]

theorem get_set (d : α) (t : Tbl α) (j k : Nat) (v : α) : get d (set t k v) j = if j = k then v else get d t j := by
  split
  · next h => subst h; simp
  · next h => exact get_set_other d t v h

theorem get_erase (d : α) (t : Tbl α) (j k : Nat) : get d (erase t k) j = if j = k then d else get d t j := by
  induction t with
  | nil => simp [erase, get]
  | cons e t ih =>
    obtain ⟨i, x⟩ := e
    simp only [erase]
    split
    · next h =>
      subst h
      rw [ih]
      split
      · rfl
      · next hj => simp [get, Ne.symm hj]
    · next h =>
      simp only [get, ih]
      split
      · next hi => subst hi; simp [h]
      · rfl

end Sys2Proof.Tbl
end

