-- ==== Sys2Proof/Laws/State.lean ====
section
/-! SUPPORT. What every update of the state leaves and what it gives: one lemma for each field and update, so that no
proof unfolds a record; then the laws of the streams, registers and predicates (R53, R94). -/

namespace Sys2Proof.Machine

/-! ## Fields that an update leaves -/

@[simp] theorem State.setCore_agent (s : State) (c : Nat) (x : Core) : (s.setCore c x).agent = s.agent := rfl
@[simp] theorem State.setCore_agenda (s : State) (c : Nat) (x : Core) : (s.setCore c x).agenda = s.agenda := rfl
@[simp] theorem State.setCore_stepNo (s : State) (c : Nat) (x : Core) : (s.setCore c x).stepNo = s.stepNo := rfl
@[simp] theorem State.setCore_cycle (s : State) (c : Nat) (x : Core) : (s.setCore c x).cycle = s.cycle := rfl
@[simp] theorem State.setCore_rank (s : State) (c : Nat) (x : Core) : (s.setCore c x).rank = s.rank := rfl
@[simp] theorem State.setCore_uid (s : State) (c : Nat) (x : Core) : (s.setCore c x).uid = s.uid := rfl
@[simp] theorem State.setCore_free (s : State) (c : Nat) (x : Core) : (s.setCore c x).free = s.free := rfl
@[simp] theorem State.setCore_bays (s : State) (c : Nat) (x : Core) : (s.setCore c x).bays = s.bays := rfl
@[simp] theorem State.setCore_dies (s : State) (c : Nat) (x : Core) : (s.setCore c x).dies = s.dies := rfl
@[simp] theorem State.setCore_parts (s : State) (c : Nat) (x : Core) : (s.setCore c x).parts = s.parts := rfl
@[simp] theorem State.setCore_npd (s : State) (c : Nat) (x : Core) : (s.setCore c x).npd = s.npd := rfl
@[simp] theorem State.setCore_dram (s : State) (c : Nat) (x : Core) : (s.setCore c x).dram = s.dram := rfl
@[simp] theorem State.setCore_xl (s : State) (c : Nat) (x : Core) : (s.setCore c x).xl = s.xl := rfl
@[simp] theorem State.setCore_host (s : State) (c : Nat) (x : Core) : (s.setCore c x).host = s.host := rfl
@[simp] theorem State.setCore_hostMem (s : State) (c : Nat) (x : Core) : (s.setCore c x).hostMem = s.hostMem := rfl
@[simp] theorem State.setCore_jobs (s : State) (c : Nat) (x : Core) : (s.setCore c x).jobs = s.jobs := rfl
@[simp] theorem State.setCore_link (s : State) (c : Nat) (x : Core) : (s.setCore c x).link = s.link := rfl
@[simp] theorem State.setCore_fw (s : State) (c : Nat) (x : Core) : (s.setCore c x).fw = s.fw := rfl
@[simp] theorem State.setCore_cryo (s : State) (c : Nat) (x : Core) : (s.setCore c x).cryo = s.cryo := rfl
@[simp] theorem State.setCore_power (s : State) (c : Nat) (x : Core) : (s.setCore c x).power = s.power := rfl

@[simp] theorem State.updCore_agent (s : State) (c : Nat) (f : Core → Core) : (s.updCore c f).agent = s.agent := rfl
@[simp] theorem State.updCore_agenda (s : State) (c : Nat) (f : Core → Core) : (s.updCore c f).agenda = s.agenda := rfl
@[simp] theorem State.updCore_stepNo (s : State) (c : Nat) (f : Core → Core) : (s.updCore c f).stepNo = s.stepNo := rfl
@[simp] theorem State.updCore_cycle (s : State) (c : Nat) (f : Core → Core) : (s.updCore c f).cycle = s.cycle := rfl
@[simp] theorem State.updCore_rank (s : State) (c : Nat) (f : Core → Core) : (s.updCore c f).rank = s.rank := rfl
@[simp] theorem State.updCore_uid (s : State) (c : Nat) (f : Core → Core) : (s.updCore c f).uid = s.uid := rfl
@[simp] theorem State.updCore_free (s : State) (c : Nat) (f : Core → Core) : (s.updCore c f).free = s.free := rfl
@[simp] theorem State.updCore_bays (s : State) (c : Nat) (f : Core → Core) : (s.updCore c f).bays = s.bays := rfl
@[simp] theorem State.updCore_dies (s : State) (c : Nat) (f : Core → Core) : (s.updCore c f).dies = s.dies := rfl
@[simp] theorem State.updCore_parts (s : State) (c : Nat) (f : Core → Core) : (s.updCore c f).parts = s.parts := rfl
@[simp] theorem State.updCore_npd (s : State) (c : Nat) (f : Core → Core) : (s.updCore c f).npd = s.npd := rfl
@[simp] theorem State.updCore_dram (s : State) (c : Nat) (f : Core → Core) : (s.updCore c f).dram = s.dram := rfl
@[simp] theorem State.updCore_xl (s : State) (c : Nat) (f : Core → Core) : (s.updCore c f).xl = s.xl := rfl
@[simp] theorem State.updCore_host (s : State) (c : Nat) (f : Core → Core) : (s.updCore c f).host = s.host := rfl
@[simp] theorem State.updCore_hostMem (s : State) (c : Nat) (f : Core → Core) : (s.updCore c f).hostMem = s.hostMem := rfl
@[simp] theorem State.updCore_jobs (s : State) (c : Nat) (f : Core → Core) : (s.updCore c f).jobs = s.jobs := rfl
@[simp] theorem State.updCore_link (s : State) (c : Nat) (f : Core → Core) : (s.updCore c f).link = s.link := rfl
@[simp] theorem State.updCore_fw (s : State) (c : Nat) (f : Core → Core) : (s.updCore c f).fw = s.fw := rfl
@[simp] theorem State.updCore_cryo (s : State) (c : Nat) (f : Core → Core) : (s.updCore c f).cryo = s.cryo := rfl
@[simp] theorem State.updCore_power (s : State) (c : Nat) (f : Core → Core) : (s.updCore c f).power = s.power := rfl

@[simp] theorem State.setSlot_agent (s : State) (c k : Nat) (x : Slot) : (s.setSlot c k x).agent = s.agent := rfl
@[simp] theorem State.setSlot_agenda (s : State) (c k : Nat) (x : Slot) : (s.setSlot c k x).agenda = s.agenda := rfl
@[simp] theorem State.setSlot_stepNo (s : State) (c k : Nat) (x : Slot) : (s.setSlot c k x).stepNo = s.stepNo := rfl
@[simp] theorem State.setSlot_cycle (s : State) (c k : Nat) (x : Slot) : (s.setSlot c k x).cycle = s.cycle := rfl
@[simp] theorem State.setSlot_rank (s : State) (c k : Nat) (x : Slot) : (s.setSlot c k x).rank = s.rank := rfl
@[simp] theorem State.setSlot_uid (s : State) (c k : Nat) (x : Slot) : (s.setSlot c k x).uid = s.uid := rfl
@[simp] theorem State.setSlot_free (s : State) (c k : Nat) (x : Slot) : (s.setSlot c k x).free = s.free := rfl
@[simp] theorem State.setSlot_bays (s : State) (c k : Nat) (x : Slot) : (s.setSlot c k x).bays = s.bays := rfl
@[simp] theorem State.setSlot_dies (s : State) (c k : Nat) (x : Slot) : (s.setSlot c k x).dies = s.dies := rfl
@[simp] theorem State.setSlot_parts (s : State) (c k : Nat) (x : Slot) : (s.setSlot c k x).parts = s.parts := rfl
@[simp] theorem State.setSlot_npd (s : State) (c k : Nat) (x : Slot) : (s.setSlot c k x).npd = s.npd := rfl
@[simp] theorem State.setSlot_dram (s : State) (c k : Nat) (x : Slot) : (s.setSlot c k x).dram = s.dram := rfl
@[simp] theorem State.setSlot_xl (s : State) (c k : Nat) (x : Slot) : (s.setSlot c k x).xl = s.xl := rfl
@[simp] theorem State.setSlot_host (s : State) (c k : Nat) (x : Slot) : (s.setSlot c k x).host = s.host := rfl
@[simp] theorem State.setSlot_hostMem (s : State) (c k : Nat) (x : Slot) : (s.setSlot c k x).hostMem = s.hostMem := rfl
@[simp] theorem State.setSlot_jobs (s : State) (c k : Nat) (x : Slot) : (s.setSlot c k x).jobs = s.jobs := rfl
@[simp] theorem State.setSlot_link (s : State) (c k : Nat) (x : Slot) : (s.setSlot c k x).link = s.link := rfl
@[simp] theorem State.setSlot_fw (s : State) (c k : Nat) (x : Slot) : (s.setSlot c k x).fw = s.fw := rfl
@[simp] theorem State.setSlot_cryo (s : State) (c k : Nat) (x : Slot) : (s.setSlot c k x).cryo = s.cryo := rfl
@[simp] theorem State.setSlot_power (s : State) (c k : Nat) (x : Slot) : (s.setSlot c k x).power = s.power := rfl

@[simp] theorem State.updSlot_agent (s : State) (c k : Nat) (f : Slot → Slot) : (s.updSlot c k f).agent = s.agent := rfl
@[simp] theorem State.updSlot_agenda (s : State) (c k : Nat) (f : Slot → Slot) : (s.updSlot c k f).agenda = s.agenda := rfl
@[simp] theorem State.updSlot_stepNo (s : State) (c k : Nat) (f : Slot → Slot) : (s.updSlot c k f).stepNo = s.stepNo := rfl
@[simp] theorem State.updSlot_cycle (s : State) (c k : Nat) (f : Slot → Slot) : (s.updSlot c k f).cycle = s.cycle := rfl
@[simp] theorem State.updSlot_rank (s : State) (c k : Nat) (f : Slot → Slot) : (s.updSlot c k f).rank = s.rank := rfl
@[simp] theorem State.updSlot_uid (s : State) (c k : Nat) (f : Slot → Slot) : (s.updSlot c k f).uid = s.uid := rfl
@[simp] theorem State.updSlot_free (s : State) (c k : Nat) (f : Slot → Slot) : (s.updSlot c k f).free = s.free := rfl
@[simp] theorem State.updSlot_bays (s : State) (c k : Nat) (f : Slot → Slot) : (s.updSlot c k f).bays = s.bays := rfl
@[simp] theorem State.updSlot_dies (s : State) (c k : Nat) (f : Slot → Slot) : (s.updSlot c k f).dies = s.dies := rfl
@[simp] theorem State.updSlot_parts (s : State) (c k : Nat) (f : Slot → Slot) : (s.updSlot c k f).parts = s.parts := rfl
@[simp] theorem State.updSlot_npd (s : State) (c k : Nat) (f : Slot → Slot) : (s.updSlot c k f).npd = s.npd := rfl
@[simp] theorem State.updSlot_dram (s : State) (c k : Nat) (f : Slot → Slot) : (s.updSlot c k f).dram = s.dram := rfl
@[simp] theorem State.updSlot_xl (s : State) (c k : Nat) (f : Slot → Slot) : (s.updSlot c k f).xl = s.xl := rfl
@[simp] theorem State.updSlot_host (s : State) (c k : Nat) (f : Slot → Slot) : (s.updSlot c k f).host = s.host := rfl
@[simp] theorem State.updSlot_hostMem (s : State) (c k : Nat) (f : Slot → Slot) : (s.updSlot c k f).hostMem = s.hostMem := rfl
@[simp] theorem State.updSlot_jobs (s : State) (c k : Nat) (f : Slot → Slot) : (s.updSlot c k f).jobs = s.jobs := rfl
@[simp] theorem State.updSlot_link (s : State) (c k : Nat) (f : Slot → Slot) : (s.updSlot c k f).link = s.link := rfl
@[simp] theorem State.updSlot_fw (s : State) (c k : Nat) (f : Slot → Slot) : (s.updSlot c k f).fw = s.fw := rfl
@[simp] theorem State.updSlot_cryo (s : State) (c k : Nat) (f : Slot → Slot) : (s.updSlot c k f).cryo = s.cryo := rfl
@[simp] theorem State.updSlot_power (s : State) (c k : Nat) (f : Slot → Slot) : (s.updSlot c k f).power = s.power := rfl

@[simp] theorem State.setBay_agent (s : State) (b : Nat) (x : Bay) : (s.setBay b x).agent = s.agent := rfl
@[simp] theorem State.setBay_agenda (s : State) (b : Nat) (x : Bay) : (s.setBay b x).agenda = s.agenda := rfl
@[simp] theorem State.setBay_stepNo (s : State) (b : Nat) (x : Bay) : (s.setBay b x).stepNo = s.stepNo := rfl
@[simp] theorem State.setBay_cycle (s : State) (b : Nat) (x : Bay) : (s.setBay b x).cycle = s.cycle := rfl
@[simp] theorem State.setBay_rank (s : State) (b : Nat) (x : Bay) : (s.setBay b x).rank = s.rank := rfl
@[simp] theorem State.setBay_uid (s : State) (b : Nat) (x : Bay) : (s.setBay b x).uid = s.uid := rfl
@[simp] theorem State.setBay_free (s : State) (b : Nat) (x : Bay) : (s.setBay b x).free = s.free := rfl
@[simp] theorem State.setBay_cores (s : State) (b : Nat) (x : Bay) : (s.setBay b x).cores = s.cores := rfl
@[simp] theorem State.setBay_dies (s : State) (b : Nat) (x : Bay) : (s.setBay b x).dies = s.dies := rfl
@[simp] theorem State.setBay_parts (s : State) (b : Nat) (x : Bay) : (s.setBay b x).parts = s.parts := rfl
@[simp] theorem State.setBay_npd (s : State) (b : Nat) (x : Bay) : (s.setBay b x).npd = s.npd := rfl
@[simp] theorem State.setBay_dram (s : State) (b : Nat) (x : Bay) : (s.setBay b x).dram = s.dram := rfl
@[simp] theorem State.setBay_xl (s : State) (b : Nat) (x : Bay) : (s.setBay b x).xl = s.xl := rfl
@[simp] theorem State.setBay_host (s : State) (b : Nat) (x : Bay) : (s.setBay b x).host = s.host := rfl
@[simp] theorem State.setBay_hostMem (s : State) (b : Nat) (x : Bay) : (s.setBay b x).hostMem = s.hostMem := rfl
@[simp] theorem State.setBay_jobs (s : State) (b : Nat) (x : Bay) : (s.setBay b x).jobs = s.jobs := rfl
@[simp] theorem State.setBay_link (s : State) (b : Nat) (x : Bay) : (s.setBay b x).link = s.link := rfl
@[simp] theorem State.setBay_fw (s : State) (b : Nat) (x : Bay) : (s.setBay b x).fw = s.fw := rfl
@[simp] theorem State.setBay_cryo (s : State) (b : Nat) (x : Bay) : (s.setBay b x).cryo = s.cryo := rfl
@[simp] theorem State.setBay_power (s : State) (b : Nat) (x : Bay) : (s.setBay b x).power = s.power := rfl

@[simp] theorem State.updBay_agent (s : State) (b : Nat) (f : Bay → Bay) : (s.updBay b f).agent = s.agent := rfl
@[simp] theorem State.updBay_agenda (s : State) (b : Nat) (f : Bay → Bay) : (s.updBay b f).agenda = s.agenda := rfl
@[simp] theorem State.updBay_stepNo (s : State) (b : Nat) (f : Bay → Bay) : (s.updBay b f).stepNo = s.stepNo := rfl
@[simp] theorem State.updBay_cycle (s : State) (b : Nat) (f : Bay → Bay) : (s.updBay b f).cycle = s.cycle := rfl
@[simp] theorem State.updBay_rank (s : State) (b : Nat) (f : Bay → Bay) : (s.updBay b f).rank = s.rank := rfl
@[simp] theorem State.updBay_uid (s : State) (b : Nat) (f : Bay → Bay) : (s.updBay b f).uid = s.uid := rfl
@[simp] theorem State.updBay_free (s : State) (b : Nat) (f : Bay → Bay) : (s.updBay b f).free = s.free := rfl
@[simp] theorem State.updBay_cores (s : State) (b : Nat) (f : Bay → Bay) : (s.updBay b f).cores = s.cores := rfl
@[simp] theorem State.updBay_dies (s : State) (b : Nat) (f : Bay → Bay) : (s.updBay b f).dies = s.dies := rfl
@[simp] theorem State.updBay_parts (s : State) (b : Nat) (f : Bay → Bay) : (s.updBay b f).parts = s.parts := rfl
@[simp] theorem State.updBay_npd (s : State) (b : Nat) (f : Bay → Bay) : (s.updBay b f).npd = s.npd := rfl
@[simp] theorem State.updBay_dram (s : State) (b : Nat) (f : Bay → Bay) : (s.updBay b f).dram = s.dram := rfl
@[simp] theorem State.updBay_xl (s : State) (b : Nat) (f : Bay → Bay) : (s.updBay b f).xl = s.xl := rfl
@[simp] theorem State.updBay_host (s : State) (b : Nat) (f : Bay → Bay) : (s.updBay b f).host = s.host := rfl
@[simp] theorem State.updBay_hostMem (s : State) (b : Nat) (f : Bay → Bay) : (s.updBay b f).hostMem = s.hostMem := rfl
@[simp] theorem State.updBay_jobs (s : State) (b : Nat) (f : Bay → Bay) : (s.updBay b f).jobs = s.jobs := rfl
@[simp] theorem State.updBay_link (s : State) (b : Nat) (f : Bay → Bay) : (s.updBay b f).link = s.link := rfl
@[simp] theorem State.updBay_fw (s : State) (b : Nat) (f : Bay → Bay) : (s.updBay b f).fw = s.fw := rfl
@[simp] theorem State.updBay_cryo (s : State) (b : Nat) (f : Bay → Bay) : (s.updBay b f).cryo = s.cryo := rfl
@[simp] theorem State.updBay_power (s : State) (b : Nat) (f : Bay → Bay) : (s.updBay b f).power = s.power := rfl

@[simp] theorem State.updDie_agent (s : State) (d : Nat) (f : Die → Die) : (s.updDie d f).agent = s.agent := rfl
@[simp] theorem State.updDie_agenda (s : State) (d : Nat) (f : Die → Die) : (s.updDie d f).agenda = s.agenda := rfl
@[simp] theorem State.updDie_stepNo (s : State) (d : Nat) (f : Die → Die) : (s.updDie d f).stepNo = s.stepNo := rfl
@[simp] theorem State.updDie_cycle (s : State) (d : Nat) (f : Die → Die) : (s.updDie d f).cycle = s.cycle := rfl
@[simp] theorem State.updDie_rank (s : State) (d : Nat) (f : Die → Die) : (s.updDie d f).rank = s.rank := rfl
@[simp] theorem State.updDie_uid (s : State) (d : Nat) (f : Die → Die) : (s.updDie d f).uid = s.uid := rfl
@[simp] theorem State.updDie_free (s : State) (d : Nat) (f : Die → Die) : (s.updDie d f).free = s.free := rfl
@[simp] theorem State.updDie_cores (s : State) (d : Nat) (f : Die → Die) : (s.updDie d f).cores = s.cores := rfl
@[simp] theorem State.updDie_bays (s : State) (d : Nat) (f : Die → Die) : (s.updDie d f).bays = s.bays := rfl
@[simp] theorem State.updDie_parts (s : State) (d : Nat) (f : Die → Die) : (s.updDie d f).parts = s.parts := rfl
@[simp] theorem State.updDie_npd (s : State) (d : Nat) (f : Die → Die) : (s.updDie d f).npd = s.npd := rfl
@[simp] theorem State.updDie_dram (s : State) (d : Nat) (f : Die → Die) : (s.updDie d f).dram = s.dram := rfl
@[simp] theorem State.updDie_xl (s : State) (d : Nat) (f : Die → Die) : (s.updDie d f).xl = s.xl := rfl
@[simp] theorem State.updDie_host (s : State) (d : Nat) (f : Die → Die) : (s.updDie d f).host = s.host := rfl
@[simp] theorem State.updDie_hostMem (s : State) (d : Nat) (f : Die → Die) : (s.updDie d f).hostMem = s.hostMem := rfl
@[simp] theorem State.updDie_jobs (s : State) (d : Nat) (f : Die → Die) : (s.updDie d f).jobs = s.jobs := rfl
@[simp] theorem State.updDie_link (s : State) (d : Nat) (f : Die → Die) : (s.updDie d f).link = s.link := rfl
@[simp] theorem State.updDie_fw (s : State) (d : Nat) (f : Die → Die) : (s.updDie d f).fw = s.fw := rfl
@[simp] theorem State.updDie_cryo (s : State) (d : Nat) (f : Die → Die) : (s.updDie d f).cryo = s.cryo := rfl
@[simp] theorem State.updDie_power (s : State) (d : Nat) (f : Die → Die) : (s.updDie d f).power = s.power := rfl

@[simp] theorem State.setPart_agent (s : State) (p : Nat) (x : Part) : (s.setPart p x).agent = s.agent := rfl
@[simp] theorem State.setPart_agenda (s : State) (p : Nat) (x : Part) : (s.setPart p x).agenda = s.agenda := rfl
@[simp] theorem State.setPart_stepNo (s : State) (p : Nat) (x : Part) : (s.setPart p x).stepNo = s.stepNo := rfl
@[simp] theorem State.setPart_cycle (s : State) (p : Nat) (x : Part) : (s.setPart p x).cycle = s.cycle := rfl
@[simp] theorem State.setPart_rank (s : State) (p : Nat) (x : Part) : (s.setPart p x).rank = s.rank := rfl
@[simp] theorem State.setPart_uid (s : State) (p : Nat) (x : Part) : (s.setPart p x).uid = s.uid := rfl
@[simp] theorem State.setPart_free (s : State) (p : Nat) (x : Part) : (s.setPart p x).free = s.free := rfl
@[simp] theorem State.setPart_cores (s : State) (p : Nat) (x : Part) : (s.setPart p x).cores = s.cores := rfl
@[simp] theorem State.setPart_bays (s : State) (p : Nat) (x : Part) : (s.setPart p x).bays = s.bays := rfl
@[simp] theorem State.setPart_dies (s : State) (p : Nat) (x : Part) : (s.setPart p x).dies = s.dies := rfl
@[simp] theorem State.setPart_npd (s : State) (p : Nat) (x : Part) : (s.setPart p x).npd = s.npd := rfl
@[simp] theorem State.setPart_dram (s : State) (p : Nat) (x : Part) : (s.setPart p x).dram = s.dram := rfl
@[simp] theorem State.setPart_xl (s : State) (p : Nat) (x : Part) : (s.setPart p x).xl = s.xl := rfl
@[simp] theorem State.setPart_host (s : State) (p : Nat) (x : Part) : (s.setPart p x).host = s.host := rfl
@[simp] theorem State.setPart_hostMem (s : State) (p : Nat) (x : Part) : (s.setPart p x).hostMem = s.hostMem := rfl
@[simp] theorem State.setPart_jobs (s : State) (p : Nat) (x : Part) : (s.setPart p x).jobs = s.jobs := rfl
@[simp] theorem State.setPart_link (s : State) (p : Nat) (x : Part) : (s.setPart p x).link = s.link := rfl
@[simp] theorem State.setPart_fw (s : State) (p : Nat) (x : Part) : (s.setPart p x).fw = s.fw := rfl
@[simp] theorem State.setPart_cryo (s : State) (p : Nat) (x : Part) : (s.setPart p x).cryo = s.cryo := rfl
@[simp] theorem State.setPart_power (s : State) (p : Nat) (x : Part) : (s.setPart p x).power = s.power := rfl

@[simp] theorem State.updPart_agent (s : State) (p : Nat) (f : Part → Part) : (s.updPart p f).agent = s.agent := rfl
@[simp] theorem State.updPart_agenda (s : State) (p : Nat) (f : Part → Part) : (s.updPart p f).agenda = s.agenda := rfl
@[simp] theorem State.updPart_stepNo (s : State) (p : Nat) (f : Part → Part) : (s.updPart p f).stepNo = s.stepNo := rfl
@[simp] theorem State.updPart_cycle (s : State) (p : Nat) (f : Part → Part) : (s.updPart p f).cycle = s.cycle := rfl
@[simp] theorem State.updPart_rank (s : State) (p : Nat) (f : Part → Part) : (s.updPart p f).rank = s.rank := rfl
@[simp] theorem State.updPart_uid (s : State) (p : Nat) (f : Part → Part) : (s.updPart p f).uid = s.uid := rfl
@[simp] theorem State.updPart_free (s : State) (p : Nat) (f : Part → Part) : (s.updPart p f).free = s.free := rfl
@[simp] theorem State.updPart_cores (s : State) (p : Nat) (f : Part → Part) : (s.updPart p f).cores = s.cores := rfl
@[simp] theorem State.updPart_bays (s : State) (p : Nat) (f : Part → Part) : (s.updPart p f).bays = s.bays := rfl
@[simp] theorem State.updPart_dies (s : State) (p : Nat) (f : Part → Part) : (s.updPart p f).dies = s.dies := rfl
@[simp] theorem State.updPart_npd (s : State) (p : Nat) (f : Part → Part) : (s.updPart p f).npd = s.npd := rfl
@[simp] theorem State.updPart_dram (s : State) (p : Nat) (f : Part → Part) : (s.updPart p f).dram = s.dram := rfl
@[simp] theorem State.updPart_xl (s : State) (p : Nat) (f : Part → Part) : (s.updPart p f).xl = s.xl := rfl
@[simp] theorem State.updPart_host (s : State) (p : Nat) (f : Part → Part) : (s.updPart p f).host = s.host := rfl
@[simp] theorem State.updPart_hostMem (s : State) (p : Nat) (f : Part → Part) : (s.updPart p f).hostMem = s.hostMem := rfl
@[simp] theorem State.updPart_jobs (s : State) (p : Nat) (f : Part → Part) : (s.updPart p f).jobs = s.jobs := rfl
@[simp] theorem State.updPart_link (s : State) (p : Nat) (f : Part → Part) : (s.updPart p f).link = s.link := rfl
@[simp] theorem State.updPart_fw (s : State) (p : Nat) (f : Part → Part) : (s.updPart p f).fw = s.fw := rfl
@[simp] theorem State.updPart_cryo (s : State) (p : Nat) (f : Part → Part) : (s.updPart p f).cryo = s.cryo := rfl
@[simp] theorem State.updPart_power (s : State) (p : Nat) (f : Part → Part) : (s.updPart p f).power = s.power := rfl

@[simp] theorem State.updHost_agent (s : State) (n : Nat) (f : HostFn → HostFn) : (s.updHost n f).agent = s.agent := rfl
@[simp] theorem State.updHost_agenda (s : State) (n : Nat) (f : HostFn → HostFn) : (s.updHost n f).agenda = s.agenda := rfl
@[simp] theorem State.updHost_stepNo (s : State) (n : Nat) (f : HostFn → HostFn) : (s.updHost n f).stepNo = s.stepNo := rfl
@[simp] theorem State.updHost_cycle (s : State) (n : Nat) (f : HostFn → HostFn) : (s.updHost n f).cycle = s.cycle := rfl
@[simp] theorem State.updHost_rank (s : State) (n : Nat) (f : HostFn → HostFn) : (s.updHost n f).rank = s.rank := rfl
@[simp] theorem State.updHost_uid (s : State) (n : Nat) (f : HostFn → HostFn) : (s.updHost n f).uid = s.uid := rfl
@[simp] theorem State.updHost_free (s : State) (n : Nat) (f : HostFn → HostFn) : (s.updHost n f).free = s.free := rfl
@[simp] theorem State.updHost_cores (s : State) (n : Nat) (f : HostFn → HostFn) : (s.updHost n f).cores = s.cores := rfl
@[simp] theorem State.updHost_bays (s : State) (n : Nat) (f : HostFn → HostFn) : (s.updHost n f).bays = s.bays := rfl
@[simp] theorem State.updHost_dies (s : State) (n : Nat) (f : HostFn → HostFn) : (s.updHost n f).dies = s.dies := rfl
@[simp] theorem State.updHost_parts (s : State) (n : Nat) (f : HostFn → HostFn) : (s.updHost n f).parts = s.parts := rfl
@[simp] theorem State.updHost_npd (s : State) (n : Nat) (f : HostFn → HostFn) : (s.updHost n f).npd = s.npd := rfl
@[simp] theorem State.updHost_dram (s : State) (n : Nat) (f : HostFn → HostFn) : (s.updHost n f).dram = s.dram := rfl
@[simp] theorem State.updHost_xl (s : State) (n : Nat) (f : HostFn → HostFn) : (s.updHost n f).xl = s.xl := rfl
@[simp] theorem State.updHost_hostMem (s : State) (n : Nat) (f : HostFn → HostFn) : (s.updHost n f).hostMem = s.hostMem := rfl
@[simp] theorem State.updHost_jobs (s : State) (n : Nat) (f : HostFn → HostFn) : (s.updHost n f).jobs = s.jobs := rfl
@[simp] theorem State.updHost_link (s : State) (n : Nat) (f : HostFn → HostFn) : (s.updHost n f).link = s.link := rfl
@[simp] theorem State.updHost_fw (s : State) (n : Nat) (f : HostFn → HostFn) : (s.updHost n f).fw = s.fw := rfl
@[simp] theorem State.updHost_cryo (s : State) (n : Nat) (f : HostFn → HostFn) : (s.updHost n f).cryo = s.cryo := rfl
@[simp] theorem State.updHost_power (s : State) (n : Nat) (f : HostFn → HostFn) : (s.updHost n f).power = s.power := rfl

@[simp] theorem State.updThread_agent (s : State) (t : Nat) (f : Thread → Thread) : (s.updThread t f).agent = s.agent := rfl
@[simp] theorem State.updThread_agenda (s : State) (t : Nat) (f : Thread → Thread) : (s.updThread t f).agenda = s.agenda := rfl
@[simp] theorem State.updThread_stepNo (s : State) (t : Nat) (f : Thread → Thread) : (s.updThread t f).stepNo = s.stepNo := rfl
@[simp] theorem State.updThread_cycle (s : State) (t : Nat) (f : Thread → Thread) : (s.updThread t f).cycle = s.cycle := rfl
@[simp] theorem State.updThread_rank (s : State) (t : Nat) (f : Thread → Thread) : (s.updThread t f).rank = s.rank := rfl
@[simp] theorem State.updThread_uid (s : State) (t : Nat) (f : Thread → Thread) : (s.updThread t f).uid = s.uid := rfl
@[simp] theorem State.updThread_free (s : State) (t : Nat) (f : Thread → Thread) : (s.updThread t f).free = s.free := rfl
@[simp] theorem State.updThread_cores (s : State) (t : Nat) (f : Thread → Thread) : (s.updThread t f).cores = s.cores := rfl
@[simp] theorem State.updThread_bays (s : State) (t : Nat) (f : Thread → Thread) : (s.updThread t f).bays = s.bays := rfl
@[simp] theorem State.updThread_dies (s : State) (t : Nat) (f : Thread → Thread) : (s.updThread t f).dies = s.dies := rfl
@[simp] theorem State.updThread_parts (s : State) (t : Nat) (f : Thread → Thread) : (s.updThread t f).parts = s.parts := rfl
@[simp] theorem State.updThread_dram (s : State) (t : Nat) (f : Thread → Thread) : (s.updThread t f).dram = s.dram := rfl
@[simp] theorem State.updThread_xl (s : State) (t : Nat) (f : Thread → Thread) : (s.updThread t f).xl = s.xl := rfl
@[simp] theorem State.updThread_host (s : State) (t : Nat) (f : Thread → Thread) : (s.updThread t f).host = s.host := rfl
@[simp] theorem State.updThread_hostMem (s : State) (t : Nat) (f : Thread → Thread) : (s.updThread t f).hostMem = s.hostMem := rfl
@[simp] theorem State.updThread_jobs (s : State) (t : Nat) (f : Thread → Thread) : (s.updThread t f).jobs = s.jobs := rfl
@[simp] theorem State.updThread_link (s : State) (t : Nat) (f : Thread → Thread) : (s.updThread t f).link = s.link := rfl
@[simp] theorem State.updThread_fw (s : State) (t : Nat) (f : Thread → Thread) : (s.updThread t f).fw = s.fw := rfl
@[simp] theorem State.updThread_cryo (s : State) (t : Nat) (f : Thread → Thread) : (s.updThread t f).cryo = s.cryo := rfl
@[simp] theorem State.updThread_power (s : State) (t : Nat) (f : Thread → Thread) : (s.updThread t f).power = s.power := rfl

@[simp] theorem State.updStrm_agent (s : State) (a : Agent) (f : Stream → Stream) : (s.updStrm a f).agent = s.agent := by
  cases a <;> rfl
@[simp] theorem State.updStrm_agenda (s : State) (a : Agent) (f : Stream → Stream) : (s.updStrm a f).agenda = s.agenda := by
  cases a <;> rfl
@[simp] theorem State.updStrm_stepNo (s : State) (a : Agent) (f : Stream → Stream) : (s.updStrm a f).stepNo = s.stepNo := by
  cases a <;> rfl
@[simp] theorem State.updStrm_cycle (s : State) (a : Agent) (f : Stream → Stream) : (s.updStrm a f).cycle = s.cycle := by
  cases a <;> rfl
@[simp] theorem State.updStrm_rank (s : State) (a : Agent) (f : Stream → Stream) : (s.updStrm a f).rank = s.rank := by
  cases a <;> rfl
@[simp] theorem State.updStrm_uid (s : State) (a : Agent) (f : Stream → Stream) : (s.updStrm a f).uid = s.uid := by
  cases a <;> rfl
@[simp] theorem State.updStrm_free (s : State) (a : Agent) (f : Stream → Stream) : (s.updStrm a f).free = s.free := by
  cases a <;> rfl
@[simp] theorem State.updStrm_bays (s : State) (a : Agent) (f : Stream → Stream) : (s.updStrm a f).bays = s.bays := by
  cases a <;> rfl
@[simp] theorem State.updStrm_dies (s : State) (a : Agent) (f : Stream → Stream) : (s.updStrm a f).dies = s.dies := by
  cases a <;> rfl
@[simp] theorem State.updStrm_parts (s : State) (a : Agent) (f : Stream → Stream) : (s.updStrm a f).parts = s.parts := by
  cases a <;> rfl
@[simp] theorem State.updStrm_dram (s : State) (a : Agent) (f : Stream → Stream) : (s.updStrm a f).dram = s.dram := by
  cases a <;> rfl
@[simp] theorem State.updStrm_xl (s : State) (a : Agent) (f : Stream → Stream) : (s.updStrm a f).xl = s.xl := by
  cases a <;> rfl
@[simp] theorem State.updStrm_host (s : State) (a : Agent) (f : Stream → Stream) : (s.updStrm a f).host = s.host := by
  cases a <;> rfl
@[simp] theorem State.updStrm_hostMem (s : State) (a : Agent) (f : Stream → Stream) : (s.updStrm a f).hostMem = s.hostMem := by
  cases a <;> rfl
@[simp] theorem State.updStrm_jobs (s : State) (a : Agent) (f : Stream → Stream) : (s.updStrm a f).jobs = s.jobs := by
  cases a <;> rfl
@[simp] theorem State.updStrm_link (s : State) (a : Agent) (f : Stream → Stream) : (s.updStrm a f).link = s.link := by
  cases a <;> rfl
@[simp] theorem State.updStrm_fw (s : State) (a : Agent) (f : Stream → Stream) : (s.updStrm a f).fw = s.fw := by
  cases a <;> rfl
@[simp] theorem State.updStrm_cryo (s : State) (a : Agent) (f : Stream → Stream) : (s.updStrm a f).cryo = s.cryo := by
  cases a <;> rfl
@[simp] theorem State.updStrm_power (s : State) (a : Agent) (f : Stream → Stream) : (s.updStrm a f).power = s.power := by
  cases a <;> rfl

@[simp] theorem Slot.setStrm_ctl_phase (x : Slot) (t : Stream) : (x.setStrm .ctl t).phase = x.phase := rfl
@[simp] theorem Slot.setStrm_ctl_piece (x : Slot) (t : Stream) : (x.setStrm .ctl t).piece = x.piece := rfl
@[simp] theorem Slot.setStrm_ctl_vec (x : Slot) (t : Stream) : (x.setStrm .ctl t).vec = x.vec := rfl
@[simp] theorem Slot.setStrm_ctl_mat (x : Slot) (t : Stream) : (x.setStrm .ctl t).mat = x.mat := rfl
@[simp] theorem Slot.setStrm_ctl_ldr (x : Slot) (t : Stream) : (x.setStrm .ctl t).ldr = x.ldr := rfl
@[simp] theorem Slot.setStrm_ctl_str (x : Slot) (t : Stream) : (x.setStrm .ctl t).str = x.str := rfl
@[simp] theorem Slot.setStrm_ctl_flags (x : Slot) (t : Stream) : (x.setStrm .ctl t).flags = x.flags := rfl
@[simp] theorem Slot.setStrm_ctl_flagCyc (x : Slot) (t : Stream) : (x.setStrm .ctl t).flagCyc = x.flagCyc := rfl
@[simp] theorem Slot.setStrm_ctl_fpNew (x : Slot) (t : Stream) : (x.setStrm .ctl t).fpNew = x.fpNew := rfl
@[simp] theorem Slot.setStrm_ctl_sigs (x : Slot) (t : Stream) : (x.setStrm .ctl t).sigs = x.sigs := rfl
@[simp] theorem Slot.setStrm_ctl_v (x : Slot) (t : Stream) : (x.setStrm .ctl t).v = x.v := rfl
@[simp] theorem Slot.setStrm_ctl_m (x : Slot) (t : Stream) : (x.setStrm .ctl t).m = x.m := rfl
@[simp] theorem Slot.setStrm_ctl_descs (x : Slot) (t : Stream) : (x.setStrm .ctl t).descs = x.descs := rfl
@[simp] theorem Slot.setStrm_ctl_queues (x : Slot) (t : Stream) : (x.setStrm .ctl t).queues = x.queues := rfl
@[simp] theorem Slot.setStrm_ctl_trap (x : Slot) (t : Stream) : (x.setStrm .ctl t).trap = x.trap := rfl
@[simp] theorem Slot.setStrm_ctl_regs (x : Slot) (t : Stream) : (x.setStrm .ctl t).regs = x.regs := rfl
@[simp] theorem Slot.setStrm_ctl_adm (x : Slot) (t : Stream) : (x.setStrm .ctl t).adm = x.adm := rfl
@[simp] theorem Slot.setStrm_ctl_copyWaits (x : Slot) (t : Stream) : (x.setStrm .ctl t).copyWaits = x.copyWaits := rfl
@[simp] theorem Slot.setStrm_ctl_stopping (x : Slot) (t : Stream) : (x.setStrm .ctl t).stopping = x.stopping := rfl
@[simp] theorem Slot.setStrm_ctl_enq (x : Slot) (t : Stream) : (x.setStrm .ctl t).enq = x.enq := rfl
@[simp] theorem Slot.setStrm_ctl_enqSince (x : Slot) (t : Stream) : (x.setStrm .ctl t).enqSince = x.enqSince := rfl
@[simp] theorem Slot.setStrm_ctl_gleanSince (x : Slot) (t : Stream) : (x.setStrm .ctl t).gleanSince = x.gleanSince := rfl
@[simp] theorem Slot.setStrm_ctl_ctl (x : Slot) (t : Stream) : (x.setStrm .ctl t).ctl = t := rfl
@[simp] theorem Slot.setStrm_vec_phase (x : Slot) (t : Stream) : (x.setStrm .vec t).phase = x.phase := rfl
@[simp] theorem Slot.setStrm_vec_piece (x : Slot) (t : Stream) : (x.setStrm .vec t).piece = x.piece := rfl
@[simp] theorem Slot.setStrm_vec_ctl (x : Slot) (t : Stream) : (x.setStrm .vec t).ctl = x.ctl := rfl
@[simp] theorem Slot.setStrm_vec_mat (x : Slot) (t : Stream) : (x.setStrm .vec t).mat = x.mat := rfl
@[simp] theorem Slot.setStrm_vec_ldr (x : Slot) (t : Stream) : (x.setStrm .vec t).ldr = x.ldr := rfl
@[simp] theorem Slot.setStrm_vec_str (x : Slot) (t : Stream) : (x.setStrm .vec t).str = x.str := rfl
@[simp] theorem Slot.setStrm_vec_flags (x : Slot) (t : Stream) : (x.setStrm .vec t).flags = x.flags := rfl
@[simp] theorem Slot.setStrm_vec_flagCyc (x : Slot) (t : Stream) : (x.setStrm .vec t).flagCyc = x.flagCyc := rfl
@[simp] theorem Slot.setStrm_vec_fpNew (x : Slot) (t : Stream) : (x.setStrm .vec t).fpNew = x.fpNew := rfl
@[simp] theorem Slot.setStrm_vec_sigs (x : Slot) (t : Stream) : (x.setStrm .vec t).sigs = x.sigs := rfl
@[simp] theorem Slot.setStrm_vec_v (x : Slot) (t : Stream) : (x.setStrm .vec t).v = x.v := rfl
@[simp] theorem Slot.setStrm_vec_m (x : Slot) (t : Stream) : (x.setStrm .vec t).m = x.m := rfl
@[simp] theorem Slot.setStrm_vec_descs (x : Slot) (t : Stream) : (x.setStrm .vec t).descs = x.descs := rfl
@[simp] theorem Slot.setStrm_vec_queues (x : Slot) (t : Stream) : (x.setStrm .vec t).queues = x.queues := rfl
@[simp] theorem Slot.setStrm_vec_trap (x : Slot) (t : Stream) : (x.setStrm .vec t).trap = x.trap := rfl
@[simp] theorem Slot.setStrm_vec_regs (x : Slot) (t : Stream) : (x.setStrm .vec t).regs = x.regs := rfl
@[simp] theorem Slot.setStrm_vec_adm (x : Slot) (t : Stream) : (x.setStrm .vec t).adm = x.adm := rfl
@[simp] theorem Slot.setStrm_vec_copyWaits (x : Slot) (t : Stream) : (x.setStrm .vec t).copyWaits = x.copyWaits := rfl
@[simp] theorem Slot.setStrm_vec_stopping (x : Slot) (t : Stream) : (x.setStrm .vec t).stopping = x.stopping := rfl
@[simp] theorem Slot.setStrm_vec_enq (x : Slot) (t : Stream) : (x.setStrm .vec t).enq = x.enq := rfl
@[simp] theorem Slot.setStrm_vec_enqSince (x : Slot) (t : Stream) : (x.setStrm .vec t).enqSince = x.enqSince := rfl
@[simp] theorem Slot.setStrm_vec_gleanSince (x : Slot) (t : Stream) : (x.setStrm .vec t).gleanSince = x.gleanSince := rfl
@[simp] theorem Slot.setStrm_vec_vec (x : Slot) (t : Stream) : (x.setStrm .vec t).vec = t := rfl
@[simp] theorem Slot.setStrm_mat_phase (x : Slot) (t : Stream) : (x.setStrm .mat t).phase = x.phase := rfl
@[simp] theorem Slot.setStrm_mat_piece (x : Slot) (t : Stream) : (x.setStrm .mat t).piece = x.piece := rfl
@[simp] theorem Slot.setStrm_mat_ctl (x : Slot) (t : Stream) : (x.setStrm .mat t).ctl = x.ctl := rfl
@[simp] theorem Slot.setStrm_mat_vec (x : Slot) (t : Stream) : (x.setStrm .mat t).vec = x.vec := rfl
@[simp] theorem Slot.setStrm_mat_ldr (x : Slot) (t : Stream) : (x.setStrm .mat t).ldr = x.ldr := rfl
@[simp] theorem Slot.setStrm_mat_str (x : Slot) (t : Stream) : (x.setStrm .mat t).str = x.str := rfl
@[simp] theorem Slot.setStrm_mat_flags (x : Slot) (t : Stream) : (x.setStrm .mat t).flags = x.flags := rfl
@[simp] theorem Slot.setStrm_mat_flagCyc (x : Slot) (t : Stream) : (x.setStrm .mat t).flagCyc = x.flagCyc := rfl
@[simp] theorem Slot.setStrm_mat_fpNew (x : Slot) (t : Stream) : (x.setStrm .mat t).fpNew = x.fpNew := rfl
@[simp] theorem Slot.setStrm_mat_sigs (x : Slot) (t : Stream) : (x.setStrm .mat t).sigs = x.sigs := rfl
@[simp] theorem Slot.setStrm_mat_v (x : Slot) (t : Stream) : (x.setStrm .mat t).v = x.v := rfl
@[simp] theorem Slot.setStrm_mat_m (x : Slot) (t : Stream) : (x.setStrm .mat t).m = x.m := rfl
@[simp] theorem Slot.setStrm_mat_descs (x : Slot) (t : Stream) : (x.setStrm .mat t).descs = x.descs := rfl
@[simp] theorem Slot.setStrm_mat_queues (x : Slot) (t : Stream) : (x.setStrm .mat t).queues = x.queues := rfl
@[simp] theorem Slot.setStrm_mat_trap (x : Slot) (t : Stream) : (x.setStrm .mat t).trap = x.trap := rfl
@[simp] theorem Slot.setStrm_mat_regs (x : Slot) (t : Stream) : (x.setStrm .mat t).regs = x.regs := rfl
@[simp] theorem Slot.setStrm_mat_adm (x : Slot) (t : Stream) : (x.setStrm .mat t).adm = x.adm := rfl
@[simp] theorem Slot.setStrm_mat_copyWaits (x : Slot) (t : Stream) : (x.setStrm .mat t).copyWaits = x.copyWaits := rfl
@[simp] theorem Slot.setStrm_mat_stopping (x : Slot) (t : Stream) : (x.setStrm .mat t).stopping = x.stopping := rfl
@[simp] theorem Slot.setStrm_mat_enq (x : Slot) (t : Stream) : (x.setStrm .mat t).enq = x.enq := rfl
@[simp] theorem Slot.setStrm_mat_enqSince (x : Slot) (t : Stream) : (x.setStrm .mat t).enqSince = x.enqSince := rfl
@[simp] theorem Slot.setStrm_mat_gleanSince (x : Slot) (t : Stream) : (x.setStrm .mat t).gleanSince = x.gleanSince := rfl
@[simp] theorem Slot.setStrm_mat_mat (x : Slot) (t : Stream) : (x.setStrm .mat t).mat = t := rfl
@[simp] theorem Slot.setStrm_ldr_phase (x : Slot) (t : Stream) : (x.setStrm .ldr t).phase = x.phase := rfl
@[simp] theorem Slot.setStrm_ldr_piece (x : Slot) (t : Stream) : (x.setStrm .ldr t).piece = x.piece := rfl
@[simp] theorem Slot.setStrm_ldr_ctl (x : Slot) (t : Stream) : (x.setStrm .ldr t).ctl = x.ctl := rfl
@[simp] theorem Slot.setStrm_ldr_vec (x : Slot) (t : Stream) : (x.setStrm .ldr t).vec = x.vec := rfl
@[simp] theorem Slot.setStrm_ldr_mat (x : Slot) (t : Stream) : (x.setStrm .ldr t).mat = x.mat := rfl
@[simp] theorem Slot.setStrm_ldr_str (x : Slot) (t : Stream) : (x.setStrm .ldr t).str = x.str := rfl
@[simp] theorem Slot.setStrm_ldr_flags (x : Slot) (t : Stream) : (x.setStrm .ldr t).flags = x.flags := rfl
@[simp] theorem Slot.setStrm_ldr_flagCyc (x : Slot) (t : Stream) : (x.setStrm .ldr t).flagCyc = x.flagCyc := rfl
@[simp] theorem Slot.setStrm_ldr_fpNew (x : Slot) (t : Stream) : (x.setStrm .ldr t).fpNew = x.fpNew := rfl
@[simp] theorem Slot.setStrm_ldr_sigs (x : Slot) (t : Stream) : (x.setStrm .ldr t).sigs = x.sigs := rfl
@[simp] theorem Slot.setStrm_ldr_v (x : Slot) (t : Stream) : (x.setStrm .ldr t).v = x.v := rfl
@[simp] theorem Slot.setStrm_ldr_m (x : Slot) (t : Stream) : (x.setStrm .ldr t).m = x.m := rfl
@[simp] theorem Slot.setStrm_ldr_descs (x : Slot) (t : Stream) : (x.setStrm .ldr t).descs = x.descs := rfl
@[simp] theorem Slot.setStrm_ldr_queues (x : Slot) (t : Stream) : (x.setStrm .ldr t).queues = x.queues := rfl
@[simp] theorem Slot.setStrm_ldr_trap (x : Slot) (t : Stream) : (x.setStrm .ldr t).trap = x.trap := rfl
@[simp] theorem Slot.setStrm_ldr_regs (x : Slot) (t : Stream) : (x.setStrm .ldr t).regs = x.regs := rfl
@[simp] theorem Slot.setStrm_ldr_adm (x : Slot) (t : Stream) : (x.setStrm .ldr t).adm = x.adm := rfl
@[simp] theorem Slot.setStrm_ldr_copyWaits (x : Slot) (t : Stream) : (x.setStrm .ldr t).copyWaits = x.copyWaits := rfl
@[simp] theorem Slot.setStrm_ldr_stopping (x : Slot) (t : Stream) : (x.setStrm .ldr t).stopping = x.stopping := rfl
@[simp] theorem Slot.setStrm_ldr_enq (x : Slot) (t : Stream) : (x.setStrm .ldr t).enq = x.enq := rfl
@[simp] theorem Slot.setStrm_ldr_enqSince (x : Slot) (t : Stream) : (x.setStrm .ldr t).enqSince = x.enqSince := rfl
@[simp] theorem Slot.setStrm_ldr_gleanSince (x : Slot) (t : Stream) : (x.setStrm .ldr t).gleanSince = x.gleanSince := rfl
@[simp] theorem Slot.setStrm_ldr_ldr (x : Slot) (t : Stream) : (x.setStrm .ldr t).ldr = t := rfl
@[simp] theorem Slot.setStrm_str_phase (x : Slot) (t : Stream) : (x.setStrm .str t).phase = x.phase := rfl
@[simp] theorem Slot.setStrm_str_piece (x : Slot) (t : Stream) : (x.setStrm .str t).piece = x.piece := rfl
@[simp] theorem Slot.setStrm_str_ctl (x : Slot) (t : Stream) : (x.setStrm .str t).ctl = x.ctl := rfl
@[simp] theorem Slot.setStrm_str_vec (x : Slot) (t : Stream) : (x.setStrm .str t).vec = x.vec := rfl
@[simp] theorem Slot.setStrm_str_mat (x : Slot) (t : Stream) : (x.setStrm .str t).mat = x.mat := rfl
@[simp] theorem Slot.setStrm_str_ldr (x : Slot) (t : Stream) : (x.setStrm .str t).ldr = x.ldr := rfl
@[simp] theorem Slot.setStrm_str_flags (x : Slot) (t : Stream) : (x.setStrm .str t).flags = x.flags := rfl
@[simp] theorem Slot.setStrm_str_flagCyc (x : Slot) (t : Stream) : (x.setStrm .str t).flagCyc = x.flagCyc := rfl
@[simp] theorem Slot.setStrm_str_fpNew (x : Slot) (t : Stream) : (x.setStrm .str t).fpNew = x.fpNew := rfl
@[simp] theorem Slot.setStrm_str_sigs (x : Slot) (t : Stream) : (x.setStrm .str t).sigs = x.sigs := rfl
@[simp] theorem Slot.setStrm_str_v (x : Slot) (t : Stream) : (x.setStrm .str t).v = x.v := rfl
@[simp] theorem Slot.setStrm_str_m (x : Slot) (t : Stream) : (x.setStrm .str t).m = x.m := rfl
@[simp] theorem Slot.setStrm_str_descs (x : Slot) (t : Stream) : (x.setStrm .str t).descs = x.descs := rfl
@[simp] theorem Slot.setStrm_str_queues (x : Slot) (t : Stream) : (x.setStrm .str t).queues = x.queues := rfl
@[simp] theorem Slot.setStrm_str_trap (x : Slot) (t : Stream) : (x.setStrm .str t).trap = x.trap := rfl
@[simp] theorem Slot.setStrm_str_regs (x : Slot) (t : Stream) : (x.setStrm .str t).regs = x.regs := rfl
@[simp] theorem Slot.setStrm_str_adm (x : Slot) (t : Stream) : (x.setStrm .str t).adm = x.adm := rfl
@[simp] theorem Slot.setStrm_str_copyWaits (x : Slot) (t : Stream) : (x.setStrm .str t).copyWaits = x.copyWaits := rfl
@[simp] theorem Slot.setStrm_str_stopping (x : Slot) (t : Stream) : (x.setStrm .str t).stopping = x.stopping := rfl
@[simp] theorem Slot.setStrm_str_enq (x : Slot) (t : Stream) : (x.setStrm .str t).enq = x.enq := rfl
@[simp] theorem Slot.setStrm_str_enqSince (x : Slot) (t : Stream) : (x.setStrm .str t).enqSince = x.enqSince := rfl
@[simp] theorem Slot.setStrm_str_gleanSince (x : Slot) (t : Stream) : (x.setStrm .str t).gleanSince = x.gleanSince := rfl
@[simp] theorem Slot.setStrm_str_str (x : Slot) (t : Stream) : (x.setStrm .str t).str = t := rfl

/-! ## Parts written and read -/

@[simp] theorem State.core_setCore (s : State) (c : Nat) (x : Core) : (s.setCore c x).core c = x := by
  simp [State.core, State.setCore]
theorem State.core_setCore_other (s : State) {c d : Nat} (x : Core) (h : d ≠ c) : (s.setCore c x).core d = s.core d := by
  simp [State.core, State.setCore, Tbl.get_set_other _ _ _ h]
@[simp] theorem State.setCore_setCore (s : State) (c : Nat) (x y : Core) : (s.setCore c x).setCore c y = s.setCore c y := by
  simp [State.setCore]
@[simp] theorem State.core_updCore (s : State) (c : Nat) (f : Core → Core) : (s.updCore c f).core c = f (s.core c) := by
  simp [State.updCore]
theorem State.core_updCore_other (s : State) {c d : Nat} (f : Core → Core) (h : d ≠ c) :
    (s.updCore c f).core d = s.core d :=
  State.core_setCore_other s _ h
@[simp] theorem Core.slot_setSlot (x : Core) (k : Nat) (y : Slot) : (x.setSlot k y).slot k = y := by
  simp [Core.slot, Core.setSlot]
theorem Core.slot_setSlot_other (x : Core) {k j : Nat} (y : Slot) (h : j ≠ k) : (x.setSlot k y).slot j = x.slot j := by
  simp [Core.slot, Core.setSlot, Tbl.get_set_other _ _ _ h]
@[simp] theorem Core.setSlot_setSlot (x : Core) (k : Nat) (y z : Slot) : (x.setSlot k y).setSlot k z = x.setSlot k z := by
  simp [Core.setSlot]
@[simp] theorem State.slot_setSlot (s : State) (c k : Nat) (x : Slot) : (s.setSlot c k x).slot c k = x := by
  simp [State.slot, State.setSlot]
theorem State.slot_setSlot_other (s : State) {c k d j : Nat} (x : Slot) (h : (d, j) ≠ (c, k)) :
    (s.setSlot c k x).slot d j = s.slot d j := by
  by_cases hd : d = c
  · subst hd
    have hj : j ≠ k := fun e => h (by rw [e])
    simp [State.slot, State.setSlot, Core.slot_setSlot_other _ _ hj]
  · simp [State.slot, State.setSlot, State.core_setCore_other _ _ hd]
@[simp] theorem State.setSlot_setSlot (s : State) (c k : Nat) (x y : Slot) :
    (s.setSlot c k x).setSlot c k y = s.setSlot c k y := by
  simp [State.setSlot]
@[simp] theorem State.slot_updSlot (s : State) (c k : Nat) (f : Slot → Slot) : (s.updSlot c k f).slot c k = f (s.slot c k) := by
  simp [State.updSlot]
theorem State.slot_updSlot_other (s : State) {c k d j : Nat} (f : Slot → Slot) (h : (d, j) ≠ (c, k)) :
    (s.updSlot c k f).slot d j = s.slot d j :=
  State.slot_setSlot_other s _ h
@[simp] theorem State.updSlot_updSlot (s : State) (c k : Nat) (f g : Slot → Slot) :
    (s.updSlot c k f).updSlot c k g = s.updSlot c k (g ∘ f) := by
  simp [State.updSlot]
@[simp] theorem State.part_setPart (s : State) (p : Nat) (x : Part) : (s.setPart p x).part p = x := by
  simp [State.part, State.setPart]
theorem State.part_setPart_other (s : State) {p q : Nat} (x : Part) (h : q ≠ p) : (s.setPart p x).part q = s.part q := by
  simp [State.part, State.setPart, Tbl.get_set_other _ _ _ h]
@[simp] theorem State.part_updPart (s : State) (p : Nat) (f : Part → Part) : (s.updPart p f).part p = f (s.part p) := by
  simp [State.updPart]
@[simp] theorem State.hostFn_updHost (s : State) (n : Nat) (f : HostFn → HostFn) : (s.updHost n f).hostFn n = f (s.hostFn n) := by
  simp [State.hostFn, State.updHost]
theorem State.hostFn_updHost_other (s : State) {n m : Nat} (f : HostFn → HostFn) (h : m ≠ n) :
    (s.updHost n f).hostFn m = s.hostFn m := by
  simp [State.hostFn, State.updHost, Tbl.get_set_other _ _ _ h]
@[simp] theorem State.bay_updBay (s : State) (b : Nat) (f : Bay → Bay) : (s.updBay b f).bay b = f (s.bay b) := by
  simp [State.bay, State.updBay, State.setBay]
@[simp] theorem State.die_updDie (s : State) (d : Nat) (f : Die → Die) : (s.updDie d f).die d = f (s.die d) := by
  simp [State.die, State.updDie]
@[simp] theorem State.thread_updThread (s : State) (t : Nat) (f : Thread → Thread) :
    (s.updThread t f).thread t = f (s.thread t) := by
  simp [State.thread, State.updThread]
theorem State.thread_updThread_other (s : State) {t u : Nat} (f : Thread → Thread) (h : u ≠ t) :
    (s.updThread t f).thread u = s.thread u := by
  simp [State.thread, State.updThread, Tbl.get_set_other _ _ _ h]

/-! ## Streams -/

/-- The class of a slot's stream is one of the five (a packet thread stands for the sixth). -/
theorem Slot.strm_setStrm (x : Slot) {cls : Cls} (t : Stream) (h : cls ≠ .net) : (x.setStrm cls t).strm cls = t := by
  cases cls <;> first | rfl | exact absurd rfl h

theorem Slot.setStrm_setStrm (x : Slot) (cls : Cls) (t u : Stream) : (x.setStrm cls t).setStrm cls u = x.setStrm cls u := by
  cases cls <;> rfl

theorem State.strm_updStrm (s : State) {a : Agent} (f : Stream → Stream) (h : agentCls a = .net → ∃ t, a = .thread t) :
    (s.updStrm a f).strm a = f (s.strm a) := by
  cases a with
  | strm c k cls =>
    have hc : cls ≠ .net := by
      intro e
      obtain ⟨t, ht⟩ := h e
      exact Agent.noConfusion ht
    simp [State.strm, State.updStrm, Slot.strm_setStrm _ _ hc]
  | thread t => simp [State.strm, State.updStrm]

/-! ## Registers and predicates (R53, R94) -/

/-- s0 reads 0. -/
@[simp] theorem Stream.reg_zero (t : Stream) : t.reg 0 = 0 := rfl
/-- A write to s0 is discarded. -/
@[simp] theorem Stream.setReg_zero (t : Stream) (v : DWord) : t.setReg 0 v = t := rfl
theorem Stream.reg_setReg (t : Stream) {r : BitVec 6} (v : DWord) (h : r ≠ 0) : (t.setReg r v).reg r = v := by
  unfold Stream.reg Stream.setReg
  rw [if_neg h, if_neg h]
  exact Tbl.get_set_same 0 t.regs r.toNat v
theorem Stream.reg_setReg_other (t : Stream) {r q : BitVec 6} (v : DWord) (h : q ≠ r) : (t.setReg r v).reg q = t.reg q := by
  unfold Stream.reg Stream.setReg
  split
  · rfl
  · split
    · rfl
    · have hn : q.toNat ≠ r.toNat := fun e => h (BitVec.eq_of_toNat_eq e)
      simp [Tbl.get_set_other _ _ _ hn]
/-- p0 reads 1. -/
@[simp] theorem Stream.pred_zero (t : Stream) : t.pred 0 = true := rfl
@[simp] theorem Stream.setPred_zero (t : Stream) (v : Bool) : t.setPred 0 v = t := rfl
@[simp] theorem Stream.setReg_preds (t : Stream) (r : BitVec 6) (v : DWord) : (t.setReg r v).preds = t.preds := by
  unfold Stream.setReg; split <;> rfl
@[simp] theorem Stream.setReg_mode (t : Stream) (r : BitVec 6) (v : DWord) : (t.setReg r v).mode = t.mode := by
  unfold Stream.setReg; split <;> rfl
@[simp] theorem Stream.setPred_regs (t : Stream) (p : BitVec 4) (v : Bool) : (t.setPred p v).regs = t.regs := by
  unfold Stream.setPred; split <;> rfl

end Sys2Proof.Machine
end

