-- ==== Sys2Proof/Laws/Step.lean ====
section
/-! SUPPORT. What a step does around its instruction: the turn it takes, and what the passing of time leaves alone. -/

namespace Sys2Proof

/-- A view of an entry that a change of every entry keeps is kept in the whole table, listed or not. -/
theorem Tbl.get_map_view {α β : Type} (v : α → β) (f : Nat → α → α) (hv : ∀ i x, v (f i x) = v x) (d : α) (t : Tbl α)
    (k : Nat) : v (Tbl.get d (t.map (fun (i, x) => (i, f i x))) k) = v (Tbl.get d t k) := by
  induction t with
  | nil => rfl
  | cons e t ih =>
    obtain ⟨i, x⟩ := e
    simp only [List.map_cons, Tbl.get]
    split
    · exact hv i x
    · exact ih

namespace Machine

/-! ## Time -/

/-- A view of a slot that the end of a core cycle and the counts of cycles do not touch. -/
def slotView {β : Type} (v : Slot → β) : Prop :=
  ∀ (y : Slot) (gl : Option Nat) (rg : SlotRegs) (la : Nat) (fs : Tbl (BitVec 16)) (fc : Tbl FlagCyc) (fp : DWord) (qs : Tbl Queue)
    (es : Option Nat) (hs as : List HeldTrap),
    v { y with gleanSince := gl, regs := { y.regs with req := rg.req }, m := { y.m with lastAdvance := la },
               flags := fs, flagCyc := fc, fpNew := fp, queues := qs, enqSince := es,
               trap := { y.trap with pend := hs, arriving := as } } = v y

/-- Traps that arrive are raised or not: nothing but the held traps changes. -/
theorem Slot.raiseArriving_trap (y : Slot) :
    ∃ hs, y.raiseArriving = { y with trap := { y.trap with pend := hs, arriving := [] } } := by
  unfold Slot.raiseArriving
  generalize y.trap.arriving = as
  suffices h : ∀ (as hs : List HeldTrap), ∃ hs', as.foldl (fun (y : Slot) h =>
      if y.trap.exc then Slot.hold { y with trap := { y.trap with pend := y.trap.pend.filter (fun g => g.cause != h.cause) } } h else y)
      { y with trap := { y.trap with pend := hs, arriving := [] } } =
      { y with trap := { y.trap with pend := hs', arriving := [] } } from h as y.trap.pend
  intro as
  induction as with
  | nil => exact fun hs => ⟨hs, rfl⟩
  | cons a as ih =>
    intro hs
    simp only [List.foldl_cons]
    split
    · exact ih _
    · exact ih hs

theorem Slot.newCycle_view {β : Type} (v : Slot → β) (hv : slotView v) (y : Slot) : v y.newCycle = v y := by
  obtain ⟨hs, h⟩ := y.raiseArriving_trap
  unfold Slot.newCycle
  rw [h]
  exact hv y y.gleanSince y.regs y.m.lastAdvance _ _ _ _ y.enqSince hs []

theorem State.noteStall_view {β : Type} (v : Slot → β) (hv : slotView v) (s : State) (y : Slot) : v (s.noteStall y) = v y :=
  hv y y.gleanSince y.regs y.m.lastAdvance y.flags y.flagCyc y.fpNew y.queues _ y.trap.pend y.trap.arriving

theorem Core.skipCycles_slot {β : Type} (v : Slot → β) (hv : slotView v) (x : Core) (n k : Nat) :
    v ((x.skipCycles n).slot k) = v (x.slot k) :=
  Tbl.get_map_view v
    (fun _ (y : Slot) => { y with gleanSince := y.gleanSince.map (· + n),
                                  m := { y.m with lastAdvance := y.m.lastAdvance + n } })
    (fun _ y => hv y (y.gleanSince.map (· + n)) y.regs (y.m.lastAdvance + n) y.flags y.flagCyc y.fpNew y.queues y.enqSince
      y.trap.pend y.trap.arriving)
    Slot.reset x.slots k

theorem Slot.markGlean_view {β : Type} (v : Slot → β) (hv : slotView v) (y : Slot) (w : Bool) (now : Nat) :
    v (y.markGlean w now) = v y := by
  unfold Slot.markGlean
  split
  · exact hv y _ { y.regs with req := _ } y.m.lastAdvance y.flags y.flagCyc y.fpNew y.queues y.enqSince y.trap.pend y.trap.arriving
  · exact hv y _ y.regs y.m.lastAdvance y.flags y.flagCyc y.fpNew y.queues y.enqSince y.trap.pend y.trap.arriving

theorem State.coreTime_slot {β : Type} (v : Slot → β) (hv : slotView v) (s : State) (n c k : Nat) (x : Core) :
    v ((s.coreTime n c x).slot k) = v (x.slot k) := by
  have h : v (Core.slot { x.markAsked s.cycle with
      slots := (x.markAsked s.cycle).slots.map (fun (k, y) => (k, y.markGlean (s.normalWaits c) s.cycle)) } k) = v (x.slot k) :=
    Tbl.get_map_view v _ (fun _ y => Slot.markGlean_view v hv y _ _) Slot.reset x.slots k
  have h2 : ∀ (y : Core) (off : Nat), v ((if off = 0 then y else y.skipCycles off).slot k) = v (y.slot k) := fun y off => by
    split
    · rfl
    · exact Core.skipCycles_slot v hv y off k
  exact (h2 _ _).trans h

/-- A view of a core that its slots, its units' counts and its record of the cycle's tiles do not touch. -/
def coreView {β : Type} (v : Core → β) : Prop :=
  ∀ (x : Core) (sl : Tbl Slot) (u : Units) (tw : Tbl (Tile × Nat)), v { x with slots := sl, units := u, tilesWas := tw } = v x

theorem State.coreTime_core {β : Type} (v : Core → β) (hv : coreView v) (s : State) (n c : Nat) (x : Core) :
    v (s.coreTime n c x) = v x := by
  have h : ∀ (y : Core) (off : Nat), v (if off = 0 then y else y.skipCycles off) = v y := fun y off => by
    split
    · rfl
    · exact hv y _ _ y.tilesWas
  exact (h _ _).trans (hv x _ _ x.tilesWas)

theorem State.noteStalls_slot {β : Type} (v : Slot → β) (hv : slotView v) (s : State) (c k : Nat) :
    v (s.noteStalls.slot c k) = v (s.slot c k) :=
  Tbl.get_map_view (fun x => v (Core.slot x k))
    (fun _ x => { x with slots := x.slots.map (fun (k, y) => (k, s.noteStall y)) })
    (fun _ x => Tbl.get_map_view v (fun _ y => s.noteStall y) (fun _ y => State.noteStall_view v hv s y) Slot.reset x.slots k)
    (Core.reset c) s.cores c

theorem State.noteStalls_core {β : Type} (v : Core → β) (hv : coreView v) (s : State) (c : Nat) :
    v (s.noteStalls.core c) = v (s.core c) :=
  Tbl.get_map_view v (fun _ x => { x with slots := x.slots.map (fun (k, y) => (k, s.noteStall y)) })
    (fun _ x => hv x _ x.units x.tilesWas) (Core.reset c) s.cores c

/-- The end of a core cycle changes of a slot, and of a core, only what a view of it does not see. -/
theorem State.endCycle_slot {β : Type} (v : Slot → β) (hv : slotView v) (s : State) (c k : Nat) :
    v (s.endCycle.slot c k) = v (s.slot c k) :=
  (State.noteStalls_slot v hv _ c k).trans
    (Tbl.get_map_view (fun x => v (Core.slot x k)) (fun _ x => x.newCycle)
      (fun _ x => Tbl.get_map_view v (fun _ y => y.newCycle) (fun _ y => Slot.newCycle_view v hv y) Slot.reset x.slots k)
      (Core.reset c) s.cores c)

theorem State.endCycle_core {β : Type} (v : Core → β) (hv : coreView v) (s : State) (c : Nat) :
    v (s.endCycle.core c) = v (s.core c) :=
  (State.noteStalls_core v hv _ c).trans
    (Tbl.get_map_view v (fun _ x => x.newCycle) (fun _ x => hv x _ x.units []) (Core.reset c) s.cores c)

/-- The passing of time, and a turn that begins, change of a slot only what a view of it does not see. -/
theorem State.pass_slot {β : Type} (v : Slot → β) (hv : slotView v) (s : State) (n c k : Nat) :
    v ((s.pass n).slot c k) = v (s.slot c k) := by
  unfold State.pass
  split
  · rfl
  · exact (State.endCycle_slot v hv _ c k).trans
      (Tbl.get_map_view (fun x => v (Core.slot x k)) _ (fun c x => State.coreTime_slot v hv s n c k x) (Core.reset c) s.cores c)

theorem State.pass_core {β : Type} (v : Core → β) (hv : coreView v) (s : State) (n c : Nat) :
    v ((s.pass n).core c) = v (s.core c) := by
  unfold State.pass
  split
  · rfl
  · exact (State.endCycle_core v hv _ c).trans
      (Tbl.get_map_view v _ (fun c x => State.coreTime_core v hv s n c x) (Core.reset c) s.cores c)

theorem State.pass_strm (s : State) (n : Nat) (a : Agent) : (s.pass n).strm a = s.strm a := by
  cases a with
  | strm c k cls => exact State.pass_slot (fun x => x.strm cls) (fun _ _ _ _ _ _ _ _ _ _ _ => by cases cls <;> rfl) s n c k
  | thread t => unfold State.pass; split <;> rfl

/-- What the passing of time leaves of the whole part. -/
theorem State.pass_rest (s : State) (n : Nat) :
    (s.pass n).cycle = s.cycle + n ∧ (s.pass n).cryo = s.cryo ∧ (s.pass n).npd = s.npd ∧ (s.pass n).dram = s.dram ∧
    (s.pass n).xl = s.xl ∧ (s.pass n).host = s.host ∧ (s.pass n).hostMem = s.hostMem ∧ (s.pass n).bays = s.bays ∧
    (s.pass n).agenda = s.agenda ∧ (s.pass n).stepNo = s.stepNo ∧ (s.pass n).agent = s.agent := by
  unfold State.pass
  split
  · next h => simp [h]
  · exact ⟨rfl, rfl, rfl, rfl, rfl, rfl, rfl, rfl, rfl, rfl, rfl⟩

/-- The passing of time changes of a partition only what the end of a core cycle does. -/
theorem State.pass_part {β : Type} (v : Part → β) (hv : ∀ x : Part, v x.newCycle = v x) (s : State) (n p : Nat) :
    v ((s.pass n).part p) = v (s.part p) := by
  unfold State.pass
  split
  · rfl
  · exact Tbl.get_map_view v (fun _ x => x.newCycle) (fun _ x => hv x) Part.reset s.parts p

/-- A saved piece keeps its slot-private bytes. -/
theorem Part.newCycle_priv (x : Part) (r : Nat) :
    (match x.newCycle.recs.find? (fun (i, _) => i == r) with | some (_, y) => y.priv | none => []) =
      (match x.recs.find? (fun (i, _) => i == r) with | some (_, y) => y.priv | none => []) := by
  show (match (x.recs.map (fun (i, y) => (i, { y with slot := y.slot.newCycle }))).find? (fun (i, _) => i == r) with
    | some (_, y) => y.priv | none => []) = _
  rw [List.find?_map]
  show (match (x.recs.find? (fun (i, _) => i == r)).map
    (fun (i, y) => (i, { y with slot := y.slot.newCycle })) with | some (_, y) => y.priv | none => []) = _
  cases x.recs.find? (fun (i, _) => i == r) <;> rfl

theorem State.pass_byteAt (s : State) (n : Nat) (m : Store) (a : Nat) : (s.pass n).byteAt m a = s.byteAt m a := by
  have hr := s.pass_rest n
  unfold State.byteAt
  congr 1
  cases m with
  | scratch c => exact State.pass_core (fun x => x.scratch) (fun _ _ _ _ => rfl) s n c
  | plane c p => exact State.pass_core (fun x => x.plane p) (fun _ _ _ _ => rfl) s n c
  | handlers => exact congrArg Npd.handlers hr.2.2.1
  | tiers => exact congrArg Dram.cells hr.2.2.2.1
  | host => exact hr.2.2.2.2.2.2.1
  | crib p r =>
    exact State.pass_part (fun x => match x.recs.find? (fun (i, _) => i == r) with | some (_, y) => y.priv | none => [])
      (fun x => x.newCycle_priv r) s n p

/-! ## Where nothing falls due, the passing of time is all that happens -/

theorem State.replaceDue_none (s : State) (h : s.cryo.replace = []) : s.replaceDue = s := by
  unfold State.replaceDue
  rw [h]
  show { s with cryo := { s.cryo with replace := [] } } = s
  rw [← h]

theorem State.closeAllDue_none (s : State) (h : ∀ r ∈ s.npd.rslots, r.2.deadline = none) : s.closeAllDue = s := by
  have hg : ∀ (t : Tbl RSlot), (∀ r ∈ t, r.2.deadline = none) → ∀ n, (Tbl.get RSlot.reset t n).deadline = none := by
    intro t
    induction t with
    | nil => exact fun _ _ => rfl
    | cons e t ih =>
      intro ht n
      obtain ⟨i, x⟩ := e
      simp only [Tbl.get]
      split
      · exact ht (i, x) (by simp)
      · exact ih (fun r hr => ht r (List.mem_cons_of_mem _ hr)) n
  have hd : ∀ n, s.closeDue n = s := fun n => by
    unfold State.closeDue RSlot.expired
    rw [show (s.rslot n).deadline = none from hg _ h n]
    simp
  unfold State.closeAllDue
  induction s.npd.rslots with
  | nil => rfl
  | cons e t ih => simpa [hd] using ih

theorem State.joinWaits_none (s : State) (h : ∀ r ∈ s.parts, r.2.waits = []) : s.joinWaits = s := by
  unfold State.joinWaits
  suffices hs : ∀ ps : Tbl Part, (∀ r ∈ ps, r.2.waits = []) → ps.foldl (fun (s : State) (p, x) =>
      x.waits.foldl (fun (s : State) _ => s.launchJoin p [] (s.part p).waits) s) s = s from hs _ h
  intro ps
  induction ps with
  | nil => exact fun _ => rfl
  | cons e ps ih =>
    intro hp
    obtain ⟨p, x⟩ := e
    simp only [List.foldl_cons, show x.waits = [] from hp (p, x) (by simp), List.foldl_nil]
    exact ih (fun r hr => hp r (List.mem_cons_of_mem _ hr))

theorem State.startRots_none (s : State) (h : ∀ c, (s.core c).rot = none) (a n : Nat) : s.startRots a n = s := by
  unfold State.startRots
  induction s.cores with
  | nil => rfl
  | cons e t ih => simpa [State.rotParts, h] using ih

theorem State.crossed_rest (s : State) (h : s.nothingDue) (lo hi : Nat) : s.crossed lo hi = s := by
  unfold State.crossed
  simp only [State.replaceDue_none s h.1, State.closeAllDue_none s h.2.2.1, State.joinWaits_none s h.2.1,
    State.startRots_none s h.2.2.2, ite_self]

/-- In a halted part nothing falls due. -/
theorem State.crossed_halted (s : State) (h : s.cryo.halted = true) (lo hi : Nat) : s.crossed lo hi = s := by
  unfold State.crossed
  simp [h]

theorem State.lapse_rest (s : State) (h : s.nothingDue) (n : Nat) : s.lapse n = s.pass n := by
  unfold State.lapse
  split
  · next h0 => subst h0; rfl
  · simp only [State.crossed_rest s h, State.replaceDue_none s h.1, State.startRots_none s h.2.2.2, ite_self]

theorem State.lapse_halted (s : State) (h : s.cryo.halted = true) (n : Nat) : s.lapse n = s.pass n := by
  unfold State.lapse
  split
  · next h0 => subst h0; rfl
  · simp [State.crossed_halted s h, h]

theorem State.pass_nothingDue (s : State) (h : s.nothingDue) (n : Nat) : (s.pass n).nothingDue := by
  have hr := s.pass_rest n
  refine ⟨by rw [hr.2.1]; exact h.1, ?_, by rw [hr.2.2.1]; exact h.2.2.1, fun c => ?_⟩
  · unfold State.pass
    split
    · exact h.2.1
    · intro r hr
      obtain ⟨q, hq, rfl⟩ := List.mem_map.mp hr
      exact h.2.1 q hq
  · exact (State.pass_core (fun x => x.rot) (fun _ _ _ _ => rfl) s n c).trans (h.2.2.2 c)

theorem State.nextAt_rest (s : State) (h : s.nothingDue) (r : Nat) : s.nextAt r = { s.pass 1 with rank := r } := by
  unfold State.nextAt
  rw [State.lapse_rest s h, State.crossed_rest _ (State.pass_nothingDue s h 1)]

theorem State.nextAt_halted (s : State) (h : s.cryo.halted = true) (r : Nat) : s.nextAt r = { s.pass 1 with rank := r } := by
  unfold State.nextAt
  rw [State.lapse_halted s h, State.crossed_halted _ (by rw [(s.pass_rest 1).2.1]; exact h)]

theorem State.enter_pass (s : State) (t : Turn) (h : s.nothingDue ∨ s.cryo.halted = true) :
    ∃ n r, s.enter t = { s.pass n with rank := r } := by
  have hc : ∀ lo hi, s.crossed lo hi = s := fun lo hi =>
    h.elim (fun h => State.crossed_rest s h lo hi) (fun h => State.crossed_halted s h lo hi)
  have hn : ∀ r, s.nextAt r = { s.pass 1 with rank := r } := fun r =>
    h.elim (fun h => State.nextAt_rest s h r) (fun h => State.nextAt_halted s h r)
  unfold State.enter
  split
  · exact ⟨0, s.rank, rfl⟩
  · next lo hi _ =>
    split
    · exact ⟨0, hi, by rw [hc]; rfl⟩
    · exact ⟨1, hi, hn hi⟩

/-! ## Taking a turn -/

/-- The state in which a turn begins: that of the step, its turn taken from the agenda, perhaps in the next core cycle. -/
theorem State.tick_pass (s : State) (h : s.nothingDue ∨ s.cryo.halted = true) :
    ∃ ag n r, s.tick.1 = { State.pass { s with agenda := ag, stepNo := s.stepNo + 1 } n with rank := r } := by
  unfold State.tick
  split
  · obtain ⟨n, r, h⟩ := State.enter_pass { s with agenda := _, stepNo := s.stepNo + 1 } _ h
    exact ⟨_, n, r, h⟩
  · obtain ⟨n, r, h⟩ := State.enter_pass { s with stepNo := s.stepNo + 1 } _ h
    exact ⟨s.agenda, n, r, h⟩

theorem State.tick_cryo (s : State) (h : s.nothingDue ∨ s.cryo.halted = true) : s.tick.1.cryo = s.cryo := by
  obtain ⟨ag, n, r, h⟩ := s.tick_pass h
  rw [h]
  exact (State.pass_rest { s with agenda := ag, stepNo := s.stepNo + 1 } n).2.1

theorem State.tick_strm (s : State) (h : s.nothingDue ∨ s.cryo.halted = true) (a : Agent) : s.tick.1.strm a = s.strm a := by
  obtain ⟨ag, n, r, h⟩ := s.tick_pass h
  rw [h]
  exact State.pass_strm { s with agenda := ag, stepNo := s.stepNo + 1 } n a

/-- The event record that a step moves to partition 0 leaves streams and slots alone. -/
theorem State.sendRecord_core (s : State) (c : Nat) : s.sendRecord.core c = s.core c := by
  unfold State.sendRecord
  simp only
  split
  · rfl
  · split <;> rfl

end Machine
end Sys2Proof
end

