-- ==== Sys2Proof/Tests/Slice0.lean ====
section
/-! SUPPORT. The model's own tests. -/

set_option Elab.async false

open Sys2Proof Sys2Proof.Machine

theorem test_words_scalar1 : decode (some .ctl) [0x000F3002, 0x00002408] = .ok (.add ⟨true, 3⟩ 7 8 (.reg 9)) ∧
    decode (some .str) [0x007E0003, 0x0000003E, 0xFFFFFFFE] = .ok (.add ⟨false, 0⟩ 63 62 (.lit 0xFFFFFFFE)) ∧
    decode (some .ctl) [0x000F3006, 0x00002408] = .ok (.sub ⟨true, 3⟩ 7 8 (.reg 9)) ∧
    decode (some .str) [0x007E0007, 0x0000003E, 0xFFFFFFFE] = .ok (.sub ⟨false, 0⟩ 63 62 (.lit 0xFFFFFFFE)) ∧
    decode (some .ctl) [0x000F300A, 0x00002408] = .ok (.mul ⟨true, 3⟩ 7 8 (.reg 9)) ∧
    decode (some .str) [0x007E000B, 0x0000003E, 0xFFFFFFFE] = .ok (.mul ⟨false, 0⟩ 63 62 (.lit 0xFFFFFFFE)) ∧
    decode (some .ctl) [0x000F300E, 0x00002408] = .ok (.mulh ⟨true, 3⟩ 7 8 (.reg 9)) ∧
    decode (some .ctl) [0x000F3012, 0x00002408] = .ok (.mulhu ⟨true, 3⟩ 7 8 (.reg 9)) ∧
    decode (some .ctl) [0x000F3016, 0x00002408] = .ok (.div ⟨true, 3⟩ 7 8 (.reg 9)) ∧
    decode (some .ctl) [0x000F301A, 0x00002408] = .ok (.divu ⟨true, 3⟩ 7 8 (.reg 9)) := by decide

theorem test_words_scalar2 : decode (some .ctl) [0x000F301E, 0x00002408] = .ok (.rem ⟨true, 3⟩ 7 8 (.reg 9)) ∧
    decode (some .ctl) [0x000F3022, 0x00002408] = .ok (.remu ⟨true, 3⟩ 7 8 (.reg 9)) ∧
    decode (some .ctl) [0x000F3026, 0x00002408] = .ok (.and ⟨true, 3⟩ 7 8 (.reg 9)) ∧
    decode (some .ctl) [0x000F302A, 0x00002408] = .ok (.or ⟨true, 3⟩ 7 8 (.reg 9)) ∧
    decode (some .ctl) [0x000F302E, 0x00002408] = .ok (.xor ⟨true, 3⟩ 7 8 (.reg 9)) ∧
    decode (some .ctl) [0x000F3032, 0x00002408] = .ok (.andn ⟨true, 3⟩ 7 8 (.reg 9)) ∧
    decode (some .ctl) [0x000F3036, 0x00002408] = .ok (.shl ⟨true, 3⟩ 7 8 (.reg 9)) ∧
    decode (some .ctl) [0x000F303A, 0x00002408] = .ok (.shr ⟨true, 3⟩ 7 8 (.reg 9)) ∧
    decode (some .ctl) [0x000F303E, 0x00002408] = .ok (.sra ⟨true, 3⟩ 7 8 (.reg 9)) ∧
    decode (some .ctl) [0x000F3042, 0x00002408] = .ok (.rotl ⟨true, 3⟩ 7 8 (.reg 9)) := by decide

theorem test_words_scalar3 : decode (some .ctl) [0x000F3046, 0x00002408] = .ok (.rotr ⟨true, 3⟩ 7 8 (.reg 9)) ∧
    decode (some .ldr) [0x0002004A, 0x00000002] = .ok (.clz ⟨false, 0⟩ 1 2) ∧
    decode (some .ldr) [0x0002004E, 0x00000002] = .ok (.ctz ⟨false, 0⟩ 1 2) ∧
    decode (some .ldr) [0x00020052, 0x00000002] = .ok (.popc ⟨false, 0⟩ 1 2) ∧
    decode (some .ctl) [0x00060056, 0x00601404] = .ok (.bfx ⟨false, 0⟩ 3 4 (.regs 5 6)) ∧
    decode (some .ctl) [0x08060056, 0x00601404] = .ok (.bfx ⟨false, 0⟩ 3 4 (.imm 5 6)) ∧
    decode (some .ctl) [0x00060057, 0x00000004, 0x00000185] = .ok (.bfx ⟨false, 0⟩ 3 4 (.lit 0x185)) ∧
    decode (some .ctl) [0x0006005A, 0x00601404] = .ok (.bfi ⟨false, 0⟩ 3 4 (.regs 5 6)) ∧
    decode (some .ctl) [0x0806005A, 0x00601404] = .ok (.bfi ⟨false, 0⟩ 3 4 (.imm 5 6)) ∧
    decode (some .ctl) [0x0006005B, 0x00000004, 0x00000185] = .ok (.bfi ⟨false, 0⟩ 3 4 (.lit 0x185)) := by decide

theorem test_words_scalar4 : decode (some .ctl) [0x0004005F, 0x00000000, 0x00000007] = .ok (.movi ⟨false, 0⟩ false false 2 7) ∧
    decode (some .ctl) [0x0804005F, 0x00000000, 0x00000007] = .ok (.movi ⟨false, 0⟩ false true 2 7) ∧
    decode (some .ctl) [0x1004005F, 0x00000000, 0x00000007] = .ok (.movi ⟨false, 0⟩ true false 2 7) ∧
    decode (some .ctl) [0x00020062, 0x50000C02] = .ok (.lea ⟨false, 0⟩ 5 1 2 (.reg 3)) ∧
    decode (some .ctl) [0x00020066, 0x00000C02] = .ok (.min ⟨false, 0⟩ 1 2 (.reg 3)) ∧
    decode (some .ctl) [0x0002006A, 0x00000C02] = .ok (.max ⟨false, 0⟩ 1 2 (.reg 3)) ∧
    decode (some .ctl) [0x0002006E, 0x00000C02] = .ok (.minu ⟨false, 0⟩ 1 2 (.reg 3)) ∧
    decode (some .ctl) [0x00020072, 0x00000C02] = .ok (.maxu ⟨false, 0⟩ 1 2 (.reg 3)) ∧
    decode (some .ctl) [0x281E5076, 0x00000C02] = .ok (.cmp ⟨false, 5⟩ 5 15 2 (.reg 3)) ∧
    decode (some .ctl) [0x0002007A, 0x90000C02] = .ok (.sel ⟨false, 0⟩ 9 1 2 (.reg 3)) := by decide

theorem test_words_scalar5 : decode (some .ctl) [0x3002007E, 0x00000C02] = .ok (.plog ⟨false, 0⟩ 6 1 2 (.pred 3)) := by decide

theorem test_words_short1 : decode (some .ctl) [0x00000000] = .ok (.nop) ∧
    decode (some .ctl) [0x007FDD04] = .ok (.addShortReg 29 30 31) ∧
    decode (some .ctl) [0x007FDD08] = .ok (.subShortReg 29 30 31) ∧
    decode (some .ctl) [0x007FDD0C] = .ok (.andShortReg 29 30 31) ∧
    decode (some .ctl) [0x007FDD10] = .ok (.orShortReg 29 30 31) ∧
    decode (some .ctl) [0x007FDD14] = .ok (.xorShortReg 29 30 31) ∧
    decode (some .ctl) [0x007FDD18] = .ok (.shlShortReg 29 30 31) ∧
    decode (some .ctl) [0x007FDD1C] = .ok (.shrShortReg 29 30 31) ∧
    decode (some .ctl) [0x007FDD20] = .ok (.sraShortReg 29 30 31) ∧
    decode (some .ctl) [0x007FDD24] = .ok (.mulShortReg 29 30 31) := by decide

theorem test_words_short2 : decode (some .ctl) [0x007FDD28] = .ok (.minShortReg 29 30 31) ∧
    decode (some .ctl) [0x007FDD2C] = .ok (.maxShortReg 29 30 31) ∧
    decode (some .ctl) [0x00FFDD40] = .ok (.addShortImm 29 30 63) ∧
    decode (some .ctl) [0x00FFDD44] = .ok (.andShortImm 29 30 63) ∧
    decode (some .ctl) [0x00FFDD48] = .ok (.orShortImm 29 30 63) ∧
    decode (some .ctl) [0x00FFDD4C] = .ok (.xorShortImm 29 30 63) ∧
    decode (some .ctl) [0x00FFDD50] = .ok (.shlShortImm 29 30 63) ∧
    decode (some .ctl) [0x00FFDD54] = .ok (.shrShortImm 29 30 63) ∧
    decode (some .ctl) [0x00FFDD58] = .ok (.sraShortImm 29 30 63) ∧
    decode (some .ctl) [0x80044140] = .ok (.addShortImm 1 2 0x2001) := by decide

theorem test_words_short3 : decode (some .vec) [0x000C4180] = .ok (.vaddBf16Short 1 2 3) ∧
    decode (some .vec) [0x000C4184] = .ok (.vsubBf16Short 1 2 3) ∧
    decode (some .vec) [0x000C4188] = .ok (.vmulBf16Short 1 2 3) ∧
    decode (some .vec) [0x000C418C] = .ok (.vminBf16Short 1 2 3) ∧
    decode (some .vec) [0x000C4190] = .ok (.vmaxBf16Short 1 2 3) ∧
    decode (some .vec) [0x000C4194] = .ok (.fmaBf16Short 1 2 3) ∧
    decode (some .vec) [0x00004198] = .ok (.vmovBf16Short 1 2) ∧
    decode (some .vec) [0x001882A0] = .ok (.vaddFp32Short 2 4 6) ∧
    decode (some .vec) [0x001882A4] = .ok (.vmulFp32Short 2 4 6) ∧
    decode (some .vec) [0x001882A8] = .ok (.fmaFp32Short 2 4 6) := by decide

theorem test_words_short4 : decode (some .mat) [0xFFFFE005] = .ok (.brShort 0x7FFFF) ∧
    decode (some .vec) [0x0000A009] = .ok (.bloopShort 5) ∧
    decode (some .ctl) [0x0000DF0D] = .ok (.callShort 31 6) ∧
    decode (some .ctl) [0x80000311] = .ok (.moviShort 3 0x40000) ∧
    decode (some .ctl) [0x00002315] = .ok (.addShortB 3 1) ∧
    decode (some .ctl) [0x1FFFFF19] = .ok (.fwaitShort 31 0xFFFF) ∧
    decode (some .ctl) [0x0000441D] = .ok (.fsigShort 4 2) := by decide

theorem test_words_control1 : decode (some .mat) [0x00005203, 0x00000000, 0xFFFFFFFF] = .ok (.br ⟨false, 5⟩ 0xFFFFFFFF) ∧
    decode (some .ctl) [0x00000206, 0x08000C02] = .ok (.brx ⟨false, 0⟩ 2 0x20003) ∧
    decode (some .ctl) [0x0012020B, 0x00000000, 0x00000004] = .ok (.call ⟨false, 0⟩ 9 4) ∧
    decode (some .ctl) [0x0012020E, 0x08000C02] = .ok (.callx ⟨false, 0⟩ 9 2 0x20003) ∧
    decode (some .ctl) [0x00000212, 0x00000009] = .ok (.ret ⟨false, 0⟩ 9) ∧
    decode (some .vec) [0x00000217, 0x00000000, 0xFFFFFFFE] = .ok (.bloop ⟨false, 0⟩ 0xFFFFFFFE) ∧
    decode (some .ctl) [0x0000021A, 0x70000005] = .ok (.loop ⟨false, 0⟩ 7 (.reg 5)) ∧
    decode (some .vec) [0x0000021B, 0x00000000, 0x00000004] = .ok (.loop ⟨false, 0⟩ 0 (.lit 4)) ∧
    decode (some .ldr) [0x007E021E, 0x000FFC00] = .ok (.fwait ⟨false, 0⟩ 63 false 0x3FF) ∧
    decode (some .ldr) [0x0004021F, 0x00000000, 0x0000FFFF] = .ok (.fwait ⟨false, 0⟩ 2 true 0xFFFF) := by decide

theorem test_words_control2 : decode (some .mat) [0x007E0222, 0x00000400] = .ok (.fsig ⟨false, 0⟩ 63 false 1) ∧
    decode (some .vec) [0x00020226, 0x00000000] = .ok (.fset ⟨false, 0⟩ 1 false 0) ∧
    decode (some .ctl) [0x0006022A, 0x00000004] = .ok (.fread ⟨false, 0⟩ 3 4) ∧
    decode (some .vec) [0x0000022E, 0x00002400] = .ok (.waitb ⟨false, 0⟩ false 9) ∧
    decode (some .vec) [0x00000232, 0x00000000] = .ok (.shalt ⟨false, 0⟩ none) ∧
    decode (some .str) [0x08120232, 0x00000000] = .ok (.shalt ⟨false, 0⟩ (some 9)) := by decide

theorem test_words_vector1 : decode (some .vec) [0x80140402, 0x5000380C] = .ok (.vadd ⟨⟨false, 0⟩, .bf16, 4, 5, 10, .reg 12, .reg 14, 0⟩) ∧
    decode (some .vec) [0x2014040E, 0x0000380C] = .ok (.vadd ⟨⟨false, 0⟩, .int32, 1, 0, 10, .reg 12, .reg 14, 0⟩) ∧
    decode (some .vec) [0x40140416, 0xF000380C] = .ok (.vsub ⟨⟨false, 0⟩, .fp32, 2, 15, 10, .reg 12, .reg 14, 0⟩) ∧
    decode (some .vec) [0x07FE042A, 0x00000001] = .ok (.vmul ⟨⟨false, 0⟩, .int16, 0, 0, 1023, .reg 1, .reg 0, 0⟩) ∧
    decode (some .vec) [0x88503436, 0x5060042A] = .ok (.fma ⟨⟨false, 3⟩, .fp32, 4, 5, 40, .reg 42, .queue 1, 6⟩) ∧
    decode (some .vec) [0x60020442, 0x1FF00C02] = .ok (.fms ⟨⟨false, 0⟩, .bf16, 3, 1, 1, .reg 2, .reg 3, 255⟩) ∧
    decode (some .vec) [0x2002045A, 0x00300C02] = .ok (.fnma ⟨⟨false, 0⟩, .int16, 1, 0, 1, .reg 2, .reg 3, 3⟩) ∧
    decode (some .vec) [0x0014046E, 0x2000380C] = .ok (.vmin ⟨⟨false, 0⟩, .int32, 0, 2, 10, .reg 12, .reg 14, 0⟩) ∧
    decode (some .vec) [0x0A599472, 0x3000092D] = .ok (.vmax ⟨⟨true, 9⟩, .bf16, 0, 3, 300, .reg 301, .queue 2, 0⟩) ∧
    decode (some .vec) [0x00140486, 0x0000380C] = .ok (.vminnum ⟨⟨false, 0⟩, .fp32, 0, 0, 10, .reg 12, .reg 14, 0⟩) := by decide

theorem test_words_vector2 : decode (some .vec) [0x00140492, 0x0000380C] = .ok (.vmaxnum ⟨⟨false, 0⟩, .bf16, 0, 0, 10, .reg 12, .reg 14, 0⟩) ∧
    decode (some .vec) [0x200204AA, 0x00000002] = .ok (.vabs ⟨⟨false, 0⟩, .int16, 1, 0, 1, .reg 2, .reg 0, 0⟩) ∧
    decode (some .vec) [0x000404B6, 0x00000004] = .ok (.vneg ⟨⟨false, 0⟩, .fp32, 0, 0, 2, .reg 4, .reg 0, 0⟩) ∧
    decode (some .vec) [0x102804CA, 0x7000780F] = .ok (.vand ⟨⟨false, 0⟩, .int16, 0, 7, 20, .queue 15, .reg 30, 0⟩) ∧
    decode (some .vec) [0x102804DE, 0x7000780F] = .ok (.vor ⟨⟨false, 0⟩, .int32, 0, 7, 20, .queue 15, .reg 30, 0⟩) ∧
    decode (some .vec) [0x102804EA, 0x7000780F] = .ok (.vxor ⟨⟨false, 0⟩, .int16, 0, 7, 20, .queue 15, .reg 30, 0⟩) ∧
    decode (some .vec) [0x102804FE, 0x7000780F] = .ok (.vshl ⟨⟨false, 0⟩, .int32, 0, 7, 20, .queue 15, .reg 30, 0⟩) ∧
    decode (some .vec) [0x1028050A, 0x7000780F] = .ok (.vshr ⟨⟨false, 0⟩, .int16, 0, 7, 20, .queue 15, .reg 30, 0⟩) ∧
    decode (some .vec) [0x1028051E, 0x7000780F] = .ok (.vsra ⟨⟨false, 0⟩, .int32, 0, 7, 20, .queue 15, .reg 30, 0⟩) ∧
    decode (some .vec) [0x001E0522, 0x10700C02] = .ok (.vcmp ⟨⟨false, 0⟩, .bf16, 0, 1, 15, .reg 2, .reg 3, 7⟩) := by decide

theorem test_words_vector3 : decode (some .vec) [0x00040536, 0x10901804] = .ok (.vsel ⟨⟨false, 0⟩, .fp32, 0, 1, 2, .reg 4, .reg 6, 9⟩) ∧
    decode (some .vec) [0x00060542, 0x10000004] = .ok (.vmov ⟨⟨false, 0⟩, .bf16, 0, 1, 3, .reg 4, .reg 0, 0⟩) ∧
    decode (some .vec) [0x00040547, 0x10000000, 0x3F800000] = .ok (.vmov ⟨⟨false, 0⟩, .fp32, 0, 1, 2, .reg 0, .lit 1065353216, 0⟩) ∧
    decode (some .vec) [0x20040557, 0x00000004, 0x40000000] = .ok (.vdiv ⟨⟨false, 0⟩, .fp32, 1, 0, 2, .reg 4, .lit 1073741824, 0⟩) ∧
    decode (some .vec) [0x00020562, 0x00000002] = .ok (.vsqrt ⟨⟨false, 0⟩, .bf16, 0, 0, 1, .reg 2, .reg 0, 0⟩) := by decide

theorem test_words_axis1 : decode (some .vec) [0x000A0602, 0x3000FC06] = .ok (.vrotRow ⟨false, 0⟩ .bf16 3 5 6 (.imm 63)) ∧
    decode (some .vec) [0x000A0606, 0x30003C06] = .ok (.vrotCol ⟨false, 0⟩ .bf16 3 5 6 (.imm 15)) ∧
    decode (some .vec) [0x000A060A, 0x3000FC06] = .ok (.vbcastRow ⟨false, 0⟩ .bf16 3 5 6 (.imm 63)) ∧
    decode (some .vec) [0x000A060E, 0x30003C06] = .ok (.vbcastCol ⟨false, 0⟩ .bf16 3 5 6 (.imm 15)) ∧
    decode (some .vec) [0x18080603, 0x30000006, 0x00000009] = .ok (.vrotRow ⟨false, 0⟩ .int32 3 4 6 (.lit 9)) ∧
    decode (some .vec) [0x88080612, 0x10000006] = .ok (.vredRow ⟨false, 0⟩ .fp32 4 1 4 6 0) ∧
    decode (some .vec) [0x100A0616, 0x10200006] = .ok (.vredCol ⟨false, 0⟩ .int16 0 1 5 6 2) ∧
    decode (some .vec) [0x600A061A, 0x21000006] = .ok (.vcvt ⟨false, 0⟩ 3 2 5 6 0x10) ∧
    decode (some .vec) [0x0028061E, 0x12100008] = .ok (.vpack ⟨false, 0⟩ 0 1 20 8 0x21) ∧
    decode (some .vec) [0x00100622, 0x10300015] = .ok (.vunpk ⟨false, 0⟩ 1 8 21 0x03) := by decide

theorem test_words_axis2 : decode (some .vec) [0x00000626, 0x00002010] = .ok (.vrgn ⟨false, 0⟩ 16 (.imm 8)) ∧
    decode (some .vec) [0x0000062A, 0x00000000] = .ok (.vyield ⟨false, 0⟩) ∧
    decode (some .vec) [0x0002062E, 0x00003C02] = .ok (.kand ⟨false, 0⟩ 1 2 15) ∧
    decode (some .vec) [0x00020632, 0x00003C02] = .ok (.kor ⟨false, 0⟩ 1 2 15) ∧
    decode (some .vec) [0x00020636, 0x00003C02] = .ok (.kxor ⟨false, 0⟩ 1 2 15) ∧
    decode (some .vec) [0x0002063A, 0x00003C02] = .ok (.kandn ⟨false, 0⟩ 1 2 15) ∧
    decode (some .vec) [0x0006063E, 0x010103C5] = .ok (.kfill ⟨false, 0⟩ 3 (.long 0x3C5 64 16)) ∧
    decode (some .vec) [0x0006063F, 0x00000000, 0x00210000] = .ok (.kfill ⟨false, 0⟩ 3 (.lit 0x210000)) := by decide

theorem test_words_matrix1 : decode (some .mat) [0x00040802, 0x08000C00] = .ok (.mpset ⟨false, 0⟩ 2 (.imm 0x20003)) ∧
    decode (some .mat) [0x00040803, 0x00000000, 0x00FFFFFF] = .ok (.mpset ⟨false, 0⟩ 2 (.lit 0xFFFFFF)) ∧
    decode (some .mat) [0x18060806, 0x00500000] = .ok (.mm ⟨false, 0⟩ 3 true (some 5)) ∧
    decode (some .mat) [0x00020806, 0x00000000] = .ok (.mm ⟨false, 0⟩ 1 false none) ∧
    decode (some .mat) [0x1806080A, 0x00500000] = .ok (.mmg ⟨false, 0⟩ 3 true (some 5)) ∧
    decode (some .mat) [0x0002080A, 0x00000000] = .ok (.mmg ⟨false, 0⟩ 1 false none) ∧
    decode (some .mat) [0x783E080E, 0x010143F6] = .ok (.acrd ⟨⟨false, 0⟩, true, 31, 2, true, 63, 80, 16, true⟩ true true) ∧
    decode (some .mat) [0x0006080E, 0x06000001] = .ok (.acrd ⟨⟨false, 0⟩, false, 3, 1, false, 0, 0, 96, false⟩ false false) ∧
    decode (some .mat) [0x10040812, 0x00700000] = .ok (.acclr ⟨false, 0⟩ 2 (some 7)) ∧
    decode (some .mat) [0x80080816, 0x22002000] = .ok (.accvt ⟨⟨false, 0⟩, false, 4, 0, false, 0, 8, 32, false⟩ 4 2) := by decide

theorem test_words_matrix2 : decode (some .mat) [0x0800081A, 0x00000005] = .ok (.mscl ⟨false, 0⟩ true 5) ∧
    decode (some .mat) [0x0000081E, 0x00000000] = .ok (.mprog ⟨false, 0⟩) := by decide

theorem test_words_memory1 : decode (some .str) [0xA0020A02, 0x0FFFFC02] = .ok (.ld ⟨false, 0⟩ 5 1 2 (.off 0x3FFFF)) ∧
    decode (some .net) [0x60020A07, 0x00000002, 0x00000008] = .ok (.st ⟨false, 0⟩ 3 1 2 (.lit 8)) ∧
    decode (some .vec) [0x100C0A0A, 0x38000001] = .ok (.vld ⟨false, 0⟩ true 3 6 (.imm 0x8000001)) ∧
    decode (some .vec) [0x000E0A0F, 0x00000000, 0x00000040] = .ok (.vst ⟨false, 0⟩ false 0 7 (.lit 64)) ∧
    decode (some .vec) [0x18120A0E, 0x00100006] = .ok (.vstQ ⟨false, 0⟩ true 9 6 1) ∧
    decode (some .mat) [0x00000A12, 0x40004021] = .ok (.fence ⟨false, 0⟩ 4 0x21 0x10) ∧
    decode (some .ctl) [0x88020A16, 0xD0000C02] = .ok (.amo ⟨false, 0⟩ 8 true true 5 1 2 (.reg 3)) ∧
    decode (some .ctl) [0x00020A17, 0x00000002, 0x00000005] = .ok (.amo ⟨false, 0⟩ 0 false false 0 1 2 (.lit 5)) ∧
    decode (some .ctl) [0x00020A1A, 0x93F00C02] = .ok (.cas ⟨false, 0⟩ false true 1 1 2 3 63) ∧
    decode (some .vec) [0x480C0A1E, 0x20002808] = .ok (.vamo ⟨false, 0⟩ 4 true 2 6 8 (.reg 10)) := by decide

theorem test_words_memory2 : decode (some .vec) [0x00000A1F, 0x00000008, 0x00000001] = .ok (.vamo ⟨false, 0⟩ 0 false 0 0 8 (.lit 1)) ∧
    decode (some .ctl) [0x00020A22, 0x00000C02] = .ok (.marm ⟨false, 0⟩ 1 2 (.off 3)) ∧
    decode (some .net) [0x08020A26, 0x00000C00] = .ok (.mwait ⟨false, 0⟩ true 1 (.reg 3)) := by decide

theorem test_words_streams1 : decode (some .ldr) [0x003E0C02, 0x00000C07] = .ok (.dset ⟨false, 0⟩ 31 7 (.reg 3)) ∧
    decode (some .ctl) [0x08000C06, 0x00000000] = .ok (.drld ⟨false, 0⟩ true 0) ∧
    decode (some .ctl) [0x00120C06, 0x00000000] = .ok (.drld ⟨false, 0⟩ false 9) ∧
    decode (some .ctl) [0x20000C0A, 0x00B01400] = .ok (.sstart ⟨false, 0⟩ .str (.imm 0x2C05)) ∧
    decode (some .ctl) [0x48000C0A, 0x00000004] = .ok (.sstart ⟨false, 0⟩ .vec (.reg 4)) ∧
    decode (some .ctl) [0x90060C0E, 0x00000000] = .ok (.sstop ⟨false, 0⟩ .mat (some 3)) ∧
    decode (some .ctl) [0x18000C0E, 0x00000000] = .ok (.sstop ⟨false, 0⟩ .ldr none) ∧
    decode (some .ldr) [0x00040C12, 0x000FFC03] = .ok (.qput ⟨false, 0⟩ 2 3 (.imm 1023)) ∧
    decode (some .str) [0x08060C16, 0x00002402] = .ok (.qget ⟨false, 0⟩ 3 2 (.reg 9)) ∧
    decode (some .ldr) [0x00060C1B, 0x00000000, 0x00000080] = .ok (.wadv ⟨false, 0⟩ 3 (.lit 0x80)) := by decide

theorem test_words_streams2 : decode (some .ldr) [0x00060C1E, 0x00000800] = .ok (.unfold ⟨false, 0⟩ 3 (.reg 2)) ∧
    decode (some .ldr) [0x08060C1E, 0x00000000] = .ok (.unfold ⟨false, 0⟩ 3 .off) ∧
    decode (some .ldr) [0x00060C1F, 0x00000000, 0x000FFFFF] = .ok (.unfold ⟨false, 0⟩ 3 (.lit 0xFFFFF)) ∧
    decode (some .ctl) [0x00000C22, 0x00000000] = .ok (.pswap ⟨false, 0⟩) := by decide

theorem test_words_tiles1 : decode (some .ctl) [0x10020C42, 0x003009FF] = .ok (.talloc ⟨false, 0⟩ true 1 (.imm 511) (.reg 2) 3) ∧
    decode (some .ctl) [0x08020C43, 0x00000004, 0x00001000] = .ok (.talloc ⟨false, 0⟩ false 1 (.reg 4) (.lit 4096) 0) ∧
    decode (some .ctl) [0x00000C46, 0x00000007] = .ok (.tfree ⟨false, 0⟩ (.imm 7)) ∧
    decode (some .ctl) [0x00000C4A, 0x00000007] = .ok (.tsetFill ⟨false, 0⟩ (.imm 7)) ∧
    decode (some .ctl) [0x10000C4A, 0x00000C07] = .ok (.tsetFillfor ⟨false, 0⟩ (.imm 7) (.reg 3)) ∧
    decode (some .ctl) [0x20000C4A, 0x00000007] = .ok (.tsetDrain ⟨false, 0⟩ (.imm 7)) ∧
    decode (some .ctl) [0x30000C4A, 0x00000007] = .ok (.tsetAbort ⟨false, 0⟩ (.imm 7)) ∧
    decode (some .ctl) [0x40000C4A, 0x00000007] = .ok (.tsetAdv ⟨false, 0⟩ (.imm 7)) ∧
    decode (some .ctl) [0x50000C4A, 0x00000C07] = .ok (.tsetOrg ⟨false, 0⟩ (.imm 7) (.reg 3)) ∧
    decode (some .ctl) [0x60000C4A, 0x00000C07] = .ok (.tsetWstep ⟨false, 0⟩ (.imm 7) (.reg 3)) := by decide

theorem test_words_tiles2 : decode (some .ctl) [0x70000C4A, 0x00000C07] = .ok (.tsetKey ⟨false, 0⟩ (.imm 7) (.reg 3)) ∧
    decode (some .ctl) [0x08020C4E, 0x00000C02] = .ok (.tqry ⟨false, 0⟩ 1 (.reg 2) 3) ∧
    decode (some .str) [0x00000C52, 0x40000005] = .ok (.tpost ⟨false, 0⟩ 4 (.imm 5)) ∧
    decode (some .ctl) [0x18120C56, 0x0040FDFF] = .ok (.trot ⟨false, 0⟩ true 9 511 0x3F (some 4)) ∧
    decode (some .ctl) [0x00020C5A, 0x00000C02] = .ok (.tres ⟨false, 0⟩ 1 2 (some 3)) ∧
    decode (some .ctl) [0x08020C5A, 0x00000002] = .ok (.tres ⟨false, 0⟩ 1 2 none) ∧
    decode (some .ctl) [0x10020C5E, 0x00300805] = .ok (.taddr ⟨false, 0⟩ 1 (.imm 5) 2 (some 3)) ∧
    decode (some .ctl) [0x08020C5E, 0x00000805] = .ok (.taddr ⟨false, 0⟩ 1 (.reg 5) 2 none) := by decide

theorem test_words_tasks1 : decode (some .ctl) [0x00020C82, 0x00000002] = .ok (.enq ⟨false, 0⟩ 1 2) ∧
    decode (some .ctl) [0x00020C86, 0x00000002] = .ok (.enqnb ⟨false, 0⟩ 1 2) ∧
    decode (some .ctl) [0x00020C9A, 0x00000002] = .ok (.glaunch ⟨false, 0⟩ 1 2) ∧
    decode (some .ctl) [0x00020CA6, 0x00000002] = .ok (.glean ⟨false, 0⟩ 1 2) ∧
    decode (some .ctl) [0x00020C8A, 0x00001802] = .ok (.split ⟨false, 0⟩ 1 2 6) ∧
    decode (some .ctl) [0x00000C8F, 0x00000000, 0x00000003] = .ok (.srad ⟨false, 0⟩ (.lit 3)) ∧
    decode (some .ctl) [0x00000C92, 0x00000000] = .ok (.retire ⟨false, 0⟩) ∧
    decode (some .ctl) [0x00080C96, 0x00000000] = .ok (.yield ⟨false, 0⟩ 4) ∧
    decode (some .ctl) [0x08080C9E, 0x00000000] = .ok (.dbar ⟨false, 0⟩ true 4) ∧
    decode (some .ctl) [0x00020CA2, 0x00000C02] = .ok (.pin ⟨false, 0⟩ 1 2 (.reg 3)) := by decide

theorem test_words_tasks2 : decode (some .ldr) [0x18020CC2, 0x0030083F] = .ok (.copy ⟨false, 0⟩ 1 63 (some 2) (some 3)) ∧
    decode (some .ctl) [0x00020CC2, 0x0000003F] = .ok (.copy ⟨false, 0⟩ 1 63 none none) ∧
    decode (some .ctl) [0x007E0CC6, 0x00000C07] = .ok (.tmplw ⟨false, 0⟩ 63 7 (.reg 3)) ∧
    decode (some .ctl) [0x00020CCB, 0x0000003F, 0x00000009] = .ok (.swait ⟨false, 0⟩ 1 63 (.lit 9)) ∧
    decode (some .ctl) [0x00020CCE, 0x00000002] = .ok (.nmc ⟨false, 0⟩ 1 2) ∧
    decode (some .ctl) [0x00020CD2, 0x00000000] = .ok (.nmfence ⟨false, 0⟩ 1) := by decide

theorem test_words_network1 : decode (some .net) [0x00020E02, 0x00000C02] = .ok (.arm ⟨false, 0⟩ 1 2 (.reg 3)) ∧
    decode (some .net) [0x00020E06, 0x00000002] = .ok (.disarm ⟨false, 0⟩ 1 2) ∧
    decode (some .net) [0x00020E0A, 0x00000002] = .ok (.crd ⟨false, 0⟩ 1 2) ∧
    decode (some .net) [0x00020E16, 0x00000002] = .ok (.send ⟨false, 0⟩ 1 2) ∧
    decode (some .net) [0x00020E1E, 0x00000002] = .ok (.rsalloc ⟨false, 0⟩ 1 2) ∧
    decode (some .net) [0x00020E0F, 0x00000002, 0xFFFFFFFF] = .ok (.cadd ⟨false, 0⟩ 1 2 (.lit 0xFFFFFFFF)) ∧
    decode (some .net) [0x00020E12, 0x00000C02] = .ok (.cwait ⟨false, 0⟩ 1 2 (.reg 3)) ∧
    decode (some .net) [0x08000E1A, 0x00000005] = .ok (.hret ⟨false, 0⟩ (some 5)) ∧
    decode (some .net) [0x00000E1A, 0x00000000] = .ok (.hret ⟨false, 0⟩ none) ∧
    decode (some .net) [0x00020E22, 0x03F00C02] = .ok (.rscon ⟨false, 0⟩ 1 2 3 63) := by decide

theorem test_words_network2 : decode (some .net) [0x08020E26, 0x00000002] = .ok (.rsclose ⟨false, 0⟩ true 1 2) ∧
    decode (some .net) [0x10020E2A, 0x00000000] = .ok (.tsrd ⟨false, 0⟩ 2 1) := by decide

theorem test_words_system1 : decode (some .ctl) [0x00013E82, 0x000FFC00] = .ok (.trap ⟨true, 3⟩ (.imm 1023)) ∧
    decode (some .ctl) [0x08000E86, 0x00000000] = .ok (.tret ⟨false, 0⟩ true) ∧
    decode (some .ctl) [0x00020E8A, 0x00011400] = .ok (.sysrd ⟨false, 0⟩ 1 0x045) ∧
    decode (some .ctl) [0x00000E8E, 0x0000A002] = .ok (.syswr ⟨false, 0⟩ 2 0x028) ∧
    decode (some .ctl) [0x00020E92, 0x0003FC00] = .ok (.ppoint ⟨false, 0⟩ 1 (.mask false 0xFF)) ∧
    decode (some .ctl) [0x08020E92, 0x00000000] = .ok (.ppoint ⟨false, 0⟩ 1 (.mask true 0)) ∧
    decode (some .ctl) [0x00020E93, 0x00000000, 0x00000003] = .ok (.ppoint ⟨false, 0⟩ 1 (.lit false 3)) ∧
    decode (some .ctl) [0x00020E96, 0x00000C02] = .ok (.xinv ⟨false, 0⟩ 1 2 3) ∧
    decode (some .ctl) [0x00020E9A, 0x00000002] = .ok (.partStop ⟨false, 0⟩ 1 2) ∧
    decode (some .ctl) [0x08020E9A, 0x00000002] = .ok (.partRelease ⟨false, 0⟩ 1 2) := by decide

theorem test_words_system2 : decode (some .ctl) [0x10020E9A, 0x00000002] = .ok (.partReset ⟨false, 0⟩ 1 2) ∧
    decode (some .ctl) [0x18020E9A, 0x00000002] = .ok (.partRequest ⟨false, 0⟩ 1 2) ∧
    decode (some .net) [0x00020E9E, 0x00000002] = .ok (.cryoQuery ⟨false, 0⟩ 1 2) := by decide

/-- The words that R464 and R470 print. -/
theorem test_words_programs : decode (some .ctl) [0x000E0062, 0x1000100A] = .ok (.lea ⟨false, 0⟩ 1 7 10 (.reg 4)) ∧
    decode (some .ctl) [0x001A0CCE, 0x00000007] = .ok (.nmc ⟨false, 0⟩ 13 7) ∧
    decode (some .ctl) [0x001C0CD2, 0x00000000] = .ok (.nmfence ⟨false, 0⟩ 14) ∧
    decode (some .ctl) [0x002E0056, 0x00905814] = .ok (.bfx ⟨false, 0⟩ 23 20 (.regs 22 9)) ∧
    decode (some .vec) [0x10080A0A, 0x00100000] = .ok (.vld ⟨false, 0⟩ true 0 4 (.imm 0x100000)) ∧
    decode (some .vec) [0x20000A1E, 0x00001804] = .ok (.vamo ⟨false, 0⟩ 2 false 0 0 4 (.reg 6)) ∧
    decode (some .vec) [0x00000A12, 0x00000803] = .ok (.fence ⟨false, 0⟩ 0 3 2) := by decide

/-- R398: PPOINT.ALL takes its two fields with or without a mask. -/
theorem test_words_ppoint : decode (some .ctl) [0x08020E92, 0x00000C00] = .ok (.ppoint ⟨false, 0⟩ 1 (.mask true 3)) ∧
    decode (some .ctl) [0x08020E93, 0x00000000, 0x00000003] = .ok (.ppoint ⟨false, 0⟩ 1 (.lit true 3)) := by decide

/-! ## Ill-formed terms: one for each check of WellFormed.lean, which the check refuses -/

/-- The guard that always acts. -/
def Sys2Proof.Tests.always : Guard := ⟨false, 0⟩

/-- Vector operands of the given type, all registers in their limits. -/
def Sys2Proof.Tests.vargs (ty : VType) : VArgs := ⟨⟨false, 0⟩, ty, 0, 0, 2, .reg 4, .reg 6, 0⟩

/-- A read-out of 96 rows of bank 0 to port 3. -/
def Sys2Proof.Tests.readOut : ReadOutArgs := ⟨⟨false, 0⟩, false, 3, 0, false, 0, 0, 96, false⟩

open Sys2Proof.Tests

/-- Sub-cause 5 of R61, scalar and control instructions. -/
theorem test_wf_codes_scalar : ∀ i ∈ [Instr.bfx always 1 2 (.lit 0x1000), .movi always true true 1 0, .cmp always 8 1 2 (.reg 3),
    .plog always 6 1 2 (.lit 2), .waitb always false 0, .waitb always false 1024], i.codeOk = false := by decide

/-- Sub-cause 5, vector instructions: types, roundings, literals, unused fields, conditions, conversions. -/
theorem test_wf_codes_vector : ∀ i ∈ [Instr.vadd { vargs .bf16 with round := 5 }, .vadd { vargs .int16 with round := 2 },
    .vadd { vargs .bf16 with c := 1 }, .vadd { vargs .bf16 with b := .lit 0x10000 }, .fma { vargs .int32 with round := 3 },
    .vmin { vargs .bf16 with round := 1 }, .vminnum (vargs .int16), .vdiv (vargs .int32), .vsqrt (vargs .bf16), .vand (vargs .fp32),
    .vabs { vargs .bf16 with b := .reg 1 }, .vneg { vargs .bf16 with b := .reg 0, round := 1 }, .vcmp { vargs .int16 with c := 6 },
    .vcmp { vargs .bf16 with c := 8 }, .vsel { vargs .bf16 with c := 16 }, .vmov { vargs .bf16 with b := .reg 6 },
    .vmov { vargs .bf16 with b := .lit 1 }, .vredRow always .int16 0 0 2 4 3, .vredRow always .bf16 1 0 2 4 1,
    .vredCol always .bf16 0 0 2 4 5, .vcvt always 1 0 2 4 0x01, .vcvt always 0 0 2 4 0x11, .vpack always 1 0 2 4 0x45,
    .vunpk always 0 2 4 0x10, .vrotRow always .bf16 0 2 4 (.lit 64), .vrotCol always .bf16 0 2 4 (.lit 16),
    .vrgn always 0 (.lit 2048), .kfill always 1 (.long 0 0x80 0), .kfill always 1 (.long 0 0 0x20),
    .kfill always 1 (.lit 0x400000)], i.codeOk = false := by decide

/-- Sub-cause 5, matrix and memory instructions. -/
theorem test_wf_codes_memory : ∀ i ∈ [Instr.mpset always 0 (.imm 256), .mpset always 4 (.imm 32), .mpset always 5 (.imm 0x80),
    .mpset always 6 (.imm 3), .acrd { readOut with flag := 1 } false false, .accvt readOut 0 0, .accvt readOut 1 4,
    .accvt readOut 5 1, .ld always 7 1 2 (.off 0), .st always 4 1 2 (.off 0), .vstQ always false 1 2 7, .fence always 6 1 1,
    .fence always 5 0 1, .fence always 5 1 0, .fence always 3 0x10 1, .fence always 3 1 0x10, .amo always 9 false false 0 1 2 (.reg 3),
    .amo always 0 false false 1 1 2 (.reg 3), .cas always true false 6 1 2 3 4, .vamo always 9 false 0 0 2 (.reg 4),
    .vamo always 0 false 0 2 2 (.reg 4), .vamo always 0 true 0 2 2 (.queue 4)], i.codeOk = false := by decide

/-- Sub-cause 5, instructions of classes 110 and 111. -/
theorem test_wf_codes_engines : ∀ i ∈ [Instr.sstart always .ctl (.imm 0), .sstop always .net none, .drld always true 1,
    .qput always 1 2 (.imm 0), .unfold always 1 (.lit 0x100000), .talloc always false 1 (.imm 0) (.lit 0x2000) 0,
    .talloc always false 1 (.imm 0) (.lit 1) 2, .tpost always 6 (.imm 0), .srad always (.lit 4), .arm always 1 2 (.lit 0x10000),
    .tsrd always 3 1, .sysrd always 1 0x004, .syswr always 1 0x3FF, .ppoint always 1 (.mask false 256), .ppoint always 1 (.lit false 256)],
    i.codeOk = false := by decide

/-- Steps of units that the module does not have. -/
theorem test_wf_units : ∀ i ∈ [Instr.lineAdvance (.strm 0 0 .net), .streamUnblock (.strm 72 0 .ctl), .transferRowset (.thread 1536),
    .taskBinding 0 4, .freezeStart 72, .handlerStart 64, .gangBinding 12, .rotationStart 0 72, .copyExecution 0 4,
    .residencyViewUpdate 4 0, .nmcLineUpdate 8, .translationWalkComplete (.bay 12) 0 0, .writeQueueDrain 16, .handlerWatchdog 1536,
    .reductionSlotTimeout 256, .hostNop 64, .cryoSettleExpiry 4], i.codeOk = false := by decide

/-- Sub-cause 6 of R61: operands outside their limits, pairs at odd registers. -/
theorem test_wf_limits : ∀ i ∈ [Instr.call always 0 1, .callx always 0 1 0, .callShort 0 1, .shlShortImm 1 2 64,
    .vaddFp32Short 1 2 4, .vadd { vargs .fp32 with d := 3 }, .vmin { vargs .int32 with a := .reg 5 },
    .vsub { vargs .fp32 with b := .reg 7 }, .fma { vargs .fp32 with c := 1 }, .vcmp { vargs .bf16 with d := 16 },
    .vabs { vargs .fp32 with d := 3, b := .reg 0 }, .vsqrt { vargs .fp32 with d := 3, b := .reg 0 },
    .vsel { vargs .fp32 with d := 3 }, .vmov { vargs .fp32 with d := 3, b := .reg 0 }, .vrotRow always .bf16 0 2 4 (.imm 64),
    .vrotCol always .bf16 0 2 4 (.imm 16), .vrotRow always .fp32 0 3 4 (.imm 0), .vredRow always .fp32 0 0 3 4 0,
    .vcvt always 0 0 3 4 0x01, .vpack always 0 0 2 5 0x21, .vpack always 0 0 2 6 0x20, .vunpk always 0 3 4 0x12,
    .vunpk always 0 6 4 0x02, .vrgn always 1020 (.imm 5), .vrgn always 1 (.imm 0), .kfill always 1 (.long 0 65 0),
    .kfill always 1 (.long 0 0 17), .mpset always 0 (.imm 193), .mpset always 1 (.imm 385), .mpset always 4 (.imm 1),
    .mpset always 5 (.imm 96), .mpset always 7 (.imm 0), .acrd { readOut with rows := 0 } false false,
    .acrd { readOut with first := 1 } false false, .accvt { readOut with target := 16 } 0 1, .vld always true 0 3 (.imm 0),
    .vstQ always true 1 3 0, .vamo always 0 true 0 3 2 (.reg 4), .vamo always 0 true 0 2 3 (.reg 4), .vamo always 0 true 0 2 2 (.reg 5),
    .split always 1 2 0, .split always 1 2 7], i.limitOk = false := by decide

/-- Sub-cause 7: GUARD 0 with GSENSE 1. -/
theorem test_wf_guards : (Instr.add ⟨true, 0⟩ 1 2 (.reg 3)).wf = false ∧ (Instr.add ⟨true, 1⟩ 1 2 (.reg 3)).wf = true := by
  decide

/-- The sub-causes of R61 as decode reports them, the lowest where several apply. -/
theorem test_decode_refuses :
    decode (some .ctl) [0x00000002] = .error 1 ∧ decode (some .ctl) [0x00000100] = .error 4 ∧
    decode (some .ctl) [0x00000030] = .error 2 ∧ decode (some .ctl) [0x00000082, 0] = .error 2 ∧
    decode (some .vec) [0x00000002, 0] = .error 3 ∧ decode (some .ctl) [0x0000005E, 0] = .error 4 ∧
    decode (some .ctl) [0x0000004B, 0, 0] = .error 4 ∧ decode (some .ctl) [0x08000002, 0] = .error 5 ∧
    decode (some .ctl) [0x00800002, 0] = .error 6 ∧ decode (some .ctl) [0x00010002, 0] = .error 7 ∧
    decode (some .ctl) [0x08810002, 0] = .error 5 := by decide

/-- A C field that is to be zero, a selector above 6 with any value, an op of TSET above 7, and a non-zero A of LOOP's literal
form (R49, R61, R207, R218; log 99). -/
theorem test_decode_refuses_fields :
    decode (some .ctl) [0x08020C43, 0x04000004, 0x00001000] = .error 5 ∧ decode (some .mat) [0x00100802, 0x00040000] = .error 6 ∧
    decode (some .ctl) [0x80000C4B, 0x00000007, 0] = .error 5 ∧
    decode (some .vec) [0x0000021B, 0x00000001, 0x00000004] = .error 5 := by decide

/-! ## Small states -/

/-- A stream that stands after its line's link word, holding the given scalar registers. -/
def Sys2Proof.Tests.stream (regs : Tbl DWord) : Stream :=
  { Stream.reset with mode := .running, word := 1, reached := true, regs := regs }

/-- A slot that runs a piece of partition 1, its stream of class `cls` at issue. -/
def Sys2Proof.Tests.slotOf (cls : Cls) (regs : Tbl DWord) : Slot :=
  ({ Slot.reset with phase := .running, piece := some loadPiece } : Slot).setStrm cls (stream regs)

/-- That slot as slot 0 of core 0, in a bay of partition 1, the stream being the agent. -/
def Sys2Proof.Tests.machine (cls : Cls) (y : Slot) (x : Core) : State :=
  { State.reset with
    agent := .strm 0 0 cls, cores := [(0, { x with slots := (0, y) :: x.slots })], bays := [(0, { Bay.reset with owner := some 1 })],
    cryo := { Cryo.reset with mstate := 2 } }

/-- A running stream with scalar registers, and nothing else set. -/
def Sys2Proof.Tests.st (cls : Cls) (regs : Tbl DWord) : State := machine cls (slotOf cls regs) (Core.reset 0)

/-- A packet thread of partition 1. -/
def Sys2Proof.Tests.net (regs : Tbl DWord) (p : Part) : State :=
  { st .ctl [] with agent := .thread 0, parts := [(1, p)],
                    npd := { Npd.reset with threads := [(0, { Thread.reset with part := 1, strm := stream regs })] } }

/-- The next state. -/
def Sys2Proof.Tests.ran (i : Instr) (s : State) : State :=
  match exec i s with
  | .next t => t
  | .fault _ => State.reset
  | .refused _ => State.reset

/-- Register `r` of the agent. -/
def Sys2Proof.Tests.regAfter (i : Instr) (s : State) (r : BitVec 6) : DWord := (ran i s).reg s.agent r

/-- A tile of one granule, in the given state for the given producer and consumer, at the start of the tile area. -/
def Sys2Proof.Tests.tile (state prod cons : Nat) : Tile := { Tile.free with state := state, sizeg := 1, prod := prod, cons := cons }

/-- Slot-private bytes that no queue covers: the start of slot 0's private area by the core's own address (R188). -/
def Sys2Proof.Tests.privA : Nat := 0x80800000

def Sys2Proof.Tests.goesOn (o : Host.Outcome State Fault Refusal) : Bool :=
  match o with
  | .next _ => true
  | .fault _ => false
  | .refused _ => false

theorem Sys2Proof.Tests.next_of (o : Host.Outcome State Fault Refusal) (h : goesOn o = true) : ∃ t, o = .next t := by
  cases o with
  | next t => exact ⟨t, rfl⟩
  | fault f => cases h
  | refused r => cases h

/-! ## One step each: results from the spec's worked examples and tables -/

/-- R101, R53: sums wrap; a result addressed to s0 is discarded. -/
theorem test_add_wraps : regAfter (.add always 3 1 (.lit 1)) (st .ctl [(1, -1)]) 3 = 0 ∧
    regAfter (.add always 0 1 (.lit 1)) (st .ctl [(1, 6)]) 0 = 0 := by decide +kernel

/-- R102: the table of borderline results. -/
theorem test_div_edges : regAfter (.div always 3 1 (.lit 0)) (st .ctl [(1, 7)]) 3 = -1 ∧
    regAfter (.rem always 3 1 (.lit 0)) (st .ctl [(1, 7)]) 3 = 7 ∧
    regAfter (.div always 3 1 (.lit 0xFFFFFFFF)) (st .ctl [(1, 0x8000000000000000)]) 3 = 0x8000000000000000 ∧
    regAfter (.rem always 3 1 (.lit 2)) (st .ctl [(1, -7)]) 3 = -1 := by decide +kernel

/-- R103: counts of 64 and more empty the register, or leave its sign; rotations take the count modulo 64. -/
theorem test_shift_counts : regAfter (.shl always 3 1 (.reg 2)) (st .ctl [(1, 1), (2, 64)]) 3 = 0 ∧
    regAfter (.sra always 3 1 (.reg 2)) (st .ctl [(1, -8), (2, 200)]) 3 = -1 ∧
    regAfter (.rotl always 3 1 (.reg 2)) (st .ctl [(1, 1), (2, 65)]) 3 = 2 ∧
    regAfter (.clz always 3 1) (st .ctl [(1, 0)]) 3 = 64 := by decide +kernel

/-- R104, the table "BFX and BFI at their edges". -/
theorem test_bfx_edges : regAfter (.bfx always 7 4 (.imm 8 12)) (st .ctl [(4, 0xF123456789ABCDEF)]) 7 = 0xBCD ∧
    regAfter (.bfx always 7 4 (.imm 60 10)) (st .ctl [(4, 0xF123456789ABCDEF)]) 7 = 0xF ∧
    regAfter (.bfx always 7 4 (.regs 8 9)) (st .ctl [(4, 0xF123456789ABCDEF), (8, 64), (9, 5)]) 7 = 0 ∧
    regAfter (.bfx always 7 4 (.imm 3 0)) (st .ctl [(4, 0xF123456789ABCDEF)]) 7 = 0 := by decide +kernel

theorem test_bfi_edges : regAfter (.bfi always 5 6 (.imm 60 10)) (st .ctl [(6, -1)]) 5 = 0xF000000000000000 ∧
    regAfter (.bfi always 5 6 (.regs 8 9)) (st .ctl [(5, 3), (6, -1), (8, 70), (9, 8)]) 5 = 3 := by decide +kernel

/-- R105: a 64-bit constant takes MOVI.zx and then MOVI.hi. -/
theorem test_movi_halves : regAfter (.movi always false true 2 0x89ABCDEF) (st .ctl []) 2 = 0x89ABCDEF ∧
    regAfter (.movi always true false 2 0xF1234567) (st .ctl [(2, 0x89ABCDEF)]) 2 = 0xF123456789ABCDEF ∧
    regAfter (.movi always false false 2 0x80000000) (st .ctl []) 2 = 0xFFFFFFFF80000000 := by decide +kernel

/-- R107: signed and unsigned comparisons differ. -/
theorem test_cmp_signs : ((ran (.cmp always 2 3 1 (.reg 2)) (st .ctl [(1, -1), (2, 1)])).strm (.strm 0 0 .ctl)).pred 3 = true ∧
    ((ran (.cmp always 4 3 1 (.reg 2)) (st .ctl [(1, -1), (2, 1)])).strm (.strm 0 0 .ctl)).pred 3 = false := by decide +kernel

/-- R110 to R112: a branch offset is signed; CALLX reads its target before the link is written. -/
theorem test_branch_back : ((ran (.br always 0xFFFFFFFF) (st .ctl [])).strm (.strm 0 0 .ctl)).line = -1 ∧
    ((ran (.callx always 5 5 2) (st .ctl [(5, 7)])).strm (.strm 0 0 .ctl)).line = 9 ∧
    regAfter (.callx always 5 5 2) (st .ctl [(5, 7)]) 5 = 0xFFFFFFFFFFFFFFFF := by decide +kernel

/-- R114: LOOP of no trips and of three trips in two stages, as in the chapter's worked example. -/
theorem test_loop_counts : (((ran (.loop always 1 (.lit 0)) (st .ctl [])).strm (.strm 0 0 .ctl)).ecnt = 1) ∧
    (((ran (.loop always 1 (.lit 3)) (st .ctl [])).strm (.strm 0 0 .ctl)).lcnt = 2) ∧
    (((ran (.loop always 1 (.lit 3)) (st .ctl [])).strm (.strm 0 0 .ctl)).preds = 0x101) := by decide +kernel

/-- R117: flags wrap at 2^16. -/
theorem test_flag_wraps :
    let x := (ran (.fsig always 5 false 4) ((st .ctl []).updSlot 0 0 (fun x => { x with flags := [(5, 0xFFFE)] }))).slot 0 0
    x.flag 5 = 0xFFFE ∧ x.newCycle.flag 5 = 2 := by decide +kernel

/-- R118: the first of three wait beats leaves the stream at its place. -/
theorem test_waitb_stays : ((ran (.waitb always false 3) (st .ctl [])).strm (.strm 0 0 .ctl)).word = 1 ∧
    ((ran (.waitb always false 1) (st .ctl [])).strm (.strm 0 0 .ctl)).word = 3 := by decide +kernel

/-- File 04, worked example of R85: FP32 0x3F80C000 to BF16. -/
theorem test_round_bf16 : convert (.fp .bf16) (.fp .fp32) 0x3F80C000 .rne 0 false = (0x3F81, ffNX) ∧
    convert (.fp .bf16) (.fp .fp32) 0x3F80C000 .sr 0x40000000 false = (0x3F81, ffNX) ∧
    convert (.fp .bf16) (.fp .fp32) 0x3F80C000 .sr 0x30000000 false = (0x3F80, ffNX) := by decide +kernel

/-- File 04, worked example of R84: FMA of zero and infinity with three addends. -/
theorem test_fma_nans : fmaOp .bf16 0 0x7F80 0x7FC5 .rne 0 false = (0x7FC5, ffNone) ∧
    fmaOp .bf16 0 0x7F80 0x7FA1 .rne 0 false = (0x7FE1, ffIV) ∧
    fmaOp .bf16 0 0x7F80 0x3F80 .rne 0 false = (0x7FC0, ffIV) := by decide +kernel

/-- File 06, worked example of R151: the conversions of VPACK.e4m3.bf16. -/
theorem test_pack_bytes : convert (.fp .e4m3) (.fp .bf16) 0x43FA .rne 0 false = (0x7E, ffOF ||| ffNX) ∧
    convert (.fp .e4m3) (.fp .bf16) 0x3F80 .rne 0 false = (0x38, ffNone) ∧
    convert (.fp .e4m3) (.fp .bf16) 0xFF80 .rne 0 false = (0x7F, ffIV) ∧
    convert (.fp .e4m3) (.fp .bf16) 0xBFC0 .rne 0 false = (0xBC, ffNone) := by decide +kernel

/-- R79: a sum of zeros that are not all -0 is -0 towards minus infinity, +0 otherwise. -/
theorem test_zero_sums : addOp .fp32 0 0 .rd 0 false = (0x80000000, ffNone) ∧ addOp .fp32 0 0 .rne 0 false = (0, ffNone) ∧
    addOp .fp32 0x80000000 0x80000000 .rne 0 false = (0x80000000, ffNone) := by decide +kernel

/-- R141, R83: square roots and a division by zero. -/
theorem test_sqrt_div : sqrtOp .fp32 0x40800000 .rne 0 false = (0x40000000, ffNone) ∧
    sqrtOp .fp32 0xBF800000 .rne 0 false = (0x7FC00000, ffIV) ∧
    divOp .fp32 0x3F800000 0 .rne 0 false = (0x7F800000, ffDZ) := by decide +kernel

/-- File 06, worked example of R125: a rotating region of three registers after one pass and after two. -/
theorem test_region_turns : let v := (ran (.vrgn always 200 (.imm 3)) (st .vec [])).slot 0 0 |>.v
    v.log 200 = v.reg 200 ∧ v.turn.phys 200 = 202 ∧ v.turn.phys 201 = 200 ∧ v.turn.turn.phys 202 = 200 := by decide +kernel

/-- R261: bytes lie little-endian; a signed load extends. -/
theorem test_load_signs : let s := (st .ctl [(1, 0x80800000)]).withScratch 0 [(0x800000, 0x01), (0x800001, 0x80)]
    regAfter (.ld always 1 3 1 (.off 0)) s 3 = 0x8001 ∧ regAfter (.ld always 5 3 1 (.off 0)) s 3 = 0xFFFFFFFFFFFF8001 ∧
    regAfter (.ld always 0 3 1 (.off 1)) s 3 = 0x80 := by decide +kernel

/-- R261: a store of two bytes touches two bytes. -/
theorem test_store_bytes : ((ran (.st always 1 2 1 (.off 0)) ((st .ctl [(1, 0x80800000), (2, 0x11223344)]).withScratch 0
    [(0x800002, 0x55)])).core 0).scratch = [(0x800000, 0x44), (0x800001, 0x33), (0x800002, 0x55)] := by decide +kernel

/-- R261: an atomic returns the old value; a misaligned one takes cause 7, sub-cause 1, and stores nothing. -/
theorem test_amo : let s := (st .ctl [(1, 0x80800000), (4, 0x80800004)]).withScratch 0 [(0x800000, 5)]
    regAfter (.amo always 0 false false 0 3 1 (.lit 2)) s 3 = 5 ∧
    ((ran (.amo always 0 false false 0 3 1 (.lit 2)) s).core 0).scratch = [(0x800000, 7)] ∧
    ((ran (.amo always 0 false false 0 3 4 (.lit 2)) s).slot 0 0).trap.tcause = 0x0701000000000000 := by decide +kernel

/-- R194, R196: TALLOC takes granule 0 and makes the tile EMPTY; TSET.fill makes it FILLING for this slot (code 0x200). -/
theorem test_tile_life : let s := ran (.talloc always false 3 (.imm 7) (.lit 16) 0) (st .ctl [])
    s.reg s.agent 3 = 0 ∧ (s.core 0).tile 7 = { Tile.free with state := 1, sizeg := 16 } ∧
    ((ran (.tsetFill always (.imm 7)) s).core 0).tile 7 = { Tile.free with state := 2, sizeg := 16, prod := 0x200 } ∧
    ((ran (.tfree always (.imm 8)) s).slot 0 0).trap.tcause = 0x0404000000000000 := by decide +kernel

/-- R170: DSET writes one doubleword of a free descriptor. -/
theorem test_dset : ((ran (.dset always 3 1 (.lit 7)) (st .ldr [])).slot 0 0 |>.desc 3).dw = 7 <<< 64 := by decide +kernel

/-- R181: SSTART of a halted stream, and a wait for a running one. -/
theorem test_sstart : ((ran (.sstart always .vec (.imm 9)) (st .ctl [])).strm (.strm 0 0 .vec)).line = 9 ∧
    ((ran (.sstart always .ctl (.imm 9)) (st .ctl [])).strm (.strm 0 0 .ctl)).mode = .blocked := by decide +kernel

/-- R335, R338: SRAD takes the smaller of its operand and 3; PIN of an unknown task answers 1. -/
theorem test_srad_pin : ((ran (.srad always (.reg 1)) (st .ctl [(1, 9)])).core 0).range = 3 ∧
    regAfter (.pin always 5 6 (.lit 1)) (st .ctl []) 5 = 1 := by decide +kernel

/-- R310, R316: a header at no multiple of 128 answers 1. -/
theorem test_enq_misaligned : regAfter (.enq always 4 1) (st .ctl [(1, 0x80800040)]) 4 = 1 := by decide +kernel

/-- R283: a template of zeros fails its check; R282 writes one doubleword. -/
theorem test_templates : (regAfter (.copy always 4 2 none none) (st .ctl []) 4).getLsbD 63 = true ∧
    ((ran (.tmplw always 2 1 (.lit 9)) (st .ctl [])).core 0).template 2 = 9 <<< 64 := by decide +kernel

/-- R370, R344: a counter of the partition (four from 0x40) is read and advanced; another ends the thread. -/
theorem test_counters : let s := net [(5, 0x41), (6, 0x44)] { Part.reset with npart1 := 0x0000000400000040 }
    let s := s.setCounter 0x41 7
    regAfter (.crd always 3 5) s 3 = 7 ∧ (ran (.cadd always 3 5 (.lit 2)) s).counter 0x41 = 9 ∧
    (ran (.crd always 3 6) s).npd.threads = [] := by decide +kernel

/-- R386, R379: TRAP 5 in a slot with its vector enabled: cause 9, the code in TINFO, the handler's line. -/
theorem test_trap_entry : let s := (st .ctl []).updSlot 0 0 (fun x => { x with trap := { x.trap with tvec := 0x8000000000000123 } })
    let y := (ran (.trap always (.imm 5)) s).slot 0 0
    y.trap.tcause = 0x0900000000000000 ∧ y.trap.tinfo = 5 ∧ y.trap.intrap = true ∧ y.ctl.line = 0x123 ∧
    y.trap.tpc = 0x0000100000000001 := by decide +kernel

/-- R387: TRET outside a handler only advances. -/
theorem test_tret_outside : ((ran (.tret always false) (st .ctl [])).strm (.strm 0 0 .ctl)).word = 3 := by decide +kernel

/-- R399, R400: SYSWR of SYS.FPSTAT clears the bits written as 1; SYS.MON drops its low bits. -/
theorem test_syswr : ((ran (.syswr always 1 0x008) ((st .ctl [(1, 0x6)]).updSlot 0 0 (fun x =>
      { x with regs := { x.regs with fpstat := 0xF } }))).slot 0 0).regs.fpstat = 0x9 ∧
    ((ran (.syswr always 1 0x029) (st .ctl [(1, 0x8000000000000007)])).slot 0 0).regs.mon = 0x8000000000000000 := by decide +kernel

/-- R398: XINV in a tenant's stream is illegal, sub-cause 3; a request to no piece answers 1 in firmware's. -/
theorem test_firmware_only : ((ran (.xinv always 1 2 3) (st .ctl [])).slot 0 0).trap.tcause = 0x0103000000000000 := by decide +kernel

/-- R434: COOL from OFF starts the cooldown. -/
theorem test_cool : let s := { st .ctl [(2, 1)] with cryo := Cryo.reset }
    let t := ran (.cryoCool always 1 2) (s.updSlot 0 0 (fun x => { x with piece := some { loadPiece with part := 0 } }))
    t.cryo.mstate = 1 := by decide +kernel

/-- R437, the chapter's worked example: demand falls from 1,900,000 to 1,200,000 mW. -/
theorem test_limiter : let s := { State.reset with power := { Power.reset with e := 1900000 } }
    let t := (ran (.limiterTick ⟨[], 0, 0, 0, 1200000, 0⟩) s).power
    t.e = 1899900 ∧ t.d = 1200000 ∧ t.duty = 256 := by decide +kernel

/-- The first step of a program (R38): what `withFetchWord` places where the machine fetches, a stream's word or a packet
thread's, is what the step decodes and runs. -/
theorem test_first_step : let s := State.reset.withFetchWord 32 0x0190C540
    (s.tick.1.prepare s.tick.2).2 = some (.addShortImm 5 6 100) ∧
    regAfter (.addShortImm 5 6 100) (s.tick.1.prepare s.tick.2).1 5 = 100 := by decide +kernel

theorem test_first_thread : let s := State.reset.withFetchWord 64 0x0000000008000E2A
    (s.tick.1.prepare s.tick.2).2 = some (.tsrd always 1 0) := by decide +kernel

/-! ## Witnesses: for each statement, states and operands that meet its hypotheses, clause by clause -/

theorem witness_ScalarFormsRoundTrip : Instr.nop.short?.isSome = true ∧ Instr.nop.wf = true ∧
    (Instr.add always 1 2 (.reg 3)).long?.any (fun l => decide (l.opc.toNat < 0x100)) = true ∧
    (Instr.add always 1 2 (.reg 3)).wf = true := by decide

theorem witness_VectorClassesRoundTrip : (Instr.vadd (vargs .bf16)).long?.any
    (fun l => decide (0x100 ≤ l.opc.toNat ∧ l.opc.toNat < 0x200)) = true ∧ (Instr.vadd (vargs .bf16)).wf = true := by decide

theorem witness_EngineClassesRoundTrip : (Instr.cryoCool always 1 2).long?.any (fun l => decide (0x200 ≤ l.opc.toNat)) = true ∧
    (Instr.cryoCool always 1 2).wf = true := by decide

theorem witness_DecodedInstructionsAreWellFormed : decode (some .ctl) [0x0190C540] = .ok (.addShortImm 5 6 100) := by decide

/-- The turn of a stream, of a thread and of an event. -/
theorem witness_StepRunsTheDecodedInstruction :
    (let s := State.reset.withFetchWord 32 0x0190C540
     let u := s.tick.1.begins (.strm 0 0 .ctl)
     s.tick.2 = .agent (.strm 0 0 .ctl) ∧ u.cryo.halted = false ∧ u.forced 0 0 .ctl = none ∧ (u.slot 0 0).phase = .running ∧
     (u.slot 0 0).piece.isSome = true ∧ u.clockOn 0 = true ∧ u.trapDue 0 0 = false ∧ (u.slot 0 0).trap.intrap = false ∧
     (u.strm (.strm 0 0 .ctl)).mode = .running ∧ (u.core 0).mayIssue 0 .ctl u.cycle = true ∧
     (u.strm (.strm 0 0 .ctl)).xfer = none ∧ (u.strm (.strm 0 0 .ctl)).inLine = true ∧
     u.decodeAt (.strm 0 0 .ctl) = .ok (.addShortImm 5 6 100)) ∧
    (let s := State.reset.withFetchWord 32 0x00316A94
     let u := s.tick.1.begins (.strm 0 0 .vec)
     s.tick.2 = .agent (.strm 0 0 .vec) ∧ u.cryo.halted = false ∧ u.forced 0 0 .vec = none ∧ (u.slot 0 0).phase = .running ∧
     (u.slot 0 0).piece.isSome = true ∧ u.clockOn 0 = true ∧ u.trapDue 0 0 = false ∧ (u.slot 0 0).trap.intrap = false ∧
     (u.strm (.strm 0 0 .vec)).mode = .running ∧ (u.core 0).mayIssue 0 .vec u.cycle = true ∧ (u.slot 0 0).late = false ∧
     (u.strm (.strm 0 0 .vec)).xfer = none ∧ (u.strm (.strm 0 0 .vec)).inLine = true ∧
     u.decodeAt (.strm 0 0 .vec) = .ok (.fmaBf16Short 10 11 12)) ∧
    (let s := State.reset.withFetchWord 64 0x0000000008000E2A
     let u := s.tick.1.begins (.thread 0)
     s.tick.2 = .agent (.thread 0) ∧ u.cryo.halted = false ∧ u.npd.threads.any (fun (n, _) => n == 0) = true ∧
     (u.thread 0).strm.mode ≠ .blocked ∧ (u.thread 0).strm.xfer = none ∧ (u.thread 0).strm.inLine = true ∧
     u.decodeAt (.thread 0) = .ok (.tsrd always 1 0)) ∧
    (let s := { State.reset with agenda := [.event .telemetrySample] }
     s.tick.2 = .event .telemetrySample ∧ isEvent .telemetrySample = true ∧ s.cryo.halted = false) := by decide +kernel

theorem witness_HaltedPartStaysHalted :
    let s := { State.reset with agenda := [.event .telemetrySample], cryo := { Cryo.reset with halted := true } }
    s.cryo.halted = true ∧ s.tick.2 ≠ .event .moduleColdReset ∧ ∃ t, step s = .next t :=
  ⟨rfl, by decide +kernel, next_of _ (by decide +kernel)⟩

/-- The guard of most statements: an instruction that acts, in a stream of each class and in a thread; and a short form. -/
theorem witness_acting_streams : (∀ cls ∈ [Cls.ctl, .vec, .mat, .ldr, .str], (st cls []).acts (st cls []).agent always = true ∧
      (st cls []).acts (st cls []).agent ⟨true, 1⟩ = true ∧ ((st cls []).strm (st cls []).agent).skip = false ∧
      realAgent (st cls []).agent = true) ∧
    (net [] Part.reset).acts (.thread 0) always = true := by decide +kernel

/-- SumsAndProducts, DivisionAndRemainder, ScalarResultFrame and LogicShiftsAndMinima over s1 = -7, s2 = 3; both kinds of
shift immediate. -/
theorem witness_SumsAndProducts : let s := st .ctl [(1, -7), (2, 3)]
    s.acts s.agent always = true ∧ (s.strm s.agent).skip = false := by decide +kernel

theorem witness_DivisionAndRemainder : let s := st .ctl [(1, -7), (2, 3), (4, 0x8000000000000000), (5, -1)]
    s.acts s.agent always = true ∧ s.src s.agent (.reg 3) = 0 ∧ s.src s.agent (.reg 2) ≠ 0 ∧
    (s.reg s.agent 4).toInt = -2 ^ 63 ∧ (s.src s.agent (.reg 5)).toInt = -1 := by decide +kernel

theorem witness_LogicShiftsAndMinima : let s := st .ctl [(1, -7), (2, 64)]
    s.acts s.agent always = true ∧ (s.strm s.agent).skip = false ∧ (63 : BitVec 14).toNat ≤ 63 ∧ 63 < (64 : BitVec 14).toNat := by
  decide +kernel

theorem witness_FieldsCountsAndConstants : let s := st .ctl [(1, 1)]
    s.acts s.agent always = true ∧ (s.strm s.agent).skip = false ∧
    (∀ i, i < 64 → 64 - 63 ≤ i → (s.reg s.agent 1).getLsbD i = false) ∧ (s.reg s.agent 1).getLsbD (63 - 63) = true ∧
    (∀ i, i < 64 → (s.reg s.agent 2).getLsbD i = false) := by decide +kernel

theorem witness_AddressesAndSelections : let s := st .ctl [(1, 1)]
    s.acts s.agent always = true ∧ (s.strm s.agent).pred 0 = true ∧ (s.strm s.agent).pred 1 = false := by decide +kernel

theorem witness_ComparisonsAndPredicates : let s := st .ldr [(1, 1)]
    s.acts s.agent always = true ∧ (7 : BitVec 5).toNat ≤ 7 := by decide +kernel

theorem witness_ResultsAndDiscards : realAgent (st .ctl []).agent = true ∧ realAgent (net [] Part.reset).agent = true := by decide

/-- A guard on p1, which is 0; XINV in a stream of partition 0. -/
theorem witness_FailedGuardOnlyIssues : let s := st .ctl []
    let f := s.updSlot 0 0 (fun x => { x with piece := some { loadPiece with part := 0 } })
    (Instr.add ⟨false, 1⟩ 1 2 (.reg 3)).guard? = some ⟨false, 1⟩ ∧ firmwareRow (.add ⟨false, 1⟩ 1 2 (.reg 3)) = false ∧
    s.acts s.agent ⟨false, 1⟩ = false ∧ (Instr.xinv ⟨false, 1⟩ 1 2 3).guard? = some ⟨false, 1⟩ ∧ f.partOf f.agent = 0 ∧
    f.acts f.agent ⟨false, 1⟩ = false := by decide +kernel

theorem witness_ScalarResultFrame : let s := st .ctl [(1, 2)]
    scalarAgent s.agent = true ∧ scalarDest (.add always 3 1 (.lit 1)) = some 3 ∧ ∃ t, exec (.add always 3 1 (.lit 1)) s = .next t :=
  ⟨rfl, rfl, next_of _ (by decide +kernel)⟩

theorem witness_BranchesAndCalls : let s := st .mat []
    s.acts s.agent always = true ∧ (s.strm s.agent).skip = false ∧ realAgent s.agent = true := by decide +kernel

/-- Trips left; drain passes left; the last pass; no loop. -/
theorem witness_HardwareLoops :
    let s (l : Word) (e : BitVec 4) : State := (st .vec []).updStrm (.strm 0 0 .vec) (fun t => { t with lcnt := l, ecnt := e })
    let at1 (l : Word) (e : BitVec 4) : Stream := (s l e).strm (.strm 0 0 .vec)
    (s 1 1).acts (s 1 1).agent always = true ∧ (at1 1 1).skip = false ∧ agentCls (s 1 1).agent = .vec ∧ (at1 1 1).lcnt ≠ 0 ∧
    ((at1 0 2).lcnt = 0 ∧ 1 < (at1 0 2).ecnt.toNat) ∧ ((at1 0 1).lcnt = 0 ∧ (at1 0 1).ecnt = 1) ∧
    ((at1 0 0).lcnt = 0 ∧ (at1 0 0).ecnt = 0) := by decide +kernel

/-- A vector result in flight, and a running product. -/
def Sys2Proof.Tests.flight : InFlight :=
  { ix := 0, due := 3, issued := 0, line := 0, word := 1, dest := .none, lanes := 0, flags := 0, arrived := true,
    fault := none, addr := 0, elem := none, landing := false }

def Sys2Proof.Tests.product (m n : Nat) : ComputeOp :=
  { kind := .mm, seq := 0, bank := 0, ovw := false, sig := none, stat := .running, steps := 0, member := 0, ml := m, nl := n,
    fmts := none, placed := true, begun := true, ftz := false }

theorem witness_CompletionFlags :
    (∀ cls ∈ [Cls.ctl, .vec, .mat], let s := (st cls []).updSlot 0 0 (fun x => { x with flags := [(5, 7)] })
      s.acts s.agent always = true ∧ (s.strm s.agent).skip = false ∧ (7 : BitVec 16).toNat ≤ ((s.own s.agent).flag 5).toNat ∧
      ((s.own s.agent).flag 5).toNat < (8 : BitVec 16).toNat ∧ (s.own s.agent).v.inflight = [] ∧ (s.own s.agent).sigs = [] ∧
      (s.own s.agent).m.cop = none ∧ (s.own s.agent).m.rop = none ∧ (s.own s.agent).m.clr = none ∧ (s.own s.agent).m.gread = none ∧
      (s.own s.agent).m.followOns = [] ∧ (s.own s.agent).flagCyc = [] ∧ (2 : Nat) < 3) ∧
    (let x : Slot := { Slot.reset with v := { VecState.reset with nextIx := 1, inflight := [flight] } }
     x.sigs = [] ∧ ∃ r ∈ x.v.inflight, r.ix < x.v.nextIx) ∧
    (let x : Slot := { Slot.reset with m := { MatState.reset with nextSeq := 1, cop := some (product 1 1) } }
     x.sigs = [] ∧ ∃ o, x.m.cop = some o ∧ o.stat = .running ∧ o.kind = .mm ∧ o.seq < x.m.nextSeq) :=
  ⟨by decide +kernel, ⟨rfl, flight, List.mem_cons_self, by decide⟩, ⟨rfl, product 1 1, rfl, rfl, rfl, by decide⟩⟩

/-- Counts 1 and 2 at the first beat; a loader's, a matrix stream's and a vector stream's halt, with replies there and not. -/
theorem witness_WaitsAndHalts : (∀ cls ∈ [Cls.ctl, .ldr, .str, .mat, .vec], (st cls []).agent = .strm 0 0 cls ∧
      (st cls []).acts (st cls []).agent always = true ∧ ((st cls []).strm (st cls []).agent).waitLeft = 0) ∧
    (1 : BitVec 16).toNat ≤ 1 ∧ 1 < (2 : BitVec 16).toNat ∧ realAgent (.strm 0 0 .ctl) = true ∧
    (let x := (st .mat []).slot 0 0
     x.m.cop = none ∧ x.m.rop = none ∧ x.m.clr = none ∧ x.m.gread = none ∧ x.m.followOns = [] ∧ x.sigs = []) ∧
    (let x : Slot := { slotOf .mat [] with m := { MatState.reset with nextSeq := 1, cop := some (product 1 1) } }
     x.m.cop = some (product 1 1) ∧ (product 1 1).stat = .running ∧ (product 1 1).kind = .mm ∧ (product 1 1).seq < x.m.nextSeq) ∧
    (∀ r ∈ [flight], r.arrived = true ∧ r.fault = none) ∧ ∃ r ∈ [{ flight with arrived := false }], r.arrived = false :=
  ⟨by decide +kernel, by decide, by decide, rfl, by decide +kernel, by decide +kernel, by decide, { flight with arrived := false }, List.mem_cons_self, rfl⟩

/-- Types of both kinds, with registers as sources and with a queue that holds what is needed. -/
theorem witness_VectorArithmetic : (st .vec []).acts (st .vec []).agent (vargs .int16).g = true ∧
    (st .vec []).acts (st .vec []).agent (vargs .fp32).g = true ∧ vInt .int32 = true ∧ vInt .bf16 = false ∧
    ((st .vec []).own (st .vec []).agent).qSay [] 3 = .go := by decide +kernel

/-- Port 2 holds one row-set for the vector stream; a 32-bit source needs two. Port 3 serves no stream. -/
def Sys2Proof.Tests.queued : QEntry := { rows := 0, side := 0, pad := false, last := false, scv := false, fmt := 1 }
def Sys2Proof.Tests.vecQ : State := (st .vec []).updSlot 0 0 (fun x => { x with queues := [(2, ⟨0x19, 0, [queued], 0, 0⟩)] })

theorem witness_VectorQueueSources : vecQ.acts vecQ.agent always = true ∧
    (vecQ.own vecQ.agent).qSay ((qOfA true (.queue 2)).toList ++ (qOfB true (.reg 4)).toList) 3 = .wait ∧
    (vecQ.own vecQ.agent).qSay ((qOfA false (.queue 2)).toList ++ (qOfB false (.reg 4)).toList) 3 = .go ∧
    (vecQ.own vecQ.agent).qSay ((qOfA false (.queue 3)).toList ++ (qOfB false (.reg 4)).toList) 3 = .bad ∧
    ((vecQ.slot 0 0).queue 2).popBy 3 = true ∧ ((vecQ.slot 0 0).queue 2).ready < 2 ∧
    1 ≤ ((vecQ.slot 0 0).queue 2).ready := by decide +kernel

theorem witness_VectorLogicAndSelection : (vecQ.acts vecQ.agent always = true) ∧ (5 : BitVec 8).toNat ≤ 5 ∧ vInt .int16 = true ∧
    vInt .fp32 = false ∧ (vecQ.own vecQ.agent).qSay ((qOfA false (.queue 2)).toList ++ (qOfB false (.reg 4)).toList) 3 = .go := by
  decide +kernel

theorem witness_ShortVectorForms : ((st .vec []).strm (st .vec []).agent).skip = false := by decide +kernel

theorem witness_VectorAxisInstructions : (st .vec []).acts (st .vec []).agent always = true ∧ nsrcNat (.imm 63) < 64 ∧
    nsrcNat (.imm 15) < 16 := by decide +kernel

/-- The first and the second turn of a VYIELD, with a result in flight and with none. -/
theorem witness_MasksRegionAndYield : (st .vec []).acts (st .vec []).agent always = true ∧ nsrcNat (.lit 1024) ≤ 1024 ∧
    ((st .vec []).strm (st .vec []).agent).waitLeft = 0 ∧
    (let s := (st .vec []).updStrm (.strm 0 0 .vec) (fun t => { t with waitLeft := 1 })
     s.acts s.agent always = true ∧ s.agent = .strm 0 0 .vec ∧ (s.strm s.agent).waitLeft ≠ 0 ∧ (s.own s.agent).v.inflight = []) := by
  decide +kernel

theorem witness_VectorResultLands : Slot.reset.v.inflight = [] ∧ Slot.reset.sigs = [] ∧ Slot.reset.v.beat + 3 ≤ 3 ∧
    (VDest.regs [(7, 5)]) = .regs [(7, 5)] ∧ (VDest.mask 15 1) = .mask 15 1 ∧ (15 : Nat) ≠ 0 := by decide +kernel

theorem witness_RoundingKeepsRepresentableValues : ∀ f ∈ [Fmt.fp32, .bf16, .e4m3, .e5m2], (3 : Nat) < 2 ^ f.width ∧ (0 : Nat) < 2 ^ 32 ∧
    isNaN f 3 = false ∧ isInf f 3 = false := by decide

theorem witness_IssueFrame : Cls.vec ≠ .net ∧ Cls.ctl ≠ .net := by decide

/-- A matrix stream's slot: port 1 holds a row-set of FP32 words, port 2 is empty. -/
def Sys2Proof.Tests.matQ : State := (st .mat []).updSlot 0 0 (fun x =>
  { x with queues := [(1, ⟨0x11, 0, [{ queued with fmt := 0 }], 0, 0⟩), (2, ⟨0x11, 0, [], 0, 0⟩)] })

theorem witness_MatrixParameters : matQ.acts matQ.agent always = true ∧ ((matQ.own matQ.agent).queue 2).popBy 2 = true ∧
    ((matQ.own matQ.agent).queue 2).entries = [] ∧ ((matQ.own matQ.agent).queue 1).popBy 2 = true ∧
    ((matQ.own matQ.agent).queue 1).entries.length = 1 ∧
    0 < ((matQ.own matQ.agent).queue 1).ready ∧ ({ queued with fmt := 0 } : QEntry).fmt = 0 := by decide +kernel

/-- A slot with parameters of a product to take, alone and as the leader of a gang of two. -/
def Sys2Proof.Tests.params : MatParams := { MatParams.reset with m := 40, n := 8, k := 40, qa := 1, qb := 2, gr := 2, gc := 1 }
def Sys2Proof.Tests.matP (g : Option GangRef) : Slot :=
  { slotOf .mat [] with m := { MatState.reset with shadow := params, dirty := true }, piece := some { loadPiece with gang := g } }
def Sys2Proof.Tests.leader : State :=
  let s := machine .mat (matP (some ⟨1, 0, [(0, 0), (1, 0)]⟩)) (Core.reset 0)
  s.setSlot 1 0 (matP (some ⟨1, 1, [(0, 0), (1, 0)]⟩))

theorem witness_MatrixProducts :
    (∀ s ∈ [machine .mat (matP none) (Core.reset 0), leader], s.agent = .strm 0 0 .mat ∧ s.acts s.agent always = true ∧
      (s.slot 0 0).m.cop = none ∧ (s.slot 0 0).m.rop = none ∧ (s.slot 0 0).m.share = none ∧ (s.slot 0 0).m.shareR = none ∧
      (s.slot 0 0).m.clr = none ∧ (s.slot 0 0).m.gread = none ∧ s.clockOn 0 = true ∧
      (s.slot 0 0).m.followOns = [] ∧ (s.slot 0 0).sigs = [] ∧ (s.slot 0 0).m.dirty = true) ∧
    params.arow + params.m ≤ 96 ∧ params.acol + params.n ≤ 128 ∧ params.m ≠ 0 ∧ params.n ≠ 0 ∧ params.k ≠ 0 ∧
    MatParams.reset.arow + MatParams.reset.m ≤ 96 ∧ MatParams.reset.m = 0 ∧
    leader.gangOf 0 0 = [(0, 0), (1, 0)] ∧ (∀ k ∈ [(0, 0), (1, 0)], (leader.slot k.1 k.2).inGang [(0, 0), (1, 0)] = true) ∧ [(0, 0), (1, 0)].Nodup ∧ (leader.slot 0 0).gangPlace = some (2, 0) ∧
    (∀ k ∈ [(0, 0), (1, 0)], let y := leader.slot k.1 k.2; y.m.cop = none ∧ y.m.rop = none ∧ y.m.clr = none ∧ y.m.gread = none ∧
      y.m.share = none ∧ y.m.shareR = none ∧ y.m.followOns = []) ∧ gangFits params 2 = true := by decide +kernel

/-- A read-out path that is idle and one that is busy; a running product; a stopped one that MPROG resumes. -/
def Sys2Proof.Tests.reading : ReadOp :=
  { seq := 0, cvt := false, gang := false, tgt := false, target := 3, bank := 0, sig := none, first := 0, rows := 4, int := false,
    lay := false, round := 0, fmt := 0, stat := .running, done := 0, half := false, member := 0, roff := 0, coff := 0, placed := true,
    begun := true, ftz := false, srctx := 0, srbase := 0, srkey := 0, srtensor := 0 }

def Sys2Proof.Tests.matOps (c : Option ComputeOp) (r : Option ReadOp) : State :=
  machine .mat { slotOf .mat [] with m := { MatState.reset with cop := c, rop := r } } (Core.reset 0)

theorem witness_MatrixReadOuts : (matOps none none).agent = .strm 0 0 .mat ∧ (matOps none none).acts (.strm 0 0 .mat) readOut.g = true ∧
    readOut.gang = false ∧ ((matOps none none).slot 0 0).m.pathBusyR = false ∧ ((matOps none (some reading)).slot 0 0).m.pathBusyR = true ∧
    ((matOps (some (product 1 1)) none).slot 0 0).m.busy = true ∧ ((matOps none none).slot 0 0).m.busy = false ∧
    ((matOps none none).slot 0 0).gangPlace = none ∧ ((matOps none none).slot 0 0).m.cop = none ∧
    ((matOps none none).slot 0 0).m.rop = none ∧
    (let s := matOps (some { product 1 1 with stat := .stopped 2, steps := 1 }) none
     (s.slot 0 0).m.busy = false ∧ (s.slot 0 0).m.cop = some { product 1 1 with stat := .stopped 2, steps := 1 } ∧
     (s.slot 0 0).gangPlace = none) ∧
    (let s := matOps none (some { reading with stat := .stopped 3 })
     (s.slot 0 0).m.busy = false ∧ (s.slot 0 0).m.rop = some { reading with stat := .stopped 3 } ∧ reading.gang = false) := by
  decide +kernel

/-- Private bytes of the slot: any access of the slot is allowed there. s1 holds their address. -/
def Sys2Proof.Tests.priv (cls : Cls) : State := (st cls [(1, 0x80800000), (2, 0x80800004)]).withScratch 0 [(0x800000, 7)]

theorem witness_LoadsAndStores : (priv .ctl).acts (priv .ctl).agent always = true ∧
    ((priv .ctl).reg (priv .ctl).agent 1 + offVal (.off 0)).toNat = privA ∧
    (priv .ctl).inScratch .rd privA 8 0 0x800000 ∧ (priv .ctl).inScratch .wr privA 8 0 0x800000 ∧
    (0 : BitVec 3).getLsbD 2 = false ∧ (4 : BitVec 3).getLsbD 2 = true := by
  unfold State.inScratch State.spByte; decide +kernel

/-- A slot with a copy of its control stream under way. -/
def Sys2Proof.Tests.copied : CopyCmd := { t := 0, part := 1, who := some (1, 0, 0), cls := .ctl, host := none }
def Sys2Proof.Tests.copying : State := (priv .ctl).updSlot 0 0 (fun x => { x with adm := [copied] })

theorem witness_AtomicsMonitorsAndFences : (priv .ctl).acts (priv .ctl).agent always = true ∧ (copying.acts copying.agent always = true) ∧
    copying.workOut copying.agent (BitVec.allOnes 6) = true ∧ (priv .ctl).workOut (priv .ctl).agent (BitVec.allOnes 6) = false ∧
    copying.workOut copying.agent 4 = true ∧ (4 : BitVec 3).toNat ≤ 5 ∧ (1 : BitVec 6) ≠ 0 ∧
    ((priv .ctl).reg (priv .ctl).agent 1).toNat % 8 = 0 ∧ ((priv .ctl).reg (priv .ctl).agent 2).toNat % 8 ≠ 0 ∧
    (priv .ctl).inScratch .at privA 8 0 0x800000 ∧ (priv .ctl).inScratch .rd privA 8 0 0x800000 ∧
    ((priv .ctl).mon (priv .ctl).agent).getLsbD 63 = false ∧
    (let s := (priv .ctl).setMon (priv .ctl).agent 0x8000000080800000
     (s.mon s.agent).getLsbD 63 = true ∧ (s.mon s.agent).toNat % 2 ^ 48 = privA ∧ s.inScratch .rd privA 8 0 0x800000 ∧
     (BitVec.ofNat 64 (memNat (s.store (.scratch 0)) 0x800000 8) : DWord) ≠ s.srcZ s.agent (.lit 8) ∧
     (s.srcZ s.agent (.lit 7)).toNat ≤ memNat (s.store (.scratch 0)) 0x800000 8 ∧
     ¬ (s.srcZ s.agent (.lit 8)).toNat ≤ memNat (s.store (.scratch 0)) 0x800000 8 ∧ (s.strm s.agent).mode ≠ .blocked) := by
  unfold State.inScratch State.spByte; decide +kernel

/-- A vector stream with lane 0 enabled in k1 and VBASE at the private bytes; port 2 has room, port 3 is full. -/
def Sys2Proof.Tests.vmem : State := ((priv .vec).updSlot 0 0 (fun x =>
  { x with regs := { x.regs with vbase := 0x80800000 }, v := { x.v with masks := [(1, 1), (2, 0)] },
           queues := [(2, ⟨0x7, 0, [], 0, 0⟩), (3, ⟨0x7, 0, List.replicate 16 queued, 0, 0⟩)] }))

theorem witness_VectorLoadsAndStores : vmem.acts vmem.agent always = true ∧ vmem.agent = .strm 0 0 .vec ∧
    privA + 1024 * 4 ≤ 2 ^ 32 ∧ ((vmem.own vmem.agent).seen.v.mask 1).getLsbD 0 = true ∧
    (∀ e, e < 1024 → ((vmem.own vmem.agent).seen.v.mask 1).getLsbD e = true → e = 0) ∧
    (∀ j, j < 4 → vmem.spByte .rd (privA + j) 0 (0x800000 + j) ∧ vmem.spByte .wr (privA + j) 0 (0x800000 + j)) ∧
    (∀ e, e < 1024 → ((vmem.own vmem.agent).seen.v.mask 2).getLsbD e = false) ∧
    ((vmem.own vmem.agent).queue 2).putBy 3 = true ∧ 2 ≤ ((vmem.own vmem.agent).queue 2).room ∧
    ((vmem.own vmem.agent).queue 3).putBy 3 = true ∧ ((vmem.own vmem.agent).queue 3).room < 1 := by
  unfold State.spByte; decide +kernel

theorem witness_VectorAtomics : vmem.acts vmem.agent always = true ∧ (vmem.strm vmem.agent).again = none ∧
    (List.range 1024).filter (fun e => ((vmem.own vmem.agent).seen.v.mask 1).getLsbD e) = [0] ∧
    ((vmem.own vmem.agent).regs.vbase.toNat + ((vmem.own vmem.agent).seen.v.elems true 0).getD 0 0) % 2 ^ 64 = privA ∧
    privA % 4 = 0 ∧ 0x80000000 ≤ privA ∧ vmem.inScratch .at privA 4 0 (privA - 0x80000000) := by
  unfold State.inScratch State.spByte; decide +kernel

/-- An intact line, and one read through another key. -/
theorem witness_TierLinesReadAndWrite : (64 : Nat) % 64 + 64 ≤ 64 ∧ State.reset.dram.fenced 64 = false ∧
    State.reset.dram.queue (ctrlOf 64) = [] ∧ State.reset.dram.verifies 64 0 = true ∧ State.reset.dram.verifies 64 5 = false ∧
    (64 : Nat) < 2 ^ 42 := by decide +kernel

/-- Descriptors free, unfolded, and held by another stream; a drain point with a token. -/
def Sys2Proof.Tests.holds (h : Option Cls) (x : Slot) : Slot := { x with descs := [(3, { Desc.reset with holder := h })] }

theorem witness_DescriptorsAndPlanes : (∀ cls ∈ [Cls.ctl, .ldr, .str], ((st cls []).updSlot 0 0 (holds none)).acts (.strm 0 0 cls) always = true) ∧
    (((st .ldr []).updSlot 0 0 (holds none)).own (.strm 0 0 .ldr) |>.desc 3).freeFor .ldr = true ∧
    (((st .ldr []).updSlot 0 0 (holds (some .str))).own (.strm 0 0 .ldr) |>.desc 3).freeFor .ldr = false ∧
    ({ Desc.reset with dw := 1 <<< 285 } : Desc).unf = true ∧ Desc.reset.unf = false ∧
    ((st .ldr []).reg (.strm 0 0 .ldr) 0 = (0 : BitVec 20).setWidth 64) ∧
    2 ^ 20 ≤ ((st .ldr [(1, 0x100000)]).reg (.strm 0 0 .ldr) 1).toNat ∧
    ((st .ctl []).core 0).tokens < 3 ∧ 3 ≤ (((st .ctl []).updCore 0 (fun x => { x with tokens := 3 })).core 0).tokens ∧
    (((st .ctl []).updCore 0 (fun x => { x with tokens := 1 })).core 0).tokens ≠ 0 ∧
    (let s := (st .ctl []).updCore 0 (fun x => { x with tokens := 1 })
     (∀ e ∈ (s.core 0).slots, e.2.v.inflight = [] ∧ e.2.midRow = false) ∧ s.planeWrite 0 = false) := by decide +kernel

/-- DRLD of a descriptor whose reload by the stream is still to come, of one held, and of a free one; a core that is at no
drain point. -/
theorem witness_DescriptorsAndPlanes_reload :
    (∀ h ∈ [none, some Cls.str], ∀ r ∈ [([] : List Cls), [.ldr]],
      let s := (st .ldr []).updSlot 0 0 (fun x => { x with descs := [(3, { Desc.reset with holder := h, reload := r })] })
      s.agent = .strm 0 0 .ldr ∧ s.acts s.agent always = true ∧ ((s.slot 0 0).desc 3).holder = h ∧
      (Cls.ldr ∈ ((s.slot 0 0).desc 3).reload ↔ r = [.ldr]) ∧ Cls.ldr ∉ ((s.slot 0 0).desc 4).reload) ∧
    (let s := (st .vec []).updSlot 0 0 (fun x => { x with v := { x.v with inflight := [flight] } })
     ∃ e ∈ (s.core 0).slots, e.2.v.inflight ≠ []) := by
  refine ⟨by decide +kernel, (0, _), List.mem_cons_self, by decide +kernel⟩

/-- A loader's descriptor of one row of BF16 at the private bytes; port 2 from the loader, with room or full; port 4 to the
storer, with a row-set or empty. -/
def Sys2Proof.Tests.row1 : Desc := { Desc.reset with dw := 0x80800000 ||| (0x0001000100010001 <<< 192) ||| (0x440 <<< 256) }
def Sys2Proof.Tests.moving (cls : Cls) (h : Option Cls) (t : Option Xfer) : State := machine cls
  { (slotOf cls [(1, 2)]).setStrm cls { stream [(1, 2)] with xfer := t } with
    descs := [(3, { row1 with holder := h })], queues := [(2, ⟨0x1, 0, [], 0, 0⟩), (3, ⟨0x1, 0, List.replicate 16 queued, 0, 0⟩),
      (4, ⟨0x1, 0, [queued], 0, 0⟩), (5, ⟨0x1, 0, [], 0, 0⟩)] } (Core.reset 0)

/-- The transfer of a stream, whose row-set is formed already or not. -/
def Sys2Proof.Tests.xfer (put : Bool) (q left : Nat) (e : Option QEntry) : Xfer :=
  { put := put, q := q, d := 3, left := left, ftz := false, formed := e.map (fun e => (e, 0)), mid := e.isSome }

def Sys2Proof.Tests.canMove (s : State) (a : Agent) (x : Xfer) (cls : Cls) : Bool :=
  let desc := (s.slot 0 0).desc x.d
  let u := s.updDesc a x.d (fun y => { y with holder := some cls })
  let acc := s.xferAcc 0 0 (.transfer 0 0 cls) desc
  if x.put then (match u.formRows acc desc x.ftz with | (_, .ok _ _ _) => true | _ => false)
  else (match u.writeRows acc 0 desc queued x.ftz with | (_, .ok _ _) => true | _ => false)

/-- Two steps of level 0, in plane space. -/
def Sys2Proof.Tests.planeDesc : Desc := { row1 with dw := row1.dw ||| (2 <<< 260) }

theorem witness_TransfersMoveRowSets_issue :
    (∀ cls ∈ [Cls.ldr, .str], let s := moving cls none none
      s.acts s.agent always = true ∧ (s.strm s.agent).again = none ∧ s.cnt s.agent (.imm 0) = 0 ∧ s.cnt s.agent (.reg 1) = 2 ∧
      ((s.own s.agent).desc 3).freeFor cls = true ∧ (∀ get ∈ [true, false], ((s.own s.agent).desc 3).sound get cls = true) ∧
      ((s.own s.agent).desc 3).space ≠ 2 ∧ ∀ get ∈ [true, false], ((s.own s.agent).desc 4).sound get cls = false) ∧
    (planeDesc.space = 2 ∧ planeDesc.sound false .ldr = true) ∧
    (let s := moving .ldr none none
     ((s.own s.agent).queue 2).putBy (prodCode .ldr) = true ∧ ((s.own s.agent).queue 6).putBy (prodCode .ldr) = false ∧
     2 ≤ ((s.own s.agent).queue 2).room) ∧
    (let s := moving .str none none
     ((s.own s.agent).queue 4).popBy (consCode .str) = true ∧ ((s.own s.agent).queue 6).popBy (consCode .str) = false ∧
     s.cnt s.agent (.imm 1) = 1 ∧ 1 ≤ ((s.own s.agent).queue 4).ready ∧
     ∀ e ∈ ((s.own s.agent).queue 4).entries, e.fmt = ((s.own s.agent).desc 3).qfmt) ∧
    ((moving .ldr (some .str) none).own (.strm 0 0 .ldr) |>.desc 3).freeFor .ldr = false ∧
    (row1.space = 0 ∧ row1.unf = false ∧ row1.scmode = 0 ∧ row1.mfmt = row1.qfmt ∧ (∀ l, l < 4 → row1.count l = 1) ∧
      row1.seg = some privA ∧ row1.seglen = 8) ∧
    (∀ kind ∈ [AKind.rd, .wr], let s := moving .ldr none none
     s.spFor (s.xferAcc 0 0 (.transfer 0 0 .ldr) row1) kind privA 8 0 0x800000) := by
  unfold State.spFor; decide +kernel

theorem witness_TransfersMoveRowSets_step :
    (∀ left ∈ [2, 1], let x := xfer true 2 left none
      let s := moving .ldr (some .ldr) (some x)
      (s.strm (.strm 0 0 .ldr)).xfer = some x ∧ ((s.slot 0 0).desc x.d).holder = some .ldr ∧ x.formed = none ∧
      ((s.slot 0 0).queue x.q).room ≠ 0 ∧ canMove s (.strm 0 0 .ldr) x .ldr = true ∧ ((s.slot 0 0).desc x.d).reload = []) ∧
    (∀ q ∈ [2, 3], let x := xfer true q 1 (some queued)
      let s := moving .ldr (some .ldr) (some x)
      (s.strm (.strm 0 0 .ldr)).xfer = some x ∧ x.formed = some (queued, 0) ∧ (((s.slot 0 0).queue x.q).room = 0 ↔ q = 3)) ∧
    (let s := moving .ldr (some .ldr) (some (xfer true 3 1 none))
     ((s.slot 0 0).queue 3).room = 0 ∧ canMove s (.strm 0 0 .ldr) (xfer true 3 1 none) .ldr = true) ∧
    (((moving .str (some .str) (some (xfer false 5 1 none))).slot 0 0).queue 5).ready = 0 ∧
    (∀ left ∈ [2, 1], let x := xfer false 4 left none
      let s := moving .str (some .str) (some x)
      (s.strm (.strm 0 0 .str)).xfer = some x ∧ ((s.slot 0 0).queue 4).entries = [queued] ∧ ((s.slot 0 0).queue 4).ready ≠ 0 ∧
      queued.fmt = ((s.slot 0 0).desc 3).qfmt ∧ { queued with fmt := 0 }.fmt ≠ ((s.slot 0 0).desc 3).qfmt ∧
      canMove s (.strm 0 0 .str) x .str = true) ∧
    (row1.sound false .ldr = true ∧ row1.sound true .str = true ∧ row1.space = 0 ∧ row1.scmode = 0 ∧ row1.mfmt = row1.qfmt ∧
      (row1.take row1.segs).1.map (·.addr) = [some privA] ∧
      ∀ kind ∈ [AKind.rd, .wr], let s := moving .ldr none none
        s.spFor (s.xferAcc 0 0 (.transfer 0 0 .ldr) row1) kind privA row1.seglen 0 0x800000) ∧
    (row1.i0 < row1.count 0 ∧ row1.i1 < row1.count 1 ∧ row1.i2 < row1.count 2 ∧ row1.i3 < row1.count 3 ∧ row1.unf = false) := by
  unfold State.spFor; decide +kernel

/-- A halted and a running stream; lines reached with and without a fault and a wait; a blocked load. -/
def Sys2Proof.Tests.entering (line : Int) (word : Nat) (mode : SMode) : State :=
  (machine .ctl { (slotOf .ctl [(1, 0x80800000)]) with ctl := { stream [(1, 0x80800000)] with line := line, word := word, reached := false, mode := mode } }
    { Core.reset 0 with plane0 := [(64, 0x00), (67, 0x10), (128, 0x01), (130, 0x20), (131, 0x10), (195, 0xE0), (256, 0xFD), (257, 0xFF)] })

theorem witness_StreamsStartStopAndResume :
    (st .ctl []).agent = .strm 0 0 .ctl ∧ (st .ctl []).acts (.strm 0 0 .ctl) always = true ∧
    ((st .ctl []).slot 0 0).vec.mode = .halted ∧
    (((st .ctl []).updSlot 0 0 (fun x => { x with vec := { x.vec with mode := .running } })).slot 0 0).vec.mode ≠ .halted ∧
    realAgent (.strm 0 0 .ctl) = true ∧ (entering 0 0 .running).reachFault (.strm 0 0 .ctl) 0 = none ∧
    (entering 3 0 .running).reachFault (.strm 0 0 .ctl) 3 = some 2 ∧
    ((entering 0 16 .running).strm (.strm 0 0 .ctl)).word = 16 ∧ (entering 0 16 .running).nextOf (.strm 0 0 .ctl) = 0 ∧
    (entering 2 16 .running).nextOf (.strm 0 0 .ctl) ≠ 0 ∧
    (let s := State.reset.withFetchWord 64 0x0000040140080A02
     let s := s.updStrm (.strm 0 0 .ctl) (fun t => { t with mode := .blocked })
     (s.strm (.strm 0 0 .ctl)).mode = .blocked ∧ s.mayNot (.strm 0 0 .ctl) = false ∧ (s.strm (.strm 0 0 .ctl)).xfer = none ∧
     (s.strm (.strm 0 0 .ctl)).inLine = true ∧ s.decodeAt (.strm 0 0 .ctl) = .ok (.ld always 2 4 1 (.off 1)) ∧
     (Instr.ld always 2 4 1 (.off 1)).long?.isSome = true) := by decide +kernel

/-- SSTOP of a stream that runs, drains or is halted, with replies outstanding and not. -/
theorem witness_StreamsStartStopAndResume_stop :
    (∀ m ∈ [SMode.halted, .running, .blocked, .draining [4]], ∀ fl ∈ [([] : List InFlight), [{ flight with arrived := false }]],
      let s := (st .ctl []).updSlot 0 0 (fun x => { x with vec := { x.vec with mode := m }, v := { x.v with inflight := fl } })
      s.agent = .strm 0 0 .ctl ∧ s.acts s.agent always = true ∧ ((s.slot 0 0).strm .vec).mode = m ∧ (s.slot 0 0).sigs = [] ∧
      ((s.slot 0 0).v.inflight.any (fun r => !r.arrived) = true ↔ fl ≠ []) ∧
      (∀ r ∈ fl, r.fault = none)) ∧
    (let s := (st .ctl []).updSlot 0 0 (fun x => { x with mat := { x.mat with mode := .running }, m := { x.m with cop := some (product 1 1) } })
     ((s.slot 0 0).strm .mat).mode = .running ∧ (s.slot 0 0).m.cop = some (product 1 1) ∧ (product 1 1).kind ≠ .mmg ∧
     (product 1 1).live = true ∧ (s.slot 0 0).m.share = none) ∧
    (let p : PendSig := { vec := true, flag := 3, set := false, val := 1, after := 1 }
     let s := (st .ctl []).updSlot 0 0 (fun x => { x with ldr := { x.ldr with mode := .running }, sigs := [p], v := { x.v with inflight := [flight] } })
     ((s.slot 0 0).strm .ldr).mode = .running ∧ ∀ q ∈ (s.slot 0 0).sigs, (s.slot 0 0).sigReady q = false) := by decide +kernel

/-- Lines reached in order and by NEXT, with a wait that holds, one that has held, and a fault. -/
theorem witness_StreamsStartStopAndResume_lines :
    (let s := entering 2 0 .running
     let w := s.codeWord (.strm 0 0 .ctl) (s.planeOf (.strm 0 0 .ctl)) 2 0
     s.reachFault (.strm 0 0 .ctl) 2 = none ∧ linkWaits w = true ∧ (s.strm (.strm 0 0 .ctl)).passed = false ∧
     ((s.own (.strm 0 0 .ctl)).flag (linkFlag w)).toNat < linkVal w) ∧
    (entering 4 16 .running).nextOf (.strm 0 0 .ctl) = -3 ∧ nextLine 4 (-3) = 1 ∧
    (entering 4 16 .running).reachFault (.strm 0 0 .ctl) 1 = none ∧
    (entering 2 16 .running).nextOf (.strm 0 0 .ctl) = 1 ∧ (entering 2 16 .running).reachFault (.strm 0 0 .ctl) (nextLine 2 1) = some 2 ∧
    (∀ p ∈ [true, false], let s := (entering 2 0 .blocked).updStrm (.strm 0 0 .ctl) (fun t => { t with reached := true, passed := p })
     let t := s.strm (.strm 0 0 .ctl)
     t.mode = .blocked ∧ s.mayNot (.strm 0 0 .ctl) = false ∧ t.xfer = none ∧ t.word = 0 ∧ t.reached = true ∧ t.passed = p) := by
  decide +kernel

/-- Blocked streams: with the units and without, in a transfer, draining. -/
theorem witness_StreamsStartStopAndResume_blocked :
    (∀ v ∈ [true, false], let s := State.reset.withFetchWord 32 0x00316A94
     let s := (s.updStrm (.strm 0 0 .vec) (fun t => { t with mode := .blocked })).updCore 0 (fun x => { x with units := { x.units with valid := v } })
     (s.strm (.strm 0 0 .vec)).mode = .blocked ∧ (s.strm (.strm 0 0 .vec)).xfer = none ∧ (s.strm (.strm 0 0 .vec)).inLine = true ∧
     s.decodeAt (.strm 0 0 .vec) = .ok (.fmaBf16Short 10 11 12) ∧ (Instr.fmaBf16Short 10 11 12).short?.isSome = true ∧
     s.mayNot (.strm 0 0 .vec) = !v) ∧
    (let s := State.reset.withFetchWord 32 0x00010319
     let s := s.updStrm (.strm 0 0 .ctl) (fun t => { t with mode := .blocked })
     s.mayNot (.strm 0 0 .ctl) = false ∧ s.acts (.strm 0 0 .ctl) always = true ∧
     (0 : BitVec 16).toNat ≤ ((s.own (.strm 0 0 .ctl)).flag 3).toNat) ∧
    (let s := (moving .ldr (some .ldr) (some (xfer true 2 1 none))).updStrm (.strm 0 0 .ldr) (fun t => { t with mode := .blocked })
     (s.strm (.strm 0 0 .ldr)).mode = .blocked ∧ s.mayNot (.strm 0 0 .ldr) = false ∧ (s.strm (.strm 0 0 .ldr)).xfer.isSome = true) ∧
    (∀ arr ∈ [true, false], let s := (st .vec []).updSlot 0 0 (fun x =>
        { x with vec := { x.vec with mode := .draining [4] }, v := { x.v with inflight := [{ flight with arrived := arr }] } })
     (s.slot 0 0).vec.mode = .draining [4] ∧ (s.slot 0 0).sigs = [] ∧ ∀ r ∈ (s.slot 0 0).v.inflight, r.arrived = arr ∧ r.fault = none) := by
  decide +kernel

/-- Core 0's tile 5 in a given state, the rest of the area free. -/
def Sys2Proof.Tests.tiled (t : Tile) (y : Slot) : State := machine .ctl y { Core.reset 0 with tiles := [(5, t)] }

theorem witness_TileInstructions :
    (∀ n ∈ [1, 2, 3, 4], let s := tiled (tile n 0x200 0x200) (slotOf .ctl [(1, 512), (2, 5), (3, 7)])
      s.acts s.agent always = true ∧ s.tileNo s.agent (.reg 1) = none ∧ 511 < (s.reg s.agent 1).toNat ∧
      s.tileNo s.agent (.reg 2) = some 5 ∧ ((s.core 0).tile 5).state = n ∧ s.workOut s.agent (BitVec.allOnes 6) = false ∧
      ((s.core 0).tile 5).prod = 0x200 ∧ ((s.core 0).tile 6).state = 0) ∧
    (let s := tiled (tile 1 0 0) (slotOf .ctl [(1, 4096), (3, 7)])
     1 ≤ (s.srcZ s.agent (.lit 4095)).toNat ∧ (s.srcZ s.agent (.lit 4095)).toNat ≤ 4096 ∧ (s.reg s.agent 3).toNat < 2 ^ 32 ∧
     ¬ 1 ≤ (s.srcZ s.agent (.lit 0)).toNat ∧ 1 + 4095 ≤ 4096 ∧
     (∀ e ∈ (s.core 0).tiles, e.2.state ≠ 0 → 1 + 4095 ≤ e.2.baseg ∨ e.2.baseg + e.2.sizeg ≤ 1) ∧
     (∀ b, b < 1 → b + 4096 ≤ 4096 → ∃ e ∈ (s.core 0).tiles, e.2.state ≠ 0 ∧ ¬ (b + 4096 ≤ e.2.baseg ∨ e.2.baseg + e.2.sizeg ≤ b)) ∧
     s.consumerOk 0x200 = true ∧ s.consumerOk 0x800 = false ∧ s.holdsCore (s.partOf s.agent) 0 = true ∧
     s.holdsCore (s.partOf s.agent) 71 = false) ∧
    (let s := (tiled (tile 2 0x201 0) { slotOf .ctl [] with adm := [copied] })
     s.workOut s.agent (BitVec.allOnes 6) = true ∧ ((s.core 0).tile 5).prod ≠ 0x200) ∧
    ({ Tile.free with state := 1, win := true } : Tile).win = true := by decide +kernel

/-- Slot 1 claims tile 5 while slot 0 is blocked at TSET.fill of tile 5 (word 1 of line 4), or of tile 7. -/
def Sys2Proof.Tests.claiming (n : Byte) : State :=
  let y : Slot := { slotOf .ctl [] with ctl := { stream [] with mode := .blocked, line := 4 } }
  let s := machine .ctl y { Core.reset 0 with tiles := [(5, tile 1 0 0)], plane0 := [(260, 0x4A), (261, 0x0C), (264, n)], slots := [(1, slotOf .ctl [])] }
  { s with agent := .strm 0 1 .ctl }

theorem witness_TileInstructions_claims :
    (claiming 5).lowerClaim 0 1 5 1 = true ∧ (claiming 7).lowerClaim 0 1 5 1 = false ∧ (claiming 5).lowerClaim 0 1 5 3 = false ∧
    (claiming 5).acts (.strm 0 1 .ctl) always = true ∧ (claiming 5).tileNo (.strm 0 1 .ctl) (.imm 5) = some 5 ∧
    (tiled (tile 1 0 0) (slotOf .ctl [])).lowerClaim 0 0 5 1 = false ∧ (Core.reset 0).tilesWas = [] ∧ (1 : Nat) ≠ 0 := by decide +kernel

/-- Two cores of bay 0 with a READY and an EMPTY tile, their rotations not yet offered, offered, and started. -/
def Sys2Proof.Tests.spun (r : Option Rot) : State :=
  let x (c : Nat) : Core := { Core.reset c with tiles := [(1, tile 3 0 0), (2, { tile 1 0 0 with baseg := 1 })], rot := r }
  let s := machine .ctl (slotOf .ctl []) (x 0)
  { s with cores := s.cores ++ [(1, x 1)] }
def Sys2Proof.Tests.rot (go : Bool) : Rot := { src := 1, dst := 2, mask := 3, dn := false, slot := 0, uid := 1, sig := none, started := go, line := 0, word := 1 }

theorem witness_RingRotations : ringCores 0 3 = [0, 1] ∧ 0 ∈ ringCores 0 3 ∧ 2 ≤ (ringCores 0 3).length ∧
    (∀ s ∈ [spun none, spun (some (rot false))], s.acts s.agent always = true ∧ ((s.core 0).tile 1).state ≠ 0 ∧
      ((s.core 0).tile 2).state ≠ 0 ∧ ((s.core 0).tile 9).state = 0) ∧
    ((spun none).core 0).rot = none ∧ ((spun none).core 1).rot = none ∧ ((spun (some (rot false))).core 0).rot.isSome = true ∧
    (∀ go ∈ [false, true], ∀ c ∈ ringCores 0 3, let s := spun (some (rot go))
      (s.core c).rot = some (rot go) ∧ (rot go).mask = 3 ∧ (rot go).dn = false ∧ (rot go).src ≠ (rot go).dst ∧ s.clockOn c = true ∧
      ((s.core c).tile 1).state = 3 ∧ ((s.core c).tile 2).state = 1 ∧ (rot go).started = go ∧
      ((s.core (ringNext (ringCores 0 3) false c)).tile 2).sizeg = ((s.core c).tile 1).sizeg) := by decide +kernel

/-- A taskHdr of four indices in a domain at level task, as doublewords and as bytes of the slot's private area; and the same
for a gang of two at level bay, domain 0. -/
def Sys2Proof.Tests.taskHdr (dw4 : DWord) : List DWord := [0, 4, 1, 0, dw4, 0, 0, 0, 0, 0, 0, 0, 0, 0, 0, 0]
def Sys2Proof.Tests.taskMem (hi : Byte) : Memory := [(0x800008, 4), (0x800010, 1), (0x800024, hi)]
def Sys2Proof.Tests.domain0 (level : Nat) : Domain :=
  { level := level, unit := 0, counter := 0, expect := 1, peers := 0, epochx := 0, phase := false, retired := 0, stir := true, sent := false }
def Sys2Proof.Tests.tenant : Part := { Part.reset with live := true, doms := [(domKey 0 0, domain0 0), (domKey 1 0, domain0 1)] }
def Sys2Proof.Tests.asking (hi : Byte) : State :=
  { (st .ctl [(1, 0x80800000), (2, 0x80800040)]).withScratch 0 (taskMem hi) with parts := [(1, tenant)] }

theorem witness_EnqueuedTasksJoinQueues :
    (∀ hi ∈ [(0 : Byte), 0x40], let s := asking hi
      let hdr : List DWord := (List.range 16).map (fun i => .ofNat 64 (memNat (s.store (.scratch 0)) (0x800000 + 8 * i) 8))
      s.agent = .strm 0 0 .ctl ∧ s.acts s.agent always = true ∧ s.ctlToken 0 0 = none ∧ (s.reg s.agent 1).toNat % 128 = 0 ∧
      (s.reg s.agent 2).toNat % 128 ≠ 0 ∧ s.inScratch .rd (s.reg s.agent 1).toNat 128 0 0x800000 ∧
      hdr = taskHdr (hi.setWidth 64 <<< 32)) ∧
    (let s := asking 0
     s.checkHeader 1 .task (taskHdr 0) = 0 ∧ hGlean (taskHdr 0) = false ∧ s.checkHeader 1 .task (taskHdr (1 <<< 36)) = 0 ∧
     s.checkHeader 1 .split (taskHdr 0) = 0 ∧ s.checkHeader 1 .gang (taskHdr 0) ≠ 0) ∧
    (let s := asking 0x40
     s.checkHeader 1 .gang (taskHdr (2 <<< 37)) = 0 ∧ s.checkHeader 1 .task (taskHdr (2 <<< 37)) ≠ 0 ∧
     (s.placeGang (dieOf 0) 1 (taskHdr (2 <<< 37))).2.isSome = true) ∧
    (Die.reset.place [0, 1] [0, 1] (taskHdr 0) false).isSome = true ∧ (0 : Nat) < 3 ∧ (2 : Nat) < 9 := by
  unfold State.inScratch State.spByte; decide +kernel

/-- The rooms of the same statement: no core's queue holds anything, and no bay's gang queue does. -/
theorem witness_EnqueuedTasksJoinQueues_room : (∀ c, ((asking 0).core c).queue.length + 1 ≤ 32 ∧ ((asking 0).core c).ringed = 0) ∧
    (∀ b, ((asking 0x40).bay b).gangs.length < 16) := by
  refine ⟨fun c => ?_, fun b => ?_⟩
  · rcases c with _ | c
    · decide
    · exact ⟨by simp [asking, st, machine, State.withScratch, State.updCore, State.setCore, State.core, Tbl.set, Tbl.get, Core.reset],
        by simp [asking, st, machine, State.withScratch, State.updCore, State.setCore, State.core, Tbl.set, Tbl.get, Core.reset, Core.ringed]⟩
  · rcases b with _ | b
    · decide
    · simp [asking, st, machine, State.withScratch, State.updCore, State.setCore, State.bay, Tbl.get, Bay.reset]

/-- The full queue of the one eligible core, so that ENQNB answers 8: a header of domain 0 at level core. -/
theorem witness_EnqueuedTasksJoinQueues_full :
    let s := (asking 0).updCore 0 (fun x => { x with
      scratch := [(0x800008, 4), (0x800010, 1), (0x800027, 0x20)], queue := List.replicate 32 { piece := loadPiece, saved := none, ring := none } })
    let hdr : List DWord := (List.range 16).map (fun i => .ofNat 64 (memNat (s.store (.scratch 0)) (0x800000 + 8 * i) 8))
    s.checkHeader 1 .task hdr = 0 ∧ s.eligible 1 hdr = [0] ∧ (s.core 0).full = true ∧ s.acts s.agent always = true ∧
    s.ctlToken 0 0 = none ∧ s.inScratch .rd (s.reg s.agent 1).toNat 128 0 0x800000 := by
  unfold State.inScratch State.spByte; decide +kernel

/-- Tasks of core 0's queue, and a partition with a crib of one record at 2^32, whose page the core's translations hold. -/
def Sys2Proof.Tests.waiting : TaskEntry := { piece := { loadPiece with uid := 2, hdr := taskHdr 0, hi := 4, id := 9 }, saved := none, ring := none }
def Sys2Proof.Tests.page : TlbEntry :=
  { unit := .core 0, part := 1, base := 0x100000000, bits := 30, leaf := { pa := 0, key := 1, m := false, cnt := false, nm := false, w := true } }
def Sys2Proof.Tests.busy (y : Slot) : State :=
  let p : Slot := { Slot.reset with phase := .retiring }
  { machine .ctl y { Core.reset 0 with queue := [waiting], slots := [(1, p), (2, p), (3, p)] } with
    parts := [(1, { tenant with crib := 1 <<< 52 ||| 1 <<< 32 })], xl := { Xlate.reset with tlb := [page] },
    dram := { Dram.reset with keys := [(1, ⟨some 1, 0⟩)] } }
def Sys2Proof.Tests.inDomain (level : Nat) : Slot :=
  { slotOf .ctl [] with regs := { SlotRegs.reset with dom := .ofNat 64 (level * 2 ^ 24) } }
/-- The crib's pages stand in core 0's translations, for writes of its pieces. -/
theorem Sys2Proof.Tests.mapped_page {s : State} {x : Acc} (hx : s.xl = { Xlate.reset with tlb := [page] })
    (hd : s.dram = { Dram.reset with keys := [(1, ⟨some 1, 0⟩)] }) (hs : x.space = .virt) (hu : x.unit = .core 0) (hp : x.part = 1) :
    s.mapped x .wr 0x100000000 0x400000 := by
  refine ⟨hs, by decide, by decide, by decide, by simp [hx, Xlate.reset], fun j hj => ⟨page, j, 1, false, ?_, ?_, ?_⟩⟩
  · rw [hx, List.find?_cons_of_pos]
    simp only [TlbEntry.covers, hu, hp, page, Bool.and_eq_true, beq_iff_eq]
    exact ⟨⟨trivial, trivial⟩, by omega⟩
  · have hj2 : (4294967296 + j) % 1073741824 = j := by omega
    have ht : tierOf j = some .near := if_pos (by omega)
    simp [State.useLeaf, page, hd, Dram.key, Tbl.get, hp, hj2, ht]
  · rw [hd]; exact ⟨rfl, rfl⟩

/-- The stores of a record there succeed, and leave every slot. -/
theorem Sys2Proof.Tests.stored {s : State} {k : Nat} (ws : List (Nat × BitVec 512)) (hx : s.xl = { Xlate.reset with tlb := [page] })
    (hd : s.dram = { Dram.reset with keys := [(1, ⟨some 1, 0⟩)] }) (hp : (s.slotSync 0 k).part = 1) :
    ∃ u, s.storeRec (s.slotSync 0 k) 0x100000000 ws = (u, .ok) ∧ ∀ c k, u.slot c k = s.slot c k := by
  obtain ⟨d, -, h⟩ := State.storeRec_mapped ws s _ _ (mapped_page hx hd rfl rfl hp)
  exact ⟨_, h, fun _ _ => rfl⟩

theorem witness_TaskInstructions :
    (let s := busy (slotOf .ctl [(1, 9), (2, 8)])
     s.agent = .strm 0 0 .ctl ∧ s.acts s.agent always = true ∧ 2 < (s.srcZ s.agent (.lit 3)).toNat ∧
     (s.srcZ s.agent (.lit 2)).toNat ≤ 2 ∧ (∀ e ∈ (s.core 0).queue, e.piece.id.toNat ≠ (s.reg s.agent 2).toNat) ∧
     (s.core 0).queue.any (fun e => e.piece.id.toNat == (s.reg s.agent 1).toNat) = true ∧
     (s.slot 0 0).piece.bind (·.gang) = none ∧ s.yieldWanted 0 = true ∧
     (s.part 1).freeRec = some 0 ∧ (s.core 0).roomOnChip = true ∧ (s.slot 0 0).piece = some loadPiece ∧
     memWf (s.store (.scratch 0)) = true) ∧
    (st .ctl []).yieldWanted 0 = false ∧
    (let s := { busy (slotOf .ctl [(1, 9), (2, 8)]) with parts := [(1, tenant)] }
     s.yieldWanted 0 = true ∧ (s.part 1).freeRec = none ∧ (s.slot 0 0).piece = some loadPiece) ∧
    (let s := st .ctl []
     (s.updSlot 0 0 (fun x => { x with piece := some { loadPiece with gang := some ⟨1, 0, [(0, 0)]⟩ } }) |>.slot 0 0).piece.bind (·.gang) ≠ none) ∧
    (∀ level ∈ [0, 1], let s := { machine .ctl (inDomain level) (Core.reset 0) with parts := [(1, tenant)] }
      let r := (s.slot 0 0).regs.dom
      s.acts s.agent always = true ∧ (s.slot 0 0).ctl.token = none ∧ r.toNat / 2 ^ 24 % 8 = level ∧
      s.workOut s.agent (BitVec.allOnes 6) = false ∧ ((s.part (s.partOf s.agent)).dom level 0).isSome = true) ∧
    (let y := inDomain 1
     let x := { y with ctl := { y.ctl with token := some 0, held := 1 } }
     x.ctl.token = some 0 ∧ x.regs.dom.toNat / 2 ^ 32 % 2 ^ 16 ≠ x.ctl.held.toNat) := by decide +kernel

/-- Slots and queues of two cores of bay 0 around their events. -/
def Sys2Proof.Tests.two (y : Slot) (q0 q1 : List TaskEntry) : State :=
  let s := machine .ctl y { Core.reset 0 with queue := q0, range := 3 }
  { s with
    cores := s.cores ++ [(1, { Core.reset 1 with queue := q1, slots := [(1, slotOf .ctl [])] })], parts := [(1, tenant)],
    dies := [(0, { Die.reset with view := [(1, { CoreView.reset with queued := 1 })] })] }

theorem witness_TaskEvents_binding :
    (let s := two Slot.reset [waiting] []
     (s.slot 0 0).phase = .free ∧ s.mayBind 0 0 = true ∧ s.nextEntry 0 = some (0, waiting) ∧ waiting.saved = none ∧
     0 < (s.core 0).onchip ∧ (s.core 0).ringed = 0) := by decide +kernel

theorem witness_TaskEvents_retirement :
    (∀ h ∈ [taskHdr 0, (taskHdr (2 <<< 40)).set 5 0x140], let q := { loadPiece with hdr := h, hi := 4 }
      let s := two { slotOf .ctl [] with phase := .retiring, piece := some q } [] []
      (s.slot 0 0).piece = some q ∧ (s.slot 0 0).phase = .retiring ∧ s.quiet 0 0 q.uid = true ∧ q.gang = none ∧
      (hCkind h = 0 ∨ hCkind h = 2 ∧ hTarget h = 256 * 1 + 64 * 1 + 0 ∧ (s.slot 1 1).piece.isSome = true ∧ (s.slot 1 1).phase ≠ .restoring ∧ (s.slot 1 1).sigs = [])) := by
  decide +kernel

theorem witness_TaskEvents_launch :
    (let w : WaitLaunch := { piece := waiting.piece, target := 0, gang := false, host := none }
     let s := { st .ctl [] with parts := [(1, { tenant with waits := [w] })] }
     (s.part 1).waits = [w] ∧ hGang w.piece.hdr = 0 ∧ w.host = none ∧ (s.core 0).ringBlocked = false ∧ (s.core 0).queue.length < 32 ∧ (s.core 0).ringed = 0) := by decide +kernel

theorem witness_TaskEvents_request :
    (∀ now ∈ [0, 64], let s := { two (slotOf .ctl []) [] [waiting] with cycle := now }
     (s.core 0).steal = none ∧ (s.core 0).stealAt ≤ s.cycle ∧ s.idle 0 = true ∧ ((s.bay 0).owner).getD 0 = 1 ∧
     (s.freshViews 0 1).candidates 0 = [1] ∧ 1 ∈ s.coresOf 1 ∧ (((s.die 0).core 1).at1 + 64 ≤ s.cycle ↔ now = 64)) := by decide +kernel

theorem witness_TaskEvents_answer :
    let e (r hi : DWord) : TaskEntry := { waiting with piece := { waiting.piece with hdr := taskHdr r, hi := hi } }
    let s (r hi : DWord) : State := (two (slotOf .ctl []) [] [e r hi]).updCore 0 (fun x => { x with steal := some 1 })
    let code (r hi : DWord) : Nat := match (s r hi).loot 0 1 (e r hi) with | .refuse => 0 | .whole => 1 | .upper m => 2 + m
    ((s 0 4).core 0).steal = some 1 ∧ ((s 0 4).core 1).tailEntry = some (0, e 0 4) ∧ ((s 0 4).core 1).ringed = 0 ∧
    ((s 0 4).core 0).ringed = 0 ∧ ((s 0 4).core 0).queue.length < 32 ∧ code 0 4 = 0 ∧ code 0x300000000 1 = 1 ∧ code 0x300000000 4 = 4 := by decide +kernel

theorem witness_TaskEvents_gang :
    (let g : Gang := { ticket := 7, piece := waiting.piece, size := 2, after := none, slots := [(0, 1), (1, 0)], saved := [] }
     let s := { st .ctl [] with bays := [(0, { Bay.reset with owner := some 1, gangs := [g] })] }
     (s.bay 0).gangs = [g] ∧ g.slots.length = g.size ∧ g.saved = [] ∧ s.dieRuns 0 = true ∧ s.domainRoom g.piece = true ∧ g.slots.Nodup) := by decide +kernel

/-- A domain at level core: no member; a member that is not stalled; one blocked at ENQ for 8,192 cycles; a barrier before
its sum has come and after. -/
def Sys2Proof.Tests.memberAt (level : DWord) (y : Slot) (now : Nat) : State :=
  { machine .ctl { y with piece := some { loadPiece with hdr := taskHdr (level <<< 61), hi := 1, arrived := some 0 } }
    { Core.reset 0 with queue := List.replicate 32 waiting } with
    parts := [(1, tenant)], cycle := now }
def Sys2Proof.Tests.member (y : Slot) (now : Nat) : State := memberAt 1 y now
def Sys2Proof.Tests.stuck : Slot :=
  { slotOf .ctl [] with
    ctl := { stream [] with mode := .blocked, token := some 5 }, enqSince := some 0,
    enq := [{ tag := 5, piece := loadPiece, target := some 0, failed := false, issued := 0 }] }

theorem witness_TaskEvents_domains : (member (slotOf .ctl []) 0).domainSlots 1 1 0 = [(0, 0)] ∧
    (member (slotOf .ctl []) 0).stalled (0, 0) = false ∧ (st .ctl []).domainSlots 1 1 0 = [] ∧
    (member stuck 8192).domainSlots 1 1 0 = [(0, 0)] ∧ (member stuck 8192).stalled (0, 0) = true ∧
    (memberAt 0 (slotOf .ctl []) 0).domainSlots 1 0 0 = [(0, 0)] ∧ (memberAt 0 (slotOf .ctl []) 0).stalled (0, 0) = false ∧
    ((memberAt 0 stuck 8192).domainSlots 1 0 0).any (memberAt 0 stuck 8192).stalled = true ∧
    ((member stuck 0).part 1).dom 1 0 = some (domain0 1) ∧ (domain0 1).stir = true ∧
    (domain0 1).expect.toNat ≤ (member stuck 0).barrierSum 1 1 0 (domain0 1) ∧
    ¬ (2 ≤ (member stuck 0).barrierSum 1 1 0 (domain0 1)) ∧
    (let s := two (slotOf .ctl []) [] []
     let s := s.updCore 0 (fun x => { x with tiles := [(5, { tile 3 0 0 with key := 0xA7 })] })
     ∃ n x, (n, x) ∈ (s.core 0).tiles ∧ x.state ≠ 0 ∧ x.key.toNat = 0xA7) :=
  ⟨by decide +kernel, by decide +kernel, by decide +kernel, by decide +kernel, by decide +kernel, by decide +kernel, by decide +kernel, by decide +kernel, by decide +kernel, rfl,
    by decide +kernel, by decide +kernel, 5, { tile 3 0 0 with key := 0xA7 }, List.mem_cons_self, by decide, by decide⟩

/-- Slot 1's vector stream waits for units that nobody owns, or slot 0 owns: a normal piece's, or a gleaning one's. -/
def Sys2Proof.Tests.shared (valid : Bool) (kind : WorkKind) (fl : List InFlight) (now : Nat) : State :=
  let y : Slot := { slotOf .vec [] with
    piece := some { loadPiece with kind := kind }, gleanSince := some 0, v := { VecState.reset with inflight := fl } }
  { machine .vec y { Core.reset 0 with
      slots := [(1, { slotOf .vec [] with piece := some { loadPiece with uid := 3 } })], units := { Units.reset with valid := valid, owner := 0, ever := valid, askedAt := some 0 } } with
    cycle := now, parts := [(1, { tenant with crib := 1 <<< 52 ||| 1 <<< 32 })], xl := { Xlate.reset with tlb := [page] },
    dram := { Dram.reset with keys := [(1, ⟨some 1, 0⟩)] } }

theorem witness_UnitsPassAndPiecesGiveWay :
    (∀ s ∈ [shared false .normal [] 0, shared true .normal [] 64, shared true .normal [] 4096, shared true .gleaning [] 0,
        shared true .gleaning [flight] 0],
      (s.core 0).frz.since = none ∧ (s.core 0).grantee = some 1 ∨ (s.core 0).units.valid = false ∧ (s.core 0).grantee = some 0) ∧
    ((shared true .gleaning [] 0).core 0).displaced = true ∧ ((shared true .normal [] 0).core 0).displaced = false ∧
    ((shared true .normal [] 64).core 0).units.lastIssue + 64 ≤ (shared true .normal [] 64).cycle ∧
    ((shared true .normal [] 64).core 0).ownerSlot.m.opsBusy = false ∧
    ((shared true .normal [] 4096).core 0).units.since + 4096 ≤ 4096 ∧ ((shared true .normal [] 4096).core 0).normalAsks = [1] ∧
    ((shared true .gleaning [flight] 0).core 0).ownerSlot.v.inflight.length = 1 ∧
    (∀ crib ∈ [0, 1 <<< 52 ||| 1 <<< 32], let s := { shared true .gleaning [flight] 65536 with parts := [(1, { tenant with crib := crib })] }
     (s.slot 0 0).piece = some { loadPiece with kind := .gleaning } ∧ loadPiece.gang = none ∧ (s.core 0).frz.since = none ∧
     (s.slot 0 0).stopping = none ∧ (s.slot 0 0).gleanSince = some 0 ∧ (s.slot 0 0).phase = .running ∧ 0 + 65536 ≤ s.cycle ∧
     (s.core 0).units.askedAt = some 0 ∧ (s.core 0).units.valid = true ∧ (s.core 0).units.owner = 0 ∧ (s.core 0).displaced = true ∧
     (s.slot 0 0).v.inflight ≠ [] ∧ (s.part 1).freeRec = (if crib = 0 then none else some 0)) := by decide +kernel

/-- Templates: t1 with nothing set, t2 of one row of 64 bytes, t3 the same with a stamp at a private doubleword, t4 with a
misaligned stamp. -/
def Sys2Proof.Tests.oneRow (stamp : Nat) : BitVec 512 := .ofNat 512 (2 ^ 232 * 64 + 2 ^ 212 + 2 ^ 256 * stamp)
def Sys2Proof.Tests.templates : State := machine .ctl (slotOf .ctl [(1, 7)])
  { Core.reset 0 with templates := [(2, oneRow 0), (3, oneRow 0x80800000), (4, oneRow 4)], scratch := [(0x800000, 7)] }

/-- A copy from the flat address 0 of core 0 to that of core 1, moving its only row or a first line of two. -/
def Sys2Proof.Tests.run (bytes : Nat) (ph : CopyPhase) (ts : List (Nat × Nat)) : CopyRun :=
  { cmd := { t := .ofNat 512 (2 ^ 64 * 0x1000000 + 2 ^ 232 * bytes + 2 ^ 212), part := 1, who := some (1, 0, 0), cls := .ctl, host := none },
    row := 0, pos := 0, tiles := ts, phase := ph, err := none, followed := false }
def Sys2Proof.Tests.engines (r : Option CopyRun) (adm : List CopyCmd) : State :=
  { st .ctl [] with
    cores := [(0, { Core.reset 0 with slots := [(0, { slotOf .ctl [] with adm := adm })], tiles := [(1, tile 3 0 0)] }),
      (1, { Core.reset 1 with tiles := [(1, { tile 2 0x200 0 with claimP := some 1 })] })],
    bays := [(0, { Bay.reset with owner := some 1, engines := [(0, { Engine.reset with run := r })] })] }

theorem witness_CopiesMoveBytes :
    (let s := templates
     s.agent = .strm 0 0 .ctl ∧ s.acts s.agent always = true ∧ (s.strm s.agent).token = none ∧
     tCheck ((s.core 0).template 1) (s.partOf s.agent == 0) ≠ 0 ∧ tCheck ((s.core 0).template 2) (s.partOf s.agent == 0) = 0 ∧
     (s.slot 0 0).adm.length < 4 ∧ tStamp ((s.core 0).template 2) = 0 ∧ tStamp ((s.core 0).template 3) = privA ∧ privA % 8 = 0 ∧
     tStamp ((s.core 0).template 4) % 8 ≠ 0 ∧ s.inScratch .rd privA 8 0 0x800000 ∧
     (s.srcZ s.agent (.lit 7)).toNat % 2 ^ 48 ≤ memNat (s.store (.scratch 0)) 0x800000 8 % 2 ^ 48 ∧
     memNat (s.store (.scratch 0)) 0x800000 8 % 2 ^ 48 < (s.srcZ s.agent (.lit 8)).toNat % 2 ^ 48) ∧
    (let s := engines none []
     s.roundFrom 0 26 (s.bay 0).rrPos (s.bay 0).rrCnt = none) ∧
    (let s := engines none [copied]
     s.roundFrom 0 26 (s.bay 0).rrPos (s.bay 0).rrCnt = some (0, 0) ∧ requester 0 0 = some (0, 0) ∧ (s.slot 0 0).adm = [copied] ∧
     ((s.bay 0).engine (tEng copied.t)).ring = [] ∧ ((s.bay 0).engine (tEng copied.t)).onchip < 16) ∧
    (∀ n ∈ [64, 128], let s := engines (some (run n .moving [])) []
     let acc := s.copyAcc 0 0 (run n .moving []).cmd
     ((s.bay 0).engine 0).run = some (run n .moving []) ∧ tPhys (run n .moving []).cmd.t = false ∧
     min (tRowBytes (run n .moving []).cmd.t - 0) (64 - rowAddr (tDst (run n .moving []).cmd.t) (tDstride (run n .moving []).cmd.t) 0 0 % 64) = 64 ∧
     rowAddr (tSrc (run n .moving []).cmd.t) (tSstride (run n .moving []).cmd.t) 0 0 = 0 ∧
     rowAddr (tDst (run n .moving []).cmd.t) (tDstride (run n .moving []).cmd.t) 0 0 = 0x1000000 ∧
     s.spFor acc .rd 0 64 0 0 ∧ s.spFor acc .wr 0x1000000 64 1 0) ∧
    (∀ ts ∈ [([] : List (Nat × Nat)), [(1, 1)]], let s := engines (some (run 64 .complete ts)) []
     ((s.bay 0).engine 0).run = some (run 64 .complete ts) ∧ (run 64 .complete ts).cmd.who = some (1, 0, 0) ∧
     tFop (run 64 .complete ts).cmd.t = 0 ∧ ((s.bay 0).engine 0).ring = [] ∧ s.findPiece 1 = some (0, 0) ∧ (s.slot 0 0).sigs = [] ∧
     tStamp (run 64 .complete ts).cmd.t = 0 ∧ ((s.core 1).tile 1).state = 2 ∧ ((s.core 1).tile 1).prod = slotCode 0 0) ∧
    (let r := { run 64 .complete [] with cmd := { (run 64 .complete []).cmd with t := oneRow 0x1000000 } }
     let s := engines (some r) []
     tStamp r.cmd.t ≠ 0 ∧ s.spFor { s.copyAcc 0 0 r.cmd with claims := false } .wr (tStamp r.cmd.t) 8 1 0) := by
  unfold State.inScratch State.spByte State.spFor; decide +kernel

/-- A complete copy with a follow-on of a piece that has four which have not started. -/
theorem witness_CopiesMoveBytes_followOn :
    let f : FollowOn := { mmg := false, bank := 0, ovw := false, sig := none, seq := 0, ftz := false }
    let r : CopyRun := { run 64 .complete [(1, 1)] with cmd := { (run 64 .complete []).cmd with t := .ofNat 512 (2 ^ 363) } }
    let s := (engines (some r) []).updSlot 0 0 (fun x => { x with m := { x.m with followOns := [f, f, f, f] } })
    ((s.bay 0).engine 0).run = some r ∧ r.phase = .complete ∧ r.err = none ∧ r.followed = false ∧ r.cmd.who = some (1, 0, 0) ∧
    tFop r.cmd.t ≠ 0 ∧ s.findPiece 1 = some (0, 0) ∧ 4 ≤ (s.slot 0 0).m.followOns.length ∧ s.holdsCore r.cmd.part 1 = true ∧
    ((s.core 1).tile 1).state = 2 ∧ ((s.core 1).tile 1).prod = slotCode 0 0 := by decide +kernel

/-- Command blocks of operation 2 over 16 words, bad in its operation, and misaligned; the slot's pages for its arrays. -/
def Sys2Proof.Tests.nmPage : TlbEntry := { page with leaf := { page.leaf with nm := true } }
def Sys2Proof.Tests.nmBlock (op tgt : Byte) : State :=
  { (st .ctl [(1, 0x80800000), (2, 0x80800004)]).withScratch 0
      [(0x800000, 16), (0x800006, 0x40), (0x800007, op), (0x800008, tgt), (0x80000C, 1), (0x800011, 1), (0x800014, 1)] with
    dram := { Dram.reset with keys := [(1, ⟨some 1, 0⟩)] }, xl := { Xlate.reset with tlb := [nmPage] } }
def Sys2Proof.Tests.nmLine1 : NmLine := { ix := 0, tpa := 0, tkey := 0, tcnt := false, apa := 0x100, akey := 0, acnt := false }
def Sys2Proof.Tests.nmWait : NmCmd := { block := [0x0240000000000010, 0, 0, 0, 0, 0, 0, 0], part := 1, uid := 1, left := [nmLine1], flags := 0 }
def Sys2Proof.Tests.queuedLines : NmSay → Nat
  | .ok ls => ls.length
  | .code _ => 0
  | .hold => 0

theorem witness_NearMemoryCommands :
    (∀ op ∈ [(2 : Byte), 9], let s := nmBlock op 0
     let b : List DWord := (List.range 8).map (fun i => .ofNat 64 (memNat (s.store (.scratch 0)) (0x800000 + 8 * i) 8))
     s.agent = .strm 0 0 .ctl ∧ s.acts s.agent always = true ∧ (s.reg s.agent 1).toNat % 64 = 0 ∧ (s.reg s.agent 2).toNat % 64 ≠ 0 ∧
     s.inScratch .rd privA 64 0 0x800000 ∧ nmBad b = decide (op = 9) ∧ nmTgt b % 64 = 0 ∧ nmSa b % 64 = 0) ∧
    (let s := nmBlock 2 4
     let b : List DWord := (List.range 8).map (fun i => .ofNat 64 (memNat (s.store (.scratch 0)) (0x800000 + 8 * i) 8))
     nmBad b = false ∧ nmTgt b % 64 ≠ 0) ∧
    (let s := nmBlock 2 0
     let b : List DWord := (List.range 8).map (fun i => .ofNat 64 (memNat (s.store (.scratch 0)) (0x800000 + 8 * i) 8))
     queuedLines (s.nmCheck (s.accOf s.agent) b).2 = 1 ∧
     ((s.nmCheck (s.accOf s.agent) b).1.dram.nm.filter (fun q => q.uid == (s.nmCheck (s.accOf s.agent) b).1.uidAt 0 0)).length < 64) ∧
    (let s := { st .ctl [] with dram := { Dram.reset with nm := [nmWait] } }
     s.nmOf (s.uidAt 0 0) = true ∧ (st .ctl []).nmOf ((st .ctl []).uidAt 0 0) = false ∧
     nmNext 0 s.dram.nm = some (0, nmWait, nmLine1) ∧ (∀ e ∈ s.parts, e.2.inReset = false) ∧ nmLine1.tpa % 64 = 0 ∧
     nmLine1.apa % 64 = 0 ∧ s.dram.fenced nmLine1.tpa = false ∧ s.dram.verifies nmLine1.tpa nmLine1.tkey = true ∧
     s.dram.fenced nmLine1.apa = false ∧ s.dram.verifies nmLine1.apa nmLine1.akey = true ∧
     s.dram.queue (ctrlOf nmLine1.tpa) = [] ∧ s.dram.queue (ctrlOf nmLine1.apa) = [] ∧
     (∀ e, e < 16 → (nmElem nmWait.block e 0 0).1 < 256 ^ 4)) := by
  unfold State.inScratch State.spByte; decide +kernel

/-- A partition with 16 entries and 16 counters from 0, job 7, itself peer 2, four threads, two reduction slots and 8 lines of
handlers; peer 1 is another device. -/
def Sys2Proof.Tests.netPart : Part :=
  { Part.reset with
    live := true, npart0 := 0x1000000000, npart1 := 0x1000000000, npart2 := 0x0000070008020080, npart3 := 0x0000010001000040,
    peers := [(1, .ofNat 256 (2 ^ 62))], doms := [(domKey 5 0, { domain0 5 with counter := 3 })] }

/-- Thread 0 of that partition, over a core whose tile 1 is readable and whose tile 2 deliveries may fill. -/
def Sys2Proof.Tests.wired (bytes : Memory) (n : Npd) : State :=
  let s := net [(1, 0), (2, 4), (3, 99), (4, 5), (5, 65536), (6, 256)] netPart
  { s with
    cores := [(0, { Core.reset 0 with tiles := [(1, tile 3 0 0), (2, { tile 2 0x400 0 with baseg := 1 })], scratch := bytes })],
    npd := { n with threads := s.npd.threads } }

/-- An armed entry on counter 3; a message that has matched it; an open reduction slot of two contributors. -/
def Sys2Proof.Tests.armed (w : Nat) : TotEntry := { TotEntry.reset with dw := .ofNat 512 (2 ^ 63 + w + 3) }
def Sys2Proof.Tests.pkt (job kind len : Nat) (p : List Byte) : Packet :=
  { peer := 1, rod := false, psn := 0, stamp := 0, hdr := [.ofNat 64 (2 ^ 60 + kind * 2 ^ 56 + job * 2 ^ 32), 0, .ofNat 64 len, 0], payload := p }
def Sys2Proof.Tests.msg (st : MsgStage) : Msg :=
  { id := 0, part := 1, entry := 5, dw := (armed 0).dw, pkt := pkt 7 0 0 [], loop := false, stage := st, done := 0, wrote := false, tiles := [],
    amt := none, order := 0 }
def Sys2Proof.Tests.rslot (seen : DWord) : RSlot :=
  { RSlot.reset with isOpen := true, part := 1, gen := 1, ncon := 2, count := 1, dest := 0x800, bitmap := seen, deadline := some 5 }
def Sys2Proof.Tests.rsSay : Except Nat Nat → Nat
  | .ok n => n
  | .error n => n + 1000
def Sys2Proof.Tests.blkOf (s : State) : List DWord := (List.range 8).map (fun i => .ofNat 64 (memNat (s.store (.scratch 0)) (8 * i) 8))

theorem witness_NetworkInstructions :
    (let s := wired [] { Npd.reset with entries := [(5, armed 0)], counters := [(0, 7)] }
     s.agent = .thread 0 ∧ s.acts s.agent always = true ∧ s.partOf s.agent = 1 ∧ (s.reg s.agent 1).toNat = 0 ∧ (s.reg s.agent 2).toNat % 64 ≠ 0 ∧
     s.inScratch .rd 0 64 0 0 ∧ s.armCheck 1 (s.srcZ s.agent (.lit 3)).toNat 0 = 0 ∧ eAct 0 = 0 ∧
     BitVec.ofNat 512 (memNat (s.store (.scratch 0)) 0 64) = 0 ∧ s.armCheck 1 (s.srcZ s.agent (.lit 99)).toNat 0 = 2 ∧
     (s.strm s.agent).token = none ∧ s.hasEntry 1 (s.reg s.agent 3).toNat = false ∧ s.hasEntry 1 0 = true ∧ (s.entry 0).dw.getLsbD 63 = false ∧
     s.hasEntry 1 (s.reg s.agent 4).toNat = true ∧ (s.entry 5).dw.getLsbD 63 = true ∧ s.npd.msgs = [] ∧
     65536 ≤ (s.reg s.agent 5).toNat ∧ s.hasCounter 1 0 = true ∧ s.watchers 0 = [] ∧ (s.srcZ s.agent (.lit 7)).toNat ≤ (s.counter 0).toNat ∧
     (s.counter 0).toNat < (s.srcZ s.agent (.lit 8)).toNat ∧ rsSay (s.rsCheck 1 (blkOf s)) = 1002 ∧ s.slotOpen 1 0 = false) := by
  unfold State.inScratch State.spByte; decide +kernel

theorem witness_NetworkInstructions_arm :
    (let s := wired [(7, 8), (24, 1)] Npd.reset
     let e : BitVec 512 := .ofNat 512 (memNat (s.store (.scratch 0)) 0 64)
     s.armCheck 1 3 e = 0 ∧ eAct e = 1 ∧ (s.counter (eCnt e)).toNat < (eThresh e).toNat) := by decide +kernel

theorem witness_NetworkInstructions_disarm :
    (let s := wired [] { Npd.reset with entries := [(5, armed 0)], msgs := [msg .deliver] }
     (msg .deliver) ∈ s.npd.msgs ∧ (msg .deliver).entry = 5 ∧ (msg .deliver).stage ≠ .arrived ∧ (s.entry 5).dw.getLsbD 63 = true) := by decide +kernel

theorem witness_NetworkInstructions_send :
    (let s := wired [(0, 3), (6, 4), (16, 64)] Npd.reset
     s.sendCheck 1 (blkOf s) = 0 ∧ (s.part 1).sends.length < 4096 ∧ sbPeer (blkOf s) ≠ (s.part 1).self ∧
     peerKind ((s.part 1).peer (sbPeer (blkOf s))) = 1 ∧ sbLen (blkOf s) = 3 ∧ s.inScratch .rd (hw (blkOf s) 2).toNat 3 0 64) := by
  unfold State.inScratch State.spByte; decide +kernel

theorem witness_NetworkInstructions_refused :
    (let s := wired [(6, 32)] Npd.reset
     s.sendCheck 1 (blkOf s) = 3) := by decide +kernel

theorem witness_NetworkInstructions_hret :
    (let s := wired [] Npd.reset
     let t := { s with npd := { s.npd with msgs := [msg .handler], threads := [(0, { s.thread 0 with job := .msg 0 })] } }
     (s.thread 0).job = .event 0 ∧ (t.thread 0).job = .msg (msg .handler).id ∧ t.npd.msgs = [msg .handler] ∧
     eHold (msg .handler).dw = false ∧ (msg .handler).loop = false ∧ t.watchers (eCnt (msg .handler).dw) = []) := by decide +kernel

theorem witness_NetworkInstructions_rsalloc :
    (let s := wired [(2, 1), (6, 8)] Npd.reset
     rsSay (s.rsCheck 1 (blkOf s)) = 0) := by decide +kernel

theorem witness_NetworkInstructions_rscon :
    (∀ seen ∈ [0, 1], let s := wired [] { Npd.reset with rslots := [(0, rslot (.ofNat 64 seen))] }
     s.contribCheck 1 (s.reg s.agent 6).toNat (s.reg s.agent 1).toNat (fun _ => false) = (if seen = 1 then 4 else 0) ∧
     s.contribCheck 1 0 0 (fun _ => false) = 1 ∧ s.inScratch .rd 0 2 0 0 ∧ s.slotOpen 1 256 = true ∧
     popCount ((s.rslot 0).take 0 (elemsOf 2 (memRead (s.store (.scratch 0)) 0 2))).bitmap < 2 ∧
     s.spFor (delivAcc 1) .wr 0x800 ((s.rslot 0).result 0 false true).length 0 0x800 ∧ s.watchers 0 = []) := by
  unfold State.inScratch State.spByte State.spFor; decide +kernel

/-- An entry on counter 3 with threshold 7 that chains to counter 4 by 2, once or at every 9. -/
def Sys2Proof.Tests.chained (step : Nat) : TotEntry := armed (2 ^ 61 + 2 ^ 192 * 7 + 2 ^ 320 * step + 2 ^ 384 * 4 + 2 ^ 448 * 2)

theorem witness_EntriesFire : ∀ step ∈ [0, 9],
    (let s := wired [] { Npd.reset with entries := [(5, chained step)], counters := [(3, 6)] }
     let x := (s.entry 5).dw
     s.watchers 3 = [5] ∧ (s.counter 3 + 0).toNat < (eThresh x).toNat ∧ eV x = true ∧ (eThresh x).toNat ≤ (s.counter 3 + 1).toNat ∧
     eAct x = 4 ∧ eHold x = false ∧ s.npd.firings = [] ∧ s.hasCounter (s.entryPart 5) ((eArg x).toNat % 65536) = true ∧
     (eArg x).toNat % 65536 = 4 ∧ s.watchers 4 = [] ∧ eStep x = step ∧ eAmt x = 2) := by decide +kernel

/-- The entry of a delivery to tile 2, with and without a handler; an event; a send to peer 1. -/
def Sys2Proof.Tests.target (hnd : Nat) : TotEntry := armed (2 ^ 62 + 2 ^ 53 + hnd * 2 ^ 50 + 2 ^ 256 * 0x800 + 2 ^ 360 * 8)
def Sys2Proof.Tests.told1 : Event := { kind := 5, sub := 0, index := 0, info1 := 0, info2 := 0, time := 0, lost := 0 }
def Sys2Proof.Tests.send1 (arr : Bool) : Send :=
  { idx := 0, block := 0, peer := 1, rod := false, cen := some 3, hdr := (pkt 7 0 0 []).hdr, payload := [], first := 0, tries := 1, arrived := arr }

theorem witness_NetworkEvents_drop :
    pkSound (pkt 7 2 0 []) = false ∧
    (wired [] Npd.reset).partByJob (pkJob (pkt 9 0 0 [])) = none := by decide +kernel

theorem witness_NetworkEvents_seen :
    (∀ kind ∈ [0, 1], let k := pkt 7 kind 0 []
     let s := wired [] Npd.reset
     let t := { s with npd := { s.npd with seen := [pkId 1 k] } }
     pkSound k = true ∧ s.partByJob (pkJob k) = some 1 ∧ t.npd.seen.contains (pkId 1 k) = true ∧ s.npd.seen.contains (pkId 1 k) = false ∧
     (s.part 1).inReset = false ∧ pkKind k = kind ∧ (s.part 1).dom 5 (pkMatch k).toNat = some { domain0 5 with counter := 3 } ∧
     s.watchers 3 = [] ∧ s.matchEntry 1 k = none ∧ (s.part 1).hsize ≠ 0 ∧ (s.part 1).events.length < 256) := by decide +kernel

/-- A packet by ROD behind one that was refused, and one that finds no start of a handler free. -/
theorem witness_NetworkEvents_order :
    let s := wired [] { Npd.reset with entries := [(5, target 1)], refused := [(1, 1, 4)], msgs := List.replicate 1024 { msg .start with dw := (target 1).dw } }
    let k (psn : Nat) : Packet := { pkt 7 0 2 [8, 9] with rod := true, psn := psn }
    s.outOfTurn 1 (k 5) = true ∧ s.outOfTurn 1 (k 4) = false ∧ s.outOfTurn 1 (pkt 7 0 2 [8, 9]) = false ∧
    s.npd.seen = [] ∧ s.partByJob (pkJob (k 5)) = some 1 ∧ pkSound (k 5) = true ∧ s.matchEntry 1 (k 4) = some 5 ∧
    s.noRoom 1 5 (k 4) = true := by decide +kernel

theorem witness_NetworkEvents_delivery :
    (∀ hnd ∈ [0, 1], let k := pkt 7 0 2 [8, 9]
     let s := wired [] { Npd.reset with entries := [(5, target hnd)] }
     pkSound k = true ∧ s.matchEntry 1 k = some 5 ∧ s.noRoom 1 5 k = false ∧ eDkind (s.entry 5).dw = 1 ∧
     pkOff k + pkLen k ≤ eMaxlen (s.entry 5).dw ∧ s.spFor (delivAcc 1) .wr (eTarget (s.entry 5).dw + pkOff k) 2 0 0x800 ∧ s.npd.msgs = [] ∧ s.outOfTurn 1 k = false ∧
     eHnd (s.entry 5).dw = decide (hnd = 1)) := by
  unfold State.spFor; decide +kernel

theorem witness_NetworkEvents_handlers :
    (let s := (wired [] { Npd.reset with msgs := [msg .start] }).updPart 1 (fun x => { x with events := [told1] })
     s.mayStart 1 = true ∧ s.npd.msgs.find? (fun q => q.part == 1 && q.stage == .start) = some (msg .start) ∧ (s.part 1).events = [told1]) := by decide +kernel

theorem witness_NetworkEvents_watchdog :
    (let s := wired [] Npd.reset
     s.npd.threads = [(0, s.thread 0)] ∧ npdCycles s.cycle < npdCycles (s.thread 0).start + 2 ^ 24 ∧
     npdCycles (s.thread 0).start + 2 ^ 24 ≤ npdCycles (2 ^ 30)) := by decide +kernel

theorem witness_NetworkEvents_advance :
    (let s := wired [] { Npd.reset with msgs := [msg .advance] }
     s.npd.msgs = [msg .advance] ∧ (msg .advance).stage = .advance ∧ s.npd.firings = [] ∧ (s.part 1).inReset = false ∧
     eHold (msg .advance).dw = false ∧ (msg .advance).loop = false ∧ s.watchers (eCnt (msg .advance).dw) = []) := by decide +kernel

theorem witness_NetworkEvents_sends :
    (∀ arr ∈ [true, false], let s := (wired [] Npd.reset).updPart 1 (fun x => { x with sends := [send1 arr] })
     (s.part 1).sends = [send1 arr] ∧ (send1 arr).arrived = arr ∧ s.watchers 3 = [] ∧ (send1 arr).first + 2 ^ 28 ≤ npdCycles (2 ^ 30) ∧
     npdCycles s.cycle < (send1 arr).first + 2 ^ 28 ∧ (s.part 1).inReset = false ∧ (send1 arr).peer ≠ (s.part 1).self ∧
     peerKind ((s.part 1).peer (send1 arr).peer) = 1) := by decide +kernel

theorem witness_NetworkEvents_timeout :
    (let s := wired [] { Npd.reset with rslots := [(0, rslot 0)] }
     (s.rslot 0).isOpen = true ∧ (s.rslot 0).closing = none ∧ (s.rslot 0).deadline = some 5 ∧ npdCycles s.cycle < 5 ∧ 5 ≤ npdCycles 20 ∧
     s.spFor (delivAcc 1) .wr 0x800 ((s.rslot 0).result 0 true false).length 0 0x800 ∧ s.watchers 0 = []) := by
  unfold State.spFor; decide +kernel

/-- A slot with handlers enabled, in or out of one, with a held trap and a saved control position or not. -/
def Sys2Proof.Tests.heldTrap : HeldTrap := { cause := 8, sub := 4, strm := 1, addr := 0, info := 0, line := 2, word := 1, beats := 0 }
def Sys2Proof.Tests.saved1 : CtlSave :=
  { shown := (3, 2), line := 3, word := 2, plane := 0, passed := false, skip := false, waitLeft := 0, xfer := none, again := none,
    token := none, held := 0 }
def Sys2Proof.Tests.handled (en intrap : Bool) (cause tpc : DWord) (pend : List HeldTrap) (ctl : Option CtlSave) (fl : List InFlight) : Slot :=
  { slotOf .ctl [] with
    trap := { TrapRegs.reset with
      tvec := if en then 0x8000000000000005 else 0, intrap := intrap, tcause := cause, tpc := tpc, pend := pend, ctl := ctl },
    v := { VecState.reset with inflight := fl } }
def Sys2Proof.Tests.late : InFlight := { flight with due := 0, arrived := false, addr := 0x1000 }
def Sys2Proof.Tests.lateSlot : Slot := (handled true false 0 0 [] none [late]).setStrm .vec (stream [])
def Sys2Proof.Tests.frozen (since : Option Nat) (now : Nat) : State :=
  { machine .vec lateSlot { Core.reset 0 with
      frz := { (Core.reset 0).frz with since := since }, units := { Units.reset with valid := true, owner := 0 } } with cycle := now }

/-- A slot with a held trap of its matrix stream, and a TRAP at word 1 of line 4 where its control stream stands. -/
def Sys2Proof.Tests.dueTwice (h : HeldTrap) : State :=
  machine .ctl { handled true false 0 0 [h] none [] with ctl := { stream [] with line := 4 } }
    { Core.reset 0 with plane0 := [(260, 0x82), (261, 0x0E), (265, 0x04)] }

theorem witness_TrapsAndReturns_entry :
    (st .ctl []).acts (st .ctl []).agent always = true ∧ (handled true false 0 0 [] none []).phase = .running ∧
    (handled true false 0 0 [] none []).stoppedRows = none ∧
    (let x := (handled true false 0 0 [] none []).setStrm .str { stream [] with xfer := some (xfer false 2 3 none) }
     x.stoppedRows = some (.str, 3) ∧ x.trap.en = true ∧ x.phase = .running) ∧
    (handled true false 0 0 [] none []).trap.en = true ∧ (handled true false 0 0 [] none []).trap.intrap = false ∧
    (handled true true 0 0 [] none []).trap.intrap = true ∧ (handled false false 0 0 [] none []).trap.en = false ∧
    (net [] netPart).agent = .thread 0 ∧ (net [] netPart).acts (net [] netPart).agent always = true := by decide +kernel

theorem witness_TrapsAndReturns_return :
    (∀ pc ∈ [0x0003200000040002, 0x0003200000010003, 0x0007200000040002], ∀ d ∈ [0, 1, 4], ∀ asyn ∈ [0, 1], ∀ v ∈ [none, some saved1],
      let s := machine .ctl (handled true true (.ofNat 64 (2 ^ 45 * d + 2 ^ 44 * asyn)) (.ofNat 64 pc) [] v []) (Core.reset 0)
      let x := s.slot 0 0
      s.acts s.agent always = true ∧ x.trap.intrap = true ∧ x.trap.pend = [] ∧ x.trap.ctl = v ∧ fieldNat x.trap.tcause 45 3 = d ∧
      x.trap.tcause.getLsbD 44 = decide (asyn = 1) ∧
      (low 16 saved1.line = fieldNat x.trap.tpc 48 16 ∧ saved1.word % 16 = fieldNat x.trap.tpc 44 4 ↔ pc ≠ 0x0007200000040002)) ∧
    (∀ y ∈ [false, true], ∀ v ∈ [none, some saved1], let h := { heldTrap with sync := y }
      let x := handled true true 0 0 [h] v []
      x.v.inflight = [] ∧ x.trap.pend = [h] ∧ x.trap.intrap = true ∧ x.trap.en = true ∧ h.word < 16 ∧ h.sync = y ∧ x.trap.ctl = v) ∧
    (let x := handled false true (.ofNat 64 (2 ^ 44)) 0 [heldTrap] (some saved1) []
     x.trap.en = false ∧ x.trap.pend ≠ [] ∧ x.trap.intrap = true) ∧
    (let x := handled true true (.ofNat 64 (2 ^ 44)) 0 [] none []
     let y := { x with trap := { x.trap with trow := some .ldr, trows := 3 } }
     y.trap.trow = some .ldr ∧ y.trap.tcause.getLsbD 44 = true ∧ y.trap.pend = []) := by
  decide +kernel

theorem witness_TrapsAndReturns_order :
    (∀ f ∈ [(2, false), (1, false), (0, true)], let h := { heldTrap with strm := f.1, sync := f.2 }
      let s := dueTwice h
      let x := s.slot 0 0
      x.stopping = none ∧ x.phase = .running ∧ x.trap.en = true ∧ x.v.inflight = [] ∧ x.trap.pend = [h] ∧ x.trap.intrap = false ∧
      (h.rank ≤ 3 ↔ f.1 ≠ 2) ∧ (s.syncFirst 0 0 h.rank).isSome = decide (f.1 = 2)) := by decide +kernel

theorem witness_TrapsAndReturns_frozen :
    (∀ i ∈ [true, false], let x := handled true i 0 0 [heldTrap] none []
      x.stopping = none ∧ x.phase = .running ∧ x.trap.en = true ∧ x.v.inflight = [] ∧ x.trap.pend = [heldTrap] ∧ x.trap.intrap = i) ∧
    (∀ since ∈ [none, some 0], ∀ now ∈ [7, 2 ^ 20], let s := frozen since now
      (s.core 0).slots = [(0, lateSlot)] ∧ (s.slot 0 0).phase = .running ∧
      lateSlot.vec.mode = .running ∧ (s.core 0).owns 0 = true ∧ lateSlot.trap.intrap = false ∧ (s.slot 0 0).v.inflight = [late] ∧
      late.arrived = false ∧ late.due ≤ (s.slot 0 0).v.beat ∧ late.fault = none ∧ (s.core 0).frz.since = since ∧ (s.slot 0 0).trap.pend = [] ∧
      (s.cycle < 0 + 2 ^ (10 + (s.core 0).frz.limit.toNat) ↔ now = 7)) := by decide +kernel

/-- Firmware's stream: partition 0 holds the bay and runs in slot 0, whose registers are given; slot 1 holds `y`. -/
def Sys2Proof.Tests.fwState (regs : Tbl DWord) (y : Slot) : State :=
  let s := machine .ctl { slotOf .ctl regs with piece := some { loadPiece with part := 0 } } { Core.reset 0 with slots := [(1, y)] }
  { s with parts := [(0, Tbl.get Part.reset State.reset.parts 0), (1, { tenant with crib := 1 <<< 52 ||| 1 <<< 32 })], xl := { Xlate.reset with tlb := [page] },
           dram := { Dram.reset with keys := [(1, ⟨some 1, 0⟩)] } }
def Sys2Proof.Tests.savedIn (held : Bool) : SavedPiece :=
  { slot := { slotOf .ctl [] with piece := some loadPiece }, priv := [], core := 0, held := held, gang := none }

theorem witness_SystemInstructions_registers :
    (st .ctl []).acts (st .ctl []).agent always = true ∧ (st .ctl []).agent = .strm 0 0 .ctl ∧ (st .ctl []).partOf (st .ctl []).agent = 1 ∧
    (fwState [] Slot.reset).acts (fwState [] Slot.reset).agent always = true ∧ (fwState [] Slot.reset).partOf (fwState [] Slot.reset).agent = 0 ∧
    (fwState [] Slot.reset).agent = .strm 0 0 .ctl := by decide +kernel

theorem witness_SystemInstructions_ppoint :
    (let s := busy { slotOf .ctl [] with regs := { SlotRegs.reset with req := 1 } }
     let t := { s with parts := [(1, tenant)] }
     s.acts s.agent always = true ∧ (s.slot 0 0).piece = some loadPiece ∧ loadPiece.gang = none ∧ (s.slot 0 0).regs.req ≠ 0 ∧
     (s.part 1).freeRec = some 0 ∧ (t.part 1).freeRec = none ∧
     ((busy (slotOf .ctl [])).slot 0 0).regs.req = 0 ∧
     ({ loadPiece with gang := some ⟨1, 0, [(0, 0)]⟩ } : Piece).gang.isSome = true) := by decide +kernel

/-- A page whose M bit holds the record's first line (R249): what the record's lines are is Config's to say. -/
theorem witness_SystemInstructions_held (w : BitVec 512) (ws : List (Nat × BitVec 512)) :
    let s := { ((busy { slotOf .ctl [] with regs := { SlotRegs.reset with req := 1 } }).enterSave 0 0).result (.strm 0 0 .ctl) 3 0 2 with
      xl := { Xlate.reset with tlb := [{ page with leaf := { page.leaf with m := true } }] } }
    s.storeRec (s.slotSync 0 0) ((s.part 1).recAt 0) ((0, w) :: ws) = (s, .hold) := by
  intro s
  rw [show (s.part 1).recAt 0 = 0x100000000 by decide +kernel]
  refine State.storeRec_held ws rfl (by decide) (by decide) (by decide) ?_
  unfold State.translate
  rw [show s.xl.faults = [] from rfl, show s.xl.tlb = [{ page with leaf := { page.leaf with m := true } }] from rfl,
    List.find?_cons_of_pos (by decide +kernel)]
  simp [State.useLeaf]

theorem witness_SystemInstructions_firmware :
    firmwareRow (.partStop always 3 1) = true ∧ (st .ctl []).partOf (st .ctl []).agent ≠ 0 ∧ ((st .ctl []).strm (st .ctl []).agent).skip = false ∧
    realAgent (.strm 0 0 .ctl) = true ∧
    (let s := fwState [(1, 1), (2, 0x40), (4, 0x700), (5, 0x1000), (6, 9)] (slotOf .ctl [])
     let v := s.reg s.agent 1
     (s.strm s.agent).token = none ∧ s.reg s.agent 2 &&& 0x73F ≠ s.reg s.agent 2 ∧ s.reg s.agent 4 &&& 0x73F = s.reg s.agent 4 ∧
     xinvBits (fieldNat (s.reg s.agent 4) 8 3) = some 64 ∧ fieldNat v 2 7 = 0 ∧ fieldNat v 0 2 = 1 ∧ (s.slot 0 1).piece = some loadPiece ∧
     (s.slot 0 1).phase = .running ∧ (s.core 0).frz.since = none ∧ loadPiece.gang = none ∧ (s.part 1).freeRec = some 0 ∧
     (({ s with parts := [(1, tenant)] } : State).part 1).freeRec = none ∧
     (s.part 1).inReset = false ∧ s.resetWaits 1 = false ∧
     (({ s with dram := { s.dram with nm := [nmWait] } } : State).updPart 1 (fun x => { x with inReset := true })).resetWaits 1 = true ∧
     (let t := s.updStrm s.agent (fun x => { x with token := some 0 }); t.acts t.agent always = true ∧ (t.strm t.agent).token = some 0) ∧ ((fwState [(1, 1)] Slot.reset).slot 0 1).piece = none ∧
     (s.core 0).frz.since.isSome = false ∧ ({ Slot.reset with phase := .retiring } : Slot).phase ≠ .running ∧
     s.savedRec ((s.reg s.agent 5).toNat / 2 ^ 12) 0 = none ∧ (s.part 1).live = true ∧ v.toNat = 1 ∧ (s.part 9).live = false ∧
     s.dram.nm.any (fun w => w.part == 1) = false) ∧
    (∀ h ∈ [true, false], let s := (fwState [(5, 0x1000)] Slot.reset).updPart 1 (fun x => { x with recs := [(0, savedIn h)] })
     s.savedRec 1 0 = some (savedIn h) ∧ (s.reg s.agent 5).toNat < 2 ^ 18 ∧ (s.reg s.agent 5).toNat / 2 ^ 12 = 1 ∧ (savedIn h).held = h ∧
     (savedIn h).gang = none ∧ (savedIn h).slot.piece = some loadPiece ∧ (s.core 0).roomOnChip = true ∧
     ((s.updCore 0 (fun x => { x with queue := List.replicate 32 waiting })).core 0).roomOnChip = false) ∧
    (let s := fwState [(1, 1)] { slotOf .ctl [] with phase := .restoring }
     (s.slot 0 1).piece = some loadPiece ∧ (s.slot 0 1).phase = .restoring) := by decide +kernel

theorem witness_SystemInstructions_cryo :
    (∀ m ∈ [0, 1, 2], let s := { fwState [(1, 1)] Slot.reset with cryo := { Cryo.reset with mstate := m } }
     s.cryo.mstate = m ∧ s.anyBound = true ∧ ({ s with cores := [] } : State).anyBound = false) ∧
    (let s := { fwState [(1, 1)] Slot.reset with cryo := { Cryo.reset with mstate := 2, dstate := [(0, 2)] } }
     s.dstate 0 = 2) := by decide +kernel

/-- A slot that owns the units and runs a product of one cell, from ports 1 and 2 to bank 0. -/
def Sys2Proof.Tests.multiplying (k : Nat) : State :=
  let e : QEntry := { queued with fmt := 1 }
  let y : Slot := { slotOf .mat [] with
    m := { MatState.reset with active := { MatParams.reset with m := 1, n := 1, k := k, qa := 1, qb := 2 }, cop := some (product 1 1) },
    queues := [(1, ⟨0x11, 0, [e], 0, 0⟩), (2, ⟨0x11, 0, [e], 0, 0⟩)] }
  machine .mat y { Core.reset 0 with units := { Units.reset with valid := true, owner := 0 } }

theorem witness_EnginesAndControllers_product : ∀ k ∈ [1, 64],
    (let s := multiplying k
     let x := s.slot 0 0
     let A := (x.queue 1).entries.take 1
     let B := (x.queue 2).entries.take 1
     let pairs := ((segOf A 0 2).zip (segOf B 0 2)).take (k - 0 * 32)
     s.clockOn 0 = true ∧ (s.core 0).owns 0 = true ∧ x.m.cop = some (product 1 1) ∧ (product 1 1).kind = .mm ∧
     (product 1 1).stat = .running ∧ x.m.clr = none ∧ x.m.share = none ∧ x.m.active.m ≠ 0 ∧ x.m.active.n ≠ 0 ∧ x.m.active.k ≠ 0 ∧
     (product 1 1).ml ≠ 0 ∧ (product 1 1).nl ≠ 0 ∧ ceilDiv 1 32 ≤ (x.queue 1).ready ∧ ceilDiv 1 32 ≤ (x.queue 2).ready ∧ x.m.active.arow + 1 ≤ 96 ∧ x.m.active.acol + 1 ≤ 128 ∧ x.m.active.qa = 1 ∧
     x.m.active.qb = 2 ∧ (x.queue 1).popBy 2 = true ∧ (x.queue 2).popBy 2 = true ∧ A.length = ceilDiv 1 32 ∧ B.length = ceilDiv 1 32 ∧
     (∀ e ∈ A ++ B, e.fmt = 1) ∧ (product 1 1).fmts = none ∧ x.m.active.k = k ∧
     (accBf16 pairs x.ftzMat (x.m.cell 0 0 0)).1 < 2 ^ 32 ∧ accInt8 pairs (x.m.cell 0 0 0) < 2 ^ 32) := by decide +kernel

theorem witness_EnginesAndControllers_readOut :
    (let s := (matOps none (some reading)).updCore 0 (fun c => { c with units := { Units.reset with valid := true, owner := 0 } })
     let t := s.updSlot 0 0 (fun x => { x with queues := [(3, ⟨0x5, 0, [], 0, 0⟩)] })
     t.clockOn 0 = true ∧ (t.core 0).owns 0 = true ∧ (t.slot 0 0).m.rop = some reading ∧ reading.stat = .running ∧
     reading.gang = false ∧ reading.tgt = false ∧ ((t.slot 0 0).queue 3).putBy 2 = true ∧
     ((t.slot 0 0).queue 3).entries.length + ((t.slot 0 0).queue 3).pops < 16 ∧
     reading.target = 3 ∧ reading.lay = false ∧ reading.cvt = false) ∧
    (let r := { reading with lay := true }
     r.cvt = false ∧ r.lay = true ∧ r.half = false) := by decide +kernel

/-- Four tables, one under the other, at 0x1000 to 0x4000, the last with the leaf `leaf`; bytes by the numbers given. -/
def Sys2Proof.Tests.tables (leaf : Byte) : State :=
  { State.reset with
    parts := [(1, { tenant with root := some 0x1000 })],
    dram := { Dram.reset with cells := [(0x1000, 3), (0x1001, 0x20), (0x2020, 3), (0x2021, 0x30), (0x3000, 3), (0x3001, 0x40), (0x4000, leaf), (0x4001, 0x50)] },
    xl := { Xlate.reset with walks := [{ unit := .core 0, part := 1, granule := 0x100000, who := [] }] } }
def Sys2Proof.Tests.isLeaf : Except Nat (Leaf × Nat) → Bool
  | .ok _ => true
  | .error _ => false

theorem witness_EnginesAndControllers_walks :
    (∀ leaf ∈ [0, 1], let s := tables (.ofNat 8 leaf)
     let s0 : State := { s with xl := { s.xl with walks := [] } }
     let rd (a : Nat) : Option DWord := match (s0.readTable a).2 with | .ok e => some e | .error _ => none
     s.xl.walks = [{ unit := .core 0, part := 1, granule := 0x100000, who := [] }] ∧ s.xl.invals = [] ∧ (s.part 1).root = some 0x1000 ∧
     0x100000 * 4096 / 2 ^ 39 % 512 = 0 ∧ 0x100000 * 4096 / 2 ^ 30 % 512 = 4 ∧ 0x100000 * 4096 / 2 ^ 21 % 512 = 0 ∧
     0x100000 * 4096 / 2 ^ 12 % 512 = 0 ∧ rd 0x1000 = some 0x2003 ∧ rd 0x2020 = some 0x3003 ∧ rd 0x3000 = some 0x4003 ∧
     rd 0x4000 = some (.ofNat 64 (0x5000 + leaf)) ∧ (∀ a ∈ [0x1000, 0x2020, 0x3000, 0x4000], (s0.readTable a).1 = s0) ∧
     isLeaf (s0.walkFor 1 (0x100000 * 4096)).2 = decide (leaf = 1)) ∧
    tierOf (2 ^ 45) = none ∧ (tierOf 0x1000).isSome = true ∧
    ({ (tables 1).dram with chans := [(0, { Channel.reset with fenced := true })] } : Dram).fenced 0 = true := by decide +kernel

/-- A walk whose leaf's page an invalidation of another granule of that page meets. -/
theorem witness_EnginesAndControllers_under :
    let v : Inval := { idx := 0, part := 1, base := 0x100000000, bits := 12 }
    let s := { tables 1 with xl := { (tables 1).xl with invals := [v] } }
    s.xl.invals = [v] ∧ v.part = 1 ∧ isLeaf (s.walkFor 1 (0x100000 * 4096)).2 = true ∧
    (∀ bits ∈ [12, 16, 21], v.base < 0x100000 * 4096 / 2 ^ bits * 2 ^ bits + 2 ^ bits ∧
      0x100000 * 4096 / 2 ^ bits * 2 ^ bits < v.base + 2 ^ v.bits) := by decide +kernel

theorem witness_EnginesAndControllers_invalidation :
    (∀ c, (State.reset.core c).ringed = 0) ∧ (∀ b e, ((State.reset.bay b).engine e).stalled = false) ∧
    State.reset.dram.nm.any (fun w => w.part == 1) = false ∧
    ({ State.reset with dram := { Dram.reset with nm := [nmWait] } } : State).dram.nm.any (fun w => w.part == 1) = true :=
  ⟨fun _ => rfl, fun _ _ => rfl, by decide +kernel, by decide +kernel⟩

theorem witness_EnginesAndControllers_memory :
    (let w : QWrite := { line := 4, data := 1, bm := 1, key := 0 }
     let d : Dram := { Dram.reset with queues := [(0, [w])] }
     d.queue 0 = [w] ∧ ctrlOf (w.line * 64) = 0 ∧ d.fenced (w.line * 64) = false ∧ d.verifies (w.line * 64) w.key = true ∧
     ({ d with chans := [(0, { Channel.reset with fenced := true })] } : Dram).fenced (w.line * 64) = true ∧
     (Dram.reset.chan (chanNo 0 0)).fenced = false ∧ (tierOf (w.line * 64)).isSome = true ∧
     ({ d with cond := [(4, .bad)] } : Dram).verifies (w.line * 64) 0 = false) ∧
    (∀ spares ∈ [0, 2], let x : Channel := { Channel.reset with spares := some spares, repair := [3], lanes := [(3, 15)] }
     Tbl.get 0 x.lanes 3 + 1 = 16 ∧ x.spares.getD Config.spareLanes = spares ∧ x.repair.contains 3 = true ∧ x.want = none ∧ x.fenced = false ∧
     x.replays.contains 3 = false ∧ ({ x with replays := [3] } : Channel).replays.contains 3 = true) := by
  decide +kernel

/-- A function's registers with a ring of 64 entries, enabled or not, and a command that has been issued. -/
def Sys2Proof.Tests.ring (en : Bool) (next done : Nat) (commits : List Nat) (cmds : List HostCmd) : HostFn :=
  { HostFn.reset with ringEn := en, rlog := 6, next := next, doneT := done, commits := commits, cmds := cmds }
def Sys2Proof.Tests.hcmd (status subs : Nat) (issuing : Bool) : HostCmd :=
  { ticket := 0, tag := 0, irq := true, status := status, detail := 0, subs := subs, index := 0, issuing := issuing }
def Sys2Proof.Tests.function (x : HostFn) : State := { wired [] Npd.reset with host := [(1, x)] }

theorem witness_HostRegistersAndResets_registers :
    (function HostFn.reset).fnLive 9 = false ∧ (function HostFn.reset).fnLive 1 = true ∧
    (∀ n ∈ [3, 70], let x := ring true n 0 [2] [hcmd 0 0 false]
     x.ringEn = true ∧ (ahead x.next x.doneT < 2 ^ x.rlog ↔ n = 3) ∧ x.cmds ≠ []) ∧
    (let x := ring true 3 0 [2] []
     ahead 1 x.doneT < ahead x.next x.doneT ∧ x.commits.contains 1 = false ∧ x.commits.contains 2 = true ∧
     ahead x.next x.doneT ≤ ahead 7 x.doneT ∧ x.cmds = [] ∧ x.rxEn = false ∧ HostFn.reset.ringEn = false ∧
     ({ x with rxEn := true } : HostFn).rxEn = true) ∧
    (0x8000000000000006 : DWord).getLsbD 63 = true ∧ (0x8000000000000006 : DWord).toNat % 2 ^ 5 = 6 := by decide +kernel

theorem witness_HostRegistersAndResets_resets :
    (∀ r ∈ [true, false], let s := (wired [] Npd.reset).updPart 1 (fun x => { x with inReset := r })
     (s.part 1).live = true ∧ (s.part 1).inReset = r ∧ s.dram.nm.any (fun w => w.part == 1) = false ∧ (s.part 9).live = false ∧
     s.holdsCore 1 0 = true ∧ s.holdsCore 1 6 = false ∧ (s.part 1).hasCounter 3 = true ∧ (s.part 1).hasCounter 16 = false ∧
     s.npd.msgs = [] ∧ s.jobs = [] ∧ s.dram.nm = []) ∧
    (let m : Msg := { msg .deliver with done := 64 }
     let j : HostJob := { fn := 1, ticket := 0, op := 2, a1 := 0, a2 := 0x64000, a3 := 128, index := 0, done := 64, tiles := [] }
     let s := { wired [] { Npd.reset with msgs := [m] } with jobs := [j] }
     m ∈ s.npd.msgs ∧ m.part = 1 ∧ m.stage = .deliver ∧ m.done ≠ 0 ∧ j ∈ s.jobs ∧ j.fn = 1 ∧ j.op = 2 ∧ j.done ≠ 0) ∧
    (State.reset.hostFn 0).cmds = [] := by decide +kernel

theorem witness_HostRegistersAndResets_completion :
    (∀ c ∈ [hcmd 0 0 false, hcmd 6 0 false, hcmd 0 1 false, hcmd 0 0 true], let s := function (ring true 1 0 [] [c])
     (s.hostFn 1).cmds = [c] ∧ (∀ e ∈ s.parts, e.2.inReset = false) ∧ (s.hostFn 1).resetting = false ∧ c.ticket < 2 ^ 32 ∧ c.status < 2 ^ 16) ∧
    (hcmd 0 0 false).subs = 0 ∧ (hcmd 0 0 false).issuing = false ∧ (hcmd 0 0 true).issuing = true := by decide +kernel

def Sys2Proof.Tests.upd : Update := { fn := 0, ticket := 0, index := 0, start := 0, tabv := 1, ver := 2, img := [] }
/-- A live update under way in the given cycle, with a handler of firmware running or not. -/
def Sys2Proof.Tests.updating (busy sby : Bool) (u : Option Update) (now : Nat) : State :=
  { State.reset with
    fw := { Firmware.reset with update := u, sby := sby }, cycle := now, host := [(0, ring true 1 0 [] [hcmd 0 1 false])],
    npd := if busy then { Npd.reset with threads := [(1536, Thread.reset)] } else Npd.reset }

theorem witness_HostRegistersAndResets_firmware :
    (∀ b ∈ [true, false], ∀ now ∈ [0, 2 ^ 24], let s := updating b true (some upd) now
     s.fw.update = some upd ∧ s.fwBusy = b ∧ (npdCycles s.cycle < upd.start + 2 ^ 20 ↔ now = 0) ∧ (s.hostFn 0).cmds = [hcmd 0 1 false] ∧
     (npdCycles s.fw.served + 2 ^ 22 ≤ npdCycles s.cycle ↔ now ≠ 0)) ∧
    (∀ b ∈ [true, false], (updating false b none (2 ^ 24)).fw.update = none ∧ (updating false b none (2 ^ 24)).fw.up = true ∧
     (updating false b none (2 ^ 24)).fwBusy = false ∧ (updating false b none (2 ^ 24)).fw.sby = b) := by decide +kernel

/-- Bytes of a number from address 0, without those that are 0. -/
def Sys2Proof.Tests.memOfNat (n : Nat) : Memory :=
  ((List.range 64).map (fun i => (i, BitVec.ofNat 8 (n / 256 ^ i)))).filter (fun e => e.2 != 0)

/-- A function whose ring holds one committed command at address 0 of host memory, of the given op and ARGs; tile 1 of core 0
spans 200 granules from 0 and is readable, tile 2 after it may be filled by the network processor. -/
def Sys2Proof.Tests.bigTile : Tile := { tile 3 0 0 with sizeg := 200 }
def Sys2Proof.Tests.served (fn op args : Nat) (bytes : Memory) : State :=
  let s := wired [] Npd.reset
  { s with
    host := [(fn, ring true 1 0 [0] [])], hostMem := memOfNat (op * 2 ^ 56 + args * 2 ^ 64),
    parts := [(0, Tbl.get Part.reset State.reset.parts 0), (1, { netPart with doms := [(domKey 0 0, domain0 0)] })],
    cores := [(0, { Core.reset 0 with tiles := [(1, bigTile), (2, { tile 2 0x400 0 with baseg := 200 })], scratch := bytes })] }
def Sys2Proof.Tests.cmd (s : State) : List DWord := (List.range 8).map (fun i => .ofNat 64 (memNat s.hostMem (8 * i) 8))

/-- Bytes of the large tile, for the network processor on a partition's behalf: each may be read. -/
theorem Sys2Proof.Tests.bigTile_reads (fn op args p j : Nat) (bytes : Memory) (hp : p ≤ 1) (h : j < 409600) :
    (served fn op args bytes).flatAt (npdAcc p) j .rd = .ok (.sp 0 j) none := by
  have ht : bigTile.at j = true := by
    unfold Tile.at
    rw [show bigTile.state = 3 from rfl, show bigTile.baseg = 0 from rfl, show bigTile.sizeg = 200 from rfl,
      decide_eq_true (show 0 ≤ j / 2048 by omega), decide_eq_true (show j / 2048 < 0 + 200 by omega)]
    rfl
  have hc : ((served fn op args bytes).core 0).tileAt (served fn op args bytes).stepNo j = some (1, bigTile) := by
    show List.find? _ [(1, bigTile), _] = _
    rw [List.find?_cons_of_pos]
    exact ht
  have h0 : (served fn op args bytes).holdsCore p 0 = decide (p = 1) := by
    have : p = 0 ∨ p = 1 := by omega
    rcases this with rfl | rfl <;> rfl
  have hs (x : Acc) : tileSay bigTile x .rd = .go := rfl
  unfold State.flatAt
  simp only [show j / 2 ^ 31 % 2 = 0 by omega, show j / 2 ^ 24 % 128 = 0 by omega, show j % 2 ^ 24 = j by omega, npdAcc]
  rcases (show p = 0 ∨ p = 1 by omega) with rfl | rfl
  · simp [h0, hc, hs, show ¬ (4294967296 ≤ j) by omega, show ¬ (12582912 ≤ j) by omega, show ¬ (8388608 ≤ j) by omega]
  · simp [h0, hc, hs, show ¬ (4294967296 ≤ j) by omega, show ¬ (12582912 ≤ j) by omega, show ¬ (8388608 ≤ j) by omega]

/-- The host link is a function's while no other has anything to do. -/
theorem Sys2Proof.Tests.link_turn {s : State} {fn : Nat} (h : ∀ q, q ≠ fn → s.linkReady q = false) : s.linkTurn fn = true := by
  unfold State.linkTurn
  split
  · rfl
  · next q e =>
    have hr : s.linkReady q = true := by
      unfold Arb.pick at e
      split at e
      · next hr =>
        cases e
        simp only [Bool.and_eq_true] at hr
        exact hr.1
      · exact List.find?_some e
    by_cases hq : q = fn
    · simp [hq]
    · simp [h q hq] at hr

theorem Sys2Proof.Tests.served_turn (fn op args : Nat) (bytes : Memory) (hf : fn ≤ 1) : (served fn op args bytes).linkTurn fn = true := by
  refine link_turn fun q h => ?_
  rcases q with _ | _ | q
  · rw [show fn = 1 by omega]; rfl
  · rw [show fn = 0 by omega]; rfl
  · simp [State.linkReady, State.fnLive, served, State.part, Tbl.get, Part.reset]

/-- The ring that serves its one command; whether the bus fails is Config's to say. -/
theorem witness_HostCommandsRun_ring (h : Config.busError 0 0 = false) (fn op args : Nat) (bytes : Memory) (hf : fn ≤ 1) :
    let s := served fn op args bytes
    let x := s.hostFn fn
    s.ringServes fn = true ∧ x.frames = [] ∧ x.cmds = [] ∧ x.commits.contains x.head = true ∧ x.head ≠ x.next ∧ s.jobs = [] ∧
    Config.busError (x.ringBase.toNat + x.head % 2 ^ x.rlog * 64) s.stepNo = false := by
  have : fn = 0 ∨ fn = 1 := by omega
  have ht := served_turn fn op args bytes hf
  rcases this with rfl | rfl <;> exact ⟨by unfold State.ringServes; rw [ht]; rfl, rfl, rfl, rfl, (by decide : (0 : Nat) ≠ 1), rfl, h⟩

theorem witness_HostCommandsRun_status :
    (∀ e ∈ [(1, 0x00, 0), (1, 0x01, 0), (1, 0x02, 64 + 2 ^ 64 * 0x64000 + 2 ^ 128 * 4), (1, 0x03, 2 ^ 64 * 64 + 2 ^ 128 * 100), (1, 0x04, 3),
        (1, 0x05, 2 ^ 64 * 3), (1, 0x06, 64 + 2 ^ 64), (1, 0x07, 2 ^ 60 + 2 ^ 192 * 7), (1, 0x08, 2 ^ 64 + 2 ^ 128), (1, 0x09, 2 ^ 64 * 0x101), (0, 0x20, 0),
        (0, 0x21, 1), (0, 0x22, 1), (0, 0x23, 2 ^ 64 * 3012)],
     let s := served e.1 e.2.1 e.2.2 []
     s.cmdStatus e.1 (cmd s) = 0 ∧ cOp (cmd s) = e.2.1) ∧
    (served 1 0x20 0 []).cmdStatus 1 (cmd (served 1 0x20 0 [])) = 2 ∧
    cOp (cmd (served 1 0x7F 0 [])) = 0x7F ∧ argMasks 0x7F = none := by decide +kernel

theorem witness_HostCommandsRun_data :
    (let s := served 1 0x01 0 [(8, 4), (16, 1)]
     let h : List DWord := (List.range 16).map (fun i => .ofNat 64 (memNat (s.store (.scratch 0)) (0 + 8 * i) 8))
     s.checkHeader 1 .launch h = 0 ∧ hGang h = 0 ∧ (s.part 1).waits = [] ∧ s.spFor (npdAcc 1) .rd 0 128 0 0) ∧
    (let s := served 1 0x01 0 []
     let h : List DWord := (List.range 16).map (fun i => .ofNat 64 (memNat (s.store (.scratch 0)) (0 + 8 * i) 8))
     s.checkHeader 1 .launch h ≠ 0) ∧
    (∀ n ∈ [4, 64], (served 1 0x02 (64 + 2 ^ 64 * 0x64000 + 2 ^ 128 * n) []).spFor (delivAcc 1) .wr 0x64000 n 0 0x64000 ∧
     (served 1 0x03 (2 ^ 64 * 64 + 2 ^ 128 * n) []).spFor (npdAcc 1) .rd 0 n 0 0) ∧
    (let s := served 1 0x04 3 []
     s.hasCounter 1 3 = true ∧ s.hasCounter 1 16 = false ∧ s.watchers 3 = []) ∧
    (let s := served 1 0x05 (2 ^ 64 * 3) []
     let e : BitVec 512 := .ofNat 512 (memNat (s.store (.scratch 0)) 0 64)
     s.armCheck 1 3 e = 0 ∧ eAct e = 0 ∧ s.armCheck 1 99 e ≠ 0 ∧ s.spFor (npdAcc 1) .rd 0 64 0 0) := by
  unfold State.spFor; decide +kernel

theorem witness_HostCommandsRun_queues : ∀ d, ((served 1 0x01 0 []).core d).queue.length < 32 ∧ ((served 1 0x01 0 []).core d).ringed = 0 := by
  intro d
  rcases d with _ | d <;> exact ⟨(by decide : (0 : Nat) < 32), rfl⟩

theorem witness_HostCommandsRun_records :
    (let s := served 1 0x07 (2 ^ 60 + 2 ^ 192 * 7) []
     let t := served 1 0x07 (2 ^ 192 * 7) []
     ((s.part 1).dom 0 0).isSome = true ∧ (s.part 1).dom 0 7 = none ∧ s.domainBad 1 (cmd s) = false ∧ t.domainBad 1 (cmd t) = true ∧
     (s.part 1).doms.length < 16384) ∧
    (∀ b ∈ [0, 0xC0], let s := served 1 0x08 (2 ^ 64 + 2 ^ 128) [(7, .ofNat 8 b)]
     s.fw.up = true ∧ (s.part 1).peercnt = 4 ∧ s.spFor (npdAcc 1) .rd 0 32 0 0 ∧
     peerBad (s.part 1).nvec (.ofNat 256 (memNat (s.store (.scratch 0)) 0 32)) = decide (b ≠ 0)) ∧
    (let s := served 1 0x09 (2 ^ 64 * 0x100) []
     s.holdsCore 1 6 = false ∧ s.holdsCore 1 0 = true ∧ s.fw.up = true ∧ (s.core 0).tokens = 0 ∧ (s.core 0).activePlane ≤ 1) := by
  unfold State.spFor; decide +kernel

theorem witness_HostCommandsRun_plane (bytes : Memory) :
    (served 1 0x09 (2 ^ 64 * 0x100) bytes).spFor (npdAcc 1) .rd 0 0x60880 0 0 :=
  ⟨by decide, fun j hj => by rw [Nat.zero_add]; exact bigTile_reads 1 0x09 (2 ^ 64 * 0x100) 1 j bytes (by decide) (by omega)⟩

/-- A partition block: partition 2, bay 1, weights 1, four vectors. -/
def Sys2Proof.Tests.block2 : Memory := [(0, 4), (3, 1), (4, 1), (5, 0x80), (7, 8)]
def Sys2Proof.Tests.created (s : State) : Except Nat Nat :=
  s.createCheck ((List.range 16).map (fun i => .ofNat 64 (memNat (s.store (.scratch 0)) (0 + 8 * i) 8)))

theorem witness_HostCommandsRun_partitions :
    rsSay (created (served 0 0x20 0 block2)) < 1000 ∧ rsSay (created (served 0 0x20 0 [])) ≠ rsSay (created (served 0 0x20 0 block2)) ∧
    1000 ≤ rsSay (created (served 0 0x20 0 [])) ∧
    (let s := served 0 0x21 1 []
     (s.part 1).live = true ∧ (s.part 9).live = false) := by decide +kernel

theorem witness_HostCommandsRun_block (bytes : Memory) : (served 0 0x20 0 bytes).spFor (npdAcc 0) .rd 0 128 0 0 :=
  ⟨by decide, fun j hj => by rw [Nat.zero_add]; exact bigTile_reads 0 0x20 0 0 j bytes (by decide) (by omega)⟩

/-- An image of the least size; whether a complex accepts one of a sound header is Config's to say. -/
theorem witness_HostCommandsRun_update (bytes : Memory) : (served 0 0x23 (2 ^ 64 * 3012) bytes).fw.update = none ∧
    (served 0 0x23 (2 ^ 64 * 3012) bytes).spFor (npdAcc 0) .rd 0 3012 0 0 :=
  ⟨rfl, by decide, fun j hj => by
    rw [Nat.zero_add]; exact bigTile_reads 0 0x23 (2 ^ 64 * 3012) 0 j bytes (by decide) (by omega)⟩

theorem witness_HostCommandsRun_image : imgCheck (List.replicate 3012 0) ≠ 0 := by decide +kernel

theorem witness_HostCommandsRun_soundHeader :
    imgBad (List.replicate 6 0 ++ [1, 0] ++ List.replicate 3004 0) = false ∧
    imgMin (List.replicate 6 0 ++ [1, 0] ++ List.replicate 3004 0) ≤ 0 ∧
    0 ≤ imgMax (List.replicate 6 0 ++ [1, 0] ++ List.replicate 3004 0) := by decide +kernel

/-- The state table of a part whose tiers hold nothing has version 0, wherever it lies. -/
theorem witness_HostCommandsRun_table (args : Nat) (bytes : Memory) : (served 0 0x23 args bytes).tableVersion.2 = some 0 := by
  have hr (p : Nat) : (Dram.boot.drainLine p).resolve (lineOf p) 0 = (Dram.boot, true) := rfl
  have hc (u : State) (p : Nat) : u.count p 0 false = u := rfl
  unfold State.tableVersion State.readPhys
  rw [show (served 0 0x23 args bytes).dram = Dram.boot from rfl, show Dram.boot.forward stateTableAt 8 0 = none from rfl]
  simp only [hr, hc, if_true]
  rfl

/-- A job of a function whose ring has nothing more, in a part whose partition 1 is in RESET or not. -/
def Sys2Proof.Tests.jobOf (fn op a1 a2 a3 n : Nat) : HostJob :=
  { fn := fn, ticket := 0, op := op, a1 := .ofNat 64 a1, a2 := .ofNat 64 a2, a3 := .ofNat 64 a3, index := 0, done := n, tiles := [] }
def Sys2Proof.Tests.atWork (j : HostJob) (r : Bool) : State :=
  let s := served j.fn 0 0 []
  ({ s with host := [(j.fn, ring true 1 0 [] [hcmd 0 1 false])], jobs := [j] }).updPart 1 (fun x => { x with inReset := r, key := some 1 })

theorem witness_HostJobsEnd_jobs :
    (∀ j ∈ [jobOf 1 0x02 64 0x64000 4 0, jobOf 1 0x02 64 0x64000 100 0, jobOf 0 0x21 1 0 0 1, jobOf 0 0x22 1 0 0 1, jobOf 0 0x23 0 3012 0 1],
     ∀ r ∈ [true, false], let s := atWork j r
     let x := s.hostFn j.fn
     s.jobs = [j] ∧ x.commits = [] ∧ x.frames = [] ∧ x.cmds = [hcmd 0 1 false] ∧ (hcmd 0 1 false).ticket = j.ticket ∧
     ((s.part j.fn).inReset = false ↔ j.fn = 0 ∨ r = false) ∧ (s.part 1).inReset = r ∧ (s.part 1).live = true ∧ (s.part 1).key = some 1 ∧
     s.dram.nm.any (fun w => w.part == 1) = false ∧ j.a1.toNat ∈ [64, 1, 0]) ∧
    (hcmd 0 1 false).subs = 1 ∧ (hcmd 0 1 false).index = 0 ∧ (hcmd 0 1 false).status = 0 ∧
    (∀ n ∈ [4, 100], let j := jobOf 1 0x02 64 0x64000 n 0
     (atWork j false).spFor (delivAcc 1) .wr (j.a2.toNat + j.done) (min (j.a3.toNat - j.done) (64 - (j.a2.toNat + j.done) % 64)) 0 0x64000) := by
  unfold State.spFor; decide +kernel

/-- The link is the function's, for a command's line as for a record. -/
theorem witness_HostJobsEnd_turn : (∀ n r, (atWork (jobOf 1 0x02 64 0x64000 n 0) r).linkTurn 1 = true) ∧
    ∀ c, (function (ring true 1 0 [] [c])).linkTurn 1 = true := by
  refine ⟨fun n r => link_turn fun q h => ?_, fun c => link_turn fun q h => ?_⟩ <;> rcases q with _ | _ | q
  · rfl
  · exact absurd rfl h
  · simp [State.linkReady, State.fnLive, atWork, served, jobOf, State.updPart, State.setPart, State.part, Tbl.get, Tbl.set, Part.reset]
  · rfl
  · exact absurd rfl h
  · simp [State.linkReady, State.fnLive, function, wired, net, st, machine, State.part, Tbl.get, Part.reset]

theorem witness_HostJobsEnd_bus (h : Config.busError 64 0 = false) : let j := jobOf 1 0x02 64 0x64000 4 0
    Config.busError (j.a1.toNat + j.done) (atWork j false).stepNo = false := h

theorem witness_HostJobsEnd_update : ∀ b ∈ [true, false],
    (let s := { updating b true (some upd) 0 with jobs := [jobOf 0 0x23 0 3012 0 1] }
     s.fw.update = some upd ∧ s.fwBusy = b ∧ (s.hostFn 0).cmds = [hcmd 0 1 false] ∧ (s.part 0).inReset = false) := by decide +kernel

/-- Readings that stay below every threshold, and readings that halt the part. -/
def Sys2Proof.Tests.cool : Readings := { dies := [300, 300, 300, 300], hbms := [300], npd := 300 }
def Sys2Proof.Tests.cold (m d since now : Nat) : State :=
  let x := { Cryo.reset with mstate := m, dstate := (List.range 4).map (fun e => (e, d)) }
  { State.reset with cryo := { x with since := (List.range 4).map (fun e => (e, some since)) }, cycle := now }

theorem witness_ModuleEvents_temperature :
    (State.reset.power.halt < 500 ∧ ¬ (∃ d, d < 4 ∧ State.reset.power.halt < min (cool.dies.getD d 0) 1023) ∧
     ¬ State.reset.power.halt < min cool.npd 1023) ∧
    (∀ m ∈ [0, 1, 2, 3, 5], (cold m 2 0 0).cryo.mstate = m ∧ (cold m 2 0 0).dstate 1 = 2) ∧
    (∀ now ∈ [0, 2 ^ 30], ∀ e ∈ [0, 1, 2, 3], let s := cold 1 2 0 now
     Tbl.get none s.cryo.since e = some 0 ∧ (0 + s.cryo.settle * 1700000 ≤ s.cycle ↔ now ≠ 0)) ∧
    (Cryo.reset.th 3 ≤ 390 ∧ Cryo.reset.bandFor 0 390 = 4 ∧ Cryo.reset.bandFor 5 300 < 5 ∧ 300 + Cryo.reset.hyst < Cryo.reset.th 5) := by
  decide +kernel

theorem witness_ModuleEvents_power :
    (Dram.reset.chan (chanNo 0 0)).repair = [] ∧ State.reset.power.chaffw ≠ 0 ∧
    (∀ cd ∈ [0, 1000000], let e : EnergyDelta := { cd := [cd, 0, 0, 0], npd := 1, hbm := 0, silo := 0, link := 0, chaff := 0 }
     let s := State.reset
     let p := s.power
     let ep := min (max (s.demand e) (max (p.e - p.rampop) p.pfloor)) (min (p.e + p.rampop) p.pcapop)
     (ep < s.demand e ↔ cd ≠ 0) ∧ (cd ≠ 0 → s.demand e ≠ e.npd + e.hbm + e.silo + e.link)) := by decide +kernel

theorem witness_ModuleEvents_telemetry :
    State.reset.power.telWait = [] ∧ State.reset.power.telEn = false ∧
    (let s := State.reset.updPart 0 (fun x => { x with peers := [(1, .ofNat 256 (2 ^ 62))] })
     let t := { s with power := { s.power with telcfg := 0x8002000000000000 } }
     t.power.telEn = true ∧ t.power.telPeer = 1 ∧ (t.part 0).sends.length < 4096 ∧ t.power.telPeer ≠ (t.part 0).self ∧
     peerKind ((t.part 0).peer 1) = 1) ∧
    (let s := State.reset.updPart 0 (fun x => { x with sends := List.replicate 4096 (send1 false) })
     4096 ≤ (s.part 0).sends.length) := by decide +kernel

theorem witness_MemoriesStayCanonical : State.reset.canonical := by
  intro m
  cases m with
  | scratch c => rfl
  | plane c n => rcases n with _ | _ <;> rfl
  | handlers => rfl
  | tiers => rfl
  | host => rfl
  | crib p r => rcases p with _ | p <;> rfl

/-! ## Further witnesses, clause by clause -/

theorem witness_StepRunsTheDecodedInstruction_nothingDue : State.reset.nothingDue ∧ (State.reset.withFetchWord 32 0x0190C540).nothingDue := by
  refine ⟨⟨rfl, by decide, by decide, fun _ => rfl⟩, rfl, by decide, by decide, fun c => ?_⟩
  cases c <;> rfl

/-- A stream whose translations hold a page over the first GiB of the near tier, whose first line is its partition's, or none. -/
def Sys2Proof.Tests.paged (t : List TlbEntry) (s : State) : State :=
  { s with xl := { Xlate.reset with tlb := t }, dram := { Dram.reset with keys := [(1, ⟨some 1, 0⟩)], lineKey := [(0, (1, 0))] },
           parts := [(1, { tenant with root := some 0x1000 })] }

theorem Sys2Proof.Tests.in_tier {s : State} {x : Acc} {kind : AKind} {a n : Nat} (hu : x.unit = .core 0) (hp : x.part = 1)
    (hk : kind = .rd ∨ kind = .wr ∨ kind = .at) (h : a + n ≤ 64) : (paged [page] s).inTier x kind (0x100000000 + a) n a := by
  refine ⟨by omega, by omega, by omega, by simp [paged, Xlate.reset], fun j hj => ⟨page, 1, ?_, ?_, rfl, rfl, ?_, ?_, ?_⟩⟩
  · rw [show (paged [page] s).xl.tlb = [page] from rfl, List.find?_cons_of_pos]
    simp only [TlbEntry.covers, hu, hp, page, Bool.and_eq_true, beq_iff_eq]
    exact ⟨⟨trivial, trivial⟩, by omega⟩
  · have hj2 : (4294967296 + a + j) % 1073741824 = a + j := by omega
    have ht : tierOf (a + j) = some .near := if_pos (by omega)
    rcases hk with rfl | rfl | rfl <;> simp [State.useLeaf, page, paged, Dram.key, Tbl.get, hp, hj2, ht]
  · rw [show (paged [page] s).dram.verifies (a + j) 1 = (Tbl.get (0, 0) [(0, (1, 0))] ((a + j) / 64) == (1, 0) && true) from rfl,
      show (a + j) / 64 = 0 by omega]
    rfl
  · rfl
  · intro w hw; cases hw

/-- Addresses for each rule of R206: a field that is 0, another partition's core, another slot's bytes, no tile, a READY tile's. -/
theorem Sys2Proof.Tests.tile_refused : let s := tiled (tile 3 0 0) (slotOf .ctl [])
    s.tileRefused 0 0 .rd 0x48000000 1 ∧ s.tileRefused 0 0 .wr 0xC00000 1 ∧ s.tileRefused 0 0 .rd 0x47000000 2 ∧
    s.tileRefused 0 0 .at 0x80900000 3 ∧ s.tileRefused 0 0 .rd 0x800 4 ∧ s.tileRefused 0 0 .wr 0x40 5 ∧ s.tileRefused 0 0 .at 0x40 5 := by
  intro s
  have h0 : s.partOf (.strm 0 0 .ctl) = 1 := rfl
  have h1 : s.holdsCore 1 71 = false := by decide +kernel
  have h2 : s.holdsCore 1 0 = true := by decide +kernel
  have h3 : (s.core 0).tileAt s.stepNo 0x800 = none := by decide +kernel
  have h4 : (s.core 0).tileAt s.stepNo 0x40 = some (5, tile 3 0 0) := by decide +kernel
  unfold State.tileRefused
  rw [h0]
  refine ⟨?_, ?_, ?_, ?_, ?_, ?_, ?_⟩ <;> simp [h1, h2, h3, h4, tile]

/-- An address beyond the virtual space; one in a page that allows no write; one of a partition that has no tables. -/
theorem Sys2Proof.Tests.xl_refused (kind : AKind) (x : Acc) (hu : x.unit = .core 0) (hp : x.part = 1) :
    (st .ctl []).xlRefused x kind (2 ^ 48) 1 ∧ (st .ctl []).xlRefused x kind (2 ^ 32) 2 ∧
    ((kind = .wr ∨ kind = .at) → (paged [{ page with leaf := { page.leaf with w := false } }] (st .ctl [])).xlRefused x kind (2 ^ 32) 4) := by
  have hf : ∀ w ∈ (st .ctl []).xl.faults, w.who ≠ x.who := fun _ h => nomatch h
  refine ⟨.inl ⟨rfl, by decide⟩, .inr ⟨by decide, by decide, .inr ⟨hf, .inl ⟨rfl, rfl, by rw [hp]; rfl⟩⟩⟩, fun hk =>
    .inr ⟨by decide, by decide, .inr ⟨by simp [paged, Xlate.reset], .inr
      ⟨{ page with leaf := { page.leaf with w := false } }, ?_, rfl, .inl ⟨rfl, by rcases hk with h | h <;> simp [h], rfl⟩⟩⟩⟩⟩
  rw [show (paged [{ page with leaf := { page.leaf with w := false } }] (st .ctl [])).xl.tlb = [{ page with leaf := { page.leaf with w := false } }] from rfl,
    List.find?_cons_of_pos]
  simp only [TlbEntry.covers, hu, hp, page, Bool.and_eq_true, beq_iff_eq]
  exact ⟨⟨trivial, trivial⟩, by omega⟩

/-- The same statements' addresses in registers: a doubleword of a tier, one refused by each rule, and one in no cache. -/
theorem witness_LoadsAndStores_forms :
    (∀ a ∈ [0x100000000, 2 ^ 48, 2 ^ 32, 0x48000000, 0x47000000, 0x80900000, 0x800, 0x40],
      let s := (tiled (tile 3 0 0) (slotOf .ctl [(1, .ofNat 64 a)]))
      s.acts s.agent always = true ∧ (s.reg s.agent 1 + offVal (.off 0)).toNat = a ∧ a % 64 + 8 ≤ 64) ∧
    (let s := paged [page] (st .ctl [])
     (s.accOf s.agent).unit = .core 0 ∧ (s.accOf s.agent).part = 1 ∧ ∀ q, (s.dram.queue q).length < 63) ∧
    (let s := paged [] (st .ctl [])
     (∀ f ∈ s.xl.faults, f.who ≠ (s.accOf s.agent).who) ∧ (∀ e ∈ s.xl.tlb, e.covers .npd 0 0 = false) ∧ (s.part 1).root.isSome = true) :=
  ⟨by decide +kernel, ⟨rfl, rfl, fun _ => (by decide : (0 : Nat) < 63)⟩, by decide, by decide, rfl⟩

/-- MWAIT armed and blocked, with a read behind it or not. -/
def Sys2Proof.Tests.awaiting (w : Option Watch) : State :=
  ((priv .ctl).setMon (priv .ctl).agent 0x8000000080800000).updStrm (.strm 0 0 .ctl)
    (fun t => { t with mode := .blocked, token := some 0, watch := w })
def Sys2Proof.Tests.lastRead (writes : Nat) : Watch := { place := (Loc.sp 0 0x800000).dword, saves := 0, writes := writes }

theorem witness_AtomicsMonitorsAndFences_watching : ∀ w ∈ [none, some (lastRead 0), some (lastRead 1)], let s := awaiting w
    s.agent = .strm 0 0 .ctl ∧ s.acts s.agent always = true ∧ (s.mon s.agent).getLsbD 63 = true ∧ (s.strm s.agent).watch = w ∧
    (s.mon s.agent).toNat % 2 ^ 48 = privA ∧ s.readsAgain s.agent (s.accOf s.agent) privA = decide (w ≠ some (lastRead 0)) ∧
    memNat (s.store (.scratch 0)) 0x800000 8 = 7 ∧ (s.srcZ s.agent (.lit 8)).toNat = 8 ∧ (s.srcZ s.agent (.lit 7)).toNat = 7 := by
  decide +kernel

theorem witness_AtomicsMonitorsAndFences_watched : ∀ w ∈ [none, some (lastRead 0), some (lastRead 1)],
    (awaiting w).inScratch .rd privA 8 0 0x800000 := by
  unfold State.inScratch State.spByte; decide +kernel

theorem witness_VectorQueueSources_families : ∀ q ∈ [2, 3], ∀ w ∈ [true, false],
    vecQ.acts vecQ.agent always = true ∧
    (vecQ.own vecQ.agent).qSay ((qOfA w (.queue (.ofNat 4 q))).toList ++ (qOfB w (.reg 4)).toList) 3 = (if q = 3 then .bad else if w then .wait else .go) := by
  decide +kernel

/-- A vector stream whose base address leads to the tier's first line, or is refused in one of the ways. -/
def Sys2Proof.Tests.vbased (a : Nat) (ix : Nat) : State := (st .vec []).updSlot 0 0 (fun x =>
  { x with regs := { x.regs with vbase := .ofNat 64 a }, v := { x.v with masks := [(1, 1), (2, 0)], regs := [(0, .ofNat 16384 ix)] } })

theorem witness_VectorLoadsAndStores_forms :
    (∀ a ∈ [0x100000000, 2 ^ 48, 0x80900000, 0x800, 0x40], let s := vbased a 0
      s.acts s.agent always = true ∧ s.agent = .strm 0 0 .vec ∧ (∀ i, i < 1024 → (((s.own s.agent).seen.v.mask 1).getLsbD i = true ↔ i = 0)) ∧
      (s.own s.agent).seen.regs.vbase.toNat = a ∧ (a + 4 * 0) % 64 + 4 ≤ 64 ∧ a + 4 * 0 < 2 ^ 64 ∧ (s.strm s.agent).again = none ∧
      (List.range 1024).filter (fun e => ((s.own s.agent).seen.v.mask 1).getLsbD e) = [0]) ∧
    (let s := vbased 0x80800002 0
     (List.range 1024).filter (fun e => ((s.own s.agent).seen.v.mask 1).getLsbD e) = [0] ∧
     ((s.own s.agent).regs.vbase.toNat + ((s.own s.agent).seen.v.elems true 0).getD 0 0) % 2 ^ 64 % 4 ≠ 0) ∧
    (∀ q, (paged [page] (vbased 0 0)).dram.queue q = []) ∧
    ((paged [page] (vbased 0 0)).accOf (.strm 0 0 .vec)).unit = .core 0 ∧ ((paged [page] (vbased 0 0)).accOf (.strm 0 0 .vec)).part = 1 :=
  ⟨by decide +kernel, by decide +kernel, fun _ => rfl, rfl, rfl⟩

/-- Work out behind the stream, and a DRAINING tile whose consumer is the slot or another. -/
theorem witness_TileInstructions_others : ∀ n ∈ [1, 2, 3, 4], ∀ q ∈ [0x200, 0x201], ∀ w ∈ [[copied], []],
    let s := tiled (tile n q q) { slotOf .ctl [(1, 512), (2, 5), (3, 0x100000000)] with adm := w }
    s.acts s.agent always = true ∧ s.tileNo s.agent (.imm 5) = some 5 ∧ ((s.core 0).tile 5).state = n ∧ ((s.core 0).tile 5).cons = q ∧
    s.workOut s.agent (BitVec.allOnes 6) = decide (w ≠ []) ∧ 511 < (s.reg s.agent 1).toNat ∧ 2 ^ 32 ≤ (s.reg s.agent 3).toNat := by
  decide +kernel

/-- A queued piece that is saved in record 0. -/
theorem witness_TaskInstructions_pin :
    let s := (busy (slotOf .ctl [(1, 9)])).updPart 1 (fun x => { x with recs := [(0, savedIn false)] })
    let s := s.updCore 0 (fun x => { x with queue := [{ waiting with saved := some 0 }] })
    s.acts s.agent always = true ∧ (s.core 0).queue.any (fun e => e.piece.id.toNat == (s.reg s.agent 1).toNat) = true ∧
    s.savedRec waiting.piece.part 0 = some (savedIn false) ∧ realAgent s.agent = true := by decide +kernel

theorem Sys2Proof.Tests.page_rec {s : State} (hp : s.parts = [(1, { tenant with crib := 1 <<< 52 ||| 1 <<< 32 })]) :
    (s.part 1).recAt 0 = 0x100000000 ∧ (s.part 1).freeRec = some 0 := by
  unfold State.part; rw [hp]; decide +kernel

/-- A save over the crib's page is made. -/
theorem Sys2Proof.Tests.saved_page {s : State} {k : Nat} {q : Piece} (hx : s.xl = { Xlate.reset with tlb := [page] })
    (hd : s.dram = { Dram.reset with keys := [(1, ⟨some 1, 0⟩)] }) (hs : (s.slotSync 0 k).part = 1)
    (hp : s.parts = [(1, { tenant with crib := 1 <<< 52 ||| 1 <<< 32 })]) (hq : (s.slot 0 k).piece = some q) (h1 : q.part = 1) :
    s.mapped (s.slotSync 0 k) .wr ((s.part q.part).recAt 0) 0x400000 ∧ (s.part q.part).freeRec = some 0 ∧
      ∃ u, s.saveSlot 0 k (fun _ => true) false none = (u, .saved 0) := by
  obtain ⟨ha, hf⟩ := page_rec hp
  have hm : s.mapped (s.slotSync 0 k) .wr ((s.part q.part).recAt 0) 0x400000 := by
    rw [h1, ha]; exact mapped_page hx hd rfl rfl hs
  obtain ⟨d, -, h⟩ := State.saveSlot_mapped (s := s) (q := q) (r := 0) (fun _ => true) false none hq (by rw [h1]; exact hf) hm
  exact ⟨hm, by rw [h1]; exact hf, _, h⟩

theorem witness_TaskInstructions_save : let s := ((busy (slotOf .ctl [(1, 9), (2, 8)])).enterSave 0 0).result (.strm 0 0 .ctl) 3 0 2
    s.mapped (s.slotSync 0 0) .wr ((s.part 1).recAt 0) 0x400000 ∧ (s.part 1).freeRec = some 0 ∧
      ∃ u, s.saveSlot 0 0 (fun _ => true) false none = (u, .saved 0) :=
  saved_page (q := loadPiece) rfl rfl rfl rfl rfl rfl

theorem witness_UnitsPassAndPiecesGiveWay_save : let s := (shared true .gleaning [flight] 65536).enterSave 0 0
    s.mapped (s.slotSync 0 0) .wr ((s.part 1).recAt 0) 0x400000 ∧ (s.part 1).freeRec = some 0 ∧
      ∃ u, s.saveSlot 0 0 (fun _ => true) false none = (u, .saved 0) :=
  saved_page (q := { loadPiece with kind := .gleaning }) rfl rfl rfl rfl rfl rfl

/-- COPY with four commands buffered, and with its command waiting, over a buffer that is full or not. -/
theorem witness_CopiesMoveBytes_full :
    (∀ n ∈ [3, 4], let s := templates.updSlot 0 0 (fun x => { x with adm := List.replicate n copied, copyWaits := [(6, copied)] })
      let t := s.updStrm s.agent (fun x => { x with mode := .blocked, token := some 6 })
      s.acts s.agent always = true ∧ tCheck ((s.core 0).template 2) (s.partOf s.agent == 0) = 0 ∧
      (4 ≤ (s.slot 0 0).adm.length ↔ n = 4) ∧ t.acts t.agent always = true ∧ (t.strm t.agent).token = some 6 ∧
      (t.slot 0 0).copyWaits.find? (fun x => x.1 == 6) = some (6, copied) ∧ (t.slot 0 0).adm.length = n) ∧
    (∀ w ∈ [none, some (lastRead 0), some (lastRead 1)],
      let s := templates.updStrm templates.agent (fun t => { t with mode := .blocked, token := some 0, held := 0x80800000, watch := w })
      s.acts s.agent always = true ∧ (s.strm s.agent).token ≠ none ∧ (s.strm s.agent).held.toNat = privA ∧
      s.readsAgain s.agent (s.accOf s.agent) privA = decide (w ≠ some (lastRead 0))) := by decide +kernel

/-- A near-memory command of one line of 16 words, whose target and array lie in the same unit or not, over the given pages. -/
def Sys2Proof.Tests.nmPages (op at1 : Byte) (t : List TlbEntry) : State :=
  { (nmBlock op 0).updCore 0 (fun x => { x with scratch := memPut x.scratch 0x800011 at1 }) with xl := { Xlate.reset with tlb := t } }
theorem witness_NearMemoryCommands_codes :
    (∀ op ∈ [(0 : Byte), 2], ∀ at1 ∈ [(1 : Byte), 0x10], let s := nmPages op at1 []
     let b : List DWord := (List.range 8).map (fun i => .ofNat 64 (memNat (s.store (.scratch 0)) (0x800000 + 8 * i) 8))
     nmBad b = false ∧ nmTgt b % 64 = 0 ∧ (2 ≤ nmOp b ↔ op = 2) ∧ nmSa b % 64 = 0 ∧ 0 < nmCount b ∧ nmCount b ≤ nmPerLine b ∧
     nmTgt b = 0x100000000 ∧ nmSa b = 0x100000000 + 256 * at1.toNat) ∧
    unitOf 0 ≠ unitOf 0x1000 ∧ unitOf 0 = unitOf 0x100 ∧ tierOf 0x20000000000 ≠ some .near ∧ tierOf 0 = some .near ∧ tierOf 0x1000 = some .near := by
  decide +kernel

/-- Where its lines lie, in the near tier or in the silo. -/
def Sys2Proof.Tests.nmPageAt (pa : Nat) : TlbEntry := { nmPage with leaf := { nmPage.leaf with pa := pa } }
theorem Sys2Proof.Tests.nm_place (kind : AKind) (op at1 : Byte) (p a : Nat) (ha : a < 2 ^ 20) (h : p = 0 ∨ p = 0x20000000000) (x : Acc)
    (hu : x.unit = .core 0) (hp : x.part = 1) : (nmPages op at1 [nmPageAt p]).nmPlace x kind (0x100000000 + a) (p + a) := by
  refine ⟨by omega, by omega, (fun _ h => nomatch h), rfl, nmPageAt p, 1, false, ?_, ?_⟩
  · rw [show (nmPages op at1 [nmPageAt p]).xl.tlb = [nmPageAt p] from rfl, List.find?_cons_of_pos]
    simp only [TlbEntry.covers, hu, hp, nmPageAt, nmPage, page, Bool.and_eq_true, beq_iff_eq]
    exact ⟨⟨trivial, trivial⟩, by omega⟩
  · have hj2 : (0x100000000 + a) % 2 ^ 30 = a := by omega
    have ht : (tierOf (p + a)).isSome = true := by
      rcases h with rfl | rfl
      · rw [show tierOf (0 + a) = some .near from if_pos (by omega)]; rfl
      · rw [show tierOf (0x20000000000 + a) = some .silo from (if_neg (by omega)).trans (if_pos (by omega))]; rfl
    unfold State.useLeaf
    simp only [nmPageAt, nmPage, page, Option.isNone_iff_eq_none]
    rw [if_neg (by decide), if_neg (by cases kind <;> decide), if_neg (by cases kind <;> decide), if_neg, if_neg]
    · rw [hj2]
    · rw [hj2]; intro h; rw [h] at ht; exact absurd ht (by decide)
    · rw [hp]; exact (by decide : ¬ ((Dram.key { Dram.reset with keys := [(1, ⟨some 1, 0⟩)] } 1).owner ≠ some 1 ∨ ((1 : Nat) = 0 ∧ (1 : Nat) ≠ 0)))

theorem witness_NearMemoryCommands_full : let s := nmBlock 2 0
    let w := { nmWait with uid := (s.nmCheck (s.accOf s.agent)
      ((List.range 8).map (fun i => .ofNat 64 (memNat (s.store (.scratch 0)) (0x800000 + 8 * i) 8)))).1.uidAt 0 0 }
    let t := { s with dram := { s.dram with nm := List.replicate 64 w } }
    let r := t.nmCheck (t.accOf t.agent) ((List.range 8).map (fun i => .ofNat 64 (memNat (t.store (.scratch 0)) (0x800000 + 8 * i) 8)))
    queuedLines r.2 = 1 ∧ 64 ≤ (r.1.dram.nm.filter (fun q => q.uid == r.1.uidAt 0 0)).length := by decide +kernel

/-- A page held by an invalidation holds the command. -/
theorem witness_NearMemoryCommands_held : let s := nmPages 2 1 [{ nmPage with leaf := { nmPage.leaf with m := true } }]
    let r := s.nmCheck (s.accOf s.agent) ((List.range 8).map (fun i => .ofNat 64 (memNat (s.store (.scratch 0)) (0x800000 + 8 * i) 8)))
    (match r.2 with | .hold => true | .ok _ => false | .code _ => false) = true := by decide +kernel

/-- A slot whose timeout has expired, at the NPD cycle of the timeout. -/
theorem witness_NetworkInstructions_expired :
    (let s := { wired [] { Npd.reset with rslots := [(0, rslot 0)] } with cycle := 2 ^ 20 }
     let x := s.rslot 0
     x.expired s.cycle = true ∧ s.spFor (delivAcc x.part) .wr x.dest.toNat (x.result 0 true false).length 0 0x800 ∧ s.watchers x.dcnt = []) ∧
    (∀ n, (wired [] Npd.reset).rslot n = RSlot.reset) ∧ RSlot.reset.expired 0 = false ∧ (rslot 0).expired 0 = false := by
  refine ⟨by unfold State.spFor; decide +kernel, fun _ => rfl, rfl, by decide +kernel⟩

/-- An entry on counter 3 with threshold 7, an action and its argument. -/
def Sys2Proof.Tests.acting (act arg : Nat) : TotEntry := armed (act * 2 ^ 59 + 2 ^ 192 * 7 + 2 ^ 384 * arg)
def Sys2Proof.Tests.firing (act arg : Nat) (bytes : Memory) : State :=
  let s := wired bytes { Npd.reset with entries := [(5, acting act arg)], counters := [(3, 6)] }
  (s.updPart 1 (fun x => { x with doms := [(domKey 0 0, domain0 0)] })).updCore 0 (fun x => { x with templates := [(2, oneRow 0)] })

theorem witness_EntriesFire_actions : ∀ act ∈ [1, 2, 3, 4], ∀ arg ∈ [0, 2, 71 * 256, 2 ^ 48, 65535],
    let s := firing act arg []
    let x := (s.entry 5).dw
    s.watchers 3 = [5] ∧ eV x = true ∧ (eThresh x).toNat ≤ (s.counter 3 + 1).toNat ∧ eAct x = act ∧ eHold x = false ∧ s.npd.firings = [] ∧
    (eArg x).toNat = arg ∧ s.entryPart 5 = 1 ∧ eStep x = 0 := by decide +kernel

theorem witness_EntriesFire_launch :
    (∀ n ∈ [(4 : Byte), 0], let s := firing 1 0 [(8, n), (16, 1)]
     let h : List DWord := (List.range 16).map (fun i => .ofNat 64 (memNat (s.store (.scratch 0)) (0 + 8 * i) 8))
     s.spFor (npdAcc 1) .rd 0 128 0 0 ∧ (s.checkHeader 1 .launch h = 0 ↔ n = 4) ∧ s.rank ≤ 30000 ∧ hGang h = 0 ∧ (s.part 1).waits = []) ∧
    (∀ c', ((firing 1 0 []).core c').queue.length < 32 ∧ ((firing 1 0 []).core c').ringed = 0) ∧
    (firing 1 (2 ^ 48) []).xlRefused (npdAcc 1) .rd (2 ^ 48) 1 := by
  refine ⟨by unfold State.spFor; decide +kernel, fun c' => ?_, .inl ⟨rfl, by decide⟩⟩
  rcases c' with _ | c' <;> exact ⟨(by decide : (0 : Nat) < 32), rfl⟩

theorem witness_EntriesFire_copy :
    (∀ t ∈ [1, 2], let s := firing 2 t []
     let t1 := tset (tset ((s.core 0).template t) 5 51 (0 : BitVec 1)) 5 43 (0 : BitVec 2)
     s.holdsCore 1 0 = true ∧ s.holdsCore 1 71 = false ∧ (tCheck t1 false = 0 ↔ t = 2) ∧ (s.bay 0).npdBuf.length < 16) := by decide +kernel

theorem witness_EntriesFire_send :
    (∀ f ∈ [(4 : Byte), 32], let s := firing 3 0 [(0, 3), (6, f), (16, 64)]
     s.spFor (npdAcc 1) .rd 0 64 0 0 ∧ (s.sendCheck 1 (blkOf s) = 0 ↔ f = 4) ∧ (s.part 1).sends.length < 4096 ∧
     sbPeer (blkOf s) ≠ (s.part 1).self ∧ peerKind ((s.part 1).peer 1) = 1) ∧
    (let s := firing 3 0 [(0, 3), (6, 4), (16, 64)]
     sbPeer (blkOf s) = 1 ∧ sbLen (blkOf s) = 3 ∧ s.spFor (npdAcc 1) .rd (hw (blkOf s) 2).toNat 3 0 64) := by
  unfold State.spFor; decide +kernel

/-- A barrier message: of a domain that there is or not; by ROD behind a message of its peer, or with none ahead; and a packet for
a partition in reset. -/
theorem witness_NetworkEvents_barrier :
    (∀ rod ∈ [true, false], ∀ ms ∈ [[], [{ msg .deliver with pkt := { pkt 7 0 0 [] with rod := true } }]],
      let s := { wired [] { Npd.reset with msgs := ms, nextMsg := 1 } with cycle := 0 }
      let k := { pkt 7 1 0 [] with rod := rod }
      pkSound k = true ∧ s.partByJob (pkJob k) = some 1 ∧ s.npd.seen = [] ∧ s.outOfTurn 1 k = false ∧ (s.part 1).inReset = false ∧ pkKind k = 1 ∧
      (s.part 1).dom 5 (pkMatch k).toNat = some { domain0 5 with counter := 3 } ∧ (3 : Nat) < 65536 ∧
      (∀ q ∈ s.npd.msgs, q.id < s.npd.nextMsg ∧ q.order < s.npd.nextMsg ∧ q.entry < 65536) ∧ s.watchers 3 = [] ∧
      ((k.rod = true ∧ ∃ q ∈ s.npd.msgs, q.stage ≠ .arrived ∧ q.part = 1 ∧ q.pkt.peer = k.peer ∧ q.pkt.rod = true ∧ q.loop = false) ↔
        rod = true ∧ ms ≠ [])) ∧
    (let s := (wired [] Npd.reset).updPart 1 (fun x => { x with doms := [] })
     (s.part 1).dom 5 (pkMatch (pkt 7 1 0 [])).toNat = none ∧ (s.part 1).hsize ≠ 0 ∧ (s.part 1).events.length < 256) ∧
    (let s := (wired [] Npd.reset).updPart 1 (fun x => { x with inReset := true })
     s.partByJob (pkJob (pkt 7 0 0 [])) = some 1 ∧ s.outOfTurn 1 (pkt 7 0 0 []) = false ∧ (s.part 1).inReset = true) := by decide +kernel

/-- TRET to transfers that had been stopped: a storer's whose stream stands where the frame says, and the control stream's. -/
theorem witness_TrapsAndReturns_rows :
    (∀ again ∈ [none, some 2], ∀ asyn ∈ [0, 1],
      let x := { handled true true (.ofNat 64 (2 ^ 45 * 4 + 2 ^ 44 * asyn)) 0x0003200000000001 [] (some { saved1 with again := again }) [] with
        str := { stream [] with again := again } }
      let y := { x with trap := { x.trap with trow := some .str, trows := 3 } }
      let s := machine .ctl y (Core.reset 0)
      s.acts s.agent always = true ∧ (s.slot 0 0).trap.trow = some .str ∧ (s.slot 0 0).trap.intrap = true ∧ (s.slot 0 0).trap.pend = [] ∧
      s.shownAt (.strm 0 0 .str) = (fieldNat y.trap.tpc 16 16, fieldNat y.trap.tpc 0 4) ∧ (s.slot 0 0).str.again = again ∧
      fieldNat y.trap.tcause 45 3 = 4 ∧ clsCode .str = 4) ∧
    (∀ again ∈ [none, some 2],
      let x := handled true true (.ofNat 64 (2 ^ 44)) 0x0003200000000001 [] (some { saved1 with again := again }) []
      let y := { x with trap := { x.trap with trow := some .ctl, trows := 3 } }
      y.trap.trow = some .ctl ∧ y.trap.ctl = some { saved1 with again := again } ∧ saved1.shown = (fieldNat y.trap.tpc 48 16, fieldNat y.trap.tpc 44 4)) := by
  decide +kernel

/-- Firmware's own slot, to be stopped by its own PART, with a crib of partition 0. -/
def Sys2Proof.Tests.page0 : TlbEntry := { page with part := 0, leaf := { page.leaf with key := 0 } }
def Sys2Proof.Tests.fwOwn : State :=
  { fwState [(1, 0)] Slot.reset with
    parts := [(0, { Tbl.get Part.reset State.reset.parts 0 with crib := 1 <<< 52 ||| 1 <<< 32 })], xl := { Xlate.reset with tlb := [page0] },
    dram := Dram.boot }

theorem Sys2Proof.Tests.mapped_page0 {s : State} {x : Acc} (hx : s.xl = { Xlate.reset with tlb := [page0] }) (hd : s.dram = Dram.boot)
    (hs : x.space = .virt) (hu : x.unit = .core 0) (hp : x.part = 0) : s.mapped x .wr 0x100000000 0x400000 := by
  refine ⟨hs, by decide, by decide, by decide, by simp [hx, Xlate.reset], fun j hj => ⟨page0, j, 0, false, ?_, ?_, ?_⟩⟩
  · rw [hx, List.find?_cons_of_pos]
    simp only [TlbEntry.covers, hu, hp, page0, page, Bool.and_eq_true, beq_iff_eq]
    exact ⟨⟨trivial, trivial⟩, by omega⟩
  · have hj2 : (4294967296 + j) % 1073741824 = j := by omega
    have ht : tierOf j = some .near := if_pos (by omega)
    simp [State.useLeaf, page0, page, hd, Dram.boot, Dram.key, Tbl.get, hp, hj2, ht]
  · rw [hd]; exact ⟨rfl, rfl⟩

theorem witness_SystemInstructions_own (ws : List (Nat × BitVec 512)) : ∀ s ∈ [fwOwn.enterSave 0 0, (fwOwn.result (.strm 0 0 .ctl) 3 0 2).enterSave 0 0],
    fieldNat (fwOwn.reg fwOwn.agent 1) 2 7 = 0 ∧ fieldNat (fwOwn.reg fwOwn.agent 1) 0 2 = 0 ∧ fwOwn.agent = .strm 0 0 .ctl ∧
    (fwOwn.slot 0 0).piece = some { loadPiece with part := 0 } ∧ (fwOwn.slot 0 0).phase = .running ∧ (fwOwn.core 0).frz.since = none ∧
    fwOwn.partOf fwOwn.agent = 0 ∧ fwOwn.acts fwOwn.agent always = true ∧
    (fwOwn.part 0).freeRec = some 0 ∧ ∃ u, s.storeRec (s.slotSync 0 0) ((s.part 0).recAt 0) ws = (u, .ok) ∧
      (u.slot 0 0).piece = some { loadPiece with part := 0 } := by
  intro s hs
  refine ⟨by decide +kernel, by decide +kernel, rfl, rfl, rfl, rfl, rfl, by decide +kernel, by decide +kernel, ?_⟩
  have hr : (s.part 0).recAt 0 = 0x100000000 := by rcases List.mem_pair.mp hs with rfl | rfl <;> decide +kernel
  have hm : s.mapped (s.slotSync 0 0) .wr 0x100000000 0x400000 := by
    rcases List.mem_pair.mp hs with rfl | rfl <;> exact mapped_page0 rfl rfl rfl rfl rfl
  rw [hr]
  obtain ⟨d, -, h⟩ := State.storeRec_mapped ws s _ _ hm
  refine ⟨_, h, ?_⟩
  rcases List.mem_pair.mp hs with rfl | rfl <;> rfl

/-- The crib gains records as SYS.CRIB.COUNT rises. -/
theorem witness_SystemInstructions_crib : let x := { tenant with crib := 1 <<< 52 ||| 1 <<< 32 }
    x.cribFree < { x with crib := 2 <<< 52 ||| 1 <<< 32 }.cribFree ∧ ¬ (x.cribFree < { x with crib := 0 }.cribFree) := by decide +kernel

theorem witness_SystemInstructions_saves (ws : List (Nat × BitVec 512)) :
    (let s0 := ((busy { slotOf .ctl [] with regs := { SlotRegs.reset with req := 1 } }).enterSave 0 0).result (.strm 0 0 .ctl) 3 0 2
     ∃ u, s0.storeRec (s0.slotSync 0 0) ((s0.part 1).recAt 0) ws = (u, .ok) ∧ (u.slot 0 0).piece = some loadPiece) ∧
    (let s := (fwState [(1, 1)] (slotOf .ctl [])).enterSave 0 1
     ∃ u, s.storeRec (s.slotSync 0 1) ((s.part 1).recAt 0) ws = (u, .ok) ∧ (u.slot 0 1).piece = some loadPiece) := by
  constructor <;> intro s <;> rw [show (s.part 1).recAt 0 = 0x100000000 by decide +kernel]
  · obtain ⟨u, h, hu⟩ := stored (s := s) (k := 0) ws rfl rfl rfl
    exact ⟨u, h, by rw [hu]; rfl⟩
  · obtain ⟨u, h, hu⟩ := stored (s := s) (k := 1) ws rfl rfl rfl
    exact ⟨u, h, by rw [hu]; rfl⟩

theorem witness_HostRegistersAndResets_failover : ∀ b ∈ [true, false], ∀ r ∈ [true, false], let s := updating r b none (2 ^ 24)
    s.fw.update = none ∧ s.fw.up = true ∧ s.fw.sby = b ∧ npdCycles s.fw.served + 2 ^ 22 ≤ npdCycles s.cycle := by decide +kernel

/-- A ring to be enabled while commands of the ring before are under way. -/
theorem witness_HostRegistersAndResets_enable :
    (let x := { ring false 1 0 [] [hcmd 0 1 false] with rlog := 0 }
     let w : WaitLaunch := { piece := waiting.piece, target := 0, gang := false, host := some (1, 0, 0) }
     let s := { (function x).updPart 1 (fun y => { y with waits := [w] }) with jobs := [{ fn := 1, ticket := 0, op := 2, a1 := 0, a2 := 0, a3 := 64, index := 0, done := 0, tiles := [] }] }
     (s.hostFn 1).ringEn = false ∧ s.fnLive 1 = true ∧ s.jobs.length = 1 ∧ (s.part 1).waits = [w] ∧ (0x8000000000000006 : DWord).getLsbD 63 = true) := by
  decide +kernel

/-- A function amid the buffers of an INDIRECT: a command of the given op and WAIT bit comes next, in a partition that the command
names or not. -/
def Sys2Proof.Tests.amid (op flags args left depth subs : Nat) : State :=
  let s := served 1 0 0 []
  { s with
    hostMem := memOfNat (flags + op * 2 ^ 56 + args * 2 ^ 64)
    host := [(1, { ring true 1 0 [] [hcmd 0 subs true] with frames := { addr := 0, left := left } :: List.replicate depth { addr := 64, left := 2 } })] }

theorem Sys2Proof.Tests.amid_turn (op flags args left depth subs : Nat) : (amid op flags args left depth subs).linkTurn 1 = true := by
  refine link_turn fun q h => ?_
  rcases q with _ | _ | q
  · rfl
  · exact absurd rfl h
  · simp [State.linkReady, State.fnLive, amid, served, State.part, Tbl.get, Part.reset]

theorem witness_HostJobsEnd_frames (h : Config.busError 0 0 = false) : ∀ op flags args left depth subs, 0 < left → (subs = 0 ∨ subs = 1) →
    let s := amid op flags args left depth subs
    let x := s.hostFn 1
    s.ringServes 1 = true ∧ x.frames = { addr := 0, left := left } :: List.replicate depth { addr := 64, left := 2 } ∧ x.cmds = [hcmd 0 subs true] ∧
    (hcmd 0 subs true).issuing = true ∧ (hcmd 0 subs true).status = 0 ∧ s.jobs = [] ∧ Config.busError 0 s.stepNo = false := by
  intro op flags args left depth subs hl hs
  have ht := amid_turn op flags args left depth subs
  exact ⟨by unfold State.ringServes; rw [ht]; rfl, rfl, rfl, rfl, rfl, rfl, h⟩

theorem witness_HostJobsEnd_nested : ∀ depth ∈ [0, 2, 3],
    (∀ w ∈ [0, 1], ∀ bad ∈ [0, 1], ∀ op ∈ [0, 6],
      let s := amid op (w * 2 ^ 49 + bad * 2 ^ 50) (64 + 2 ^ 64) 1 depth 1
      cWait (cmd s) = decide (w = 1) ∧ cOp (cmd s) = op ∧ ((s.hostFn 1).frames.length = 4 ↔ depth = 3) ∧
      (bad = 1 → s.cmdStatus 1 (cmd s) ≠ 0) ∧ (op = 6 → bad = 0 → s.cmdStatus 1 (cmd s) = 0)) ∧
    (let s := amid 0 0 0 1 depth 1
     s.cmdStatus 1 (cmd s) = 0) := by decide +kernel

theorem witness_HostJobsEnd_dtoh : ∀ n ∈ [4, 100], let j := jobOf 1 0x03 0 64 n 0
    let s := atWork j false
    s.jobs = [j] ∧ (s.hostFn 1).commits = [] ∧ (s.hostFn 1).frames = [] ∧ (s.part 1).inReset = false ∧ s.spFor (npdAcc 1) .rd 0 (min n 64) 0 0 := by
  unfold State.spFor; decide +kernel

/-- Readings above 250 K of every die and stack, and of all but one stack; readings that halt the part; no die to place anew. -/
theorem witness_ModuleEvents_warm :
    (let r : Readings := { dies := [1001, 1001, 1001, 1001], hbms := [1001, 1001], npd := 300 }
     (∀ u ∈ r.hbms, 1000 < u) ∧ (∀ e, e < 4 → 1000 < min (r.dies.getD e 0) 1023)) ∧
    ¬ (∀ u ∈ [1001, 1000], 1000 < u) ∧ (∃ d, d < 4 ∧ State.reset.power.halt < min ([1023, 0, 0, 0].getD d 0) 1023) ∧ Cryo.reset.replace = [] := by
  decide +kernel

theorem witness_ModuleEvents_window : (Dram.reset.chan (chanNo 0 0)).replays = [] ∧ ({ Channel.reset with replays := [3] } : Channel).replays ≠ [] ∧
    (∀ w ∈ [none, some true, some false], ({ Channel.reset with want := w } : Channel).repair = []) ∧
    (let s := cold 2 2 0 0
     (((List.range 72).map (fun i => (s.power.cptr + i) % 72)).filter (fun c => decide (s.dstate (dieOf c) = 2 ∨ s.dstate (dieOf c) = 3))).length = 72) := by
  decide +kernel
end

section
/-! SUPPORT. Bytes and numbers, runs of bytes of a memory, and the cuts of a short access at line ends. -/

namespace Sys2Proof.Machine

/-! ## Bytes and numbers (R4) -/

theorem leNat_append (xs ys : List Byte) : leNat (xs ++ ys) = leNat xs + 256 ^ xs.length * leNat ys := by
  induction xs with
  | nil => simp [leNat]
  | cons x xs ih =>
    simp only [List.cons_append, leNat, ih, List.length_cons, pow_succ]
    ring

theorem leNat_lt (bs : List Byte) : leNat bs < 256 ^ bs.length := by
  induction bs with
  | nil => simp [leNat]
  | cons b bs ih =>
    have hb := b.isLt
    simp only [leNat, List.length_cons, pow_succ]
    omega

theorem leNat_leBytes (n v : Nat) : leNat (leBytes n v) = v % 256 ^ n := by
  induction n generalizing v with
  | zero => simp [leBytes, leNat, Nat.mod_one]
  | succ n ih =>
    simp only [leBytes, leNat, ih, BitVec.toNat_ofNat]
    rw [pow_succ' 256 n, Nat.mod_mul]

theorem leBytes_getD (n v i : Nat) (hi : i < n) : (leBytes n v).getD i 0 = BitVec.ofNat 8 (v / 256 ^ i) := by
  induction n generalizing v i with
  | zero => exact absurd hi (Nat.not_lt_zero i)
  | succ n ih =>
    cases i with
    | zero => simp [leBytes]
    | succ i => rw [leBytes, List.getD_cons_succ, ih _ _ (by omega), pow_succ', Nat.div_div_eq_div_mul]

theorem memRead_add (m : Memory) (a j k : Nat) : memRead m a (j + k) = memRead m a j ++ memRead m (a + j) k := by
  induction j generalizing a with
  | zero => simp [memRead]
  | succ j ih =>
    rw [Nat.add_right_comm]
    simp only [memRead, ih, List.cons_append]
    rw [Nat.add_right_comm a 1 j, Nat.add_assoc a j 1]

theorem memRead_length (m : Memory) (a n : Nat) : (memRead m a n).length = n := by
  rw [memRead_eq, List.length_map, List.length_range]

theorem memWrite_append (m : Memory) (a : Nat) (xs ys : List Byte) :
    memWrite m a (xs ++ ys) = memWrite (memWrite m a xs) (a + xs.length) ys := by
  induction xs generalizing m a with
  | nil => rfl
  | cons x xs ih =>
    simp only [List.cons_append, memWrite, ih, List.length_cons]
    rw [Nat.add_right_comm a 1 xs.length, Nat.add_assoc]

/-- The number that the statements read off a memory is that of the bytes that the model reads. -/
theorem memNat_eq (m : Memory) (a n : Nat) : memNat m a n = leNat (memRead m a n) := by
  induction n with
  | zero => rfl
  | succ n ih =>
    have h1 : memNat m a (n + 1) = memNat m a n + (memGet m (a + n)).toNat * 256 ^ n := by
      simp [memNat, List.range_succ]
    rw [h1, ih, memRead_add, leNat_append, memRead_length]
    simp [memRead, leNat, Nat.mul_comm]

theorem memNat_write (m : Memory) (a n v : Nat) : memNat (memWrite m a (leBytes n v)) a n = v % 256 ^ n := by
  have h := memRead_write m a (leBytes n v)
  rw [leBytes_length] at h
  rw [memNat_eq, h, leNat_leBytes]

/-! ## An access of at most 64 bytes -/

/-- An access of at most 64 bytes cut at the end of its line: the parts' offsets and lengths. -/
def cuts (a n : Nat) : List (Nat × Nat) :=
  if a % 64 + n ≤ 64 then [(0, n)] else [(0, 64 - a % 64), (64 - a % 64, n - (64 - a % 64))]

theorem cuts_line {a n : Nat} (h : a % 64 + n ≤ 64) : cuts a n = [(0, n)] := if_pos h

theorem cuts_within {a n : Nat} (h0 : 0 < n) (hn : n ≤ 64) {c : Nat × Nat} (hc : c ∈ cuts a n) :
    c.1 < n ∧ c.1 + c.2 ≤ n ∧ 0 < c.2 ∧ (a + c.1) % 64 + c.2 ≤ 64 := by
  unfold cuts at hc
  split at hc
  · simp only [List.mem_singleton] at hc
    subst hc
    exact ⟨h0, by omega, h0, by simpa using ‹_›⟩
  · simp only [List.mem_cons, List.not_mem_nil, or_false] at hc
    rcases hc with rfl | rfl <;> dsimp only <;> omega

theorem pieces_cuts {a n : Nat} (h0 : 0 < n) (hn : n ≤ 64) (ha : a + n ≤ 2 ^ 64) :
    pieces a n = (cuts a n).map (fun c => (a + c.1, c.2)) := by
  have hmod : a % 2 ^ 64 = a := Nat.mod_eq_of_lt (by omega)
  have hfuel : splitLines (n / 64 + 2) a n = (cuts a n).map (fun c => (a + c.1, c.2)) := by
    unfold cuts
    split
    · next h =>
      have hk : min n (64 - a % 64) = n := by omega
      simp [splitLines, h0.ne', hk]
    · next h =>
      have hk : min n (64 - a % 64) = 64 - a % 64 := by omega
      have hb : (a + (64 - a % 64)) % 2 ^ 64 = a + (64 - a % 64) := Nat.mod_eq_of_lt (by omega)
      have h2 : (a + (64 - a % 64)) % 64 = 0 := by omega
      have hr : n - (64 - a % 64) ≠ 0 := by omega
      have hm : min (n - (64 - a % 64)) 64 = n - (64 - a % 64) := by omega
      simp only [splitLines, h0.ne', hk, hb, h2, hr, if_false, Nat.sub_zero, hm, Nat.sub_self, List.map_cons, List.map_nil, Nat.add_zero]
      cases n / 64 <;> simp [splitLines]
  rw [pieces, hmod, hfuel]

theorem memRead_cuts (m : Memory) (a n o : Nat) :
    (cuts a n).flatMap (fun c => memRead m (o + c.1) c.2) = memRead m o n := by
  unfold cuts
  split
  · simp
  · next h =>
    have hs : n = (64 - a % 64) + (n - (64 - a % 64)) := by omega
    conv_rhs => rw [hs, memRead_add]
    simp

end Sys2Proof.Machine
end

section
/-! SUPPORT. Accesses of at most 64 bytes (R259): those whose bytes are all in place, in a scratchpad or a tier; those of one line
that are refused or miss. -/

namespace Sys2Proof.Machine

/-! ## An access whose bytes are all in place -/

/-- Where a part lies is on no fenced channel. -/
def Loc.unfenced (d : Dram) : Loc → Prop
  | .sp _ _ => True
  | .pa p _ _ => d.fenced p = false

/-- Byte `j` of the `n` bytes from `a` on is decided to lie at `l j`, where the access may proceed at once. -/
def State.inPlace (s : State) (x : Acc) (kind : AKind) (a n : Nat) (l : Nat → Loc) : Prop :=
  ∀ j, j < n → s.decideAt x (a + j) kind = (s, .ok (l j) none) ∧ (l j).unfenced s.dram

/-- The parts of such an access. -/
def partsAt (a n : Nat) (l : Nat → Loc) : List Part1 := (cuts a n).map (fun c => ⟨a + c.1, c.2, l c.1⟩)

theorem State.decideAll_inPlace {s : State} {x : Acc} {kind : AKind} {a : Nat} {l : Nat → Loc} (cs : List (Nat × Nat))
    (h : ∀ c ∈ cs, s.decideAt x (a + c.1) kind = (s, .ok (l c.1) none)) :
    s.decideAll x kind (cs.map (fun c => (a + c.1, c.2))) = (s, cs.map (fun c => (a + c.1, c.2, .ok (l c.1) none))) := by
  induction cs with
  | nil => rfl
  | cons c cs ih =>
    simp only [List.map_cons, State.decideAll, h c (by simp), ih (fun c hc => h c (by simp [hc]))]

theorem fencedExc_inPlace {d : Dram} {a : Nat} {l : Nat → Loc} (cs : List (Nat × Nat)) (h : ∀ c ∈ cs, (l c.1).unfenced d) :
    fencedExc d (cs.map (fun c => (a + c.1, c.2, .ok (l c.1) none))) = none := by
  rw [fencedExc, List.findSome?_eq_none_iff]
  intro e he
  obtain ⟨c, hc, rfl⟩ := List.mem_map.1 he
  have := h c hc
  cases hl : l c.1 with
  | sp c off => simp
  | pa pa key cnt => 
    rw [hl] at this
    simp only [Loc.unfenced] at this
    simp [this]

/-- Parts that may all proceed give the access leave, and no claim. -/
theorem State.judge_inPlace {s : State} {a : Nat} {l : Nat → Loc} (cs : List (Nat × Nat)) (h : ∀ c ∈ cs, (l c.1).unfenced s.dram) :
    s.judge true (cs.map (fun c => (a + c.1, c.2, .ok (l c.1) none))) = .ok (cs.map (fun c => ⟨a + c.1, c.2, l c.1⟩)) [] := by
  have hlow (k : Nat) : lowestExc k (cs.map (fun c => (a + c.1, c.2, .ok (l c.1) none))) = none := by
    rw [lowestExc, List.foldl_map]
    exact List.foldlRecOn (motive := fun m => m = none) cs _ rfl (fun m hm _ _ => hm)
  have hrace : firstRace (cs.map (fun c => (a + c.1, c.2, .ok (l c.1) none))) = none := by
    rw [firstRace, List.findSome?_eq_none_iff]
    intro e he
    obtain ⟨c, _, rfl⟩ := List.mem_map.1 he
    rfl
  simp [State.judge, hlow, hrace, fencedExc_inPlace cs h, List.filterMap_map, Function.comp_def]

theorem State.check_inPlace {s : State} {x : Acc} {kind : AKind} {a n : Nat} {l : Nat → Loc} (h0 : 0 < n) (hn : n ≤ 64)
    (ha : a + n ≤ 2 ^ 64) (h : s.inPlace x kind a n l) : s.check x a n kind = (s, .ok (partsAt a n l) []) := by
  have hc (c) (hc : c ∈ cuts a n) := h c.1 (cuts_within h0 hn hc).1
  simp only [State.check, State.checkParts, pieces_cuts h0 hn ha, State.decideAll_inPlace _ (fun c hm => (hc c hm).1),
    State.judge_inPlace _ (fun c hm => (hc c hm).2), partsAt]

theorem State.readParts_map {s : State} (ps : List Part1) (f : Part1 → List Byte) (h : ∀ p ∈ ps, s.readPart p = (s, .ok (f p))) :
    s.readParts ps = (s, .ok (ps.flatMap f)) := by
  induction ps with
  | nil => rfl
  | cons p ps ih =>
    simp only [State.readParts, h p (by simp), ih (fun p hp => h p (by simp [hp])), List.flatMap_cons]

/-- A read whose parts stand, side by side, in one memory. -/
theorem State.readMem_inPlace {s : State} {x : Acc} {a n o : Nat} {l : Nat → Loc} {m : Memory} (h0 : 0 < n) (hn : n ≤ 64)
    (ha : a + n ≤ 2 ^ 64) (h : s.inPlace x .rd a n l)
    (hr : ∀ c ∈ cuts a n, s.readPart ⟨a + c.1, c.2, l c.1⟩ = (s, .ok (memRead m (o + c.1) c.2))) :
    s.readMem x a n = (s, .ok (memRead m o n)) := by
  have hp : s.readParts (partsAt a n l) = (s, .ok (memRead m o n)) := by
    rw [State.readParts_map (partsAt a n l) (fun p => memRead m (o + (p.addr - a)) p.len), partsAt, List.flatMap_map]
    · simp [memRead_cuts]
    · intro p hp
      obtain ⟨c, hc, rfl⟩ := List.mem_map.1 hp
      rw [hr c hc, Nat.add_sub_cancel_left]
  simp only [State.readMem, State.check_inPlace h0 hn ha h, hp]

theorem State.primeParts_none {s : State} (ps : List Part1) (h : ∀ p ∈ ps, s.primePart p = (s, none)) :
    s.primeParts ps = (s, none) := by
  induction ps with
  | nil => rfl
  | cons p ps ih => simp only [State.primeParts, h p (by simp), ih (fun p hp => h p (by simp [hp]))]

/-- A write whose parts are all ready writes them one after another. -/
theorem State.writeMem_inPlace {s : State} {x : Acc} {a : Nat} {l : Nat → Loc} {bs : List Byte} (h0 : 0 < bs.length)
    (hn : bs.length ≤ 64) (ha : a + bs.length ≤ 2 ^ 64) (h : s.inPlace x .wr a bs.length l)
    (hp : ∀ c ∈ cuts a bs.length, s.primePart ⟨a + c.1, c.2, l c.1⟩ = (s, none)) :
    s.writeMem x a bs = (s.writeAll (partsAt a bs.length l) bs, .ok ()) := by
  have hr : s.primeParts (partsAt a bs.length l) = (s, none) := by
    refine State.primeParts_none _ fun p hm => ?_
    obtain ⟨c, hc, rfl⟩ := List.mem_map.1 hm
    exact hp c hc
  simp only [State.writeMem, State.check_inPlace h0 hn ha h, hr, State.claim, List.foldl_nil]

/-! ## Bytes of a scratchpad -/

theorem State.inScratch_inPlace {s : State} {kind : AKind} {a n c o : Nat} (h : s.inScratch kind a n c o) :
    s.inPlace (s.accOf s.agent) kind a n (fun j => .sp c (o + j)) := by
  obtain ⟨ha, hb⟩ := h
  intro j hj
  have hany : (s.accOf s.agent).space = .any := by
    unfold State.accOf
    split <;> rfl
  refine ⟨?_, trivial⟩
  rw [State.decideAt, if_pos (.inr ⟨hany, by omega⟩), hb j hj]

theorem State.readMem_inScratch {s : State} {a n c o : Nat} (h0 : 0 < n) (hn : n ≤ 64) (h : s.inScratch .rd a n c o) :
    s.readMem (s.accOf s.agent) a n = (s, .ok (memRead (s.store (.scratch c)) o n)) :=
  State.readMem_inPlace h0 hn (by have := h.1; omega) (State.inScratch_inPlace h) (fun _ _ => rfl)

/-- Parts of a scratchpad, one after another, are written as one run of bytes. -/
theorem State.writeAll_scratch (s : State) (c o a : Nat) (bs : List Byte) :
    ∃ wt, s.writeAll (partsAt a bs.length (fun j => .sp c (o + j))) bs = s.withBytes c (memWrite (s.core c).scratch o bs) wt := by
  unfold partsAt cuts
  split
  · exact ⟨_, by simp [State.writeAll, State.writePart, State.withBytes, State.updCore, Core.write]; rfl⟩
  · next h =>
    have hk : min (64 - a % 64) bs.length = 64 - a % 64 := by omega
    have hs := memWrite_append (s.core c).scratch o (bs.take (64 - a % 64)) (bs.drop (64 - a % 64))
    rw [List.take_append_drop, List.length_take, hk] at hs
    have ht : (bs.drop (64 - a % 64)).take (bs.length - (64 - a % 64)) = bs.drop (64 - a % 64) :=
      List.take_of_length_le (by simp)
    exact ⟨_, by simp [State.writeAll, State.writePart, State.withBytes, State.updCore, Core.write, hs, ht]; rfl⟩

theorem State.writeMem_inScratch {s : State} {a c o : Nat} {bs : List Byte} (h0 : 0 < bs.length) (hn : bs.length ≤ 64)
    (h : s.inScratch .wr a bs.length c o) :
    ∃ wt, s.writeMem (s.accOf s.agent) a bs = (s.withBytes c (memWrite (s.store (.scratch c)) o bs) wt, .ok ()) := by
  obtain ⟨wt, hw⟩ := State.writeAll_scratch s c o a bs
  exact ⟨wt, by
    rw [State.writeMem_inPlace h0 hn (by have := h.1; omega) (State.inScratch_inPlace h) (fun _ _ => rfl), hw]
    rfl⟩

/-- Another scratchpad content leaves every other store alone. -/
theorem State.byteAt_withBytes (s : State) (c : Nat) (m : Memory) (w : Tbl Nat) {x : Store} (hx : x ≠ .scratch c) (i : Nat) :
    (s.withBytes c m w).byteAt x i = s.byteAt x i := by
  have hst : (s.withBytes c m w).store x = s.store x := by
    unfold State.withBytes
    cases x with
    | scratch d =>
      have hd : d ≠ c := fun e => hx (e ▸ rfl)
      simp only [State.store, State.core_updCore_other _ _ hd]
    | plane d n =>
      by_cases hd : d = c
      · subst hd
        simp only [State.store, State.core_updCore]
        rfl
      · simp only [State.store, State.core_updCore_other _ _ hd]
    | handlers => rfl
    | tiers => rfl
    | host => rfl
    | crib p r => rfl
  rw [State.byteAt, State.byteAt, hst]

/-! ## Bytes of a tier -/

/-- No queued write meets the line of byte `pa`, and the line is stored soundly under key `key`. -/
def Dram.quiet (d : Dram) (pa key : Nat) : Prop :=
  d.verifies pa key = true ∧ Tbl.get .sound d.cond (pa / 64) = .sound ∧ ∀ w ∈ d.queue (ctrlOf pa), w.line ≠ pa / 64

theorem lineOf_div (pa : Nat) : lineOf pa / 64 = pa / 64 := by
  unfold lineOf
  omega

theorem Dram.drainLine_quiet {d : Dram} {pa key : Nat} (h : d.quiet pa key) : d.drainLine pa = d := by
  have hf : (d.queue (ctrlOf pa)).filter (fun w => w.line == pa / 64) = [] :=
    List.filter_eq_nil_iff.2 (fun w hw => by simpa using h.2.2 w hw)
  simp [Dram.drainLine, List.partition_eq_filter_filter, hf]

theorem Dram.resolve_quiet {d : Dram} {pa key : Nat} (h : d.quiet pa key) : d.resolve (lineOf pa) key = (d, true) := by
  obtain ⟨hv, hs, _⟩ := h
  have hv' : d.verifies (lineOf pa) key = true := by
    rw [← hv]
    simp only [Dram.verifies, lineOf_div]
  simp [Dram.resolve, hv', lineOf_div, hs]

theorem Dram.forward_quiet {d : Dram} {pa key : Nat} (h : d.quiet pa key) (n k : Nat) : d.forward pa n k = none := by
  have hf : (d.queue (ctrlOf pa)).reverse.find? (fun w => w.line == pa / 64 && w.bm &&& byteMask pa n != 0) = none := by
    rw [List.find?_eq_none]
    intro w hw
    have := h.2.2 w (List.mem_reverse.1 hw)
    simp [this]
  simp only [Dram.forward, hf]

theorem State.readPhys_quiet {s : State} {pa key : Nat} (h : s.dram.quiet pa key) (n : Nat) :
    s.readPhys pa n key false = (s, some (memRead s.dram.cells pa n)) := by
  simp [State.readPhys, Dram.forward_quiet h, Dram.drainLine_quiet h, Dram.resolve_quiet h, State.count]

theorem State.readForWrite_quiet {s : State} {pa key : Nat} (h : s.dram.quiet pa key) (n : Nat) :
    s.readForWrite pa n key = (s, true) := by
  simp [State.readForWrite, Dram.drainLine_quiet h, Dram.resolve_quiet h]

theorem State.accOf_space (s : State) (a : Agent) : (s.accOf a).space = .any := by
  cases a <;> rfl

theorem State.accOf_sync (s : State) (a : Agent) : (s.accOf a).sync = false := by
  cases a <;> rfl

theorem State.accOf_who (s : State) (a : Agent) : (s.accOf a).who = .agent a := by
  cases a <;> rfl

/-- A requester without walk faults goes to its caches. -/
theorem Xlate.noFault {l : Xlate} {x : Acc} (h : ∀ f ∈ l.faults, f.who ≠ x.who) (a : Nat) :
    l.faults.find? (fun f => f.who == x.who && f.granule == a / 4096) = none := by
  rw [List.find?_eq_none]
  intro f hf
  simp [h f hf]

/-- What the decision for bytes at `a` makes of their translation. -/
def State.decided (s : State) (a : Nat) : XRes → PRes
  | .ok pa key cnt => if s.dram.holds pa s.cycle then .hold none else .ok (.pa pa key cnt) none
  | .fault n => .exc { cause := 6, sub := n, addr := BitVec.ofNat 64 a, info := 0 }
  | .hold => .hold none
  | .miss => .hold (some (a / 4096))

theorem State.decideAt_virtual {s : State} {x : Acc} {a : Nat} (hx : x.space = .any) (h1 : 2 ^ 32 ≤ a) (h2 : a < 2 ^ 48)
    {kind : AKind} {r : XRes} (ht : s.translate x a kind = (s, r)) : s.decideAt x a kind = (s, s.decided a r) := by
  simp only [State.decideAt, hx, ht]
  rw [if_neg (by simp; omega), if_neg (by omega)]
  cases r <;> rfl

theorem State.translate_cached {s : State} {x : Acc} {a : Nat} {e : TlbEntry} (hf : ∀ f ∈ s.xl.faults, f.who ≠ x.who)
    (he : s.xl.tlb.find? (fun e => e.covers x.unit x.part a) = some e) (kind : AKind) :
    s.translate x a kind = (s, s.useLeaf x.part a kind e.leaf e.bits) := by
  simp only [State.translate, Xlate.noFault hf, he]

theorem State.inTier_inPlace {s : State} {x : Acc} {kind : AKind} {a n pa : Nat} (hx : x.space = .any)
    (h : s.inTier x kind a n pa) :
    ∃ key : Nat → Nat, s.inPlace x kind a n (fun j => .pa (pa + j) (key j) false) ∧
      ∀ j, j < n → s.dram.quiet (pa + j) (key j) := by
  obtain ⟨h1, h2, _, hf, hb⟩ := h
  choose! e key he hu hfe hh hq using hb
  refine ⟨key, fun j hj => ⟨?_, hfe j hj⟩, hq⟩
  have ht := State.translate_cached hf (he j hj) kind
  rw [hu j hj] at ht
  rw [State.decideAt_virtual hx (by omega) (by omega) ht, State.decided, hh j hj]
  rfl

theorem State.readMem_inTier {s : State} {x : Acc} {a n pa : Nat} (h0 : 0 < n) (hn : n ≤ 64) (hx : x.space = .any)
    (h : s.inTier x .rd a n pa) : s.readMem x a n = (s, .ok (memRead s.dram.cells pa n)) := by
  obtain ⟨key, hp, hq⟩ := State.inTier_inPlace hx h
  refine State.readMem_inPlace h0 hn (by have := h.2.1; omega) hp fun c hc => ?_
  have hj := (cuts_within h0 hn hc).1
  have hfe : s.dram.fenced (pa + c.1) = false := (hp c.1 hj).2
  simp only [State.readPart, hfe, State.readPhys_quiet (hq c.1 hj)]
  rfl

/-! ### Queued writes (R255) -/

theorem byteMask_getLsbD {pa n j : Nat} (h : pa % 64 + n ≤ 64) :
    (byteMask pa n).getLsbD j = decide (pa % 64 ≤ j ∧ j < pa % 64 + n) := by
  rw [byteMask, BitVec.getLsbD_ofNat, ← Nat.shiftLeft_eq, Nat.testBit_shiftLeft, Nat.testBit_two_pow_sub_one]
  rw [Bool.eq_iff_iff]
  simp
  omega

/-- Byte `i` of a number of bytes. -/
theorem leNat_byte (bs : List Byte) (i : Nat) : leNat bs / 256 ^ i % 256 = (bs.getD i 0).toNat := by
  induction bs generalizing i with
  | nil => simp [leNat]
  | cons b bs ih =>
    have hb := b.isLt
    cases i with
    | zero =>
      simp only [leNat, pow_zero, Nat.div_one, List.getD_cons_zero]
      omega
    | succ i =>
      rw [pow_succ', ← Nat.div_div_eq_div_mul, List.getD_cons_succ, ← ih]
      congr 2
      simp only [leNat]
      omega

/-- The write of bytes of one line that `State.writePhys` queues. -/
def lineWrite (pa key : Nat) (bs : List Byte) : QWrite :=
  { line := pa / 64, data := BitVec.ofNat 512 (leNat bs <<< (8 * (pa % 64))), bm := byteMask pa bs.length, key := key }

theorem lineWrite_byte {pa : Nat} {bs : List Byte} (key : Nat) {i : Nat} (h : pa % 64 + bs.length ≤ 64) (h1 : pa ≤ i)
    (h2 : i < pa + bs.length) : (lineWrite pa key bs).data.extractLsb' (8 * (i % 64)) 8 = bs.getD (i - pa) 0 := by
  apply BitVec.eq_of_toNat_eq
  have hs : 8 * (i % 64) = 8 * (pa % 64) + 8 * (i - pa) := by omega
  have hl := leNat_byte bs (i - pa)
  rw [lineWrite, BitVec.extractLsb'_toNat, BitVec.toNat_ofNat, hs, ← hl]
  have hlt : leNat bs <<< (8 * (pa % 64)) < 2 ^ 512 := by
    rw [Nat.shiftLeft_eq]
    calc leNat bs * 2 ^ (8 * (pa % 64)) < 256 ^ bs.length * 2 ^ (8 * (pa % 64)) :=
          Nat.mul_lt_mul_of_pos_right (leNat_lt bs) (by positivity)
      _ = 2 ^ (8 * bs.length + 8 * (pa % 64)) := by rw [pow_add, pow_mul 2 8 bs.length]; norm_num
      _ ≤ 2 ^ 512 := Nat.pow_le_pow_right Nat.two_pos (by omega)
  rw [Nat.mod_eq_of_lt hlt, Nat.shiftRight_add, Nat.shiftLeft_shiftRight, Nat.shiftRight_eq_div_pow, pow_mul]
  norm_num

/-- A queue with room takes a write at its end. -/
theorem Dram.push_room {d : Dram} {w : QWrite} (h : (d.queue (ctrlOf (w.line * 64))).length < 64) :
    d.push w = Dram.touched { d with queues := Tbl.set d.queues (ctrlOf (w.line * 64)) (d.queue (ctrlOf (w.line * 64)) ++ [w]) } w := by
  simp only [Dram.push]
  rw [if_neg (by omega)]

theorem ctrlOf_line (i : Nat) : ctrlOf (i / 64 * 64) = ctrlOf i := by
  have h1 : i / 64 * 64 / 2 ^ 12 = i / 2 ^ 12 := by omega
  have h2 : i / 64 * 64 < 0x8000000000 ↔ i < 0x8000000000 := by omega
  simp only [ctrlOf, unitOf, h1, h2]

theorem Dram.queue_push {d : Dram} {w : QWrite} (h : (d.queue (ctrlOf (w.line * 64))).length < 64) (c : Nat) :
    (d.push w).queue c = if c = ctrlOf (w.line * 64) then d.queue c ++ [w] else d.queue c := by
  rw [Dram.push_room h]
  simp only [Dram.queue, Dram.touched, Tbl.get_set]
  split
  · next e => rw [e]
  · rfl

theorem Dram.byteAt_push {d : Dram} {w : QWrite} (h : (d.queue (ctrlOf (w.line * 64))).length < 64) (i : Nat) :
    (d.push w).byteAt i =
      if w.line = i / 64 ∧ w.bm.getLsbD (i % 64) = true then w.data.extractLsb' (8 * (i % 64)) 8 else d.byteAt i := by
  have hc : (d.push w).cells = d.cells := by rw [Dram.push_room h]; rfl
  simp only [Dram.byteAt, Dram.queue_push h, hc]
  by_cases hw : w.line = i / 64
  · rw [hw, ctrlOf_line, if_pos rfl, List.reverse_append, List.reverse_singleton, List.singleton_append, List.find?_cons]
    cases hb : w.bm.getLsbD (i % 64) <;> simp [hw]
  · by_cases hq : ctrlOf i = ctrlOf (w.line * 64)
    · simp [hq, hw]
    · simp [hq, hw]

/-- A queued write of part of a line: the cells stand, and its bytes are the youngest. -/
theorem Dram.push_lineWrite {d : Dram} {pa : Nat} {bs : List Byte} (key : Nat) (hq : (d.queue (ctrlOf pa)).length < 64)
    (h : pa % 64 + bs.length ≤ 64) (i : Nat) : (d.push (lineWrite pa key bs)).byteAt i =
      if pa ≤ i ∧ i < pa + bs.length then bs.getD (i - pa) 0 else d.byteAt i := by
  have hc : ctrlOf ((lineWrite pa key bs).line * 64) = ctrlOf pa := ctrlOf_line pa
  have hin : ((lineWrite pa key bs).line = i / 64 ∧ (lineWrite pa key bs).bm.getLsbD (i % 64) = true) ↔
      pa ≤ i ∧ i < pa + bs.length := by
    simp only [lineWrite, byteMask_getLsbD h, decide_eq_true_eq]
    omega
  rw [Dram.byteAt_push (by rw [hc]; exact hq)]
  by_cases hi : pa ≤ i ∧ i < pa + bs.length
  · rw [if_pos (hin.2 hi), if_pos hi, lineWrite_byte key h hi.1 hi.2]
  · rw [if_neg (fun e => hi (hin.1 e)), if_neg hi]

theorem Dram.cells_push {d : Dram} {w : QWrite} (h : (d.queue (ctrlOf (w.line * 64))).length < 64) : (d.push w).cells = d.cells := by
  rw [Dram.push_room h]
  rfl

theorem State.writePhys_lineWrite (s : State) (pa key : Nat) (bs : List Byte) :
    s.writePhys pa key false bs = { s with dram := s.dram.push (lineWrite pa key bs) } := rfl

/-- Bytes laid over others in two runs are laid over them in one. -/
theorem overlay_take_drop (bs : List Byte) {j : Nat} (hj : j ≤ bs.length) (a i : Nat) (x : Byte) :
    (if a + j ≤ i ∧ i < a + j + (bs.length - j) then (bs.drop j).getD (i - (a + j)) 0
      else if a ≤ i ∧ i < a + j then (bs.take j).getD (i - a) 0 else x) =
    if a ≤ i ∧ i < a + bs.length then bs.getD (i - a) 0 else x := by
  simp only [List.getD_eq_getElem?_getD, List.getElem?_drop]
  by_cases h2 : a + j ≤ i ∧ i < a + j + (bs.length - j)
  · have hs : j + (i - (a + j)) = i - a := by omega
    rw [if_pos h2, if_pos (by omega), hs]
  · rw [if_neg h2]
    by_cases h1 : a ≤ i ∧ i < a + j
    · rw [if_pos h1, if_pos (by omega), List.getElem?_take_of_lt (by omega)]
    · rw [if_neg h1, if_neg (by omega)]

/-- The parts of a write over a tier, one after another, are queued: every byte of it is the youngest, and the cells and all
other bytes stand. -/
theorem State.writeAll_tier (s : State) {a pa : Nat} {bs : List Byte} (key : Nat → Nat) (hn : bs.length ≤ 64)
    (ha : a % 64 = pa % 64) (hq : ∀ q, (s.dram.queue q).length < 63) :
    ∃ d : Dram, s.writeAll (partsAt a bs.length (fun j => .pa (pa + j) (key j) false)) bs = { s with dram := d } ∧
      d.cells = s.dram.cells ∧ ∀ i, d.byteAt i = if pa ≤ i ∧ i < pa + bs.length then bs.getD (i - pa) 0 else s.dram.byteAt i := by
  have hroom (q) : (s.dram.queue q).length < 64 := Nat.lt_succ_of_lt (hq q)
  unfold partsAt cuts
  split
  · next h =>
    refine ⟨s.dram.push (lineWrite pa (key 0) bs), ?_, Dram.cells_push (hroom _), fun i => Dram.push_lineWrite _ (hroom _) (by omega) i⟩
    simp [State.writeAll, State.writePart, State.writePhys_lineWrite]
  · next h =>
    have hk : 64 - a % 64 = 64 - pa % 64 := by rw [ha]
    rw [hk]
    generalize hj : 64 - pa % 64 = j
    have hx : (bs.take j).length = j := by rw [List.length_take]; omega
    have hy : (bs.drop j).length = bs.length - j := List.length_drop
    have hroom' (w : QWrite) (hw : ctrlOf (w.line * 64) = ctrlOf pa) (q) : ((s.dram.push w).queue q).length < 64 := by
      rw [Dram.queue_push (hroom _)]
      have := hq q
      split <;> simp <;> omega
    have hc := ctrlOf_line pa
    have h1 := Dram.push_lineWrite (bs := bs.take j) (key 0) (hroom (ctrlOf pa)) (by omega)
    have h2 := Dram.push_lineWrite (pa := pa + j) (bs := bs.drop j) (key j)
      (hroom' (lineWrite pa (key 0) (bs.take j)) hc (ctrlOf (pa + j))) (by omega)
    have hcells := (Dram.cells_push (w := lineWrite (pa + j) (key j) (bs.drop j))
      (hroom' (lineWrite pa (key 0) (bs.take j)) hc _)).trans (Dram.cells_push (hroom _))
    refine ⟨_, ?_, hcells, fun i => (h2 i).trans ?_⟩
    · have ht : (bs.drop j).take (bs.length - j) = bs.drop j := List.take_of_length_le (by omega)
      simp [State.writeAll, State.writePart, State.writePhys_lineWrite, ht]
    · rw [h1, hx, hy]
      exact overlay_take_drop bs (by omega) pa i _

theorem State.writeMem_inTier {s : State} {x : Acc} {a pa : Nat} {bs : List Byte} (h0 : 0 < bs.length) (hn : bs.length ≤ 64)
    (hx : x.space = .any) (h : s.inTier x .wr a bs.length pa) (hq : ∀ q, (s.dram.queue q).length < 63) :
    ∃ d : Dram, s.writeMem x a bs = ({ s with dram := d }, .ok ()) ∧ d.cells = s.dram.cells ∧
      ∀ i, d.byteAt i = if pa ≤ i ∧ i < pa + bs.length then bs.getD (i - pa) 0 else s.dram.byteAt i := by
  obtain ⟨key, hp, hquiet⟩ := State.inTier_inPlace hx h
  obtain ⟨_, h2, hpage, _⟩ := h
  obtain ⟨d, hw, hd⟩ := State.writeAll_tier s (a := a) (pa := pa) key hn (by omega) hq
  refine ⟨d, ?_, hd⟩
  rw [State.writeMem_inPlace h0 hn (by omega) hp, hw]
  intro c hc
  have hj := (cuts_within h0 hn hc).1
  have hfe : s.dram.fenced (pa + c.1) = false := (hp c.1 hj).2
  simp only [State.primePart, hfe, State.readForWrite_quiet (hquiet c.1 hj)]
  rfl

/-! ## An access of one line that does not proceed -/

theorem State.decideAll_line {s : State} {x : Acc} {kind : AKind} {a n : Nat} (h0 : 0 < n) (h : a % 64 + n ≤ 64) (ha : a < 2 ^ 64)
    {r : PRes} (hd : s.decideAt x a kind = (s, r)) : s.decideAll x kind (pieces a n) = (s, [(a, n, r)]) := by
  rw [pieces_cuts h0 (by omega) (by omega), cuts_line h]
  simp only [List.map_cons, List.map_nil, Nat.add_zero, State.decideAll, hd]

/-- A refused access raises its exception; the walk faults of its requester are spent. -/
theorem State.check_refused {s : State} {x : Acc} {kind : AKind} {a n : Nat} (h0 : 0 < n) (h : a % 64 + n ≤ 64) (ha : a < 2 ^ 64)
    {e : Exc} (he : e.cause = 4 ∨ e.cause = 6) (hd : s.decideAt x a kind = (s, .exc e)) :
    s.check x a n kind = (s.spent x.who, .exc e) := by
  have hj : s.judge true [(a, n, .exc e)] = .exc e := by
    rcases he with he | he <;> simp [State.judge, lowestExc, missesOf, he]
  simp only [State.check, State.checkParts, State.decideAll_line h0 h ha hd, hj]

/-- An access that misses every cache is attached to its walk. -/
theorem State.check_missing {s : State} {x : Acc} {kind : AKind} {a n g : Nat} (h0 : 0 < n) (h : a % 64 + n ≤ 64) (ha : a < 2 ^ 64)
    (hd : s.decideAt x a kind = (s, .hold (some g))) :
    s.check x a n kind = ({ s with xl := s.xl.attach x.unit x.part g x.who }, .hold [g]) := by
  have hj : s.judge true [(a, n, .hold (some g))] = .hold [g] := by
    simp [State.judge, lowestExc, missesOf, firstRace, fencedExc]
  simp only [State.check, State.checkParts, State.decideAll_line h0 h ha hd, hj, List.foldl_cons, List.foldl_nil]

/-- The tile rules refuse what the statements say they refuse (R189, R195). -/
theorem State.flatAt_tileRefused {s : State} {x : Acc} {c k : Nat} {kind : AKind} {a f : Nat}
    (hp : x.part = s.partOf (.strm c k .ctl)) (ho : x.own = some c) (hv : x.priv = some (c, k)) (hc : x.claims = false)
    (h : s.tileRefused c k kind a f) : s.flatAt x a kind = .exc ⟨4, f, .ofNat 64 a, 0⟩ := by
  obtain ⟨ha, h⟩ := h
  unfold State.flatAt
  obtain ⟨rfl, h1⟩ | ⟨hcf, hloc, hoff, h⟩ := h
  · exact if_pos (by simp only [ho]; omega)
  rw [if_neg (by simp [ho]; omega)]
  simp only [ho, Option.getD_some, hp] at h ⊢
  generalize hd : (if a / 2 ^ 31 % 2 = 1 then c else a / 2 ^ 24 % 128) = d at h ⊢
  obtain ⟨rfl, hh, hp0⟩ | ⟨hh, h⟩ := h
  · rw [if_pos (by simp [hh, hp0])]
  have hx : s.accAt x d = x := by rw [State.accAt, hp, if_pos hh]
  rw [if_neg (by simp [hh]), hx, hv]
  obtain ⟨rfl, hpriv, hne⟩ | ⟨rfl, hlow, ht⟩ | ⟨rfl, hlow, hk, n, t, ht, hst⟩ := h
  · rw [if_pos hpriv, if_pos (by simpa using hne)]
  · rw [if_neg (by omega), ht]
  · have hr : (kind == .rd) = false := by simpa using hk
    have hsay : tileSay t x kind = .refuse := by
      rcases hst with hst | hst <;> simp [tileSay, hst, hr, hc]
    rw [if_neg (by omega), ht]
    simp only [hsay]

theorem State.useLeaf_refused {s : State} {p a f bits : Nat} {kind : AKind} {l : Leaf} (hm : l.m = false)
    (h : let w : Prop := (kind = .wr ∨ kind = .at ∨ kind = .nmw) ∧ l.w = false
      let nm : Prop := (kind = .nm ∨ kind = .nmw) ∧ l.nm = false
      let held : Prop := (s.dram.key l.key).owner = some p ∧ (l.key = 0 → p = 0)
      (f = 4 ∧ w) ∨ (f = 5 ∧ ¬ w ∧ nm) ∨ (f = 6 ∧ ¬ w ∧ ¬ nm ∧ ¬ held) ∨
        (f = 7 ∧ ¬ w ∧ ¬ nm ∧ held ∧ tierOf (l.pa + a % 2 ^ bits) = none)) :
    s.useLeaf p a kind l bits = .fault f := by
  have hw : ((kind == .wr || kind == .at || kind == .nmw) && !l.w) = true ↔
      (kind = .wr ∨ kind = .at ∨ kind = .nmw) ∧ l.w = false := by simp [or_assoc]
  have hn : ((kind == .nm || kind == .nmw) && !l.nm) = true ↔ (kind = .nm ∨ kind = .nmw) ∧ l.nm = false := by simp
  unfold State.useLeaf
  rw [if_neg (by simp [hm])]
  obtain ⟨rfl, h4⟩ | ⟨rfl, h4, h5⟩ | ⟨rfl, h4, h5, h6⟩ | ⟨rfl, h4, h5, h6, h7⟩ := h
  · rw [if_pos (hw.2 h4)]
  · rw [if_neg (mt hw.1 h4), if_pos (hn.2 h5)]
  · rw [if_neg (mt hw.1 h4), if_neg (mt hn.1 h5), if_pos (by tauto)]
  · rw [if_neg (mt hw.1 h4), if_neg (mt hn.1 h5), if_neg (by tauto), if_pos (by simp [h7])]

theorem State.xlRefused_decide {s : State} {x : Acc} {kind : AKind} {a f : Nat} (hx : x.space = .any)
    (h : s.xlRefused x kind a f) : s.decideAt x a kind = (s, .exc ⟨6, f, .ofNat 64 a, 0⟩) := by
  obtain ⟨rfl, h1⟩ | ⟨h1, h2, h⟩ := h
  · simp only [State.decideAt, hx]
    rw [if_neg (by simp; omega), if_pos (.inl h1)]
  refine State.decideAt_virtual (r := .fault f) hx h1 h2 ?_
  obtain ⟨w, hw, rfl⟩ | ⟨hf, ⟨rfl, hc, hr⟩ | ⟨e, he, hm, h⟩⟩ := h
  · simp only [State.translate, hw]
  · simp only [State.translate, Xlate.noFault hf, hc, hr]
    rfl
  · rw [State.translate_cached hf he, State.useLeaf_refused hm h]

end Sys2Proof.Machine
end

section
/-! LD and ST (O34). -/

namespace Sys2Proof.Machine

/-! ## LD and ST -/

/-- The access of a load or store of the running agent. -/
theorem execLd_eq {s : State} {g : Guard} (h : s.acts s.agent g = true) (size : BitVec 3) (d a : BitVec 6) (off : Off) {t : State}
    {r : Got (List Byte)} (hr : s.readMem (s.accOf s.agent) (s.ea a off) (sizeBytes size) = (t, r)) :
    execLd g size d a off s = .next (t.got s.agent r (fun t bs => t.result s.agent d (loaded size (leNat bs)) (offWords off))) := by
  simp only [execLd, State.guarded, h, if_true, hr]

theorem execSt_eq {s : State} {g : Guard} (h : s.acts s.agent g = true) (size : BitVec 3) (d a : BitVec 6) (off : Off) {t : State}
    {r : Got Unit} (hr : s.writeMem (s.accOf s.agent) (s.ea a off) (leBytes (sizeBytes size) (s.reg s.agent d).toNat) = (t, r)) :
    execSt g size d a off s = .next (t.got s.agent r (fun t _ => t.advance s.agent (offWords off))) := by
  simp only [execSt, State.guarded, h, if_true, hr]

/-- What LD makes of the bytes that it reads: their number, and its range with and without the sign. -/
theorem sizeBytes_cases (size : BitVec 3) : sizeBytes size = 1 ∨ sizeBytes size = 2 ∨ sizeBytes size = 4 ∨ sizeBytes size = 8 := by
  have h : size.toNat % 4 < 4 := Nat.mod_lt _ (by omega)
  unfold sizeBytes
  generalize size.toNat % 4 = i at h
  interval_cases i <;> simp

theorem loaded_low (size : BitVec 3) {v : Nat} (hv : v < 256 ^ sizeBytes size) : (loaded size v).toNat % 256 ^ sizeBytes size = v := by
  unfold loaded
  split
  · rcases sizeBytes_cases size with e | e | e | e <;> rw [e] at hv ⊢ <;> simp only [sext, BitVec.toNat_ofInt] <;> split <;> omega
  · rcases sizeBytes_cases size with e | e | e | e <;> rw [e] at hv ⊢ <;> rw [BitVec.toNat_ofNat] <;> omega

theorem loaded_unsigned {size : BitVec 3} (h : size.getLsbD 2 = false) {v : Nat} (hv : v < 256 ^ sizeBytes size) :
    (loaded size v).toNat < 256 ^ sizeBytes size := by
  rw [loaded, h, if_neg (by simp), BitVec.toNat_ofNat]
  exact Nat.lt_of_le_of_lt (Nat.mod_le _ _) hv

theorem loaded_signed {size : BitVec 3} (h : size.getLsbD 2 = true) (v : Nat) :
    -(256 ^ sizeBytes size : Int) ≤ 2 * (loaded size v).toInt ∧ 2 * (loaded size v).toInt < 256 ^ sizeBytes size := by
  rw [loaded, h, if_pos rfl, BitVec.toInt_ofInt]
  rcases sizeBytes_cases size with e | e | e | e <;> rw [e] <;> simp only [sext, Int.bmod] <;> split <;> split <;> omega

theorem sizeBytes_pos (size : BitVec 3) : 0 < sizeBytes size := Nat.two_pow_pos _

theorem sizeBytes_le (size : BitVec 3) : sizeBytes size ≤ 64 := by
  rcases sizeBytes_cases size with e | e | e | e <;> omega

/-- LD of bytes that a read gives at once: its value, zero-extended or sign-extended (R4, R261). -/
theorem exec_ld_bytes {s : State} {g : Guard} (h : s.acts s.agent g = true) (size : BitVec 3) (d a : BitVec 6) (off : Off)
    {m : Memory} {o : Nat} (hr : s.readMem (s.accOf s.agent) (s.ea a off) (sizeBytes size) = (s, .ok (memRead m o (sizeBytes size)))) :
    ∃ v : DWord, exec (.ld g size d a off) s = .next (s.result s.agent d v (offWords off)) ∧
      v.toNat % 256 ^ sizeBytes size = memNat m o (sizeBytes size) ∧
      (size.getLsbD 2 = false → v.toNat < 256 ^ sizeBytes size) ∧
      (size.getLsbD 2 = true → -(256 ^ sizeBytes size : Int) ≤ 2 * v.toInt ∧ 2 * v.toInt < 256 ^ sizeBytes size) := by
  have hlt := leNat_lt (memRead m o (sizeBytes size))
  rw [memRead_length] at hlt
  refine ⟨loaded size (leNat (memRead m o (sizeBytes size))), execLd_eq h size d a off hr, ?_, fun hz => ?_, fun hs => ?_⟩
  · rw [loaded_low size hlt, memNat_eq]
  · exact loaded_unsigned hz hlt
  · exact loaded_signed hs _

theorem exec_st_done {s : State} {g : Guard} (h : s.acts s.agent g = true) (size : BitVec 3) (d a : BitVec 6) (off : Off) {t : State}
    (hw : s.writeMem (s.accOf s.agent) (s.ea a off) (leBytes (sizeBytes size) (s.reg s.agent d).toNat) = (t, .ok ())) :
    exec (.st g size d a off) s = .next (t.advance s.agent (offWords off)) := execSt_eq h size d a off hw

/-- Both raise the exception of an access that is refused. -/
theorem exec_ld_refused {s : State} {g : Guard} (h : s.acts s.agent g = true) (size : BitVec 3) (d a : BitVec 6) (off : Off) {e : Exc}
    (hl : s.ea a off % 64 + sizeBytes size ≤ 64) (he : e.cause = 4 ∨ e.cause = 6)
    (hd : s.decideAt (s.accOf s.agent) (s.ea a off) .rd = (s, .exc e)) :
    exec (.ld g size d a off) s = .next (s.refused e) := by
  have hc := State.check_refused (sizeBytes_pos size) hl (BitVec.isLt _) he hd
  refine execLd_eq h size d a off (r := .exc e) ?_
  rw [State.readMem, hc, State.accOf_who]

theorem exec_st_refused {s : State} {g : Guard} (h : s.acts s.agent g = true) (size : BitVec 3) (d a : BitVec 6) (off : Off) {e : Exc}
    (hl : s.ea a off % 64 + sizeBytes size ≤ 64) (he : e.cause = 4 ∨ e.cause = 6)
    (hd : s.decideAt (s.accOf s.agent) (s.ea a off) .wr = (s, .exc e)) :
    exec (.st g size d a off) s = .next (s.refused e) := by
  have hc := State.check_refused (sizeBytes_pos size) hl (BitVec.isLt _) he hd
  refine execSt_eq h size d a off (r := .exc e) ?_
  rw [State.writeMem, leBytes_length, hc, State.accOf_who]

/-- And both block on a page that no cache holds. -/
theorem exec_ldst_missing {s : State} {g : Guard} (h : s.acts s.agent g = true) (size : BitVec 3) (d a : BitVec 6) (off : Off) {p : Nat}
    (hl : s.ea a off % 64 + sizeBytes size ≤ 64)
    (hd : ∀ kind, s.decideAt (s.accOf s.agent) (s.ea a off) kind = (s, .hold (some p))) {i : Instr}
    (hi : i = .ld g size d a off ∨ i = .st g size d a off) :
    exec i s = .next (({ s with xl := s.xl.attach (s.accOf s.agent).unit (s.accOf s.agent).part p (s.accOf s.agent).who } :
      State).block s.agent) := by
  have hc (kind) := State.check_missing (sizeBytes_pos size) hl (BitVec.isLt _) (hd kind)
  obtain rfl | rfl := hi
  · refine execLd_eq h size d a off (r := .hold) ?_
    rw [State.readMem, hc]
  · refine execSt_eq h size d a off (r := .hold) ?_
    rw [State.writeMem, leBytes_length, hc]

theorem State.decideAt_tileRefused {s : State} {c k : Nat} {cls : Cls} {kind : AKind} {a f : Nat} (hm : s.agent = .strm c k cls)
    (h : s.tileRefused c k kind a f) : s.decideAt (s.accOf s.agent) a kind = (s, .exc ⟨4, f, .ofNat 64 a, 0⟩) := by
  rw [State.decideAt, if_pos (.inr ⟨State.accOf_space s _, h.1⟩), hm]
  rw [State.flatAt_tileRefused rfl rfl rfl rfl h]

theorem State.decideAt_missing {s : State} {x : Acc} {a : Nat} (hx : x.space = .any) (hs : x.sync = false) (h1 : 2 ^ 32 ≤ a)
    (h2 : a < 2 ^ 48) (hf : ∀ f ∈ s.xl.faults, f.who ≠ x.who) (ht : ∀ e ∈ s.xl.tlb, e.covers x.unit x.part a = false)
    (hr : (s.part x.part).root.isSome = true) (kind : AKind) : s.decideAt x a kind = (s, .hold (some (a / 4096))) := by
  have hn : s.xl.tlb.find? (fun e => e.covers x.unit x.part a) = none := List.find?_eq_none.2 (fun e he => by simp [ht e he])
  have hroot : (s.part x.part).root.isNone = false := by simpa using hr
  refine State.decideAt_virtual (r := .miss) hx h1 h2 ?_
  simp only [State.translate, Xlate.noFault hf, hn, hroot, hs]
  rfl

theorem leBytes_getD_extract (n : Nat) (v : DWord) {i : Nat} (hi : i < n) : (leBytes n v.toNat).getD i 0 = v.extractLsb' (8 * i) 8 := by
  apply BitVec.eq_of_toNat_eq
  rw [leBytes_getD n _ i hi, BitVec.toNat_ofNat, BitVec.extractLsb'_toNat, Nat.shiftRight_eq_div_pow, pow_mul]
  norm_num

/-- Settles O34: the check of an access of one or two lines decides every case, and reads and writes follow it part by part. -/
theorem loadsAndStores : Obligations.LoadsAndStores := by
  intro s g size d a off c o h me n ea m
  have h0 : 0 < n := sizeBytes_pos size
  have hn : n ≤ 64 := sizeBytes_le size
  have hx : (s.accOf me).space = .any := State.accOf_space s me
  have hlen : (leBytes n (s.reg me d).toNat).length = n := leBytes_length _ _
  refine ⟨fun hs => ?_, fun hs => ?_, fun pa ht => ?_, fun pa ht hq => ?_, fun k cls f hm hl => ⟨fun hr => ?_, fun hr => ?_⟩,
    fun f hl => ⟨fun hr => ?_, fun hr => ?_⟩, fun hl h1 h2 hf ht hr i hi => ?_⟩
  · exact exec_ld_bytes h size d a off (State.readMem_inScratch h0 hn hs)
  · rw [← hlen] at hs
    obtain ⟨wt, hw⟩ := State.writeMem_inScratch (by omega) (by omega) hs
    refine ⟨_, wt, exec_st_done h size d a off hw, ⟨memNat_write _ _ _ _, fun i hi => ?_⟩, fun x i hne =>
      State.byteAt_withBytes s c _ wt hne i⟩
    rw [memGet_write, hlen, if_neg (by omega)]
  · exact exec_ld_bytes h size d a off (State.readMem_inTier h0 hn hx ht)
  · rw [← hlen] at ht
    obtain ⟨dr, hw, hcells, hb⟩ := State.writeMem_inTier (by omega) (by omega) hx ht hq
    refine ⟨dr, exec_st_done h size d a off hw, hcells, fun i => ?_⟩
    rw [hb i, hlen]
    split
    · exact leBytes_getD_extract n _ (by omega)
    · rfl
  · exact exec_ld_refused h size d a off hl (.inl rfl) (State.decideAt_tileRefused hm hr)
  · exact exec_st_refused h size d a off hl (.inl rfl) (State.decideAt_tileRefused hm hr)
  · exact exec_ld_refused h size d a off hl (.inr rfl) (State.xlRefused_decide hx hr)
  · exact exec_st_refused h size d a off hl (.inr rfl) (State.xlRefused_decide hx hr)
  · exact exec_ldst_missing h size d a off hl (State.decideAt_missing hx (State.accOf_sync s me) h1 h2 hf ht hr) hi

end Sys2Proof.Machine
end

section
/-! SUPPORT. The byte stores of the part in canonical form: what it says of each part of the state, and which updates of the
state keep it. -/

namespace Sys2Proof.Machine

/-! ## The byte stores, part by part -/

/-- The scratchpad and both code planes of a core are in canonical form. -/
def Core.memsWf (x : Core) : Prop := memWf x.scratch = true ∧ memWf x.plane0 = true ∧ memWf x.plane1 = true

/-- A record that holds nothing: what an unlisted number of a crib stands for. -/
def SavedPiece.blank : SavedPiece := { slot := .reset, priv := [], core := 0, held := false, gang := none }

/-- The bytes that every crib record holds for its slot are in canonical form. -/
def recsWf (t : Tbl SavedPiece) : Prop := ∀ r, memWf (Tbl.get SavedPiece.blank t r).priv = true

def Part.memsWf (x : Part) : Prop := recsWf x.recs

def coresWf (t : Tbl Core) : Prop := ∀ c, (Tbl.get (Core.reset c) t c).memsWf

def partsWf (t : Tbl Part) : Prop := ∀ p, (Tbl.get Part.reset t p).memsWf

/-- The first record listed under a number is the one that the table gives for it. -/
theorem Tbl.find?_get (d : SavedPiece) (t : Tbl SavedPiece) (r : Nat) :
    t.find? (fun (i, _) => i == r) = none ∧ Tbl.get d t r = d ∨ t.find? (fun (i, _) => i == r) = some (r, Tbl.get d t r) := by
  induction t with
  | nil => exact .inl ⟨rfl, rfl⟩
  | cons e t ih =>
    obtain ⟨i, x⟩ := e
    by_cases hi : i = r
    · subst hi
      exact .inr (by simp [Tbl.get])
    · rw [List.find?_cons_of_neg (by simpa using hi)]
      simpa only [Tbl.get, hi, if_false] using ih

/-- The crib store of a partition reads the record that its table gives. -/
theorem State.store_crib (s : State) (p r : Nat) : s.store (.crib p r) = (Tbl.get SavedPiece.blank (s.part p).recs r).priv := by
  simp only [State.store]
  obtain ⟨hf, hg⟩ | hf := Tbl.find?_get SavedPiece.blank (s.part p).recs r
  · rw [hf, hg]
    rfl
  · rw [hf]

theorem State.canonical_iff (s : State) : s.canonical ↔ coresWf s.cores ∧ partsWf s.parts ∧ memWf s.npd.handlers = true ∧
    memWf s.dram.cells = true ∧ memWf s.hostMem = true := by
  constructor
  · intro h
    exact ⟨fun c => ⟨h (.scratch c), h (.plane c 0), h (.plane c 1)⟩, fun p r => State.store_crib s p r ▸ h (.crib p r),
      h .handlers, h .tiers, h .host⟩
  · rintro ⟨hc, hp, hn, hd, hh⟩ m
    cases m with
    | scratch c => exact (hc c).1
    | plane c n =>
      simp only [State.store, Core.plane]
      split
      · exact (hc c).2.1
      · exact (hc c).2.2
    | handlers => exact hn
    | tiers => exact hd
    | host => exact hh
    | crib p r => rw [State.store_crib]; exact hp p r

/-! ## Tables -/

/-- A change of every entry of a table in its place keeps what every number holds. -/
theorem Tbl.get_map_keeps {α : Type} (P : α → Prop) (d : Nat → α) {t : Tbl α} {g : Nat × α → Nat × α} (hg : ∀ e, (g e).1 = e.1)
    (hP : ∀ e, P e.2 → P (g e).2) (h : ∀ k, P (Tbl.get (d k) t k)) (k : Nat) : P (Tbl.get (d k) (t.map g) k) := by
  specialize h k
  induction t with
  | nil => exact h
  | cons e t ih =>
    obtain ⟨i, x⟩ := e
    have hi : (g (i, x)).1 = i := hg (i, x)
    simp only [List.map_cons, Tbl.get, hi] at h ⊢
    split at h
    · next e => rw [if_pos e]; exact hP _ h
    · next e => rw [if_neg e]; exact ih h

theorem coresWf_set {t : Tbl Core} (h : coresWf t) (c : Nat) {x : Core} (hx : x.memsWf) : coresWf (Tbl.set t c x) := by
  intro d
  rw [Tbl.get_set]
  split
  · exact hx
  · exact h d

theorem coresWf_map {t : Tbl Core} (h : coresWf t) {g : Nat × Core → Nat × Core} (hg : ∀ e, (g e).1 = e.1)
    (hP : ∀ e, e.2.memsWf → (g e).2.memsWf) : coresWf (t.map g) :=
  Tbl.get_map_keeps Core.memsWf Core.reset hg hP h

theorem partsWf_set {t : Tbl Part} (h : partsWf t) (p : Nat) {x : Part} (hx : x.memsWf) : partsWf (Tbl.set t p x) := by
  intro q
  rw [Tbl.get_set]
  split
  · exact hx
  · exact h q

theorem partsWf_erase {t : Tbl Part} (h : partsWf t) (p : Nat) : partsWf (Tbl.erase t p) := by
  intro q
  rw [Tbl.get_erase]
  split
  · exact fun _ => rfl
  · exact h q

theorem partsWf_map {t : Tbl Part} (h : partsWf t) {g : Nat × Part → Nat × Part} (hg : ∀ e, (g e).1 = e.1)
    (hP : ∀ e, e.2.memsWf → (g e).2.memsWf) : partsWf (t.map g) :=
  Tbl.get_map_keeps Part.memsWf (fun _ => Part.reset) hg hP h

theorem recsWf_set {t : Tbl SavedPiece} (h : recsWf t) (r : Nat) {y : SavedPiece} (hy : memWf y.priv = true) :
    recsWf (Tbl.set t r y) := by
  intro q
  rw [Tbl.get_set]
  split
  · exact hy
  · exact h q

theorem recsWf_erase {t : Tbl SavedPiece} (h : recsWf t) (r : Nat) : recsWf (Tbl.erase t r) := by
  intro q
  rw [Tbl.get_erase]
  split
  · rfl
  · exact h q

theorem recsWf_map {t : Tbl SavedPiece} (h : recsWf t) {g : Nat × SavedPiece → Nat × SavedPiece} (hg : ∀ e, (g e).1 = e.1)
    (hP : ∀ e, (g e).2.priv = e.2.priv) : recsWf (t.map g) :=
  Tbl.get_map_keeps (fun (y : SavedPiece) => memWf y.priv = true) (fun _ => SavedPiece.blank) hg (fun e he => by rw [hP]; exact he) h

theorem recsWf_find {t : Tbl SavedPiece} (h : recsWf t) {r : Nat} {e : Nat × SavedPiece}
    (he : t.find? (fun (i, _) => i == r) = some e) : memWf e.2.priv = true := by
  obtain ⟨hf, _⟩ | hf := Tbl.find?_get SavedPiece.blank t r
  · rw [hf] at he
    cases he
  · rw [hf] at he
    cases he
    exact h r

/-! ## Updates of the state's parts -/

theorem State.core_memsWf {s : State} (h : s.canonical) (c : Nat) : (s.core c).memsWf := ((State.canonical_iff s).1 h).1 c

theorem State.part_memsWf {s : State} (h : s.canonical) (p : Nat) : (s.part p).memsWf := ((State.canonical_iff s).1 h).2.1 p

/-- A state whose byte stores are those of one in canonical form. -/
theorem State.canonical_of_eq {s t : State} (h : s.canonical) (hc : t.cores = s.cores) (hp : t.parts = s.parts)
    (hn : t.npd.handlers = s.npd.handlers) (hd : t.dram.cells = s.dram.cells) (hh : t.hostMem = s.hostMem) : t.canonical := by
  rw [State.canonical_iff] at h ⊢
  rw [hc, hp, hn, hd, hh]
  exact h

theorem State.setCore_canonical {s : State} (h : s.canonical) (c : Nat) {x : Core} (hx : x.memsWf) :
    (s.setCore c x).canonical := by
  rw [State.canonical_iff] at h ⊢
  exact ⟨coresWf_set h.1 c hx, h.2⟩

theorem State.setPart_canonical {s : State} (h : s.canonical) (p : Nat) {x : Part} (hx : x.memsWf) :
    (s.setPart p x).canonical := by
  rw [State.canonical_iff] at h ⊢
  exact ⟨h.1, partsWf_set h.2.1 p hx, h.2.2⟩

theorem State.updCore_canonical {s : State} (h : s.canonical) (c : Nat) {f : Core → Core} (hf : (f (s.core c)).memsWf) :
    (s.updCore c f).canonical := State.setCore_canonical h c hf

theorem State.updPart_canonical {s : State} (h : s.canonical) (p : Nat) {f : Part → Part} (hf : (f (s.part p)).memsWf) :
    (s.updPart p f).canonical := State.setPart_canonical h p hf

theorem State.setSlot_canonical {s : State} (h : s.canonical) (c k : Nat) (x : Slot) : (s.setSlot c k x).canonical :=
  State.setCore_canonical h c (State.core_memsWf h c)

theorem State.updSlot_canonical {s : State} (h : s.canonical) (c k : Nat) (f : Slot → Slot) : (s.updSlot c k f).canonical :=
  State.setSlot_canonical h c k _

theorem State.updBay_canonical {s : State} (h : s.canonical) (b : Nat) (f : Bay → Bay) : (s.updBay b f).canonical := h

theorem State.updDie_canonical {s : State} (h : s.canonical) (b : Nat) (f : Die → Die) : (s.updDie b f).canonical := h

theorem State.updHost_canonical {s : State} (h : s.canonical) (b : Nat) (f : HostFn → HostFn) : (s.updHost b f).canonical := h

theorem State.updThread_canonical {s : State} (h : s.canonical) (t : Nat) (f : Thread → Thread) : (s.updThread t f).canonical := h

theorem State.mapCores_canonical {s : State} (h : s.canonical) (g : Nat × Core → Nat × Core) (hg : ∀ e, (g e).1 = e.1)
    (hP : ∀ e, e.2.memsWf → (g e).2.memsWf) : ({ s with cores := s.cores.map g } : State).canonical := by
  rw [State.canonical_iff] at h ⊢
  exact ⟨coresWf_map h.1 hg hP, h.2⟩

theorem State.mapParts_canonical {s : State} (h : s.canonical) (g : Nat × Part → Nat × Part) (hg : ∀ e, (g e).1 = e.1)
    (hP : ∀ e, e.2.memsWf → (g e).2.memsWf) : ({ s with parts := s.parts.map g } : State).canonical := by
  rw [State.canonical_iff] at h ⊢
  exact ⟨h.1, partsWf_map h.2.1 hg hP, h.2.2⟩

theorem State.withDram_canonical {s : State} (h : s.canonical) {d : Dram} (hd : memWf d.cells = true) :
    ({ s with dram := d } : State).canonical := by
  rw [State.canonical_iff] at h ⊢
  exact ⟨h.1, h.2.1, h.2.2.1, hd, h.2.2.2.2⟩

theorem State.withHostMem_canonical {s : State} (h : s.canonical) {m : Memory} (hm : memWf m = true) :
    ({ s with hostMem := m } : State).canonical := by
  rw [State.canonical_iff] at h ⊢
  exact ⟨h.1, h.2.1, h.2.2.1, h.2.2.2.1, hm⟩

theorem State.cells_wf {s : State} (h : s.canonical) : memWf s.dram.cells = true := h .tiers

theorem State.hostMem_wf {s : State} (h : s.canonical) : memWf s.hostMem = true := h .host

theorem State.foldl_canonical {α : Type} {f : State → α → State} (hf : ∀ s a, s.canonical → (f s a).canonical) (l : List α)
    {s : State} (h : s.canonical) : (l.foldl f s).canonical := by
  induction l generalizing s with
  | nil => exact h
  | cons a l ih => exact ih (hf s a h)

theorem State.ite_canonical {p : Prop} [Decidable p] {s t : State} (hs : p → s.canonical) (ht : ¬ p → t.canonical) :
    (if p then s else t).canonical := by
  split
  · next h => exact hs h
  · next h => exact ht h

/-- The state of an answer that is a pair. -/
theorem State.fst_canonical {α : Type} {p : State × α} {t : State} {r : α} (e : p = (t, r)) (hp : p.1.canonical) :
    t.canonical := by
  rw [e] at hp
  exact hp

/-- What a meaning answers is in canonical form. -/
def outCanonical (o : Out) : Prop := ∀ t, o = .next t → t.canonical

theorem outCanonical_next {t : State} : outCanonical (.next t) ↔ t.canonical :=
  ⟨fun h => h t rfl, fun h _ e => by cases e; exact h⟩

end Sys2Proof.Machine
end

section
/-! SUPPORT. What the definitions of Machine/Ops keep: the byte stores in canonical form. -/

namespace Sys2Proof.Machine

set_option Elab.async false -- side by side, the proofs wait for one another and hold too many threads

theorem State.updStrm_canonical {s : State} (h : s.canonical) (a : Agent) (f : Stream → Stream) : (s.updStrm a f).canonical := by
  unfold State.updStrm
  grind [State.canonical_iff, State.updSlot_canonical, State.updThread_canonical]

theorem State.setReg_canonical {s : State} (h : s.canonical) (a : Agent) (r : BitVec 6) (v : DWord) :
    (s.setReg a r v).canonical := by
  unfold State.setReg
  grind [State.updStrm_canonical]

theorem State.event_canonical {s : State} (h : s.canonical) (p : Nat) (kind : Nat) (sub : Nat) (index : Nat) (i1 : DWord)
    (i2 : DWord) : (s.event p kind sub index i1 i2).canonical := by
  unfold State.event
  grind [State.canonical_iff, State.part_memsWf, Part.memsWf, State.updPart_canonical]

theorem State.issued_canonical {s : State} (h : s.canonical) (a : Agent) : (s.issued a).canonical := by
  unfold State.issued
  grind [State.canonical_iff, State.core_memsWf, Core.memsWf, State.updCore_canonical, State.updSlot_canonical]

theorem State.advance_canonical {s : State} (h : s.canonical) (a : Agent) (n : Nat) : (s.advance a n).canonical := by
  unfold State.advance
  grind [State.updStrm_canonical, State.issued_canonical]

theorem State.branch_canonical {s : State} (h : s.canonical) (a : Agent) (l : Int) : (s.branch a l).canonical := by
  unfold State.branch
  grind [State.updStrm_canonical, State.issued_canonical]

theorem State.block_canonical {s : State} (h : s.canonical) (a : Agent) : (s.block a).canonical := by
  unfold State.block
  grind [State.canonical_iff, State.updStrm_canonical]

theorem State.guarded_canonical {s : State} {g : Guard} {n : Nat} {body : State → State} (hb : (body s).canonical)
    (ha : (s.advance s.agent n).canonical) : outCanonical (s.guarded g n body) := by
  unfold State.guarded
  rw [outCanonical_next]
  split
  · exact hb
  · exact ha

theorem State.short_canonical {s : State} {body : State → State} (hb : (body s).canonical)
    (ha : (s.advance s.agent 1).canonical) : outCanonical (s.short body) := by
  unfold State.short
  rw [outCanonical_next]
  split
  · exact ha
  · exact hb

theorem State.updPiece_canonical {s : State} (h : s.canonical) (uid : Nat) (f : Slot → Slot) : (s.updPiece uid f).canonical := by
  unfold State.updPiece
  split
  · exact State.updSlot_canonical h _ _ f
  · split
    · next p r _ =>
      refine State.updPart_canonical h p (recsWf_map (State.part_memsWf h p) (fun _ => rfl) (fun e => ?_))
      dsimp only
      split <;> rfl
    · exact h

end Sys2Proof.Machine
end

section
/-! SUPPORT. What the definitions of Machine/Memory keep: the byte stores in canonical form. -/

namespace Sys2Proof.Machine

set_option Elab.async false -- side by side, the proofs wait for one another and hold too many threads

theorem Core.write_memsWf {x : Core} (h : x.memsWf) (off : Nat) (bs : List Byte) : (x.write off bs).memsWf :=
  ⟨memWrite_wf off bs h.1, h.2⟩

theorem Dram.updChan_wf {d : Dram} (h : memWf d.cells = true) (n : Nat) (f : Channel → Channel) :
    memWf (d.updChan n f).cells = true := by
  unfold Dram.updChan
  grind

theorem Dram.pushEvent_wf {d : Dram} (h : memWf d.cells = true) (ctrl : Nat) (r : DWord × DWord) :
    memWf (d.pushEvent ctrl r).cells = true := by
  unfold Dram.pushEvent
  grind

theorem Dram.lineEvent_wf {d : Dram} (h : memWf d.cells = true) (kind : Nat) (pa : Nat) (key : Nat) :
    memWf (d.lineEvent kind pa key).cells = true := by
  unfold Dram.lineEvent
  grind [Dram.pushEvent_wf]

theorem Dram.fence_wf {d : Dram} (h : memWf d.cells = true) (ctrl : Nat) (ch : Nat) : memWf (d.fence ctrl ch).cells = true := by
  unfold Dram.fence
  grind [Dram.updChan_wf, Dram.pushEvent_wf]

theorem Dram.resolve_wf {d : Dram} (h : memWf d.cells = true) (pa : Nat) (key : Nat) :
    memWf (d.resolve pa key).1.cells = true := by
  unfold Dram.resolve
  grind [Dram.lineEvent_wf]

theorem Dram.perform_wf {d : Dram} (h : memWf d.cells = true) (w : QWrite) : memWf (d.perform w).cells = true := by
  unfold Dram.perform
  grind [Dram.resolve_wf, memWrite_wf]

theorem Dram.drainOldest_wf {d : Dram} (h : memWf d.cells = true) (ctrl : Nat) : memWf (d.drainOldest ctrl).cells = true := by
  unfold Dram.drainOldest
  grind [Dram.perform_wf]

theorem Dram.drainLine_wf {d : Dram} (h : memWf d.cells = true) (pa : Nat) : memWf (d.drainLine pa).cells = true := by
  unfold Dram.drainLine
  refine List.foldlRecOn (motive := fun d : Dram => memWf d.cells = true) _ Dram.perform ?_ (fun d hd w _ => Dram.perform_wf hd w)
  split <;> exact h

theorem State.count_canonical {s : State} (h : s.canonical) (pa : Nat) (key : Nat) (cnt : Bool) :
    (s.count pa key cnt).canonical := by
  unfold State.count
  grind [State.canonical_iff, State.part_memsWf, Dram.pushEvent_wf]

theorem State.readPhys_canonical {s : State} (h : s.canonical) (pa : Nat) (n : Nat) (key : Nat) (cnt : Bool) :
    (s.readPhys pa n key cnt).1.canonical := by
  unfold State.readPhys
  grind [State.canonical_iff, Dram.resolve_wf, Dram.drainLine_wf, State.count_canonical]

theorem Dram.touched_wf {d : Dram} (h : memWf d.cells = true) (w : QWrite) : memWf (d.touched w).cells = true := by
  unfold Dram.touched
  grind

theorem Dram.push_wf {d : Dram} (h : memWf d.cells = true) (w : QWrite) : memWf (d.push w).cells = true := by
  unfold Dram.push
  grind [Dram.drainOldest_wf, Dram.touched_wf]

theorem State.readForWrite_canonical {s : State} (h : s.canonical) (pa : Nat) (n : Nat) (key : Nat) :
    (s.readForWrite pa n key).1.canonical := by
  unfold State.readForWrite
  grind [State.canonical_iff, Dram.resolve_wf, Dram.drainLine_wf]

theorem State.writePhys_canonical {s : State} (h : s.canonical) (pa : Nat) (key : Nat) (cnt : Bool) (bs : List Byte) :
    (s.writePhys pa key cnt bs).canonical := by
  unfold State.writePhys
  grind [State.canonical_iff, State.count_canonical, Dram.push_wf]

theorem State.writeDirect_canonical {s : State} (h : s.canonical) (pa : Nat) (key : Nat) (bs : List Byte) :
    (s.writeDirect pa key bs).canonical := by
  unfold State.writeDirect
  grind [State.canonical_iff, Dram.perform_wf, Dram.touched_wf]

end Sys2Proof.Machine
end

section
/-! SUPPORT. What the definitions of Machine/Access keep: the byte stores in canonical form. -/

namespace Sys2Proof.Machine

set_option Elab.async false -- side by side, the proofs wait for one another and hold too many threads

theorem State.readTable_canonical {s : State} (h : s.canonical) (pa : Nat) : (s.readTable pa).1.canonical := by
  unfold State.readTable
  grind [State.readPhys_canonical]

theorem State.walk_canonical {s : State} (h : s.canonical) (va level table : Nat) : (s.walk va level table).1.canonical := by
  induction level generalizing s table with
  | zero => grind [State.walk, State.readTable_canonical]
  | succ l ih => grind [State.walk, State.readTable_canonical]

theorem State.walkFor_canonical {s : State} (h : s.canonical) (p : Nat) (va : Nat) : (s.walkFor p va).1.canonical := by
  unfold State.walkFor
  grind [State.part_memsWf, State.walk_canonical]

theorem State.translate_canonical {s : State} (h : s.canonical) (x : Acc) (va : Nat) (kind : AKind) :
    (s.translate x va kind).1.canonical := by
  unfold State.translate
  grind [State.canonical_iff, State.part_memsWf, State.walkFor_canonical]

theorem Core.setTile_memsWf {x : Core} (h : x.memsWf) (n : Nat) (t : Tile) : (x.setTile n t).memsWf := by
  unfold Core.setTile
  grind [Core.memsWf]

theorem Core.putTile_memsWf {x : Core} (h : x.memsWf) (no : Nat) (n : Nat) (t : Tile) : (x.putTile no n t).memsWf := by
  unfold Core.putTile
  grind [Core.memsWf, Core.setTile_memsWf]

theorem State.putTile_canonical {s : State} (h : s.canonical) (c : Nat) (n : Nat) (t : Tile) : (s.putTile c n t).canonical := by
  unfold State.putTile
  grind [State.core_memsWf, Core.memsWf, State.updCore_canonical, Core.putTile_memsWf]

theorem State.decideAt_canonical {s : State} (h : s.canonical) (x : Acc) (a : Nat) (kind : AKind) :
    (s.decideAt x a kind).1.canonical := by
  unfold State.decideAt
  grind [State.translate_canonical]

theorem State.decideAll_canonical {s : State} (h : s.canonical) (x : Acc) (kind : AKind) (ps : List (Nat × Nat)) :
    (s.decideAll x kind ps).1.canonical := by
  induction ps generalizing s with
  | nil => exact h
  | cons p ps ih => exact ih (State.decideAt_canonical h x p.1 kind)

theorem State.spent_canonical {s : State} (h : s.canonical) (who : Requester) : (s.spent who).canonical := by
  unfold State.spent
  grind [State.canonical_iff]

theorem State.checkParts_canonical {s : State} (h : s.canonical) (x : Acc) (kind : AKind) (chan : Bool) (ps : List (Nat × Nat)) :
    (s.checkParts x kind chan ps).1.canonical := by
  unfold State.checkParts
  grind [State.canonical_iff, State.foldl_canonical, State.part_memsWf, State.decideAll_canonical, State.spent_canonical]

theorem State.check_canonical {s : State} (h : s.canonical) (x : Acc) (a : Nat) (n : Nat) (kind : AKind) :
    (s.check x a n kind).1.canonical := by
  unfold State.check
  grind [State.checkParts_canonical]

theorem State.readPart_canonical {s : State} (h : s.canonical) (p : Part1) : (s.readPart p).1.canonical := by
  unfold State.readPart
  grind [State.readPhys_canonical]

theorem State.readParts_canonical {s : State} (h : s.canonical) (ps : List Part1) : (s.readParts ps).1.canonical := by
  induction ps generalizing s with
  | nil => exact h
  | cons p ps ih => grind [State.readParts, State.readPart_canonical]

theorem State.primePart_canonical {s : State} (h : s.canonical) (p : Part1) : (s.primePart p).1.canonical := by
  unfold State.primePart
  grind [State.readForWrite_canonical]

theorem State.primeParts_canonical {s : State} (h : s.canonical) (ps : List Part1) : (s.primeParts ps).1.canonical := by
  induction ps generalizing s with
  | nil => exact h
  | cons p ps ih => grind [State.primeParts, State.primePart_canonical]

theorem State.writePart_canonical {s : State} (h : s.canonical) (p : Part1) (bs : List Byte) : (s.writePart p bs).canonical := by
  unfold State.writePart
  grind [State.core_memsWf, Core.memsWf, State.updCore_canonical, Core.write_memsWf, State.writePhys_canonical]

theorem State.writeAll_canonical {s : State} (h : s.canonical) (ps : List Part1) (bs : List Byte) :
    (s.writeAll ps bs).canonical := by
  induction ps generalizing s bs with
  | nil => exact h
  | cons p ps ih => exact ih (State.writePart_canonical h p _) _

theorem State.writeLines_canonical {s : State} (h : s.canonical) (done : Nat) (ps : List Part1) (bs : List Byte) :
    (s.writeLines done ps bs).1.canonical := by
  induction ps generalizing s done bs with
  | nil => exact h
  | cons p ps ih => grind [State.writeLines, State.primePart_canonical, State.writePart_canonical]

theorem State.readMem_canonical {s : State} (h : s.canonical) (x : Acc) (a : Nat) (n : Nat) : (s.readMem x a n).1.canonical := by
  unfold State.readMem
  grind [State.check_canonical, State.readParts_canonical]

theorem State.claim_canonical {s : State} (h : s.canonical) (x : Acc) (cs : List (Nat × Nat)) : (s.claim x cs).canonical := by
  unfold State.claim
  grind [State.canonical_iff, State.foldl_canonical, Core.putTile_memsWf, State.putTile_canonical]

theorem State.writeMem_canonical {s : State} (h : s.canonical) (x : Acc) (a : Nat) (bs : List Byte) :
    (s.writeMem x a bs).1.canonical := by
  unfold State.writeMem
  grind [State.check_canonical, State.primeParts_canonical, State.writeAll_canonical, State.claim_canonical]

theorem State.atomicMem_canonical {s : State} (h : s.canonical) (x : Acc) (a n : Nat) (f : Nat → Nat) :
    (s.atomicMem x a n f).1.canonical := by
  unfold State.atomicMem
  split
  · exact h
  · have hc := State.check_canonical h x a n .at
    split
    · next e => exact State.fst_canonical e hc
    · next e => exact State.fst_canonical e hc
    · next t ps _ e =>
      have ht : t.canonical := State.fst_canonical e hc
      split
      · exact ht
      · split
        · next c off _ => exact State.updCore_canonical ht c (Core.write_memsWf (State.core_memsWf ht c) _ _)
        · next pa key cnt _ =>
          have hd := State.withDram_canonical ht (Dram.drainLine_wf (State.cells_wf ht) pa)
          grind [State.readPhys_canonical, State.writeDirect_canonical]

end Sys2Proof.Machine
end

section
/-! SUPPORT. What the definitions of Machine/Fetch keep: the byte stores in canonical form. -/

namespace Sys2Proof.Machine

set_option Elab.async false -- side by side, the proofs wait for one another and hold too many threads

theorem Core.setPlane_memsWf {x : Core} (h : x.memsWf) (n : Nat) {m : Memory} (hm : memWf m = true) :
    (x.setPlane n m).memsWf := by
  unfold Core.setPlane
  split
  · exact ⟨h.1, hm, h.2.2⟩
  · exact ⟨h.1, h.2.1, hm⟩

end Sys2Proof.Machine
end

section
/-! SUPPORT. What the definitions of Machine/Tiles keep: the byte stores in canonical form. -/

namespace Sys2Proof.Machine

set_option Elab.async false -- side by side, the proofs wait for one another and hold too many threads

theorem State.mapTiles_canonical {s : State} (h : s.canonical) (f : Tile → Tile) : (s.mapTiles f).canonical :=
  State.mapCores_canonical h _ (fun _ => rfl) (fun _ hx => hx)

theorem State.readyTiles_canonical {s : State} (h : s.canonical) (x : Acc) (ts : List (Nat × Nat)) :
    (s.readyTiles x ts).canonical := by
  unfold State.readyTiles
  grind [State.canonical_iff, State.foldl_canonical, Core.putTile_memsWf, State.putTile_canonical]

end Sys2Proof.Machine
end

section
/-! SUPPORT. What the definitions of Machine/Rings keep: the byte stores in canonical form. -/

namespace Sys2Proof.Machine

set_option Elab.async false -- side by side, the proofs wait for one another and hold too many threads

theorem State.ringFaultEvent_canonical {s : State} (h : s.canonical) (p : Nat) (c : Nat) (e : Exc) :
    (s.ringFaultEvent p c e).canonical := by
  unfold State.ringFaultEvent
  grind [State.event_canonical]

theorem State.pushEntry_canonical {s : State} (h : s.canonical) (c : Nat) (e : TaskEntry) : (s.pushEntry c e).canonical := by
  unfold State.pushEntry
  grind [State.canonical_iff, State.core_memsWf, Core.memsWf, State.updCore_canonical]

theorem State.spill_canonical {s : State} (h : s.canonical) (c : Nat) (i : Nat) (e : TaskEntry) :
    (s.spill c i e).1.canonical := by
  unfold State.spill
  grind [State.part_memsWf, State.writeMem_canonical]

theorem Core.ringFails_memsWf {x : Core} (h : x.memsWf) : (x.ringFails).memsWf := by
  unfold Core.ringFails
  grind [Core.memsWf]

theorem Core.ringHeals_memsWf {x : Core} (h : x.memsWf) : (x.ringHeals).memsWf := by
  unfold Core.ringHeals
  grind [Core.memsWf]

theorem State.joinQueue_canonical {s : State} (h : s.canonical) (c : Nat) (e : TaskEntry) : (s.joinQueue c e).1.canonical := by
  unfold State.joinQueue
  grind [State.canonical_iff, State.core_memsWf, Core.memsWf, State.updCore_canonical, State.pushEntry_canonical,
    State.spill_canonical, Core.ringHeals_memsWf]

theorem State.joinSaved_canonical {s : State} (h : s.canonical) (c : Nat) (e : TaskEntry) : (s.joinSaved c e).canonical := by
  unfold State.joinSaved
  grind [State.canonical_iff, State.part_memsWf, State.ringFaultEvent_canonical, State.pushEntry_canonical, State.spill_canonical]

theorem State.readEntry_canonical {s : State} (h : s.canonical) (c : Nat) (e : TaskEntry) : (s.readEntry c e).1.canonical := by
  unfold State.readEntry
  grind [State.canonical_iff, State.core_memsWf, Core.memsWf, State.updCore_canonical, State.part_memsWf, State.readMem_canonical,
    State.ringFaultEvent_canonical]

theorem State.refill_canonical {s : State} (h : s.canonical) (c n : Nat) : (s.refill c n).canonical := by
  induction n generalizing s with
  | zero => exact h
  | succ n ih => grind [State.refill, State.readEntry_canonical, State.updCore_canonical, State.core_memsWf, Core.memsWf]

theorem State.takeEntry_canonical {s : State} (h : s.canonical) (c : Nat) (i : Nat) : (s.takeEntry c i).canonical := by
  unfold State.takeEntry
  grind [State.canonical_iff, State.core_memsWf, Core.memsWf, State.updCore_canonical, State.refill_canonical]

end Sys2Proof.Machine
end

section
/-! SUPPORT. What the definitions of Machine/Save keep: the byte stores in canonical form. -/

namespace Sys2Proof.Machine

set_option Elab.async false -- side by side, the proofs wait for one another and hold too many threads

theorem Core.dropUnits_memsWf {x : Core} (h : x.memsWf) (k : Nat) : (x.dropUnits k).memsWf := by
  unfold Core.dropUnits
  grind [Core.memsWf]

theorem State.freeSlot_canonical {s : State} (h : s.canonical) (c : Nat) (k : Nat) : (s.freeSlot c k).canonical := by
  unfold State.freeSlot
  grind [State.core_memsWf, Core.memsWf, State.updCore_canonical, State.updSlot_canonical, Core.dropUnits_memsWf]

theorem State.letGo_canonical {s : State} (h : s.canonical) (c : Nat) (k : Nat) (p : Desc → Bool) :
    (s.letGo c k p).canonical := by
  unfold State.letGo
  grind [State.canonical_iff, State.updSlot_canonical]

theorem State.stopTransfers_canonical {s : State} (h : s.canonical) (c : Nat) (k : Nat) : (s.stopTransfers c k).canonical := by
  unfold State.stopTransfers
  grind [State.updSlot_canonical, State.letGo_canonical]

theorem State.enterSave_canonical {s : State} (h : s.canonical) (c : Nat) (k : Nat) : (s.enterSave c k).canonical := by
  unfold State.enterSave
  grind [State.updSlot_canonical, State.stopTransfers_canonical]

theorem State.storeRec_canonical {s : State} (h : s.canonical) (x : Acc) (base : Nat) (ws : List (Nat × BitVec 512)) :
    (s.storeRec x base ws).1.canonical := by
  induction ws generalizing s with
  | nil => exact h
  | cons w ws ih => grind [State.storeRec, State.writeMem_canonical]

theorem State.loadRec_canonical {s : State} (h : s.canonical) (x : Acc) (base : Nat) (ws : List (Nat × BitVec 512)) :
    (s.loadRec x base ws).1.canonical := by
  induction ws generalizing s with
  | nil => exact h
  | cons w ws ih => grind [State.loadRec, State.readMem_canonical]

theorem Part.freeRecord_memsWf {x : Part} (h : x.memsWf) (r : Nat) : (x.freeRecord r).memsWf := recsWf_erase h r

theorem State.saveInto_canonical {s : State} (h : s.canonical) (c k p uid r : Nat) (live : Tile → Bool) (held : Bool)
    (gang : Option Nat) : (s.saveInto c k p uid r live held gang).canonical := by
  unfold State.saveInto
  extract_lets code t x rec1 u
  have ht : t.canonical := State.mapTiles_canonical h _
  have hr : memWf rec1.priv = true := memSlice_wf _ _ (State.core_memsWf ht c).1
  have hp : (t.updPart p (fun z => { z with recs := Tbl.set z.recs r rec1 })).canonical :=
    State.updPart_canonical ht p (recsWf_set (State.part_memsWf ht p) r hr)
  have hu : u.canonical := State.freeSlot_canonical hp c k
  grind [State.joinSaved_canonical]

theorem State.saveSlot_canonical {s : State} (h : s.canonical) (c : Nat) (k : Nat) (live : Tile → Bool) (held : Bool)
    (gang : Option Nat) : (s.saveSlot c k live held gang).1.canonical := by
  unfold State.saveSlot
  grind [State.canonical_iff, State.part_memsWf, State.event_canonical, State.storeRec_canonical, State.saveInto_canonical]

theorem State.abandonedAs_canonical {s t : State} (h : s.canonical) (ht : t.canonical) : (s.abandonedAs t).canonical := by
  have hm := State.mapParts_canonical h (fun e => (e.1, { e.2 with events := (t.part e.1).events, lost := (t.part e.1).lost }))
    (fun _ => rfl) (fun _ hp => hp)
  rw [State.canonical_iff] at hm ht ⊢
  exact ⟨hm.1, hm.2.1, hm.2.2.1, ht.2.2.2.1, hm.2.2.2.2⟩

theorem State.saveGang_canonical {s : State} (h : s.canonical) (g : GangRef) (c k : Nat) : (s.saveGang g c k).1.canonical := by
  unfold State.saveGang
  extract_lets ms u go
  have hu : u.canonical := State.foldl_canonical (fun s a hs => State.enterSave_canonical hs a.1 a.2) ms h
  have hg : go.1.canonical := by
    refine List.foldlRecOn (motive := fun acc : State × Option SaveRes × Nat => acc.1.canonical) _ _ hu (fun acc ha e _ => ?_)
    grind [State.saveSlot_canonical]
  grind [State.abandonedAs_canonical]

theorem State.stopPiece_canonical {s : State} (h : s.canonical) (c : Nat) (k : Nat) (held : Bool) :
    (s.stopPiece c k held).1.canonical := by
  unfold State.stopPiece
  grind [State.enterSave_canonical, State.saveSlot_canonical, State.saveGang_canonical]

end Sys2Proof.Machine
end

section
/-! SUPPORT. What the definitions of Machine/Trap keep: the byte stores in canonical form. -/

namespace Sys2Proof.Machine

set_option Elab.async false -- side by side, the proofs wait for one another and hold too many threads

theorem State.tryStop_canonical {s : State} (h : s.canonical) (c : Nat) (k : Nat) (held : Bool) :
    (s.tryStop c k held).canonical := by
  unfold State.tryStop
  grind [State.canonical_iff, State.updSlot_canonical, State.part_memsWf, State.stopPiece_canonical]

theorem State.stopAndHold_canonical {s : State} (h : s.canonical) (c : Nat) (k : Nat) : (s.stopAndHold c k).canonical := by
  unfold State.stopAndHold
  grind [State.event_canonical, State.tryStop_canonical]

theorem State.trapAt_canonical {s : State} (h : s.canonical) (c : Nat) (k : Nat) (h : HeldTrap) (async : Bool) (rows : Option
    (Cls × Nat)) : (s.trapAt c k h async rows).canonical := by
  unfold State.trapAt
  grind [State.canonical_iff, State.updSlot_canonical, State.stopTransfers_canonical, State.stopAndHold_canonical]

theorem State.endThread_canonical {s : State} (h : s.canonical) (t : Nat) : (s.endThread t).canonical := by
  unfold State.endThread
  grind [State.canonical_iff]

theorem Npd.dropMsg_handlers (n : Npd) (id : Nat) : (n.dropMsg id).handlers = n.handlers := by
  unfold Npd.dropMsg
  grind

theorem Npd.updMsg_handlers (n : Npd) (id : Nat) (f : Msg → Msg) : (n.updMsg id f).handlers = n.handlers := by
  unfold Npd.updMsg
  grind

theorem State.threadFault_canonical {s : State} (h : s.canonical) (t : Nat) (cls : Nat) (sub : Nat) (addr : DWord) :
    (s.threadFault t cls sub addr).canonical := by
  unfold State.threadFault
  grind [State.canonical_iff, State.part_memsWf, State.event_canonical, State.endThread_canonical, Npd.dropMsg_handlers,
    Npd.updMsg_handlers]

theorem State.raiseRows_canonical {s : State} (h : s.canonical) (a : Agent) (e : Exc) (rows : Nat) :
    (s.raiseRows a e rows).canonical := by
  unfold State.raiseRows
  grind [State.canonical_iff, State.updStrm_canonical, State.trapAt_canonical, State.threadFault_canonical]

theorem State.raise_canonical {s : State} (h : s.canonical) (a : Agent) (e : Exc) : (s.raise a e).canonical := by
  unfold State.raise
  grind [State.raiseRows_canonical]

theorem State.firmwareOnly_canonical {s : State} (h : s.canonical) {g : Guard} {body : State → State} (hb : (body s).canonical) :
    outCanonical (s.firmwareOnly g body) := by
  unfold State.firmwareOnly
  grind [outCanonical_next, State.guarded_canonical, State.advance_canonical, State.raise_canonical]

theorem State.takeHeld_canonical {s : State} (h : s.canonical) (c : Nat) (k : Nat) : (s.takeHeld c k).canonical := by
  unfold State.takeHeld
  grind [State.canonical_iff, State.updSlot_canonical, State.stopTransfers_canonical]

theorem State.holdHeld_canonical {s : State} (h : s.canonical) (c : Nat) (k : Nat) : (s.holdHeld c k).canonical := by
  unfold State.holdHeld
  grind [State.canonical_iff, State.updSlot_canonical, State.stopAndHold_canonical]

theorem State.asyncTrap_canonical {s : State} (h : s.canonical) (c : Nat) (k : Nat) : (s.asyncTrap c k).canonical := by
  unfold State.asyncTrap
  grind [State.setSlot_canonical, State.takeHeld_canonical, State.holdHeld_canonical]

theorem State.tret_canonical {s : State} (h : s.canonical) (c : Nat) (k : Nat) (skip : Bool) : (s.tret c k skip).canonical := by
  unfold State.tret
  grind [State.canonical_iff, State.setSlot_canonical, State.updSlot_canonical, State.takeHeld_canonical]

end Sys2Proof.Machine
end

section
/-! SUPPORT. What the definitions of Machine/Operands keep: the byte stores in canonical form. -/

namespace Sys2Proof.Machine

set_option Elab.async false -- side by side, the proofs wait for one another and hold too many threads

theorem State.updOwn_canonical {s : State} (h : s.canonical) (a : Agent) (f : Slot → Slot) : (s.updOwn a f).canonical := by
  unfold State.updOwn
  grind [State.updSlot_canonical]

theorem State.setPred_canonical {s : State} (h : s.canonical) (a : Agent) (p : BitVec 4) (v : Bool) :
    (s.setPred a p v).canonical := by
  unfold State.setPred
  grind [State.updStrm_canonical]

theorem State.result_canonical {s : State} (h : s.canonical) (a : Agent) (d : BitVec 6) (v : DWord) (n : Nat) :
    (s.result a d v n).canonical := by
  unfold State.result
  grind [State.setReg_canonical, State.advance_canonical]

end Sys2Proof.Machine
end

section
/-! SUPPORT. What the definitions of Machine/Scalar keep: the byte stores in canonical form. -/

namespace Sys2Proof.Machine

set_option Elab.async false -- side by side, the proofs wait for one another and hold too many threads

theorem State.alu_canonical {s : State} (h : s.canonical) (g : Guard) (d : BitVec 6) (a : BitVec 6) (b : Src)
    (f : DWord → DWord → DWord) : outCanonical (s.alu g d a b f) := by
  unfold State.alu
  grind [outCanonical_next, State.advance_canonical, State.guarded_canonical, State.result_canonical]

theorem State.aluReg_canonical {s : State} (h : s.canonical) (d : BitVec 5) (a : BitVec 5) (b : BitVec 5)
    (f : DWord → DWord → DWord) : outCanonical (s.aluReg d a b f) := by
  unfold State.aluReg
  grind [outCanonical_next, State.advance_canonical, State.short_canonical, State.result_canonical]

theorem State.aluImm_canonical {s : State} (h : s.canonical) (d : BitVec 5) (a : BitVec 5) (i : BitVec 14)
    (f : DWord → DWord → DWord) : outCanonical (s.aluImm d a i f) := by
  unfold State.aluImm
  grind [outCanonical_next, State.advance_canonical, State.short_canonical, State.result_canonical]

theorem State.unary_canonical {s : State} (h : s.canonical) (g : Guard) (d : BitVec 6) (a : BitVec 6) (f : DWord → DWord) :
    outCanonical (s.unary g d a f) := by
  unfold State.unary
  grind [outCanonical_next, State.advance_canonical, State.guarded_canonical, State.result_canonical]

theorem execAddShortB_canonical {s : State} (h : s.canonical) (d : BitVec 5) (i : BitVec 19) :
    outCanonical (execAddShortB d i s) := by
  unfold execAddShortB
  grind [outCanonical_next, State.advance_canonical, State.short_canonical, State.result_canonical]

theorem execBfx_canonical {s : State} (h : s.canonical) (g : Guard) (d : BitVec 6) (a : BitVec 6) (f : BField) :
    outCanonical (execBfx g d a f s) := by
  unfold execBfx
  grind [outCanonical_next, State.advance_canonical, State.guarded_canonical, State.result_canonical]

theorem execBfi_canonical {s : State} (h : s.canonical) (g : Guard) (d : BitVec 6) (a : BitVec 6) (f : BField) :
    outCanonical (execBfi g d a f s) := by
  unfold execBfi
  grind [outCanonical_next, State.advance_canonical, State.guarded_canonical, State.result_canonical]

theorem execMovi_canonical {s : State} (h : s.canonical) (g : Guard) (hi : Bool) (zx : Bool) (d : BitVec 6) (w : Word) :
    outCanonical (execMovi g hi zx d w s) := by
  unfold execMovi
  grind [outCanonical_next, State.advance_canonical, State.guarded_canonical, State.result_canonical]

theorem execMoviShort_canonical {s : State} (h : s.canonical) (d : BitVec 5) (i : BitVec 19) :
    outCanonical (execMoviShort d i s) := by
  unfold execMoviShort
  grind [outCanonical_next, State.advance_canonical, State.short_canonical, State.result_canonical]

theorem execCmp_canonical {s : State} (h : s.canonical) (g : Guard) (cond : BitVec 5) (d : BitVec 4) (a : BitVec 6) (b : Src) :
    outCanonical (execCmp g cond d a b s) := by
  unfold execCmp
  grind [outCanonical_next, State.advance_canonical, State.guarded_canonical, State.setPred_canonical]

theorem execSel_canonical {s : State} (h : s.canonical) (g : Guard) (pm : BitVec 4) (d : BitVec 6) (a : BitVec 6) (b : Src) :
    outCanonical (execSel g pm d a b s) := by
  unfold execSel
  grind [outCanonical_next, State.advance_canonical, State.guarded_canonical, State.result_canonical]

theorem execPlog_canonical {s : State} (h : s.canonical) (g : Guard) (table : BitVec 4) (d : BitVec 4) (a : BitVec 4)
    (b : PlogB) : outCanonical (execPlog g table d a b s) := by
  unfold execPlog
  grind [outCanonical_next, State.advance_canonical, State.guarded_canonical, State.setPred_canonical]

theorem execNop_canonical {s : State} (h : s.canonical) : outCanonical (execNop s) := by
  unfold execNop
  grind [outCanonical_next, State.canonical_iff, State.updStrm_canonical]

end Sys2Proof.Machine
end

section
/-! SUPPORT. What the definitions of Machine/Control keep: the byte stores in canonical form. -/

namespace Sys2Proof.Machine

set_option Elab.async false -- side by side, the proofs wait for one another and hold too many threads

theorem execBr_canonical {s : State} (h : s.canonical) (g : Guard) (off : Word) : outCanonical (execBr g off s) := by
  unfold execBr
  grind [outCanonical_next, State.advance_canonical, State.branch_canonical, State.guarded_canonical]

theorem execBrShort_canonical {s : State} (h : s.canonical) (i : BitVec 19) : outCanonical (execBrShort i s) := by
  unfold execBrShort
  grind [outCanonical_next, State.advance_canonical, State.branch_canonical, State.short_canonical]

theorem execBrx_canonical {s : State} (h : s.canonical) (g : Guard) (a : BitVec 6) (off : BitVec 18) :
    outCanonical (execBrx g a off s) := by
  unfold execBrx
  grind [outCanonical_next, State.advance_canonical, State.branch_canonical, State.guarded_canonical]

theorem execCall_canonical {s : State} (h : s.canonical) (g : Guard) (d : BitVec 6) (off : Word) :
    outCanonical (execCall g d off s) := by
  unfold execCall
  grind [outCanonical_next, State.advance_canonical, State.setReg_canonical, State.branch_canonical, State.guarded_canonical]

theorem execCallShort_canonical {s : State} (h : s.canonical) (d : BitVec 5) (i : BitVec 19) :
    outCanonical (execCallShort d i s) := by
  unfold execCallShort
  grind [outCanonical_next, State.advance_canonical, State.setReg_canonical, State.branch_canonical, State.short_canonical]

theorem execCallx_canonical {s : State} (h : s.canonical) (g : Guard) (d : BitVec 6) (a : BitVec 6) (off : BitVec 18) :
    outCanonical (execCallx g d a off s) := by
  unfold execCallx
  grind [outCanonical_next, State.advance_canonical, State.setReg_canonical, State.branch_canonical, State.guarded_canonical]

theorem execRet_canonical {s : State} (h : s.canonical) (g : Guard) (a : BitVec 6) : outCanonical (execRet g a s) := by
  unfold execRet
  grind [outCanonical_next, State.advance_canonical, State.branch_canonical, State.guarded_canonical]

theorem execLoop_canonical {s : State} (h : s.canonical) (g : Guard) (s1 : BitVec 3) (n : Src) :
    outCanonical (execLoop g s1 n s) := by
  unfold execLoop
  grind [outCanonical_next, State.advance_canonical, State.updStrm_canonical, State.guarded_canonical]

theorem State.bloopTo_canonical {s : State} (h : s.canonical) (a : Agent) (n : Nat) (l : Int) : (s.bloopTo a n l).canonical := by
  unfold State.bloopTo
  grind [State.canonical_iff, State.updStrm_canonical, State.advance_canonical, State.branch_canonical, State.updOwn_canonical]

theorem execBloop_canonical {s : State} (h : s.canonical) (g : Guard) (off : Word) : outCanonical (execBloop g off s) := by
  unfold execBloop
  grind [outCanonical_next, State.advance_canonical, State.guarded_canonical, State.bloopTo_canonical]

theorem execBloopShort_canonical {s : State} (h : s.canonical) (i : BitVec 19) : outCanonical (execBloopShort i s) := by
  unfold execBloopShort
  grind [outCanonical_next, State.advance_canonical, State.short_canonical, State.bloopTo_canonical]

theorem State.fwait_canonical {s : State} (h : s.canonical) (f : Nat) (v : Nat) (n : Nat) : (s.fwait f v n).canonical := by
  unfold State.fwait
  grind [State.advance_canonical, State.block_canonical]

theorem execFwait_canonical {s : State} (h : s.canonical) (g : Guard) (f : BitVec 6) (lit : Bool) (v : BitVec 16) :
    outCanonical (execFwait g f lit v s) := by
  unfold execFwait
  grind [outCanonical_next, State.advance_canonical, State.guarded_canonical, State.fwait_canonical]

theorem execFwaitShort_canonical {s : State} (h : s.canonical) (f : BitVec 5) (v : BitVec 16) :
    outCanonical (execFwaitShort f v s) := by
  unfold execFwaitShort
  grind [outCanonical_next, State.advance_canonical, State.short_canonical, State.fwait_canonical]

theorem State.flagOp_canonical {s : State} (h : s.canonical) (f : Nat) (set : Bool) (v : BitVec 16) (n : Nat) :
    (s.flagOp f set v n).canonical := by
  unfold State.flagOp
  grind [State.advance_canonical, State.updOwn_canonical]

theorem execFsig_canonical {s : State} (h : s.canonical) (g : Guard) (f : BitVec 6) (lit : Bool) (v : BitVec 16) :
    outCanonical (execFsig g f lit v s) := by
  unfold execFsig
  grind [outCanonical_next, State.advance_canonical, State.guarded_canonical, State.flagOp_canonical]

theorem execFsigShort_canonical {s : State} (h : s.canonical) (f : BitVec 5) (v : BitVec 16) :
    outCanonical (execFsigShort f v s) := by
  unfold execFsigShort
  grind [outCanonical_next, State.advance_canonical, State.short_canonical, State.flagOp_canonical]

theorem execFset_canonical {s : State} (h : s.canonical) (g : Guard) (f : BitVec 6) (lit : Bool) (v : BitVec 16) :
    outCanonical (execFset g f lit v s) := by
  unfold execFset
  grind [outCanonical_next, State.advance_canonical, State.guarded_canonical, State.flagOp_canonical]

theorem execFread_canonical {s : State} (h : s.canonical) (g : Guard) (d : BitVec 6) (f : BitVec 6) :
    outCanonical (execFread g d f s) := by
  unfold execFread
  grind [outCanonical_next, State.advance_canonical, State.guarded_canonical, State.result_canonical]

theorem execWaitb_canonical {s : State} (h : s.canonical) (g : Guard) (lit : Bool) (n : BitVec 16) :
    outCanonical (execWaitb g lit n s) := by
  unfold execWaitb
  grind [outCanonical_next, State.canonical_iff, State.advance_canonical, State.updStrm_canonical, State.issued_canonical,
    State.guarded_canonical]

theorem execShalt_canonical {s : State} (h : s.canonical) (g : Guard) (f : Option (BitVec 6)) :
    outCanonical (execShalt g f s) := by
  unfold execShalt
  grind [outCanonical_next, State.advance_canonical, State.guarded_canonical, State.updOwn_canonical]

end Sys2Proof.Machine
end

section
/-! SUPPORT. What the definitions of Machine/Units keep: the byte stores in canonical form. -/

namespace Sys2Proof.Machine

set_option Elab.async false -- side by side, the proofs wait for one another and hold too many threads

theorem State.setGangStat_canonical {s : State} (h : s.canonical) (ms : List (Nat × Nat)) (f : OpStat → OpStat) :
    (s.setGangStat ms f).canonical := by
  unfold State.setGangStat
  grind [State.canonical_iff, State.foldl_canonical, State.updSlot_canonical]

theorem State.stopOps1_canonical {s : State} (h : s.canonical) (c : Nat) (k : Nat) : (s.stopOps1 c k).canonical := by
  unfold State.stopOps1
  grind [State.canonical_iff, State.updSlot_canonical, State.setGangStat_canonical]

theorem State.resumeOps_canonical {s : State} (h : s.canonical) (c : Nat) (k : Nat) : (s.resumeOps c k).canonical := by
  unfold State.resumeOps
  grind [State.canonical_iff, State.updSlot_canonical, State.setGangStat_canonical]

theorem State.grant_canonical {s : State} (h : s.canonical) (c : Nat) (k : Nat) : (s.grant c k).canonical := by
  unfold State.grant
  grind [State.canonical_iff, State.core_memsWf, Core.memsWf, State.updCore_canonical, State.resumeOps_canonical]

theorem State.passUnits_canonical {s : State} (h : s.canonical) (c : Nat) (cond : Core → Bool) :
    (s.passUnits c cond).canonical := by
  unfold State.passUnits
  grind [State.stopOps1_canonical, State.grant_canonical]

end Sys2Proof.Machine
end

section
/-! SUPPORT. What the definitions of Machine/Clock keep: the byte stores in canonical form. -/

namespace Sys2Proof.Machine

set_option Elab.async false -- side by side, the proofs wait for one another and hold too many threads

theorem Core.skipCycles_memsWf {x : Core} (h : x.memsWf) (n : Nat) : (x.skipCycles n).memsWf := by
  unfold Core.skipCycles
  grind [Core.memsWf]

theorem Core.markAsked_memsWf {x : Core} (h : x.memsWf) (now : Nat) : (x.markAsked now).memsWf := by
  unfold Core.markAsked
  grind [Core.memsWf]

theorem Core.freeze_memsWf {x : Core} (h : x.memsWf) (now : Nat) : (x.freeze now).memsWf := by
  unfold Core.freeze
  grind [Core.memsWf, State.count_canonical]

theorem Core.thaw_memsWf {x : Core} (h : x.memsWf) (now : Nat) : (x.thaw now).memsWf := by
  unfold Core.thaw
  grind [Core.memsWf]

theorem Core.newCycle_memsWf {x : Core} (h : x.memsWf) : (x.newCycle).memsWf := by
  unfold Core.newCycle
  grind [Core.memsWf]

theorem Part.newCycle_memsWf {x : Part} (h : x.memsWf) : x.newCycle.memsWf := recsWf_map h (fun _ => rfl) (fun _ => rfl)

end Sys2Proof.Machine
end

section
/-! SUPPORT. What the definitions of Machine/Vector keep: the byte stores in canonical form. -/

namespace Sys2Proof.Machine

set_option Elab.async false -- side by side, the proofs wait for one another and hold too many threads

theorem State.velem_canonical {s : State} (h : s.canonical) (x : VArgs) (lat16 : Nat) (lat32 : Nat) (z : Bool) (k : Option Nat)
    (op : Slot → Nat → Nat → Nat → Nat → Nat × FFlags) : outCanonical (s.velem x lat16 lat32 z k op) := by
  unfold State.velem
  grind [outCanonical_next, State.canonical_iff, State.advance_canonical, State.block_canonical, State.guarded_canonical,
    State.raise_canonical, State.updOwn_canonical]

theorem execVmov_canonical {s : State} (h : s.canonical) (x : VArgs) : outCanonical (execVmov x s) := by
  unfold execVmov
  grind [State.velem_canonical]

theorem State.velemShort_canonical {s : State} (h : s.canonical) (x : VArgs) (lat16 : Nat) (lat32 : Nat) (z : Bool)
    (op : VArgs → Slot → Nat → Nat → Nat → Nat → Nat × FFlags) : outCanonical (s.velemShort x lat16 lat32 z op) := by
  unfold State.velemShort
  grind [outCanonical_next, State.advance_canonical, State.short_canonical, State.updOwn_canonical]

theorem execVaddBf16Short_canonical {s : State} (h : s.canonical) (d : BitVec 5) (a : BitVec 5) (b : BitVec 5) :
    outCanonical (execVaddBf16Short d a b s) := by
  unfold execVaddBf16Short
  grind [outCanonical_next, State.advance_canonical, State.velemShort_canonical]

theorem execVaddFp32Short_canonical {s : State} (h : s.canonical) (d : BitVec 5) (a : BitVec 5) (b : BitVec 5) :
    outCanonical (execVaddFp32Short d a b s) := by
  unfold execVaddFp32Short
  grind [outCanonical_next, State.advance_canonical, State.velemShort_canonical]

theorem execVsubBf16Short_canonical {s : State} (h : s.canonical) (d : BitVec 5) (a : BitVec 5) (b : BitVec 5) :
    outCanonical (execVsubBf16Short d a b s) := by
  unfold execVsubBf16Short
  grind [outCanonical_next, State.advance_canonical, State.velemShort_canonical]

theorem execVmulBf16Short_canonical {s : State} (h : s.canonical) (d : BitVec 5) (a : BitVec 5) (b : BitVec 5) :
    outCanonical (execVmulBf16Short d a b s) := by
  unfold execVmulBf16Short
  grind [outCanonical_next, State.advance_canonical, State.velemShort_canonical]

theorem execVmulFp32Short_canonical {s : State} (h : s.canonical) (d : BitVec 5) (a : BitVec 5) (b : BitVec 5) :
    outCanonical (execVmulFp32Short d a b s) := by
  unfold execVmulFp32Short
  grind [outCanonical_next, State.advance_canonical, State.velemShort_canonical]

theorem execFmaBf16Short_canonical {s : State} (h : s.canonical) (d : BitVec 5) (a : BitVec 5) (b : BitVec 5) :
    outCanonical (execFmaBf16Short d a b s) := by
  unfold execFmaBf16Short
  grind [outCanonical_next, State.advance_canonical, State.velemShort_canonical]

theorem execFmaFp32Short_canonical {s : State} (h : s.canonical) (d : BitVec 5) (a : BitVec 5) (b : BitVec 5) :
    outCanonical (execFmaFp32Short d a b s) := by
  unfold execFmaFp32Short
  grind [outCanonical_next, State.advance_canonical, State.velemShort_canonical]

theorem execVminBf16Short_canonical {s : State} (h : s.canonical) (d : BitVec 5) (a : BitVec 5) (b : BitVec 5) :
    outCanonical (execVminBf16Short d a b s) := by
  unfold execVminBf16Short
  grind [outCanonical_next, State.advance_canonical, State.velemShort_canonical]

theorem execVmaxBf16Short_canonical {s : State} (h : s.canonical) (d : BitVec 5) (a : BitVec 5) (b : BitVec 5) :
    outCanonical (execVmaxBf16Short d a b s) := by
  unfold execVmaxBf16Short
  grind [outCanonical_next, State.advance_canonical, State.velemShort_canonical]

theorem execVmovBf16Short_canonical {s : State} (h : s.canonical) (d : BitVec 5) (a : BitVec 5) :
    outCanonical (execVmovBf16Short d a s) := by
  unfold execVmovBf16Short
  grind [outCanonical_next, State.advance_canonical, State.velemShort_canonical]

end Sys2Proof.Machine
end

section
/-! SUPPORT. What the definitions of Machine/VAxis keep: the byte stores in canonical form. -/

namespace Sys2Proof.Machine

set_option Elab.async false -- side by side, the proofs wait for one another and hold too many threads

theorem State.vaxis_canonical {s : State} (h : s.canonical) (g : Guard) (wide : Bool) (mask : BitVec 4) (d : BitVec 10)
    (a : BitVec 10) (n : Nat) (lat : Nat) (f : Slot → List Nat → List Nat × FFlags) (all : Bool) : outCanonical
    (s.vaxis g wide mask d a n lat f all) := by
  unfold State.vaxis
  grind [outCanonical_next, State.advance_canonical, State.guarded_canonical, State.updOwn_canonical]

theorem execVcvt_canonical {s : State} (h : s.canonical) (g : Guard) (round : BitVec 3) (mask : BitVec 4) (d : BitVec 10)
    (a : BitVec 10) (fmts : BitVec 8) : outCanonical (execVcvt g round mask d a fmts s) := by
  unfold execVcvt
  grind [outCanonical_next, State.advance_canonical, State.guarded_canonical, State.updOwn_canonical]

theorem execVpack_canonical {s : State} (h : s.canonical) (g : Guard) (round : BitVec 3) (mask : BitVec 4) (d : BitVec 10)
    (a : BitVec 10) (fmts : BitVec 8) : outCanonical (execVpack g round mask d a fmts s) := by
  unfold execVpack
  grind [outCanonical_next, State.advance_canonical, State.guarded_canonical, State.updOwn_canonical]

theorem execVunpk_canonical {s : State} (h : s.canonical) (g : Guard) (mask : BitVec 4) (d : BitVec 10) (a : BitVec 10)
    (fmts : BitVec 8) : outCanonical (execVunpk g mask d a fmts s) := by
  unfold execVunpk
  grind [outCanonical_next, State.advance_canonical, State.guarded_canonical, State.updOwn_canonical]

theorem execVrgn_canonical {s : State} (h : s.canonical) (g : Guard) (first : BitVec 10) (count : NSrc) :
    outCanonical (execVrgn g first count s) := by
  unfold execVrgn
  grind [outCanonical_next, State.canonical_iff, State.advance_canonical, State.guarded_canonical, State.updOwn_canonical]

theorem execVyield_canonical {s : State} (h : s.canonical) (g : Guard) : outCanonical (execVyield g s) := by
  unfold execVyield
  grind [outCanonical_next, State.canonical_iff, State.core_memsWf, Core.memsWf, State.advance_canonical, State.updCore_canonical,
    State.updStrm_canonical, State.issued_canonical, State.guarded_canonical]

theorem State.kop_canonical {s : State} (h : s.canonical) (g : Guard) (d : BitVec 4) (f : VecState → Mask) :
    outCanonical (s.kop g d f) := by
  unfold State.kop
  grind [outCanonical_next, State.advance_canonical, State.guarded_canonical, State.updOwn_canonical]

theorem execKfill_canonical {s : State} (h : s.canonical) (g : Guard) (d : BitVec 4) (k : KFillArgs) :
    outCanonical (execKfill g d k s) := by
  unfold execKfill
  grind [outCanonical_next, State.advance_canonical, State.guarded_canonical, State.updOwn_canonical]

end Sys2Proof.Machine
end

section
/-! SUPPORT. What the definitions of Machine/Streams keep: the byte stores in canonical form. -/

namespace Sys2Proof.Machine

set_option Elab.async false -- side by side, the proofs wait for one another and hold too many threads

theorem State.formRows_canonical {s : State} (h : s.canonical) (x : Acc) (d : Desc) (ftz : Bool) :
    (s.formRows x d ftz).1.canonical := by
  unfold State.formRows
  grind [State.canonical_iff, State.foldl_canonical, State.checkParts_canonical, State.readParts_canonical]

theorem State.putQ_canonical {s : State} (h : s.canonical) (c : Nat) (k : Nat) (n : Nat) (e : QEntry) :
    (s.putQ c k n e).canonical := by
  unfold State.putQ
  grind [State.canonical_iff, State.core_memsWf, Core.memsWf, State.updCore_canonical, State.updSlot_canonical, Core.write_memsWf]

theorem State.writePlane_canonical {s : State} (h : s.canonical) (c : Nat) (segs : List (Seg × List Byte)) :
    (s.writePlane c segs).1.canonical := by
  unfold State.writePlane
  extract_lets far
  split
  · exact h
  · have hp (x : Core) (hx : x.memsWf) (n : Nat) : memWf (x.plane n) = true := by grind [Core.plane, Core.memsWf]
    have hx := State.core_memsWf h c
    refine State.updCore_canonical h c (Core.setPlane_memsWf hx _ ?_)
    exact List.foldlRecOn (motive := fun m : Memory => memWf m = true) _ _ (hp _ hx _) (fun m hm e _ => memWrite_wf _ _ hm)

theorem State.writeRows_canonical {s : State} (h : s.canonical) (x : Acc) (c : Nat) (d : Desc) (e : QEntry) (ftz : Bool) :
    (s.writeRows x c d e ftz).1.canonical := by
  unfold State.writeRows
  grind [State.checkParts_canonical, State.writeLines_canonical, State.writePlane_canonical]

theorem State.updDesc_canonical {s : State} (h : s.canonical) (a : Agent) (n : Nat) (f : Desc → Desc) :
    (s.updDesc a n f).canonical := by
  unfold State.updDesc
  grind [State.updOwn_canonical]

theorem State.beginXfer_canonical {s : State} (h : s.canonical) (put : Bool) (q : Nat) (d : Nat) (n : Nat) :
    (s.beginXfer put q d n).canonical := by
  unfold State.beginXfer
  grind [State.canonical_iff, State.updStrm_canonical, State.advance_canonical, State.block_canonical, State.raiseRows_canonical,
    State.updDesc_canonical]

theorem execQput_canonical {s : State} (h : s.canonical) (g : Guard) (q : BitVec 4) (d : BitVec 5) (n : Cnt) :
    outCanonical (execQput g q d n s) := by
  unfold execQput
  grind [outCanonical_next, State.advance_canonical, State.guarded_canonical, State.beginXfer_canonical]

theorem execQget_canonical {s : State} (h : s.canonical) (g : Guard) (d : BitVec 5) (q : BitVec 4) (n : Cnt) :
    outCanonical (execQget g d q n s) := by
  unfold execQget
  grind [outCanonical_next, State.advance_canonical, State.guarded_canonical, State.beginXfer_canonical]

theorem State.moved_canonical {s : State} (h : s.canonical) (a : Agent) (x : Xfer) (d : Desc) (fl : FFlags) :
    (s.moved a x d fl).canonical := by
  unfold State.moved
  grind [State.canonical_iff, State.updStrm_canonical, State.advance_canonical, State.letGo_canonical, State.updOwn_canonical,
    State.updDesc_canonical]

theorem State.xferTrap_canonical {s : State} (h : s.canonical) (a : Agent) (x : Xfer) (e : Exc) :
    (s.xferTrap a x e).canonical := by
  unfold State.xferTrap
  grind [State.canonical_iff, State.updStrm_canonical, State.letGo_canonical, State.raiseRows_canonical]

theorem State.blockXfer_canonical {s : State} (h : s.canonical) (a : Agent) (x : Xfer) (mid : Bool) :
    (s.blockXfer a x mid).canonical := by
  unfold State.blockXfer
  grind [State.canonical_iff, State.updStrm_canonical]

theorem State.putFormed_canonical {s : State} (h : s.canonical) (a : Agent) (x : Xfer) (e : QEntry) (d' : Desc) (fl : FFlags) :
    (s.putFormed a x e d' fl).canonical := by
  unfold State.putFormed
  grind [State.canonical_iff, State.putQ_canonical, State.moved_canonical, State.blockXfer_canonical]

theorem State.moveRows_canonical {s : State} (h : s.canonical) (a : Agent) (x : Xfer) : (s.moveRows a x).canonical := by
  unfold State.moveRows
  grind [State.canonical_iff, State.block_canonical, State.updOwn_canonical, State.formRows_canonical, State.writeRows_canonical,
    State.updDesc_canonical, State.moved_canonical, State.xferTrap_canonical, State.blockXfer_canonical,
    State.putFormed_canonical]

theorem execTransferRowset_canonical {s : State} (h : s.canonical) (a : Agent) : outCanonical (execTransferRowset a s) := by
  unfold execTransferRowset
  grind [outCanonical_next, State.moveRows_canonical]

theorem State.descOp_canonical {s : State} (h : s.canonical) (d : Nat) (n : Nat) (f : Desc → Desc) :
    (s.descOp d n f).canonical := by
  unfold State.descOp
  grind [State.advance_canonical, State.block_canonical, State.updDesc_canonical]

theorem execDset_canonical {s : State} (h : s.canonical) (g : Guard) (d : BitVec 5) (w : BitVec 3) (b : Src) :
    outCanonical (execDset g d w b s) := by
  unfold execDset
  grind [outCanonical_next, State.advance_canonical, State.guarded_canonical, State.descOp_canonical]

theorem State.reload_canonical {s : State} (h : s.canonical) (a : Agent) (n : Nat) : (s.reload a n).canonical := by
  unfold State.reload
  exact State.updDesc_canonical h a n _

theorem execDrld_canonical {s : State} (h : s.canonical) (g : Guard) (all : Bool) (d : BitVec 5) :
    outCanonical (execDrld g all d s) := by
  unfold execDrld
  grind [outCanonical_next, State.canonical_iff, State.advance_canonical, State.foldl_canonical, State.block_canonical,
    State.guarded_canonical, State.reload_canonical]

theorem execWadv_canonical {s : State} (h : s.canonical) (g : Guard) (d : BitVec 5) (b : Src) :
    outCanonical (execWadv g d b s) := by
  unfold execWadv
  grind [outCanonical_next, State.advance_canonical, State.guarded_canonical, State.descOp_canonical]

theorem execUnfold_canonical {s : State} (h : s.canonical) (g : Guard) (d : BitVec 5) (b : UnfoldArg) :
    outCanonical (execUnfold g d b s) := by
  unfold execUnfold
  grind [outCanonical_next, State.advance_canonical, State.guarded_canonical, State.raise_canonical, State.descOp_canonical]

theorem execSstart_canonical {s : State} (h : s.canonical) (g : Guard) (cls : Cls) (line : LineRef) :
    outCanonical (execSstart g cls line s) := by
  unfold execSstart
  grind [outCanonical_next, State.advance_canonical, State.block_canonical, State.guarded_canonical, State.updOwn_canonical]

theorem State.setMsts_canonical {s : State} (h : s.canonical) (gs : List (Nat × Nat)) (f : MatState → MatState) :
    (s.setMsts gs f).canonical := by
  unfold State.setMsts
  grind [State.canonical_iff, State.foldl_canonical, State.updSlot_canonical]

theorem State.letGoRead_canonical {s : State} (h : s.canonical) (c : Nat) (k : Nat) : (s.letGoRead c k).canonical := by
  unfold State.letGoRead
  grind [State.letGo_canonical]

theorem State.stopOps2_canonical {s : State} (h : s.canonical) (c : Nat) (k : Nat) (pc : ComputeOp → Bool) (pr : ReadOp → Bool) :
    (s.stopOps2 c k pc pr).canonical := by
  unfold State.stopOps2
  grind [State.canonical_iff, State.updSlot_canonical, State.letGoRead_canonical]

theorem State.stopMatrix_canonical {s : State} (h : s.canonical) (c : Nat) (k : Nat) : (s.stopMatrix c k).canonical := by
  unfold State.stopMatrix
  grind [State.canonical_iff, State.foldl_canonical, State.updSlot_canonical, State.setMsts_canonical, State.stopOps2_canonical]

theorem execSstop_canonical {s : State} (h : s.canonical) (g : Guard) (cls : Cls) (sig : Option (BitVec 6)) :
    outCanonical (execSstop g cls sig s) := by
  unfold execSstop
  grind [outCanonical_next, State.advance_canonical, State.guarded_canonical, State.letGo_canonical, State.updOwn_canonical,
    State.stopMatrix_canonical]

theorem execPswap_canonical {s : State} (h : s.canonical) (g : Guard) : outCanonical (execPswap g s) := by
  unfold execPswap
  grind [outCanonical_next, State.canonical_iff, State.core_memsWf, Core.memsWf, State.advance_canonical, State.updCore_canonical,
    State.block_canonical, State.guarded_canonical]

theorem execPlaneSwap_canonical {s : State} (h : s.canonical) (core : Nat) : outCanonical (execPlaneSwap core s) := by
  unfold execPlaneSwap
  grind [outCanonical_next, State.canonical_iff, State.core_memsWf, Core.memsWf, State.updCore_canonical]

end Sys2Proof.Machine
end

section
/-! SUPPORT. What the definitions of Machine/Matrix keep: the byte stores in canonical form. -/

namespace Sys2Proof.Machine

set_option Elab.async false -- side by side, the proofs wait for one another and hold too many threads

theorem execMpset_canonical {s : State} (h : s.canonical) (g : Guard) (sel : BitVec 3) (v : MpVal) :
    outCanonical (execMpset g sel v s) := by
  unfold execMpset
  grind [outCanonical_next, State.canonical_iff, State.advance_canonical, State.guarded_canonical, State.updOwn_canonical]

theorem execMscl_canonical {s : State} (h : s.canonical) (g : Guard) (tabB : Bool) (q : BitVec 4) :
    outCanonical (execMscl g tabB q s) := by
  unfold execMscl
  grind [outCanonical_next, State.canonical_iff, State.advance_canonical, State.block_canonical, State.guarded_canonical,
    State.raise_canonical, State.updOwn_canonical]

theorem State.matFault_canonical {s : State} (h : s.canonical) (c : Nat) (k : Nat) (e : Exc) (member : Nat) (read : Bool) :
    (s.matFault c k e member read).canonical := by
  unfold State.matFault
  grind [State.updSlot_canonical]

theorem State.endProduct_canonical {s : State} (h : s.canonical) (ms : List (Nat × Nat)) : (s.endProduct ms).canonical := by
  unfold State.endProduct
  grind [State.canonical_iff, State.foldl_canonical, State.updSlot_canonical, State.setMsts_canonical]

theorem State.startFail_canonical {s : State} (h : s.canonical) (c : Nat) (k : Nat) (o : ComputeOp) (sub : Nat) :
    (s.startFail c k o sub).canonical := by
  unfold State.startFail
  grind [State.canonical_iff, State.updSlot_canonical, State.matFault_canonical]

theorem State.endEmpty_canonical {s : State} (h : s.canonical) (c : Nat) (k : Nat) (o : ComputeOp) :
    (s.endEmpty c k o).canonical := by
  unfold State.endEmpty
  grind [State.endProduct_canonical]

theorem State.beginShare_canonical {s : State} (h : s.canonical) (c : Nat) (k : Nat) (o : ComputeOp) :
    (s.beginShare c k o).canonical := by
  unfold State.beginShare
  grind [State.canonical_iff, State.updSlot_canonical, State.endEmpty_canonical]

theorem State.startGang_canonical {s : State} (h : s.canonical) (c : Nat) (k : Nat) (o : ComputeOp) (p : MatParams) :
    (s.startGang c k o p).canonical := by
  unfold State.startGang
  grind [State.canonical_iff, State.foldl_canonical, State.updSlot_canonical, State.setMsts_canonical, State.beginShare_canonical]

theorem State.startProduct_canonical {s : State} (h : s.canonical) (c : Nat) (k : Nat) : (s.startProduct c k).canonical := by
  unfold State.startProduct
  grind [State.canonical_iff, State.startFail_canonical, State.beginShare_canonical, State.startGang_canonical]

theorem State.startClear_canonical {s : State} (h : s.canonical) (c : Nat) (k : Nat) : (s.startClear c k).canonical := by
  unfold State.startClear
  grind [State.canonical_iff, State.updSlot_canonical]

theorem State.stopFault_canonical {s : State} (h : s.canonical) (ms : List (Nat × Nat)) (lead : Nat × Nat) (e : Exc)
    (member : Nat) : (s.stopFault ms lead e member).canonical := by
  unfold State.stopFault
  grind [State.canonical_iff, State.foldl_canonical, State.updSlot_canonical, State.setMsts_canonical, State.matFault_canonical]

theorem State.stepProduct_canonical {s : State} (h : s.canonical) (c k : Nat) : (s.stepProduct c k).canonical := by
  have hend {t : State} (ht : t.canonical) (ms : List (Nat × Nat)) := State.endProduct_canonical ht ms
  have hfault (ms : List (Nat × Nat)) (lead : Nat × Nat) (e : Exc) (i : Nat) := State.stopFault_canonical h ms lead e i
  unfold State.stepProduct
  split
  · exact h
  · extract_lets ms lead p opOf
    refine State.ite_canonical (fun _ => h) fun _ => State.ite_canonical (fun _ => hend h ms) fun _ =>
      State.ite_canonical (fun _ => h) fun _ => ?_
    split
    · exact hfault _ _ _ _
    · split
      · exact h
      · extract_lets fa0 per total steps got own bOf bad fb
        refine State.ite_canonical (fun _ => h) fun _ => ?_
        clear_value bad
        cases bad with
        | some b => exact hfault _ _ _ _
        | none =>
          generalize hq : List.foldl _ (s, ffNone) own = q
          have ht : q.1.canonical := by
            rw [← hq]
            refine List.foldlRecOn (motive := fun acc : State × FFlags => acc.1.canonical) own _ h ?_
            exact fun acc ha x _ => State.setSlot_canonical ha x.1 x.2.1 _
          exact State.ite_canonical (fun _ => State.updSlot_canonical ht _ _ _)
            (fun _ => hend (State.updSlot_canonical ht _ _ _) ms)

theorem State.startFollowOn_canonical {s : State} (h : s.canonical) (c : Nat) (k : Nat) : (s.startFollowOn c k).canonical := by
  unfold State.startFollowOn
  grind [State.canonical_iff, State.updSlot_canonical, State.startProduct_canonical]

theorem execMatrixStep_canonical {s : State} (h : s.canonical) (core : Nat) (slot : Nat) :
    outCanonical (execMatrixStep core slot s) := by
  unfold execMatrixStep
  grind [outCanonical_next, State.startProduct_canonical, State.startClear_canonical, State.stepProduct_canonical,
    State.startFollowOn_canonical]

theorem State.issueProduct_canonical {s : State} (h : s.canonical) (mmg : Bool) (bank : Nat) (ovw : Bool) (sig : Option Nat) :
    (s.issueProduct mmg bank ovw sig).canonical := by
  unfold State.issueProduct
  grind [State.canonical_iff, State.advance_canonical, State.block_canonical, State.updOwn_canonical,
    State.startProduct_canonical]

theorem execMm_canonical {s : State} (h : s.canonical) (g : Guard) (bank : BitVec 2) (ovw : Bool) (sig : Option (BitVec 6)) :
    outCanonical (execMm g bank ovw sig s) := by
  unfold execMm
  grind [outCanonical_next, State.advance_canonical, State.guarded_canonical, State.issueProduct_canonical]

theorem execMmg_canonical {s : State} (h : s.canonical) (g : Guard) (bank : BitVec 2) (ovw : Bool) (sig : Option (BitVec 6)) :
    outCanonical (execMmg g bank ovw sig s) := by
  unfold execMmg
  grind [outCanonical_next, State.advance_canonical, State.guarded_canonical, State.issueProduct_canonical]

theorem execAcclr_canonical {s : State} (h : s.canonical) (g : Guard) (bank : BitVec 2) (sig : Option (BitVec 6)) :
    outCanonical (execAcclr g bank sig s) := by
  unfold execAcclr
  grind [outCanonical_next, State.canonical_iff, State.advance_canonical, State.block_canonical, State.guarded_canonical,
    State.updOwn_canonical, State.startClear_canonical]

theorem State.partOver_canonical {s : State} (h : s.canonical) (c : Nat) (k : Nat) : (s.partOver c k).canonical := by
  unfold State.partOver
  grind [State.canonical_iff, State.updSlot_canonical]

theorem State.markPart_canonical {s : State} (h : s.canonical) (c : Nat) (k : Nat) (o : ReadOp) (v : Nat) :
    (s.markPart c k o v).canonical := by
  unfold State.markPart
  grind [State.setMsts_canonical, State.partOver_canonical]

theorem State.endReadout_canonical {s : State} (h : s.canonical) (c : Nat) (k : Nat) (o : ReadOp) :
    (s.endReadout c k o).canonical := by
  unfold State.endReadout
  grind [State.canonical_iff, State.updSlot_canonical, State.letGo_canonical, State.markPart_canonical]

theorem State.readFault_canonical {s : State} (h : s.canonical) (c : Nat) (k : Nat) (o : ReadOp) (e : Exc) :
    (s.readFault c k o e).canonical := by
  unfold State.readFault
  grind [State.canonical_iff, State.updSlot_canonical, State.letGo_canonical, State.matFault_canonical, State.markPart_canonical]

theorem State.readMoved_canonical {s : State} (h : s.canonical) (c : Nat) (k : Nat) (o : ReadOp) (fl : FFlags) :
    (s.readMoved c k o fl).canonical := by
  unfold State.readMoved
  grind [State.canonical_iff, State.updSlot_canonical, State.endReadout_canonical]

theorem State.stepReadout_canonical {s : State} (h : s.canonical) (c : Nat) (k : Nat) (o : ReadOp) :
    (s.stepReadout c k o).canonical := by
  unfold State.stepReadout
  grind [State.canonical_iff, State.updSlot_canonical, State.putQ_canonical, State.writeRows_canonical, State.readFault_canonical,
    State.readMoved_canonical]

theorem State.startGangRead_canonical {s : State} (h : s.canonical) (c : Nat) (k : Nat) (o : ReadOp) :
    (s.startGangRead c k o).canonical := by
  unfold State.startGangRead
  grind [State.canonical_iff, State.foldl_canonical, State.updSlot_canonical, State.setMsts_canonical, State.matFault_canonical]

theorem execReadoutRowset_canonical {s : State} (h : s.canonical) (core : Nat) (slot : Nat) :
    outCanonical (execReadoutRowset core slot s) := by
  unfold execReadoutRowset
  grind [outCanonical_next, State.canonical_iff, State.updSlot_canonical, State.stepReadout_canonical,
    State.startGangRead_canonical]

theorem State.issueReadout_canonical {s : State} (h : s.canonical) (x : ReadOutArgs) (cvt : Bool) (int : Bool) (lay : Bool)
    (round : Nat) (fmt : Nat) : (s.issueReadout x cvt int lay round fmt).canonical := by
  unfold State.issueReadout
  grind [State.canonical_iff, State.advance_canonical, State.block_canonical, State.updOwn_canonical]

theorem execAcrd_canonical {s : State} (h : s.canonical) (x : ReadOutArgs) (int : Bool) (lay : Bool) :
    outCanonical (execAcrd x int lay s) := by
  unfold execAcrd
  grind [outCanonical_next, State.advance_canonical, State.guarded_canonical, State.issueReadout_canonical]

theorem execAccvt_canonical {s : State} (h : s.canonical) (x : ReadOutArgs) (round : BitVec 3) (fmt : BitVec 4) :
    outCanonical (execAccvt x round fmt s) := by
  unfold execAccvt
  grind [outCanonical_next, State.advance_canonical, State.guarded_canonical, State.issueReadout_canonical]

theorem State.resumeGang_canonical {s : State} (h : s.canonical) (c : Nat) (k : Nat) : (s.resumeGang c k).canonical := by
  unfold State.resumeGang
  grind [State.canonical_iff, State.foldl_canonical, State.updSlot_canonical, State.setMsts_canonical]

theorem execMprog_canonical {s : State} (h : s.canonical) (g : Guard) : outCanonical (execMprog g s) := by
  unfold execMprog
  grind [outCanonical_next, State.canonical_iff, State.advance_canonical, State.block_canonical, State.guarded_canonical,
    State.updOwn_canonical, State.resumeGang_canonical]

end Sys2Proof.Machine
end

section
/-! SUPPORT. What the definitions of Machine/MemInstr keep: the byte stores in canonical form. -/

namespace Sys2Proof.Machine

set_option Elab.async false -- side by side, the proofs wait for one another and hold too many threads

theorem execFence_canonical {s : State} (h : s.canonical) (g : Guard) (scope : BitVec 3) (pred : BitVec 6) (succ : BitVec 6) :
    outCanonical (execFence g scope pred succ s) := by
  unfold execFence
  grind [outCanonical_next, State.advance_canonical, State.block_canonical, State.guarded_canonical]

theorem State.got_canonical {s : State} (h : s.canonical) {α : Type} (a : Agent) (g : Got α) {k : State → α → State}
    (hk : ∀ x, (k s x).canonical) : (s.got a g k).canonical := by
  cases g with
  | ok x => exact hk x
  | exc e => exact State.raise_canonical h a e
  | hold => exact State.block_canonical h a

theorem execLd_canonical {s : State} (h : s.canonical) (g : Guard) (size : BitVec 3) (d : BitVec 6) (a : BitVec 6) (off : Off) :
    outCanonical (execLd g size d a off s) := by
  unfold execLd
  grind [outCanonical_next, State.advance_canonical, State.guarded_canonical, State.readMem_canonical, State.result_canonical,
    State.got_canonical]

theorem execSt_canonical {s : State} (h : s.canonical) (g : Guard) (size : BitVec 3) (d : BitVec 6) (a : BitVec 6) (off : Off) :
    outCanonical (execSt g size d a off s) := by
  unfold execSt
  grind [outCanonical_next, State.advance_canonical, State.guarded_canonical, State.writeMem_canonical, State.got_canonical]

theorem execAmo_canonical {s : State} (h : s.canonical) (g : Guard) (op : BitVec 4) (_acq : Bool) (rel : Bool) (_scope : BitVec 3)
    (d : BitVec 6) (a : BitVec 6) (b : Src) : outCanonical (execAmo g op _acq rel _scope d a b s) := by
  unfold execAmo
  grind [outCanonical_next, State.advance_canonical, State.block_canonical, State.guarded_canonical, State.atomicMem_canonical,
    State.result_canonical, State.got_canonical]

theorem execCas_canonical {s : State} (h : s.canonical) (g : Guard) (_acq : Bool) (rel : Bool) (_scope : BitVec 3) (d : BitVec 6)
    (a : BitVec 6) (b : BitVec 6) (c : BitVec 6) : outCanonical (execCas g _acq rel _scope d a b c s) := by
  unfold execCas
  grind [outCanonical_next, State.advance_canonical, State.block_canonical, State.guarded_canonical, State.atomicMem_canonical,
    State.result_canonical, State.got_canonical]

theorem State.setMon_canonical {s : State} (h : s.canonical) (a : Agent) (v : DWord) : (s.setMon a v).canonical := by
  unfold State.setMon
  grind [State.canonical_iff, State.updSlot_canonical, State.updThread_canonical]

theorem State.monRead_canonical {s : State} (h : s.canonical) (x : Acc) (a : Nat) : (s.monRead x a).1.canonical := by
  unfold State.monRead
  grind [State.canonical_iff, State.foldl_canonical, Dram.drainLine_wf, State.check_canonical, State.readParts_canonical]

theorem execMarm_canonical {s : State} (h : s.canonical) (g : Guard) (d : BitVec 6) (a : BitVec 6) (off : Off) :
    outCanonical (execMarm g d a off s) := by
  unfold execMarm
  grind [outCanonical_next, State.advance_canonical, State.guarded_canonical, State.raise_canonical, State.result_canonical,
    State.got_canonical, State.setMon_canonical, State.monRead_canonical]

theorem State.watchAt_canonical {s : State} (h : s.canonical) (n : Nat) : (s.watchAt n).canonical := by
  unfold State.watchAt
  grind [State.canonical_iff, State.core_memsWf, Core.memsWf, State.updCore_canonical]

theorem State.waitFor_canonical {s : State} (h : s.canonical) (a : Agent) (x : Acc) (at1 : Nat) :
    (s.waitFor a x at1).canonical := by
  unfold State.waitFor
  grind [State.canonical_iff, State.updStrm_canonical, State.block_canonical, State.watchAt_canonical]

theorem execMwait_canonical {s : State} (h : s.canonical) (g : Guard) (ne : Bool) (d : BitVec 6) (b : Src) :
    outCanonical (execMwait g ne d b s) := by
  unfold execMwait
  grind [outCanonical_next, State.advance_canonical, State.block_canonical, State.guarded_canonical, State.result_canonical,
    State.got_canonical, State.monRead_canonical, State.waitFor_canonical]

theorem execVld_canonical {s : State} (h : s.canonical) (g : Guard) (w : Bool) (mask : BitVec 4) (d : BitVec 10) (imm : VImm) :
    outCanonical (execVld g w mask d imm s) := by
  unfold execVld
  grind [outCanonical_next, State.canonical_iff, State.advance_canonical, State.block_canonical, State.guarded_canonical,
    State.checkParts_canonical, State.readParts_canonical, State.raise_canonical, State.updOwn_canonical]

theorem State.primeMasked_canonical {s : State} (h : s.canonical) (p : Part1) (c : List Bool) :
    (s.primeMasked p c).1.canonical := by
  unfold State.primeMasked
  grind [State.readForWrite_canonical]

theorem State.writeMasked_canonical {s : State} (h : s.canonical) (p : Part1) (c : List Bool) (bs : List Byte) :
    (s.writeMasked p c bs).canonical := by
  unfold State.writeMasked
  split
  · next k off _ =>
    refine State.updCore_canonical h k (List.foldlRecOn (motive := Core.memsWf) _ _ (State.core_memsWf h k) fun x hx e _ => ?_)
    dsimp only
    split
    · exact Core.write_memsWf hx _ _
    · exact hx
  · exact State.count_canonical (State.withDram_canonical h (Dram.push_wf (State.cells_wf h) _)) _ _ _

theorem State.writeCover_canonical {s : State} (h : s.canonical) (ws : List (Part1 × List Bool × List Byte)) :
    (s.writeCover ws).1.canonical := by
  induction ws generalizing s with
  | nil => exact h
  | cons w ws ih => grind [State.writeCover, State.primeMasked_canonical, State.writeMasked_canonical]

theorem execVst_canonical {s : State} (h : s.canonical) (g : Guard) (w : Bool) (mask : BitVec 4) (d : BitVec 10) (imm : VImm) :
    outCanonical (execVst g w mask d imm s) := by
  unfold execVst
  grind [outCanonical_next, State.advance_canonical, State.block_canonical, State.guarded_canonical, State.checkParts_canonical,
    State.raise_canonical, State.writeCover_canonical]

theorem execVstQ_canonical {s : State} (h : s.canonical) (g : Guard) (w : Bool) (q : BitVec 4) (a : BitVec 10) (fmt : BitVec 4) :
    outCanonical (execVstQ g w q a fmt s) := by
  unfold execVstQ
  grind [outCanonical_next, State.canonical_iff, State.advance_canonical, State.foldl_canonical, State.block_canonical,
    State.guarded_canonical, State.raise_canonical, State.putQ_canonical]

theorem State.vamoRun_canonical {s : State} (h : s.canonical) (x : Acc) (op : Nat) (es : List VElem) :
    (s.vamoRun x op es).1.canonical := by
  induction es generalizing s with
  | nil => exact h
  | cons e es ih => grind [State.vamoRun, State.atomicMem_canonical]

theorem execVamo_canonical {s : State} (h : s.canonical) (g : Guard) (op : BitVec 4) (ret : Bool) (mask : BitVec 4)
    (d : BitVec 10) (a : BitVec 10) (b : VSrcB) : outCanonical (execVamo g op ret mask d a b s) := by
  unfold execVamo
  grind [outCanonical_next, State.canonical_iff, State.advance_canonical, State.foldl_canonical, State.updStrm_canonical,
    State.block_canonical, State.guarded_canonical, State.checkParts_canonical, State.raise_canonical, State.updOwn_canonical,
    State.vamoRun_canonical]

end Sys2Proof.Machine
end

section
/-! SUPPORT. What the definitions of Machine/TileInstr keep: the byte stores in canonical form. -/

namespace Sys2Proof.Machine

set_option Elab.async false -- side by side, the proofs wait for one another and hold too many threads

theorem State.tileOp_canonical {s : State} (h : s.canonical) (g : Guard) (n : TileRef) (words : Nat) (f : State → Tile → TileDo) :
    outCanonical (s.tileOp g n words f) := by
  unfold State.tileOp
  grind [outCanonical_next, State.advance_canonical, State.block_canonical, State.guarded_canonical, Core.putTile_memsWf,
    State.putTile_canonical, State.raise_canonical]

theorem execTalloc_canonical {s : State} (h : s.canonical) (g : Guard) (win : Bool) (d : BitVec 6) (n : TileRef) (size : Src)
    (key : BitVec 6) : outCanonical (execTalloc g win d n size key s) := by
  unfold execTalloc
  grind [outCanonical_next, State.canonical_iff, State.advance_canonical, State.guarded_canonical, Core.putTile_memsWf,
    State.putTile_canonical, State.result_canonical]

theorem execTsetOrg_canonical {s : State} (h : s.canonical) (g : Guard) (n : TileRef) (b : Src) :
    outCanonical (execTsetOrg g n b s) := by
  unfold execTsetOrg
  grind [outCanonical_next, State.canonical_iff, State.tileOp_canonical]

theorem execTsetWstep_canonical {s : State} (h : s.canonical) (g : Guard) (n : TileRef) (b : Src) :
    outCanonical (execTsetWstep g n b s) := by
  unfold execTsetWstep
  grind [outCanonical_next, State.canonical_iff, State.tileOp_canonical]

theorem execTsetKey_canonical {s : State} (h : s.canonical) (g : Guard) (n : TileRef) (b : Src) :
    outCanonical (execTsetKey g n b s) := by
  unfold execTsetKey
  grind [outCanonical_next, State.canonical_iff, State.tileOp_canonical]

theorem execTqry_canonical {s : State} (h : s.canonical) (g : Guard) (d : BitVec 6) (n : TileRef) (w : BitVec 2) :
    outCanonical (execTqry g d n w s) := by
  unfold execTqry
  grind [outCanonical_next, State.advance_canonical, State.guarded_canonical, State.raise_canonical, State.result_canonical]

theorem State.dropRots_canonical {s : State} (h : s.canonical) (cs : List Nat) : (s.dropRots cs).canonical := by
  unfold State.dropRots
  grind [State.canonical_iff, State.core_memsWf, Core.memsWf, State.foldl_canonical, State.updCore_canonical]

theorem execTrot_canonical {s : State} (h : s.canonical) (g : Guard) (dn : Bool) (dst : BitVec 9) (src : BitVec 9)
    (mask : BitVec 6) (sig : Option (BitVec 6)) : outCanonical (execTrot g dn dst src mask sig s) := by
  unfold execTrot
  grind [outCanonical_next, State.canonical_iff, State.core_memsWf, Core.memsWf, State.advance_canonical, State.foldl_canonical,
    State.updCore_canonical, State.block_canonical, State.guarded_canonical, State.updPiece_canonical, State.raise_canonical,
    State.dropRots_canonical]

theorem State.startRot_canonical {s : State} (h : s.canonical) (no : Nat) (rs : List (Nat × Rot)) :
    (s.startRot no rs).canonical := by
  unfold State.startRot
  grind [State.canonical_iff, State.core_memsWf, Core.memsWf, State.foldl_canonical, State.updCore_canonical, Core.putTile_memsWf,
    State.putTile_canonical]

theorem State.startRots_canonical {s : State} (h : s.canonical) (from1 : Nat) (n : Nat) : (s.startRots from1 n).canonical := by
  unfold State.startRots
  grind [State.canonical_iff, State.foldl_canonical, State.startRot_canonical]

theorem execRotationStart_canonical {s : State} (h : s.canonical) (bay : Nat) (core : Nat) :
    outCanonical (execRotationStart bay core s) := by
  unfold execRotationStart
  grind [outCanonical_next, State.startRot_canonical]

theorem memPutAll_wf {m : Memory} (h : memWf m = true) (a : Nat) (bs : Memory) :
    memWf (bs.foldr (fun (i, b) m => memPut m (a + i) b) m) = true := by
  induction bs with
  | nil => exact h
  | cons b bs ih => exact memPut_wf _ _ ih

theorem Core.paste_memsWf {x : Core} (h : x.memsWf) (a n : Nat) (slice : Memory) : (x.paste a n slice).memsWf :=
  ⟨memPutAll_wf (memClear_wf a n h.1) a slice, h.2⟩

theorem execRotationEnd_canonical {s : State} (h : s.canonical) (bay : Nat) (core : Nat) :
    outCanonical (execRotationEnd bay core s) := by
  unfold execRotationEnd
  grind [outCanonical_next, State.canonical_iff, State.core_memsWf, Core.memsWf, State.foldl_canonical, State.updCore_canonical,
    State.updPiece_canonical, Core.putTile_memsWf, State.putTile_canonical, Core.paste_memsWf]

theorem execTres_canonical {s : State} (h : s.canonical) (g : Guard) (d : BitVec 6) (a : BitVec 6) (core : Option (BitVec 6)) :
    outCanonical (execTres g d a core s) := by
  unfold execTres
  grind [outCanonical_next, State.advance_canonical, State.guarded_canonical, State.result_canonical]

theorem execTaddr_canonical {s : State} (h : s.canonical) (g : Guard) (d : BitVec 6) (n : TileRef) (b : BitVec 6) (core : Option
    (BitVec 6)) : outCanonical (execTaddr g d n b core s) := by
  unfold execTaddr
  grind [outCanonical_next, State.advance_canonical, State.guarded_canonical, State.raise_canonical, State.result_canonical]

end Sys2Proof.Machine
end

section
/-! SUPPORT. What the definitions of Machine/Place keep: the byte stores in canonical form. -/

namespace Sys2Proof.Machine

set_option Elab.async false -- side by side, the proofs wait for one another and hold too many threads

theorem State.newPiece_canonical {s : State} (h : s.canonical) (p : Nat) (h : List DWord) (lo : DWord) (hi : DWord) :
    (s.newPiece p h lo hi).1.canonical := by
  unfold State.newPiece
  grind [State.canonical_iff]

theorem State.updateView_canonical {s : State} (h : s.canonical) (die : Nat) (core : Nat) :
    (s.updateView die core).canonical := by
  unfold State.updateView
  grind [State.canonical_iff, State.updDie_canonical]

theorem execResidencyViewUpdate_canonical {s : State} (h : s.canonical) (die : Nat) (core : Nat) :
    outCanonical (execResidencyViewUpdate die core s) := by
  unfold execResidencyViewUpdate
  grind [outCanonical_next, State.updateView_canonical]

theorem State.freshViews_canonical {s : State} (h : s.canonical) (die : Nat) (p : Nat) : (s.freshViews die p).canonical := by
  unfold State.freshViews
  grind [State.canonical_iff, State.foldl_canonical, State.updateView_canonical]

theorem State.placeTask_canonical {s : State} (h : s.canonical) (die : Nat) (p : Nat) (h : List DWord) :
    (s.placeTask die p h).1.canonical := by
  unfold State.placeTask
  grind [State.updDie_canonical, State.freshViews_canonical]

theorem State.placeGang_canonical {s : State} (h : s.canonical) (die : Nat) (p : Nat) (h : List DWord) :
    (s.placeGang die p h).1.canonical := by
  unfold State.placeGang
  grind [State.canonical_iff, State.foldl_canonical, State.updDie_canonical, State.freshViews_canonical]

theorem State.drawId_canonical {s : State} (h : s.canonical) (p : Nat) : (s.drawId p).1.canonical := by
  unfold State.drawId
  grind [State.canonical_iff, State.part_memsWf, Part.memsWf, State.updPart_canonical]

theorem State.joinGang_canonical {s : State} (h : s.canonical) (b : Nat) (q : Piece) : (s.joinGang b q).1.canonical := by
  unfold State.joinGang
  grind [State.canonical_iff, State.part_memsWf, Part.memsWf, State.updBay_canonical, State.updPart_canonical]

theorem State.join_canonical {s : State} (h : s.canonical) (target : Nat) (q : Piece) : (s.join target q).1.canonical := by
  unfold State.join
  grind [State.joinQueue_canonical, State.joinGang_canonical]

theorem State.placeAny_canonical {s : State} (h : s.canonical) (die : Nat) (p : Nat) (h : List DWord) :
    (s.placeAny die p h).1.canonical := by
  unfold State.placeAny
  grind [State.placeTask_canonical, State.placeGang_canonical]

theorem State.launchPiece_canonical {s : State} (h : s.canonical) (p : Nat) (h : List DWord) (host : Option (Nat × Nat × Nat)) :
    (s.launchPiece p h host).1.canonical := by
  unfold State.launchPiece
  grind [State.canonical_iff, State.core_memsWf, Core.memsWf, State.part_memsWf, Part.memsWf, State.updCore_canonical,
    State.updPart_canonical, State.ringFaultEvent_canonical, Core.ringFails_memsWf, State.newPiece_canonical,
    State.drawId_canonical, State.join_canonical, State.placeAny_canonical]

theorem State.launchAt_canonical {s : State} (h : s.canonical) (p : Nat) (a : DWord) (host : Option (Nat × Nat × Nat)) :
    (s.launchAt p a host).1.canonical := by
  unfold State.launchAt
  grind [State.readMem_canonical, State.launchPiece_canonical]

theorem State.hostPart_canonical {s : State} (h : s.canonical) (fn : Nat) (ticket : Nat) (status : Nat) (index : Nat)
    (detail : Nat) : (s.hostPart fn ticket status index detail).canonical := by
  unfold State.hostPart
  grind [State.canonical_iff, State.updHost_canonical]

theorem State.launchJoin_canonical {s : State} (h : s.canonical) (p : Nat) (seen ws : List WaitLaunch) :
    (s.launchJoin p seen ws).canonical := by
  induction ws generalizing seen with
  | nil => exact h
  | cons w ws ih =>
    grind [State.launchJoin, State.drawId_canonical, State.join_canonical, State.updPart_canonical, State.part_memsWf,
      Part.memsWf, State.hostPart_canonical, State.ringFaultEvent_canonical, State.updCore_canonical, State.core_memsWf,
      Core.ringFails_memsWf]

theorem State.joinWaits_canonical {s : State} (h : s.canonical) : (s.joinWaits).canonical := by
  unfold State.joinWaits
  grind [State.canonical_iff, State.foldl_canonical, State.part_memsWf, State.launchJoin_canonical]

theorem execLaunchWaitJoin_canonical {s : State} (h : s.canonical) (part : Nat) : outCanonical (execLaunchWaitJoin part s) := by
  unfold execLaunchWaitJoin
  grind [outCanonical_next, State.part_memsWf, State.launchJoin_canonical]

theorem State.rePlace_canonical {s : State} (h : s.canonical) (die : Nat) (c : Nat) (e : TaskEntry) :
    (s.rePlace die c e).canonical := by
  unfold State.rePlace
  grind [State.canonical_iff, State.part_memsWf, State.joinSaved_canonical, State.takeEntry_canonical, State.placeTask_canonical]

theorem State.retreatDie_canonical {s : State} (h : s.canonical) (die : Nat) : (s.retreatDie die).canonical := by
  unfold State.retreatDie
  grind [State.canonical_iff, State.foldl_canonical, State.rePlace_canonical]

theorem State.replaceDue_canonical {s : State} (h : s.canonical) : (s.replaceDue).canonical := by
  unfold State.replaceDue
  grind [State.canonical_iff, State.foldl_canonical, State.retreatDie_canonical]

end Sys2Proof.Machine
end

section
/-! SUPPORT. What the definitions of Machine/Copy keep: the byte stores in canonical form. -/

namespace Sys2Proof.Machine

set_option Elab.async false -- side by side, the proofs wait for one another and hold too many threads

theorem Core.setTemplate_memsWf {x : Core} (h : x.memsWf) (n : Nat) (t : BitVec 512) : (x.setTemplate n t).memsWf := by
  unfold Core.setTemplate
  grind [Core.memsWf]

theorem execTmplw_canonical {s : State} (h : s.canonical) (g : Guard) (t : BitVec 6) (w : BitVec 3) (b : Src) :
    outCanonical (execTmplw g t w b s) := by
  unfold execTmplw
  grind [outCanonical_next, State.core_memsWf, Core.memsWf, State.advance_canonical, State.updCore_canonical,
    State.guarded_canonical, Core.setTemplate_memsWf]

theorem State.bufferCopy_canonical {s t : State} (h : s.canonical) {a : Agent} {cmd : CopyCmd}
    (ht : s.bufferCopy a cmd = some t) :
    t.canonical := by
  unfold State.bufferCopy at ht
  grind [State.updOwn_canonical]

theorem State.copyGoesOn_canonical {s : State} (h : s.canonical) (a : Agent) (tag : Nat) : (s.copyGoesOn a tag).canonical := by
  unfold State.copyGoesOn
  grind [State.canonical_iff, State.advance_canonical, State.block_canonical, State.updOwn_canonical, State.bufferCopy_canonical]

theorem execCopy_canonical {s : State} (h : s.canonical) (g : Guard) (d : BitVec 6) (t : BitVec 6) (src : Option (BitVec 6))
    (dst : Option (BitVec 6)) : outCanonical (execCopy g d t src dst s) := by
  unfold execCopy
  grind [outCanonical_next, State.canonical_iff, State.core_memsWf, Core.memsWf, State.advance_canonical, State.updCore_canonical,
    State.updStrm_canonical, State.setReg_canonical, State.guarded_canonical, State.updOwn_canonical, State.result_canonical,
    Core.setTemplate_memsWf, State.bufferCopy_canonical, State.copyGoesOn_canonical]

theorem execSwait_canonical {s : State} (h : s.canonical) (g : Guard) (d : BitVec 6) (t : BitVec 6) (b : Src) :
    outCanonical (execSwait g d t b s) := by
  unfold execSwait
  grind [outCanonical_next, State.canonical_iff, State.advance_canonical, State.updStrm_canonical, State.block_canonical,
    State.guarded_canonical, State.readMem_canonical, State.raise_canonical, State.result_canonical, State.waitFor_canonical]

theorem State.updEngine_canonical {s : State} (h : s.canonical) (b : Nat) (e : Nat) (f : Engine → Engine) :
    (s.updEngine b e f).canonical := by
  unfold State.updEngine
  grind [State.updBay_canonical]

theorem State.dropHead_canonical {s : State} (h : s.canonical) (b : Nat) (i : Nat) : (s.dropHead b i).canonical := by
  unfold State.dropHead
  grind [State.canonical_iff, State.updSlot_canonical, State.updBay_canonical]

theorem State.copyEvent_canonical {s : State} (h : s.canonical) (p : Nat) (b : Nat) (eng : Nat) (e : Exc) (ring : Bool)
    (stamp : Bool) (seq : Nat) : (s.copyEvent p b eng e ring stamp seq).canonical := by
  unfold State.copyEvent
  grind [State.event_canonical]

theorem State.ringStalls_canonical {s : State} (h : s.canonical) (b : Nat) (eng : Nat) (cmd : CopyCmd) (e : Exc)
    (by1 : Option Nat) : (s.ringStalls b eng cmd e by1).canonical := by
  unfold State.ringStalls
  grind [State.canonical_iff, State.part_memsWf, State.updEngine_canonical, State.copyEvent_canonical]

theorem State.takeIn_canonical {s : State} (h : s.canonical) (b : Nat) (i : Nat) : (s.takeIn b i).1.canonical := by
  unfold State.takeIn
  grind [State.canonical_iff, State.part_memsWf, State.writeMem_canonical, State.updEngine_canonical, State.dropHead_canonical,
    State.ringStalls_canonical]

theorem execCopyAdmission_canonical {s : State} (h : s.canonical) (bay : Nat) : outCanonical (execCopyAdmission bay s) := by
  unfold execCopyAdmission
  grind [outCanonical_next, State.canonical_iff, State.updBay_canonical, State.takeIn_canonical]

theorem State.copyCheck_canonical {s : State} (h : s.canonical) (x : Acc) (cmd : CopyCmd) (a : Nat) (n : Nat) (kind : AKind) :
    (s.copyCheck x cmd a n kind).1.canonical := by
  unfold State.copyCheck
  grind [State.check_canonical]

theorem State.copyLine_canonical {s : State} (h : s.canonical) (x : Acc) (cmd : CopyCmd) (src : Nat) (dst : Nat) (n : Nat) :
    (s.copyLine x cmd src dst n).1.canonical := by
  unfold State.copyLine
  grind [State.readParts_canonical, State.writeLines_canonical, State.claim_canonical, State.copyCheck_canonical]

theorem State.refillOne_canonical {s : State} (h : s.canonical) (b : Nat) (eng : Nat) : (s.refillOne b eng).1.canonical := by
  unfold State.refillOne
  grind [State.canonical_iff, State.part_memsWf, State.readMem_canonical, State.updEngine_canonical, State.ringStalls_canonical]

theorem State.refillEngine_canonical {s : State} (h : s.canonical) (b : Nat) (eng : Nat) : (s.refillEngine b eng).canonical := by
  unfold State.refillEngine
  grind [State.refillOne_canonical]

theorem State.retryStall_canonical {s : State} (h : s.canonical) (b : Nat) (eng : Nat) : (s.retryStall b eng).1.canonical := by
  unfold State.retryStall
  grind [State.takeIn_canonical, State.refillOne_canonical]

theorem State.retryEngine_canonical {s : State} (h : s.canonical) (b : Nat) (eng : Nat) : (s.retryEngine b eng).canonical := by
  unfold State.retryEngine
  grind [State.canonical_iff, State.updEngine_canonical, State.retryStall_canonical]

theorem execCopyExecution_canonical {s : State} (h : s.canonical) (bay : Nat) (eng : Nat) :
    outCanonical (execCopyExecution bay eng s) := by
  unfold execCopyExecution
  grind [outCanonical_next, State.canonical_iff, State.part_memsWf, State.updEngine_canonical, State.copyEvent_canonical,
    State.copyLine_canonical, State.refillEngine_canonical]

theorem State.issueFollowOn_canonical {s t : State} (h : s.canonical) {cmd : CopyCmd} (ht : s.issueFollowOn cmd = some t) :
    t.canonical := by
  unfold State.issueFollowOn at ht
  grind [State.updPiece_canonical]

theorem State.copyEnds_canonical {s : State} (h : s.canonical) (b : Nat) (eng : Nat) (cmd : CopyCmd) :
    (s.copyEnds b eng cmd).canonical := by
  unfold State.copyEnds
  grind [State.canonical_iff, State.updPiece_canonical, State.updEngine_canonical, State.refillEngine_canonical]

theorem execCopyCompletion_canonical {s : State} (h : s.canonical) (bay : Nat) (eng : Nat) :
    outCanonical (execCopyCompletion bay eng s) := by
  unfold execCopyCompletion
  grind [outCanonical_next, State.canonical_iff, State.part_memsWf, State.writeMem_canonical, State.readyTiles_canonical,
    State.updEngine_canonical, State.copyEvent_canonical, State.issueFollowOn_canonical, State.copyEnds_canonical]

end Sys2Proof.Machine
end

section
/-! SUPPORT. What the definitions of Machine/NearMem keep: the byte stores in canonical form. -/

namespace Sys2Proof.Machine

set_option Elab.async false -- side by side, the proofs wait for one another and hold too many threads

theorem State.nmCheck_canonical {s : State} (h : s.canonical) (x : Acc) (b : List DWord) : (s.nmCheck x b).1.canonical := by
  unfold State.nmCheck
  grind [State.canonical_iff, State.foldl_canonical, State.part_memsWf, State.decideAll_canonical]

theorem execNmc_canonical {s : State} (h : s.canonical) (g : Guard) (d : BitVec 6) (a : BitVec 6) :
    outCanonical (execNmc g d a s) := by
  unfold execNmc
  grind [outCanonical_next, State.canonical_iff, State.advance_canonical, State.block_canonical, State.guarded_canonical,
    State.spent_canonical, State.readMem_canonical, State.raise_canonical, State.result_canonical, State.nmCheck_canonical]

theorem State.nmRead_canonical {s : State} (h : s.canonical) (pa : Nat) (key : Nat) (cnt : Bool) :
    (s.nmRead pa key cnt).1.canonical := by
  unfold State.nmRead
  grind [State.canonical_iff, Dram.resolve_wf, Dram.drainLine_wf, State.count_canonical]

theorem State.nmUpdate_canonical {s : State} (h : s.canonical) (c : NmCmd) (l : NmLine) : (s.nmUpdate c l).1.canonical := by
  unfold State.nmUpdate
  grind [State.block_canonical, State.writeDirect_canonical, State.nmRead_canonical]

theorem State.nmLineUpdate_canonical {s : State} (h : s.canonical) (stack : Nat) : (State.nmLineUpdate stack s).canonical := by
  unfold State.nmLineUpdate
  grind [State.canonical_iff, State.block_canonical, State.updPiece_canonical, State.nmUpdate_canonical]

theorem execNmfence_canonical {s : State} (h : s.canonical) (g : Guard) (d : BitVec 6) : outCanonical (execNmfence g d s) := by
  unfold execNmfence
  grind [outCanonical_next, State.canonical_iff, State.advance_canonical, State.block_canonical, State.guarded_canonical,
    State.updOwn_canonical, State.result_canonical]

end Sys2Proof.Machine
end

section
/-! SUPPORT. What the definitions of Machine/Arbiter keep: the byte stores in canonical form. -/

namespace Sys2Proof.Machine

set_option Elab.async false -- side by side, the proofs wait for one another and hold too many threads

theorem State.linkServed_canonical {s : State} (h : s.canonical) (p : Nat) : (s.linkServed p).canonical := by
  unfold State.linkServed
  grind [State.canonical_iff]

end Sys2Proof.Machine
end

section
/-! SUPPORT. What the definitions of Machine/Counters keep: the byte stores in canonical form. -/

namespace Sys2Proof.Machine

set_option Elab.async false -- side by side, the proofs wait for one another and hold too many threads

theorem State.updEntry_canonical {s : State} (h : s.canonical) (n : Nat) (f : TotEntry → TotEntry) :
    (s.updEntry n f).canonical := by
  unfold State.updEntry
  grind [State.canonical_iff]

theorem State.setCounter_canonical {s : State} (h : s.canonical) (n : Nat) (v : DWord) : (s.setCounter n v).canonical := by
  unfold State.setCounter
  grind [State.canonical_iff]

theorem State.npdFault_canonical {s : State} (h : s.canonical) (p : Nat) (index : Nat) (e : Exc) :
    (s.npdFault p index e).canonical := by
  unfold State.npdFault
  grind [State.event_canonical]

theorem State.deliver_canonical {s : State} (h : s.canonical) (x : Acc) (done : Nat) (ts ls : List (Nat × Nat)) (bs : List Byte) :
    (s.deliver x done ts ls bs).1.canonical := by
  induction ls generalizing s done ts bs with
  | nil => exact h
  | cons l ls ih => grind [State.deliver, State.check_canonical, State.claim_canonical, State.writeLines_canonical]

theorem ringWrite_wf {m : Memory} (h : memWf m = true) (base size pos : Nat) (bs : List Byte) :
    memWf (ringWrite m base size pos bs) = true := by
  induction bs generalizing m pos with
  | nil => exact h
  | cons b bs ih => exact ih (memPut_wf _ _ h) _

theorem State.rxWrite_canonical {s : State} (h : s.canonical) (p vec : Nat) (bs : List Byte) : (s.rxWrite p vec bs).canonical :=
  State.updHost_canonical (State.withHostMem_canonical h (ringWrite_wf (State.hostMem_wf h) _ _ _ bs)) p _

theorem State.loopMsg_canonical {s : State} (h : s.canonical) (p : Nat) (d : Send) : (s.loopMsg p d).canonical := by
  unfold State.loopMsg
  grind [State.canonical_iff]

theorem State.transmit_canonical {s : State} (h : s.canonical) (p : Nat) (d : Send) : (s.transmit p d).1.canonical := by
  unfold State.transmit
  grind [State.part_memsWf, State.linkServed_canonical, State.rxWrite_canonical, State.loopMsg_canonical]

theorem State.sendFailed_canonical {s : State} (h : s.canonical) (p : Nat) (d : Send) : (s.sendFailed p d).canonical := by
  unfold State.sendFailed
  grind [State.event_canonical, State.block_canonical]

theorem State.dropSend_canonical {s : State} (h : s.canonical) (p : Nat) (idx : Nat) : (s.dropSend p idx).canonical := by
  unfold State.dropSend
  grind [State.canonical_iff, State.part_memsWf, Part.memsWf, State.updPart_canonical]

theorem State.sendArrives_canonical {s : State} (h : s.canonical) (p : Nat) (idx : Nat) : (s.sendArrives p idx).canonical := by
  unfold State.sendArrives
  grind [State.canonical_iff, State.part_memsWf, Part.memsWf, State.updPart_canonical]

theorem State.launchSend_canonical {s : State} (h : s.canonical) (p : Nat) (block : DWord) (peer : Nat) (rod : Bool)
    (cen : Option Nat) (hdr : List DWord) (payload : List Byte) : (s.launchSend p block peer rod cen hdr payload).canonical := by
  unfold State.launchSend
  grind [State.canonical_iff, State.part_memsWf, Part.memsWf, State.updPart_canonical, State.transmit_canonical,
    State.sendFailed_canonical, State.dropSend_canonical, State.sendArrives_canonical]

theorem State.sendAt_canonical {s : State} (h : s.canonical) (p : Nat) (x : Acc) (a : Nat) : (s.sendAt p x a).1.canonical := by
  unfold State.sendAt
  grind [State.part_memsWf, State.readMem_canonical, State.launchSend_canonical]

theorem State.refusedAct_canonical {s : State} (h : s.canonical) (p : Nat) (n : Nat) (act : Nat) (status : Nat) (arg : DWord) :
    (s.refusedAct p n act status arg).1.canonical := by
  unfold State.refusedAct
  grind [State.event_canonical]

theorem State.firedCopy_canonical {s : State} (h : s.canonical) (p : Nat) (n : Nat) (arg : DWord) :
    (s.firedCopy p n arg).1.canonical := by
  unfold State.firedCopy
  grind [State.canonical_iff, State.core_memsWf, Core.memsWf, State.updCore_canonical, State.updBay_canonical,
    Core.setTemplate_memsWf, State.refusedAct_canonical]

theorem State.action_canonical {s : State} (h : s.canonical) (p : Nat) (n : Nat) (act : Nat) (arg : DWord) :
    (s.action p n act arg).1.canonical := by
  unfold State.action
  grind [State.event_canonical, State.launchAt_canonical, State.npdFault_canonical, State.sendAt_canonical,
    State.refusedAct_canonical, State.firedCopy_canonical]

theorem State.act_canonical {s : State} (h : s.canonical) (f : Firing) : (s.act f).1.canonical := by
  have hw {t : State} (ht : t.canonical) (fs : List Firing) : ({ t with npd := { t.npd with firings := fs } } : State).canonical := ht
  unfold State.act
  grind [State.action_canonical]

theorem State.fire_canonical {s : State} (h : s.canonical) (n : Nat) (depth : Nat) : (s.fire n depth).1.canonical := by
  unfold State.fire
  grind [State.readyTiles_canonical, State.updEntry_canonical, State.act_canonical]

theorem State.test_canonical {s : State} (h : s.canonical) (v : DWord) (depth : Nat) (ns : List Nat) :
    (s.test v depth ns).1.canonical := by
  induction ns generalizing s with
  | nil => exact h
  | cons n ns ih => grind [State.test, State.fire_canonical]

theorem State.advanceOne_canonical {s : State} (h : s.canonical) (d : Due) : (s.advanceOne d).1.canonical := by
  unfold State.advanceOne
  grind [State.setCounter_canonical, State.refusedAct_canonical, State.test_canonical]

theorem State.advanceList_canonical {s : State} (h : s.canonical) (ds : List Due) : (s.advanceList ds).1.canonical := by
  induction ds generalizing s with
  | nil => exact h
  | cons d ds ih => grind [State.advanceList, State.advanceOne_canonical]

theorem State.advanceAll_canonical {s : State} (h : s.canonical) (n : Nat) (ds : List Due) :
    (State.advanceAll n s ds).canonical := by
  induction n generalizing s ds with
  | zero => exact h
  | succ n ih => grind [State.advanceAll, State.advanceList_canonical]

theorem State.advanceCtr_canonical {s : State} (h : s.canonical) (c : Nat) (by1 : DWord) : (s.advanceCtr c by1).canonical := by
  unfold State.advanceCtr
  grind [State.advanceAll_canonical]

theorem State.armTest_canonical {s : State} (h : s.canonical) (n : Nat) : (s.armTest n).canonical := by
  unfold State.armTest
  grind [State.test_canonical, State.advanceAll_canonical]

theorem State.retryFirings_canonical {s : State} (h : s.canonical) : s.retryFirings.canonical := by
  unfold State.retryFirings
  refine State.advanceAll_canonical ?_ 18 _
  exact List.foldlRecOn (motive := fun acc : State × List Due => acc.1.canonical) _ _ h
    (fun acc ha f _ => State.act_canonical ha f)

end Sys2Proof.Machine
end

section
/-! SUPPORT. What the definitions of Machine/Reduce keep: the byte stores in canonical form. -/

namespace Sys2Proof.Machine

set_option Elab.async false -- side by side, the proofs wait for one another and hold too many threads

theorem State.updRSlot_canonical {s : State} (h : s.canonical) (n : Nat) (f : RSlot → RSlot) : (s.updRSlot n f).canonical := by
  unfold State.updRSlot
  grind [State.canonical_iff]

theorem State.freeRSlot_canonical {s : State} (h : s.canonical) (n : Nat) : (s.freeRSlot n).canonical := by
  unfold State.freeRSlot
  grind [State.updRSlot_canonical]

theorem State.writeResult_canonical {s : State} (h : s.canonical) (n : Nat) : (s.writeResult n).canonical := by
  unfold State.writeResult
  grind [State.part_memsWf, State.readyTiles_canonical, State.result_canonical, State.npdFault_canonical, State.deliver_canonical,
    State.advanceCtr_canonical, State.freeRSlot_canonical]

theorem State.closeSlot_canonical {s : State} (h : s.canonical) (n : Nat) (to1 : Bool) (forced : Bool) :
    (s.closeSlot n to1 forced).canonical := by
  unfold State.closeSlot
  grind [State.canonical_iff, State.updRSlot_canonical, State.writeResult_canonical]

theorem State.closeDue_canonical {s : State} (h : s.canonical) (n : Nat) : (s.closeDue n).canonical := by
  unfold State.closeDue
  grind [State.closeSlot_canonical]

theorem State.closeAllDue_canonical {s : State} (h : s.canonical) : (s.closeAllDue).canonical := by
  unfold State.closeAllDue
  grind [State.canonical_iff, State.foldl_canonical, State.closeDue_canonical]

theorem State.contribRefused_canonical {s : State} (h : s.canonical) (h : Nat) (code : Nat) :
    (s.contribRefused h code).canonical := by
  unfold State.contribRefused
  grind [State.canonical_iff, State.updRSlot_canonical]

theorem State.contribute_canonical {s : State} (h : s.canonical) (h : Nat) (rank : Nat) (bs : List Byte) :
    (s.contribute h rank bs).canonical := by
  unfold State.contribute
  grind [State.updRSlot_canonical, State.closeSlot_canonical]

theorem execReductionSlotTimeout_canonical {s : State} (h : s.canonical) (slot : Nat) :
    outCanonical (execReductionSlotTimeout slot s) := by
  unfold execReductionSlotTimeout
  grind [outCanonical_next, State.writeResult_canonical, State.closeDue_canonical]

theorem execRsalloc_canonical {s : State} (h : s.canonical) (g : Guard) (d : BitVec 6) (a : BitVec 6) :
    outCanonical (execRsalloc g d a s) := by
  unfold execRsalloc
  grind [outCanonical_next, State.canonical_iff, State.advance_canonical, State.guarded_canonical, State.readMem_canonical,
    State.result_canonical, State.got_canonical, State.updRSlot_canonical, State.closeAllDue_canonical]

theorem execRscon_canonical {s : State} (h : s.canonical) (g : Guard) (d : BitVec 6) (a : BitVec 6) (b : BitVec 6)
    (c : BitVec 6) : outCanonical (execRscon g d a b c s) := by
  unfold execRscon
  grind [outCanonical_next, State.advance_canonical, State.guarded_canonical, State.count_canonical, State.readMem_canonical,
    State.result_canonical, State.got_canonical, State.closeDue_canonical, State.contribRefused_canonical,
    State.contribute_canonical]

theorem execRsclose_canonical {s : State} (h : s.canonical) (g : Guard) (drop : Bool) (d : BitVec 6) (a : BitVec 6) :
    outCanonical (execRsclose g drop d a s) := by
  unfold execRsclose
  grind [outCanonical_next, State.advance_canonical, State.guarded_canonical, State.result_canonical, State.freeRSlot_canonical,
    State.closeSlot_canonical, State.closeDue_canonical]

end Sys2Proof.Machine
end

section
/-! SUPPORT. What the definitions of Machine/Npd keep: the byte stores in canonical form. -/

namespace Sys2Proof.Machine

set_option Elab.async false -- side by side, the proofs wait for one another and hold too many threads

theorem State.endMsg_canonical {s : State} (h : s.canonical) (m : Msg) : (s.endMsg m).canonical := by
  unfold State.endMsg
  grind [State.canonical_iff, State.part_memsWf, Npd.dropMsg_handlers, State.sendArrives_canonical]

theorem State.dropBad_canonical {s : State} (h : s.canonical) (m : Msg) (sub : Nat) : (s.dropBad m sub).canonical := by
  unfold State.dropBad
  grind [State.part_memsWf, State.event_canonical, State.endMsg_canonical]

theorem State.dropFault_canonical {s : State} (h : s.canonical) (m : Msg) (e : Exc) : (s.dropFault m e).canonical := by
  unfold State.dropFault
  grind [State.part_memsWf, State.npdFault_canonical, State.endMsg_canonical]

theorem State.putMsg_canonical {s : State} (h : s.canonical) (m : Msg) : (s.putMsg m).canonical := by
  unfold State.putMsg
  grind [State.canonical_iff, Npd.updMsg_handlers]

theorem State.delivered_canonical {s : State} (h : s.canonical) (m : Msg) : (s.delivered m).canonical := by
  unfold State.delivered
  grind [State.canonical_iff, State.part_memsWf, State.advance_canonical, State.readyTiles_canonical, Npd.dropMsg_handlers,
    State.putMsg_canonical]

theorem State.deliverMsg_canonical {s : State} (h : s.canonical) (m : Msg) : (s.deliverMsg m).canonical := by
  unfold State.deliverMsg
  grind [State.canonical_iff, State.part_memsWf, State.deliver_canonical, State.dropFault_canonical, State.putMsg_canonical,
    State.delivered_canonical]

theorem State.reduceElems_canonical {s : State} (h : s.canonical) (p ty op a done : Nat) (ts : List (Nat × Nat)) (xs : List Nat) :
    (s.reduceElems p ty op a done ts xs).1.canonical := by
  induction xs generalizing s a done ts with
  | nil => exact h
  | cons x xs ih =>
    grind [State.reduceElems, State.check_canonical, State.claim_canonical, State.readParts_canonical, State.writeAll_canonical,
      State.updPart_canonical, State.part_memsWf, Part.memsWf]

theorem State.reduceMsg_canonical {s : State} (h : s.canonical) (m : Msg) : (s.reduceMsg m).canonical := by
  unfold State.reduceMsg
  grind [State.canonical_iff, State.part_memsWf, State.updEntry_canonical, State.dropFault_canonical, State.putMsg_canonical,
    State.delivered_canonical, State.reduceElems_canonical]

theorem State.refuse_canonical {s : State} (h : s.canonical) (p : Nat) (k : Packet) : (s.refuse p k).canonical := by
  unfold State.refuse
  grind [State.canonical_iff]

theorem State.giveBack_canonical {s : State} (h : s.canonical) (m : Msg) : (s.giveBack m).canonical := by
  unfold State.giveBack
  grind [State.canonical_iff, State.part_memsWf, Npd.dropMsg_handlers, State.refuse_canonical]

theorem State.reduceTurn_canonical {s : State} (h : s.canonical) (m : Msg) : (s.reduceTurn m).canonical := by
  unfold State.reduceTurn
  grind [State.canonical_iff, State.deliver_canonical, State.dropBad_canonical, State.putMsg_canonical, State.reduceMsg_canonical,
    State.giveBack_canonical]

theorem State.drainRanks_canonical {s : State} (h : s.canonical) (k n : Nat) : (State.drainRanks k s n).canonical := by
  induction k generalizing s with
  | zero => exact h
  | succ k ih => grind [State.drainRanks, State.reduceTurn_canonical]

theorem State.contribMsg_canonical {s : State} (h : s.canonical) (m : Msg) : (s.contribMsg m).canonical := by
  unfold State.contribMsg
  grind [State.part_memsWf, State.event_canonical, State.count_canonical, State.closeDue_canonical,
    State.contribRefused_canonical, State.contribute_canonical, State.endMsg_canonical, State.delivered_canonical]

theorem State.stage3_canonical {s : State} (h : s.canonical) (m : Msg) : (s.stage3 m).canonical := by
  unfold State.stage3
  grind [State.dropBad_canonical, State.delivered_canonical, State.deliverMsg_canonical, State.reduceTurn_canonical,
    State.drainRanks_canonical, State.contribMsg_canonical]

theorem State.stage2_canonical {s : State} (h : s.canonical) (m : Msg) : (s.stage2 m).canonical := by
  unfold State.stage2
  grind [State.canonical_iff, State.part_memsWf, State.event_canonical, State.deliver_canonical, State.endMsg_canonical,
    State.stage3_canonical]

theorem State.seePacket_canonical {s : State} (h : s.canonical) (p : Nat) (k : Packet) : (s.seePacket p k).canonical := by
  unfold State.seePacket
  grind [State.canonical_iff]

theorem State.newMsg_canonical {s : State} (h : s.canonical) (p : Nat) (k : Packet) : (s.newMsg p k).1.canonical := by
  unfold State.newMsg
  grind [State.canonical_iff]

theorem State.stage4_canonical {s : State} (h : s.canonical) (m : Msg) : (s.stage4 m).canonical := by
  unfold State.stage4
  grind [State.canonical_iff, State.updEntry_canonical, State.advanceCtr_canonical, State.endMsg_canonical,
    State.drainRanks_canonical]

theorem State.barrierMsg_canonical {s : State} (h : s.canonical) (p : Nat) (k : Packet) : (s.barrierMsg p k).canonical := by
  unfold State.barrierMsg
  grind [State.canonical_iff, State.part_memsWf, State.event_canonical, State.advance_canonical, State.putMsg_canonical,
    State.newMsg_canonical, State.stage4_canonical]

theorem State.receive_canonical {s : State} (h : s.canonical) (k : Packet) : (s.receive k).canonical := by
  unfold State.receive
  grind [State.canonical_iff, State.part_memsWf, State.refuse_canonical, State.stage2_canonical, State.seePacket_canonical,
    State.newMsg_canonical, State.barrierMsg_canonical]

theorem execPacketReceive_canonical {s : State} (h : s.canonical) (p : Packet) : outCanonical (execPacketReceive p s) := by
  unfold execPacketReceive
  grind [outCanonical_next, State.receive_canonical]

theorem execBarrierArrivalMessage_canonical {s : State} (h : s.canonical) (p : Packet) :
    outCanonical (execBarrierArrivalMessage p s) := by
  unfold execBarrierArrivalMessage
  grind [outCanonical_next, State.receive_canonical]

theorem execCounterAdvance_canonical {s : State} (h : s.canonical) (msg : Nat) : outCanonical (execCounterAdvance msg s) := by
  unfold execCounterAdvance
  grind [outCanonical_next, State.canonical_iff, State.part_memsWf, State.advance_canonical, Npd.dropMsg_handlers,
    State.deliver_canonical, State.retryFirings_canonical, State.endMsg_canonical, State.stage3_canonical, State.stage2_canonical,
    State.stage4_canonical]

theorem State.startServed_canonical {s : State} (h : s.canonical) (p : Nat) : (s.startServed p).canonical := by
  unfold State.startServed
  grind [State.canonical_iff]

theorem State.startThread_canonical {s : State} (h : s.canonical) (t : Nat) (x : Thread) : (s.startThread t x).canonical := by
  unfold State.startThread
  grind [State.canonical_iff]

theorem execHandlerStart_canonical {s : State} (h : s.canonical) (part : Nat) : outCanonical (execHandlerStart part s) := by
  unfold execHandlerStart
  grind [outCanonical_next, State.canonical_iff, State.part_memsWf, State.putMsg_canonical, State.startServed_canonical,
    State.startThread_canonical]

theorem execEventHandlerStart_canonical {s : State} (h : s.canonical) (part : Nat) :
    outCanonical (execEventHandlerStart part s) := by
  unfold execEventHandlerStart
  grind [outCanonical_next, State.canonical_iff, State.part_memsWf, Part.memsWf, State.updPart_canonical, State.event_canonical,
    State.startServed_canonical, State.startThread_canonical]

theorem execHandlerWatchdog_canonical {s : State} (h : s.canonical) (t : Nat) : outCanonical (execHandlerWatchdog t s) := by
  unfold execHandlerWatchdog
  grind [outCanonical_next, State.threadFault_canonical]

theorem State.netFault_canonical {s : State} (h : s.canonical) (a : Agent) : (s.netFault a).canonical := by
  unfold State.netFault
  grind [State.threadFault_canonical]

theorem State.armEntry_canonical {s : State} (h : s.canonical) (n : Nat) (e : BitVec 512) : (s.armEntry n e).canonical := by
  unfold State.armEntry
  grind [State.updEntry_canonical, State.armTest_canonical]

theorem State.arm_canonical {s : State} (h : s.canonical) (p : Nat) (n : Nat) (bs : List Byte) : (s.arm p n bs).1.canonical := by
  unfold State.arm
  grind [State.armEntry_canonical]

theorem execArm_canonical {s : State} (h : s.canonical) (g : Guard) (d : BitVec 6) (a : BitVec 6) (b : Src) :
    outCanonical (execArm g d a b s) := by
  unfold execArm
  grind [outCanonical_next, State.advance_canonical, State.guarded_canonical, State.readMem_canonical, State.result_canonical,
    State.got_canonical, State.arm_canonical]

theorem execDisarm_canonical {s : State} (h : s.canonical) (g : Guard) (d : BitVec 6) (a : BitVec 6) :
    outCanonical (execDisarm g d a s) := by
  unfold execDisarm
  grind [outCanonical_next, State.canonical_iff, State.advance_canonical, State.updStrm_canonical, State.guarded_canonical,
    State.result_canonical, State.updEntry_canonical]

theorem execCrd_canonical {s : State} (h : s.canonical) (g : Guard) (d : BitVec 6) (a : BitVec 6) :
    outCanonical (execCrd g d a s) := by
  unfold execCrd
  grind [outCanonical_next, State.advance_canonical, State.guarded_canonical, State.result_canonical, State.netFault_canonical]

theorem execCadd_canonical {s : State} (h : s.canonical) (g : Guard) (d : BitVec 6) (a : BitVec 6) (b : Src) :
    outCanonical (execCadd g d a b s) := by
  unfold execCadd
  grind [outCanonical_next, State.advance_canonical, State.guarded_canonical, State.result_canonical, State.advanceCtr_canonical,
    State.netFault_canonical]

theorem execCwait_canonical {s : State} (h : s.canonical) (g : Guard) (d : BitVec 6) (a : BitVec 6) (b : Src) :
    outCanonical (execCwait g d a b s) := by
  unfold execCwait
  grind [outCanonical_next, State.advance_canonical, State.block_canonical, State.guarded_canonical, State.result_canonical,
    State.netFault_canonical]

theorem execSend_canonical {s : State} (h : s.canonical) (g : Guard) (d : BitVec 6) (a : BitVec 6) :
    outCanonical (execSend g d a s) := by
  unfold execSend
  grind [outCanonical_next, State.advance_canonical, State.block_canonical, State.guarded_canonical, State.raise_canonical,
    State.result_canonical, State.sendAt_canonical]

theorem execHret_canonical {s : State} (h : s.canonical) (g : Guard) (n : Option (BitVec 6)) : outCanonical (execHret g n s) := by
  unfold execHret
  grind [outCanonical_next, State.canonical_iff, State.advance_canonical, State.event_canonical, State.guarded_canonical,
    State.endThread_canonical, Npd.updMsg_handlers, State.stage4_canonical]

theorem execTsrd_canonical {s : State} (h : s.canonical) (g : Guard) (sel : BitVec 2) (d : BitVec 6) :
    outCanonical (execTsrd g sel d s) := by
  unfold execTsrd
  grind [outCanonical_next, State.advance_canonical, State.guarded_canonical, State.result_canonical]

theorem execSendAcknowledged_canonical {s : State} (h : s.canonical) (part : Nat) (idx : Nat) :
    outCanonical (execSendAcknowledged part idx s) := by
  unfold execSendAcknowledged
  grind [outCanonical_next, State.part_memsWf, State.dropSend_canonical, State.advanceCtr_canonical]

theorem execSendTimeout_canonical {s : State} (h : s.canonical) (part : Nat) (idx : Nat) :
    outCanonical (execSendTimeout part idx s) := by
  unfold execSendTimeout
  grind [outCanonical_next, State.part_memsWf, State.sendFailed_canonical, State.dropSend_canonical]

theorem execSendRetransmit_canonical {s : State} (h : s.canonical) (part : Nat) (idx : Nat) :
    outCanonical (execSendRetransmit part idx s) := by
  unfold execSendRetransmit
  grind [outCanonical_next, State.canonical_iff, State.part_memsWf, Part.memsWf, State.updPart_canonical,
    State.transmit_canonical, State.sendFailed_canonical, State.dropSend_canonical, State.sendArrives_canonical]

theorem execPtpMessageReceive_canonical {s : State} (h : s.canonical) (time : DWord) (locked : Bool) (master : Bool) :
    outCanonical (execPtpMessageReceive time locked master s) := by
  unfold execPtpMessageReceive
  grind [outCanonical_next, State.canonical_iff]

end Sys2Proof.Machine
end

section
/-! SUPPORT. What the definitions of Machine/Tasks keep: the byte stores in canonical form. -/

namespace Sys2Proof.Machine

set_option Elab.async false -- side by side, the proofs wait for one another and hold too many threads

theorem State.enqOn_canonical {s : State} (h : s.canonical) (p die : Nat) (ws : List EnqWait) (n : Nat) (id : Option Word) :
    (s.enqOn p die ws n id).1.canonical := by
  induction ws generalizing s n id with
  | nil => exact h
  | cons w ws ih =>
    grind [State.enqOn, State.placeAny_canonical, State.drawId_canonical, State.join_canonical, State.ringFaultEvent_canonical,
      State.updCore_canonical, State.core_memsWf, Core.ringFails_memsWf]

theorem State.enqEnd_canonical {s : State} (h : s.canonical) (a : Agent) (d : BitVec 6) (split : Bool) (tag : Nat)
    (left : List EnqWait) (n : Nat) (n0 : Nat) (id : Option Word) : (s.enqEnd a d split tag left n n0 id).canonical := by
  unfold State.enqEnd
  grind [State.canonical_iff, State.updStrm_canonical, State.updOwn_canonical, State.result_canonical]

theorem State.enqStart_canonical {s : State} (h : s.canonical) (a : Agent) (d : BitVec 6) (split : Bool) (ps : List Piece) :
    (s.enqStart a d split ps).canonical := by
  unfold State.enqStart
  grind [State.canonical_iff, State.enqOn_canonical, State.enqEnd_canonical]

theorem State.enqAgain_canonical {s : State} (h : s.canonical) (a : Agent) (d : BitVec 6) (split : Bool) (tag : Nat) :
    (s.enqAgain a d split tag).canonical := by
  unfold State.enqAgain
  grind [State.enqOn_canonical, State.enqEnd_canonical]

theorem State.newPieces_canonical {s : State} (h : s.canonical) (p : Nat) (hd : List DWord) (rs : List (Nat × Nat)) :
    (s.newPieces p hd rs).1.canonical := by
  induction rs generalizing s with
  | nil => exact h
  | cons r rs ih => grind [State.newPieces, State.newPiece_canonical]

theorem State.withHeader_canonical {s : State} (h : s.canonical) (d a : BitVec 6) (form : EnqForm) (glean : Bool)
    {k : State → List DWord → State} (hk : ∀ t hd, t.canonical → (k t hd).canonical) : (s.withHeader d a form glean k).canonical := by
  unfold State.withHeader
  extract_lets ag addr
  refine State.ite_canonical (fun _ => State.result_canonical h _ _ _ _) fun _ => ?_
  have hr := State.readMem_canonical h (s.accOf ag) addr 128
  exact State.got_canonical hr _ _ fun bs => State.ite_canonical (fun _ => State.result_canonical hr _ _ _ _) fun _ => hk _ _ hr

theorem State.enqueue_canonical {s : State} (h : s.canonical) (d : BitVec 6) (a : BitVec 6) (form : EnqForm) (n : Nat) :
    (s.enqueue d a form n).canonical := by
  unfold State.enqueue
  grind [State.enqStart_canonical, State.enqAgain_canonical, State.newPieces_canonical, State.withHeader_canonical]

theorem State.enqueueNow_canonical {s : State} (h : s.canonical) (d : BitVec 6) (a : BitVec 6) (glean : Bool) :
    (s.enqueueNow d a glean).canonical := by
  unfold State.enqueueNow
  grind [State.canonical_iff, State.ringFaultEvent_canonical, State.result_canonical, State.newPiece_canonical,
    State.drawId_canonical, State.join_canonical, State.placeAny_canonical, State.withHeader_canonical]

theorem execEnq_canonical {s : State} (h : s.canonical) (g : Guard) (d : BitVec 6) (a : BitVec 6) :
    outCanonical (execEnq g d a s) := by
  unfold execEnq
  grind [outCanonical_next, State.advance_canonical, State.guarded_canonical, State.enqueue_canonical]

theorem execEnqnb_canonical {s : State} (h : s.canonical) (g : Guard) (d : BitVec 6) (a : BitVec 6) :
    outCanonical (execEnqnb g d a s) := by
  unfold execEnqnb
  grind [outCanonical_next, State.advance_canonical, State.guarded_canonical, State.enqueueNow_canonical]

theorem execSplit_canonical {s : State} (h : s.canonical) (g : Guard) (d : BitVec 6) (a : BitVec 6) (n : BitVec 10) :
    outCanonical (execSplit g d a n s) := by
  unfold execSplit
  grind [outCanonical_next, State.advance_canonical, State.guarded_canonical, State.enqueue_canonical]

theorem execGlaunch_canonical {s : State} (h : s.canonical) (g : Guard) (d : BitVec 6) (a : BitVec 6) :
    outCanonical (execGlaunch g d a s) := by
  unfold execGlaunch
  grind [outCanonical_next, State.advance_canonical, State.guarded_canonical, State.enqueue_canonical]

theorem execGlean_canonical {s : State} (h : s.canonical) (g : Guard) (d : BitVec 6) (a : BitVec 6) :
    outCanonical (execGlean g d a s) := by
  unfold execGlean
  grind [outCanonical_next, State.advance_canonical, State.guarded_canonical, State.enqueueNow_canonical]

theorem State.noteStalls_canonical {s : State} (h : s.canonical) : s.noteStalls.canonical :=
  State.mapCores_canonical h _ (fun _ => rfl) (fun _ hx => hx)

theorem execDomainStallTimeout_canonical {s : State} (h : s.canonical) (part : Nat) (level : Nat) (domain : Nat) :
    outCanonical (execDomainStallTimeout part level domain s) := by
  unfold execDomainStallTimeout
  grind [outCanonical_next, State.canonical_iff, State.foldl_canonical, State.updSlot_canonical, State.event_canonical,
    State.issued_canonical]

theorem execSrad_canonical {s : State} (h : s.canonical) (g : Guard) (b : Src) : outCanonical (execSrad g b s) := by
  unfold execSrad
  grind [outCanonical_next, State.canonical_iff, State.core_memsWf, Core.memsWf, State.advance_canonical, State.updCore_canonical,
    State.guarded_canonical]

theorem Part.pinSaved_memsWf {x : Part} (h : x.memsWf) (r v : Nat) : (x.pinSaved r v).memsWf := by
  refine recsWf_map h (fun _ => rfl) (fun e => ?_)
  dsimp only
  split <;> rfl

theorem execPin_canonical {s : State} (h : s.canonical) (g : Guard) (d : BitVec 6) (a : BitVec 6) (m : Src) :
    outCanonical (execPin g d a m s) := by
  unfold execPin
  grind [outCanonical_next, State.canonical_iff, State.core_memsWf, Core.memsWf, State.part_memsWf, Part.memsWf,
    State.advance_canonical, State.foldl_canonical, State.updCore_canonical, State.updPart_canonical, State.guarded_canonical,
    State.result_canonical, Part.pinSaved_memsWf]

theorem execStealRequest_canonical {s : State} (h : s.canonical) (core : Nat) : outCanonical (execStealRequest core s) := by
  unfold execStealRequest
  grind [outCanonical_next, State.canonical_iff, State.core_memsWf, Core.memsWf, State.updCore_canonical,
    State.freshViews_canonical]

theorem execStealAnswer_canonical {s : State} (h : s.canonical) (thief : Nat) : outCanonical (execStealAnswer thief s) := by
  have hr {t : State} (ht : t.canonical) : (t.updCore thief (fun x => { x with stealAt := t.cycle + 256 })).canonical :=
    State.updCore_canonical ht thief (State.core_memsWf ht thief)
  have hj {t : State} (ht : t.canonical) (c : Nat) (e : TaskEntry) (r : State) (hr : r.canonical) :
      (match t.joinQueue c e with
        | (t, .joined) => t
        | _ => r).canonical := by
    grind [State.joinQueue_canonical]
  rw [execStealAnswer, outCanonical_next]
  split
  · exact h
  · next victim _ =>
    extract_lets t refuse
    have ht : t.canonical := State.updCore_canonical h thief (State.core_memsWf h thief)
    split
    · exact hr ht
    · next i e _ =>
      split
      · exact hr ht
      · exact hj (State.takeEntry_canonical ht victim i) _ _ _ (hr ht)
      · extract_lets q keep give u
        have hu : u.canonical := by
          refine State.updCore_canonical (s := { t with uid := t.uid + 1 }) ht victim ?_
          exact State.core_memsWf ht victim
        exact hj hu _ _ _ (hr ht)

theorem State.updDom_canonical {s : State} (h : s.canonical) (p : Nat) (level : Nat) (d : Nat) (f : Domain → Domain) :
    (s.updDom p level d f).canonical := by
  unfold State.updDom
  grind [State.canonical_iff, State.part_memsWf, Part.memsWf, State.updPart_canonical]

theorem execDbar_canonical {s : State} (h : s.canonical) (g : Guard) (nw : Bool) (d : BitVec 6) :
    outCanonical (execDbar g nw d s) := by
  unfold execDbar
  grind [outCanonical_next, State.canonical_iff, State.advance_canonical, State.part_memsWf, State.updStrm_canonical,
    State.block_canonical, State.guarded_canonical, State.updOwn_canonical, State.result_canonical, State.updDom_canonical]

theorem State.completeBarrier_canonical {s : State} (h : s.canonical) (p : Nat) (level : Nat) (d : Nat) (x : Domain) :
    (s.completeBarrier p level d x).canonical := by
  unfold State.completeBarrier
  grind [State.canonical_iff, State.foldl_canonical, State.updSlot_canonical, State.updDom_canonical]

theorem State.peerArrival_canonical {s : State} (h : s.canonical) (p : Nat) (d : Nat) (x : Domain) :
    (s.peerArrival p d x).canonical := by
  unfold State.peerArrival
  grind [State.canonical_iff, State.foldl_canonical, State.part_memsWf, State.launchSend_canonical, State.advanceCtr_canonical,
    State.updDom_canonical]

theorem execBarrierCompletion_canonical {s : State} (h : s.canonical) (part : Nat) (level : Nat) (domain : Nat) :
    outCanonical (execBarrierCompletion part level domain s) := by
  unfold execBarrierCompletion
  grind [outCanonical_next, State.part_memsWf, State.completeBarrier_canonical, State.peerArrival_canonical]

end Sys2Proof.Machine
end

section
/-! SUPPORT. What the definitions of Machine/Binding keep: the byte stores in canonical form. -/

namespace Sys2Proof.Machine

set_option Elab.async false -- side by side, the proofs wait for one another and hold too many threads

theorem Core.radius_memsWf {x : Core} (h : x.memsWf) (r : Nat) : (x.radius r).memsWf := by
  unfold Core.radius
  grind [Core.memsWf]

theorem State.bindFresh_canonical {s : State} (h : s.canonical) (c : Nat) (k : Nat) (q : Piece) :
    (s.bindFresh c k q).canonical := by
  unfold State.bindFresh
  grind [State.core_memsWf, Core.memsWf, State.updCore_canonical, State.setSlot_canonical, Core.radius_memsWf]

theorem State.restoreInto_canonical {s : State} (h : s.canonical) (c k p r : Nat) (y : SavedPiece) (gang : Option GangRef) :
    (s.restoreInto c k p r y gang).canonical := by
  unfold State.restoreInto
  extract_lets old x y1 t
  split
  · exact h
  · next q _ =>
    extract_lets q dom z u
    have hx := State.core_memsWf h c
    have ht : t.canonical := by
      refine State.updCore_canonical h c ?_
      exact ⟨memPutAll_wf (memClear_wf _ _ hx.1) _ y.priv, hx.2⟩
    have hu : u.canonical := State.mapTiles_canonical (State.setSlot_canonical ht c k z) _
    have hp := State.updPart_canonical hu p (f := (·.freeRecord r)) (Part.freeRecord_memsWf (State.part_memsWf hu p) r)
    exact State.updCore_canonical hp c (Core.radius_memsWf (State.core_memsWf hp c) _)

theorem State.holdSaved_canonical {s : State} (h : s.canonical) (c k p r : Nat) {y : SavedPiece} (hy : memWf y.priv = true) :
    (s.holdSaved c k p r y).canonical := by
  unfold State.holdSaved
  extract_lets t
  have ht : t.canonical := State.event_canonical h _ _ _ _ _ _
  have hp : (t.updPart p (fun x => { x with recs := Tbl.set x.recs r { y with held := true } })).canonical :=
    State.updPart_canonical ht p (recsWf_set (State.part_memsWf ht p) r hy)
  exact State.freeSlot_canonical hp c k

/-- A record of the crib that is found has its bytes in canonical form. -/
theorem State.savedRec_wf {s : State} (h : s.canonical) {p r : Nat} {y : SavedPiece} (hy : s.savedRec p r = some y) :
    memWf y.priv = true := by
  simp only [State.savedRec, Option.map_eq_some_iff] at hy
  obtain ⟨e, he, rfl⟩ := hy
  exact recsWf_find (State.part_memsWf h p) he

theorem State.recLoads_canonical {s : State} (h : s.canonical) (x : Acc) (p : Nat) (r : Nat) (y : SavedPiece) :
    (s.recLoads x p r y).1.canonical := by
  unfold State.recLoads
  grind [State.part_memsWf, State.loadRec_canonical]

theorem State.restore_canonical {s : State} (h : s.canonical) (c k : Nat) : (s.restore c k).canonical := by
  unfold State.restore
  grind [State.savedRec_wf, State.recLoads_canonical, State.restoreInto_canonical, State.holdSaved_canonical]

theorem State.reserve_canonical {s : State} (h : s.canonical) (b : Nat) (ck : Nat × Nat) : (s.reserve b ck).canonical := by
  unfold State.reserve
  grind [State.canonical_iff, State.updSlot_canonical, State.updBay_canonical]

theorem State.releaseYounger_canonical {s : State} (h : s.canonical) (b : Nat) : (s.releaseYounger b).canonical := by
  unfold State.releaseYounger
  grind [State.canonical_iff, State.foldl_canonical, State.updSlot_canonical, State.updBay_canonical]

theorem State.gangRounds_canonical {s : State} (h : s.canonical) (b n : Nat) : (State.gangRounds b n s).canonical := by
  induction n generalizing s with
  | zero => exact h
  | succ n ih => exact ih (State.releaseYounger_canonical (State.foldl_canonical (fun s a hs => State.reserve_canonical hs b a) _ h) b)

theorem State.bindMembers_canonical {s : State} (h : s.canonical) (t : Nat) (q : Piece) (slots : List (Nat × Nat)) (i : Nat)
    (ms : List (Nat × Nat)) : (s.bindMembers t q slots i ms).canonical := by
  induction ms generalizing s i with
  | nil => exact h
  | cons m ms ih => exact ih (State.bindFresh_canonical (s := { s with uid := s.uid + 1 }) h m.1 m.2 _) _

theorem State.recsRead_canonical {s : State} (h : s.canonical) (c k p : Nat) (rs : List Nat) :
    (s.recsRead c k p rs).1.canonical := by
  induction rs generalizing s with
  | nil => exact h
  | cons r rs ih =>
    change State.canonical (match s.savedRec p r with
      | none => s.recsRead c k p rs
      | some y =>
        match s.recLoads { s.slotSync c k with part := p } p r y with
        | (t, .ok) => t.recsRead c k p rs
        | x => x).1
    split
    · exact ih h
    · next y _ =>
      have hl := State.recLoads_canonical h { s.slotSync c k with part := p } p r y
      split
      · next t e => exact ih (State.fst_canonical e hl)
      · exact hl

theorem State.restoreGang_canonical {s : State} (h : s.canonical) (p : Nat) (g : Gang) : (s.restoreGang p g).canonical := by
  unfold State.restoreGang
  grind [State.canonical_iff, State.foldl_canonical, State.restoreInto_canonical]

theorem State.holdAll_canonical {s : State} (h : s.canonical) (p : Nat) (ms : List (Nat × Nat × Nat)) :
    (ms.foldl (fun (s : State) (r, ck) =>
      match s.savedRec p r with
      | some y => s.holdSaved ck.1 ck.2 p r y
      | none => s.freeSlot ck.1 ck.2) s).canonical := by
  refine State.foldl_canonical (fun s a hs => ?_) ms h
  dsimp only
  split
  · next y hy => exact State.holdSaved_canonical hs _ _ _ _ (State.savedRec_wf hs hy)
  · exact State.freeSlot_canonical hs _ _

theorem State.bindGang_canonical {s : State} (h : s.canonical) (b : Nat) (g : Gang) : (s.bindGang b g).canonical := by
  unfold State.bindGang
  extract_lets p out slots
  refine State.ite_canonical (fun _ => h) fun _ => State.ite_canonical (fun _ => ?_) fun _ => ?_
  · exact State.updBay_canonical (State.bindMembers_canonical h _ _ _ _ _) b _
  · have hl := State.recsRead_canonical h (g.slots.head?.getD (0, 0)).1 0 p g.saved
    split <;> rename_i e
    · exact State.fst_canonical e hl
    · exact State.updBay_canonical (State.restoreGang_canonical (State.fst_canonical e hl) p g) b _
    · exact State.updBay_canonical (State.holdAll_canonical (State.fst_canonical e hl) p _) b _

theorem State.bindApart_canonical {go : State × List Nat} (h : go.1.canonical) (bay : Nat) (g : Gang) :
    (State.bindApart bay go g).1.canonical := by
  unfold State.bindApart
  grind [State.bindGang_canonical]

theorem execGangBinding_canonical {s : State} (h : s.canonical) (bay : Nat) : outCanonical (execGangBinding bay s) := by
  rw [execGangBinding, outCanonical_next]
  have ht : (State.gangRounds bay 16 s).canonical := State.gangRounds_canonical h bay 16
  generalize State.gangRounds bay 16 s = t at ht
  exact List.foldlRecOn (motive := fun go : State × List Nat => go.1.canonical) _ _ ht
    (fun go hg g _ => State.bindApart_canonical hg bay g)

theorem State.bindEntry_canonical {s : State} (h : s.canonical) (c : Nat) (k : Nat) (i : Nat) (e : TaskEntry) :
    (s.bindEntry c k i e).canonical := by
  unfold State.bindEntry
  grind [State.canonical_iff, State.updSlot_canonical, State.takeEntry_canonical, State.bindFresh_canonical,
    State.restore_canonical]

theorem execTaskBinding_canonical {s : State} (h : s.canonical) (core : Nat) (slot : Nat) :
    outCanonical (execTaskBinding core slot s) := by
  unfold execTaskBinding
  grind [outCanonical_next, State.readEntry_canonical, State.restore_canonical, State.bindEntry_canonical]

theorem execRetire_canonical {s : State} (h : s.canonical) (g : Guard) : outCanonical (execRetire g s) := by
  unfold execRetire
  grind [outCanonical_next, State.advance_canonical, State.guarded_canonical, State.stopTransfers_canonical,
    State.updOwn_canonical]

theorem State.stamp_canonical {s t : State} (h : s.canonical) {c k : Nat} {q : Piece} (ht : s.stamp c k q = some t) :
    t.canonical := by
  unfold State.stamp at ht
  grind [State.writeMem_canonical, State.event_canonical]

theorem State.complete_canonical {s t : State} (h : s.canonical) {c k : Nat} {q : Piece} (ht : s.complete c k q = some t) :
    t.canonical := by
  unfold State.complete at ht
  grind [State.advanceCtr_canonical, State.updPiece_canonical, State.updSlot_canonical, State.stamp_canonical]

theorem State.countRetired_canonical {s : State} (h : s.canonical) (q : Piece) : (s.countRetired q).canonical := by
  unfold State.countRetired
  grind [State.canonical_iff, State.part_memsWf, State.updDom_canonical]

theorem execRetirementComplete_canonical {s : State} (h : s.canonical) (core : Nat) (slot : Nat) :
    outCanonical (execRetirementComplete core slot s) := by
  unfold execRetirementComplete
  grind [outCanonical_next, State.mapTiles_canonical, State.freeSlot_canonical, State.complete_canonical,
    State.countRetired_canonical]

theorem State.savePoint_canonical {s : State} (h : s.canonical) (a : Agent) (d : BitVec 6) (n : Nat) (live : Tile → Bool) :
    (s.savePoint a d n live).canonical := by
  unfold State.savePoint
  grind [State.block_canonical, State.enterSave_canonical, State.saveSlot_canonical, State.abandonedAs_canonical,
    State.result_canonical]

theorem execYield_canonical {s : State} (h : s.canonical) (g : Guard) (d : BitVec 6) : outCanonical (execYield g d s) := by
  unfold execYield
  grind [outCanonical_next, State.advance_canonical, State.guarded_canonical, State.result_canonical, State.savePoint_canonical]

theorem execGleaningPreemptTimeout_canonical {s : State} (h : s.canonical) (core : Nat) (slot : Nat) :
    outCanonical (execGleaningPreemptTimeout core slot s) := by
  unfold execGleaningPreemptTimeout
  grind [outCanonical_next, State.tryStop_canonical]

end Sys2Proof.Machine
end

section
/-! SUPPORT. What the definitions of Machine/Cold keep: the byte stores in canonical form. -/

namespace Sys2Proof.Machine

set_option Elab.async false -- side by side, the proofs wait for one another and hold too many threads

theorem Dram.eachChan_cells (x : Dram) (d : Nat) (f : Channel → Channel) : (x.eachChan d f).cells = x.cells := by
  refine List.foldlRecOn (motive := fun y : Dram => y.cells = x.cells) _ _ rfl (fun y hy e _ => ?_)
  exact List.foldlRecOn (motive := fun y : Dram => y.cells = x.cells) _ _ hy (fun y hy i _ => hy)

theorem State.cryoEvent_canonical {s : State} (h : s.canonical) (d : Nat) : (s.cryoEvent d).canonical := by
  unfold State.cryoEvent
  grind [State.event_canonical]

theorem State.eachChan_canonical {s : State} (h : s.canonical) (d : Nat) (f : Channel → Channel) :
    ({ s with dram := s.dram.eachChan d f } : State).canonical :=
  State.withDram_canonical h (by rw [Dram.eachChan_cells]; exact State.cells_wf h)

theorem State.dieChanged_canonical {s : State} (h : s.canonical) (d old : Nat) : (s.dieChanged d old).canonical := by
  unfold State.dieChanged
  extract_lets new s1 src s2 s3 s4
  have h2 : s2.canonical := State.cryoEvent_canonical h d
  have h3 : s3.canonical := State.ite_canonical (fun _ => State.eachChan_canonical h2 d _)
    fun _ => State.ite_canonical (fun _ => State.eachChan_canonical h2 d _) fun _ => h2
  have h4 : s4.canonical := by
    unfold s4
    split
    · refine State.mapCores_canonical h3 _ (fun _ => rfl) fun e he => ?_
      dsimp only
      split <;> exact he
    · exact h3
  exact State.ite_canonical (fun _ => h) fun _ => State.ite_canonical (fun _ => h4) fun _ => h4

theorem State.setDie_canonical {s : State} (h : s.canonical) (d : Nat) (st : Nat) : (s.setDie d st).canonical := by
  unfold State.setDie
  grind [State.canonical_iff, State.dieChanged_canonical]

theorem State.setModule_canonical {s : State} (h : s.canonical) (m : Nat) : (s.setModule m).canonical := by
  unfold State.setModule
  grind [State.canonical_iff, State.foldl_canonical, State.dieChanged_canonical]

theorem State.haltModule_canonical {s : State} (h : s.canonical) : s.haltModule.canonical := by
  refine State.withDram_canonical (s := { s with cryo := _ }) h ?_
  exact List.foldlRecOn (motive := fun d : Dram => memWf d.cells = true) _ _ (State.cells_wf h)
    (fun x hx d _ => by rw [Dram.eachChan_cells]; exact hx)

theorem State.rate_canonical {s : State} (h : s.canonical) (d : Nat) (t : Nat) : (s.rate d t).canonical := by
  unfold State.rate
  grind [State.canonical_iff, State.cryoEvent_canonical]

theorem State.markSettle_canonical {s : State} (h : s.canonical) (d : Nat) : (s.markSettle d).canonical := by
  unfold State.markSettle
  grind [State.canonical_iff]

theorem State.warmer_canonical {s : State} (h : s.canonical) (d : Nat) : (s.warmer d).canonical := by
  unfold State.warmer
  grind [State.setDie_canonical]

theorem State.sampleDie_canonical {s : State} (h : s.canonical) (d : Nat) (t : Nat) : (s.sampleDie d t).canonical := by
  unfold State.sampleDie
  grind [State.canonical_iff, State.rate_canonical, State.markSettle_canonical, State.warmer_canonical]

theorem execTemperatureSample_canonical {s : State} (h : s.canonical) (r : Readings) :
    outCanonical (execTemperatureSample r s) := by
  unfold execTemperatureSample
  grind [outCanonical_next, State.canonical_iff, State.foldl_canonical, State.replaceDue_canonical, State.setModule_canonical,
    State.haltModule_canonical, State.sampleDie_canonical]

theorem execCryoSettleExpiry_canonical {s : State} (h : s.canonical) (die : Nat) : outCanonical (execCryoSettleExpiry die s) := by
  unfold execCryoSettleExpiry
  grind [outCanonical_next, State.replaceDue_canonical, State.setDie_canonical, State.setModule_canonical,
    State.markSettle_canonical]

theorem Dram.window_wf {x : Dram} (h : memWf x.cells = true) (ctrl : Nat) (ch : Nat) : memWf (x.window ctrl ch).cells = true := by
  unfold Dram.window
  grind [Dram.updChan_wf, Dram.fence_wf]

theorem Dram.openOverdue_wf {x : Dram} (h : memWf x.cells = true) (now : Nat) : memWf (x.openOverdue now).cells = true := by
  refine List.foldlRecOn (motive := fun d : Dram => memWf d.cells = true) _ _ h (fun d hd e _ => ?_)
  dsimp only
  split
  · exact Dram.window_wf hd _ _
  · exact hd

theorem execTimingSetChange_canonical {s : State} (h : s.canonical) (ctrl : Nat) (channel : Nat) :
    outCanonical (execTimingSetChange ctrl channel s) := by
  unfold execTimingSetChange
  grind [outCanonical_next, State.canonical_iff, Dram.window_wf]

theorem State.cryoRequest_canonical {s : State} (h : s.canonical) (v : DWord) : (s.cryoRequest v).1.canonical := by
  unfold State.cryoRequest
  grind [State.canonical_iff, State.setDie_canonical, State.setModule_canonical, State.markSettle_canonical]

theorem State.cryoInstr_canonical {s : State} (h : s.canonical) (g : Guard) (d : BitVec 6) (a : BitVec 6) :
    outCanonical (s.cryoInstr g d a) := by
  unfold State.cryoInstr
  grind [outCanonical_next, State.firmwareOnly_canonical, State.result_canonical, State.cryoRequest_canonical]

theorem execLimiterTick_canonical {s : State} (h : s.canonical) (e : EnergyDelta) : outCanonical (execLimiterTick e s) := by
  unfold execLimiterTick
  grind [outCanonical_next, State.canonical_iff, State.advance_canonical, State.foldl_canonical, State.short_canonical]

theorem State.telSend_canonical {s : State} (h : s.canonical) (n : Nat) : (State.telSend n s).canonical := by
  induction n generalizing s with
  | zero => exact h
  | succ n ih =>
    unfold State.telSend
    split
    · exact h
    · refine State.ite_canonical (fun _ => h) (fun _ => ih (State.launchSend_canonical ?_ _ _ _ _ _ _ _))
      exact h

theorem execTelemetrySample_canonical {s : State} (h : s.canonical) : outCanonical (execTelemetrySample s) := by
  unfold execTelemetrySample
  grind [outCanonical_next, State.canonical_iff, State.advance_canonical, State.telSend_canonical]

end Sys2Proof.Machine
end

section
/-! SUPPORT. What the definitions of Machine/Resets keep: the byte stores in canonical form. -/

namespace Sys2Proof.Machine

set_option Elab.async false -- side by side, the proofs wait for one another and hold too many threads

theorem Core.ended_memsWf {x : Core} (h : x.memsWf) (c : Nat) : (x.ended c).memsWf := by
  have hd : ((List.range 4).foldl (fun (x : Core) k => x.dropUnits k) x).memsWf :=
    List.foldlRecOn (motive := Core.memsWf) _ _ h (fun x hx k _ => Core.dropUnits_memsWf hx k)
  exact hd

theorem Npd.without_handlers (n : Npd) (p : Nat) : (n.without p).handlers = n.handlers := by
  unfold Npd.without
  grind [State.part_memsWf]

theorem Part.ended_memsWf {x : Part} : x.ended.memsWf := fun _ => rfl

theorem State.beginReset_canonical {s : State} (h : s.canonical) (p : Nat) : (s.beginReset p).canonical := by
  unfold State.beginReset
  grind [State.canonical_iff, State.core_memsWf, Core.memsWf, State.part_memsWf, Part.memsWf, State.foldl_canonical,
    State.updCore_canonical, State.updPart_canonical, State.updHost_canonical, Core.ended_memsWf, Npd.without_handlers,
    Part.ended_memsWf]

theorem Npd.clearRange_handlers (n : Npd) (x : Part) : (n.clearRange x).handlers = n.handlers := by
  unfold Npd.clearRange
  grind

theorem Core.cleared_memsWf {x : Core} (h : x.memsWf) : x.cleared.memsWf := ⟨memClear_wf _ _ h.1, rfl, rfl⟩

theorem State.writeRecord_canonical {s : State} (h : s.canonical) (fn : Nat) (c : HostCmd) : (s.writeRecord fn c).canonical :=
  State.updHost_canonical (State.withHostMem_canonical h (memWrite_wf _ _ (State.hostMem_wf h))) fn _

theorem Part.cleared_memsWf {x : Part} (h : x.memsWf) : (x.cleared).memsWf := by
  unfold Part.cleared
  grind [Part.memsWf]

theorem State.endReset_canonical {s : State} (h : s.canonical) (p : Nat) : (s.endReset p).canonical := by
  unfold State.endReset
  grind [State.canonical_iff, State.core_memsWf, Core.memsWf, State.part_memsWf, Part.memsWf, State.foldl_canonical,
    State.updCore_canonical, State.updPart_canonical, State.updHost_canonical, State.raise_canonical, Npd.clearRange_handlers,
    Core.cleared_memsWf, State.writeRecord_canonical, Part.cleared_memsWf]

theorem State.endResets_canonical {s : State} (h : s.canonical) : (s.endResets).canonical := by
  unfold State.endResets
  grind [State.canonical_iff, State.foldl_canonical, State.endReset_canonical]

theorem execNmcLineUpdate_canonical {s : State} (h : s.canonical) (stack : Nat) : outCanonical (execNmcLineUpdate stack s) := by
  unfold execNmcLineUpdate
  grind [outCanonical_next, State.nmLineUpdate_canonical, State.endResets_canonical]

theorem Dram.drainKey_wf {d : Dram} (h : memWf d.cells = true) (k : Nat) : memWf (d.drainKey k).cells = true := by
  refine List.foldlRecOn (motive := fun d : Dram => memWf d.cells = true) _ _ h (fun d hd e _ => ?_)
  exact List.foldlRecOn (motive := fun d : Dram => memWf d.cells = true) _ _ hd (fun d hd w _ => Dram.perform_wf hd w)

theorem Dram.giveKey_wf {d : Dram} (h : memWf d.cells = true) (k : Nat) (p : Option Nat) :
    memWf (d.giveKey k p).cells = true := by
  unfold Dram.giveKey
  grind [Dram.drainKey_wf]

theorem State.destroy_canonical {s : State} (h : s.canonical) (p : Nat) : (s.destroy p).canonical := by
  unfold State.destroy
  extract_lets x s1 s2
  have h1 : s1.canonical := by
    unfold s1
    split
    · exact State.withDram_canonical h (Dram.giveKey_wf (State.cells_wf h) _ _)
    · exact h
  have h2 : s2.canonical := by
    rw [State.canonical_iff] at h1 ⊢
    obtain ⟨hc, hp, hn, hm⟩ := h1
    exact ⟨hc, partsWf_erase hp p, by rw [Npd.clearRange_handlers]; exact hn, hm⟩
  exact State.updHost_canonical h2 p _

theorem State.writeTable_canonical {s : State} (h : s.canonical) (version : Nat) : (s.writeTable version).canonical := by
  unfold State.writeTable
  grind [State.writePhys_canonical]

theorem State.tableVersion_canonical {s : State} (h : s.canonical) : (s.tableVersion).1.canonical := by
  unfold State.tableVersion
  grind [State.readPhys_canonical]

theorem State.runImage_canonical {s : State} (h : s.canonical) : (s.runImage).canonical := by
  unfold State.runImage
  grind [State.startThread_canonical]

theorem State.endImage_canonical {s : State} (h : s.canonical) : (s.endImage).canonical := by
  unfold State.endImage
  grind [State.canonical_iff]

theorem State.bootActive_canonical {s : State} (h : s.canonical) : (s.bootActive).canonical := by
  unfold State.bootActive
  grind [State.writeTable_canonical, State.runImage_canonical]

theorem execModuleColdReset_canonical {s : State} (h : s.canonical) : outCanonical (execModuleColdReset s) := by
  rw [execModuleColdReset, outCanonical_next]
  refine State.bootActive_canonical ?_
  rw [State.canonical_iff]
  refine ⟨fun _ => ⟨rfl, rfl, rfl⟩, fun p => ?_, rfl, rfl, h .host⟩
  exact partsWf_set (t := []) (fun _ _ => rfl) 0 (fun _ => rfl) p

end Sys2Proof.Machine
end

section
/-! SUPPORT. What the definitions of Machine/System keep: the byte stores in canonical form. -/

namespace Sys2Proof.Machine

set_option Elab.async false -- side by side, the proofs wait for one another and hold too many threads

theorem execTrap_canonical {s : State} (h : s.canonical) (g : Guard) (n : NSrc) : outCanonical (execTrap g n s) := by
  unfold execTrap
  grind [outCanonical_next, State.advance_canonical, State.guarded_canonical, State.raise_canonical]

theorem execTret_canonical {s : State} (h : s.canonical) (g : Guard) (skip : Bool) : outCanonical (execTret g skip s) := by
  unfold execTret
  grind [outCanonical_next, State.advance_canonical, State.guarded_canonical, State.raise_canonical, State.tret_canonical]

theorem execSysrd_canonical {s : State} (h : s.canonical) (g : Guard) (d : BitVec 6) (sel : BitVec 10) :
    outCanonical (execSysrd g d sel s) := by
  unfold execSysrd
  grind [outCanonical_next, State.advance_canonical, State.guarded_canonical, State.result_canonical]

theorem Part.write_memsWf {x : Part} (h : x.memsWf) (sel : Nat) (v : DWord) : (x.write sel v).memsWf := by
  unfold Part.write
  grind [Part.memsWf]

theorem Part.clearFlags_memsWf {x : Part} (h : x.memsWf) (v : DWord) : (x.clearFlags v).memsWf := by
  unfold Part.clearFlags
  grind [Part.memsWf]

theorem State.firmWrite_canonical {s : State} (h : s.canonical) (a : Agent) (sel : Nat) (v : DWord) :
    (s.firmWrite a sel v).canonical := by
  unfold State.firmWrite
  grind [State.canonical_iff, State.core_memsWf, Core.memsWf, State.part_memsWf, Part.memsWf, State.updCore_canonical,
    State.updPart_canonical, Core.write_memsWf, Part.write_memsWf]

theorem State.sysWrite_canonical {s : State} (h : s.canonical) (a : Agent) (sel : Nat) (v : DWord) :
    (s.sysWrite a sel v).canonical := by
  unfold State.sysWrite
  grind [State.part_memsWf, Part.memsWf, State.updPart_canonical, State.updOwn_canonical, State.setMon_canonical,
    Part.clearFlags_memsWf, State.firmWrite_canonical]

theorem execSyswr_canonical {s : State} (h : s.canonical) (g : Guard) (a : BitVec 6) (sel : BitVec 10) :
    outCanonical (execSyswr g a sel s) := by
  unfold execSyswr
  grind [outCanonical_next, State.advance_canonical, State.guarded_canonical, State.sysWrite_canonical]

theorem execPpoint_canonical {s : State} (h : s.canonical) (g : Guard) (d : BitVec 6) (m : PMask) :
    outCanonical (execPpoint g d m s) := by
  unfold execPpoint
  grind [outCanonical_next, State.advance_canonical, State.guarded_canonical, State.result_canonical, State.savePoint_canonical]

theorem execXinv_canonical {s : State} (h : s.canonical) (g : Guard) (d : BitVec 6) (a : BitVec 6) (b : BitVec 6) :
    outCanonical (execXinv g d a b s) := by
  unfold execXinv
  grind [outCanonical_next, State.canonical_iff, State.updStrm_canonical, State.block_canonical, State.firmwareOnly_canonical,
    State.result_canonical]

theorem State.retryRings_canonical {s : State} (h : s.canonical) (p : Nat) : (s.retryRings p).canonical := by
  unfold State.retryRings
  grind [State.canonical_iff, State.core_memsWf, Core.memsWf, State.foldl_canonical, State.updCore_canonical,
    State.refill_canonical, State.retryEngine_canonical]

theorem State.retryAllRings_canonical {s : State} (h : s.canonical) : (s.retryAllRings).canonical := by
  unfold State.retryAllRings
  grind [State.canonical_iff, State.foldl_canonical, State.retryRings_canonical]

theorem execTranslationInvalidateComplete_canonical {s : State} (h : s.canonical) (idx : Nat) :
    outCanonical (execTranslationInvalidateComplete idx s) := by
  unfold execTranslationInvalidateComplete
  grind [outCanonical_next, State.canonical_iff, State.part_memsWf, State.retryAllRings_canonical]

theorem execTranslationWalkComplete_canonical {s : State} (h : s.canonical) (u : XUnit) (part : Nat) (granule : Nat) :
    outCanonical (execTranslationWalkComplete u part granule s) := by
  unfold execTranslationWalkComplete
  grind [outCanonical_next, State.canonical_iff, State.part_memsWf, State.walkFor_canonical]

theorem State.stopFor_canonical {s : State} (h : s.canonical) (c : Nat) (k : Nat) : (s.stopFor c k).1.canonical := by
  unfold State.stopFor
  grind [State.part_memsWf, State.stopPiece_canonical]

theorem execPartStop_canonical {s : State} (h : s.canonical) (g : Guard) (d : BitVec 6) (a : BitVec 6) :
    outCanonical (execPartStop g d a s) := by
  unfold execPartStop
  grind [outCanonical_next, State.canonical_iff, State.block_canonical, State.firmwareOnly_canonical, State.result_canonical,
    State.stopFor_canonical]

theorem State.requeueGang_canonical {s : State} (h : s.canonical) (p t : Nat) (y : SavedPiece) :
    (s.requeueGang p t y).canonical := by
  unfold State.requeueGang
  extract_lets rs u
  have hu : u.canonical := by
    refine State.updPart_canonical h p (recsWf_map (State.part_memsWf h p) (fun _ => rfl) (fun e => ?_))
    dsimp only
    split <;> rfl
  grind [State.updBay_canonical]

theorem State.releaseHeld_canonical {s : State} (h : s.canonical) (p r : Nat) {y : SavedPiece} (hy : memWf y.priv = true) :
    (s.releaseHeld p r y).canonical := by
  unfold State.releaseHeld
  split
  · exact State.requeueGang_canonical h p _ y
  · have hp : (s.updPart p (fun x => { x with recs := Tbl.set x.recs r { y with held := false } })).canonical :=
      State.updPart_canonical h p (recsWf_set (State.part_memsWf h p) r hy)
    exact State.joinSaved_canonical hp _ _
  · exact h

theorem execPartRelease_canonical {s : State} (h : s.canonical) (g : Guard) (d a : BitVec 6) :
    outCanonical (execPartRelease g d a s) := by
  refine State.firmwareOnly_canonical h ?_
  extract_lets ag v p
  split
  · next y hy =>
    have hy : memWf y.priv = true := by
      split at hy
      · exact State.savedRec_wf h hy
      · cases hy
    exact State.ite_canonical (fun _ => State.result_canonical (State.releaseHeld_canonical h p _ hy) _ _ _ _)
      fun _ => State.result_canonical h _ _ _ _
  · exact State.result_canonical h _ _ _ _

theorem execPartReset_canonical {s : State} (h : s.canonical) (g : Guard) (d : BitVec 6) (a : BitVec 6) :
    outCanonical (execPartReset g d a s) := by
  unfold execPartReset
  grind [outCanonical_next, State.canonical_iff, State.part_memsWf, State.updStrm_canonical, State.firmwareOnly_canonical,
    State.result_canonical, State.beginReset_canonical, State.endReset_canonical]

theorem execPartRequest_canonical {s : State} (h : s.canonical) (g : Guard) (d : BitVec 6) (a : BitVec 6) :
    outCanonical (execPartRequest g d a s) := by
  unfold execPartRequest
  grind [outCanonical_next, State.canonical_iff, State.updSlot_canonical, State.updPiece_canonical, State.firmwareOnly_canonical,
    State.result_canonical]

end Sys2Proof.Machine
end

section
/-! SUPPORT. What the definitions of Machine/HostCmd keep: the byte stores in canonical form. -/

namespace Sys2Proof.Machine

set_option Elab.async false -- side by side, the proofs wait for one another and hold too many threads

theorem State.onFn_canonical {s : State} (h : s.canonical) (fn : Nat) (f : HostFn → HostFn) : (s.onFn fn f).canonical := by
  unfold State.onFn
  grind [State.updHost_canonical]

theorem execHringResvRead_canonical {s : State} (h : s.canonical) (fn : Nat) : outCanonical (execHringResvRead fn s) := by
  unfold execHringResvRead
  grind [outCanonical_next, State.onFn_canonical]

theorem execHringCommit_canonical {s : State} (h : s.canonical) (fn : Nat) (v : DWord) :
    outCanonical (execHringCommit fn v s) := by
  unfold execHringCommit
  grind [outCanonical_next, State.onFn_canonical]

theorem State.detach_canonical {s : State} (h : s.canonical) (fn : Nat) : (s.detach fn).canonical := by
  unfold State.detach
  grind [State.canonical_iff, State.part_memsWf, Part.memsWf, State.updPart_canonical]

theorem State.ringCfg_canonical {s : State} (h : s.canonical) (fn : Nat) (v : DWord) : (s.ringCfg fn v).canonical := by
  unfold State.ringCfg
  grind [State.onFn_canonical, State.detach_canonical]

theorem execHringEnable_canonical {s : State} (h : s.canonical) (fn : Nat) (v : DWord) :
    outCanonical (execHringEnable fn v s) := by
  unfold execHringEnable
  grind [outCanonical_next, State.ringCfg_canonical]

theorem execHrxEnable_canonical {s : State} (h : s.canonical) (fn : Nat) (v : DWord) : outCanonical (execHrxEnable fn v s) := by
  unfold execHrxEnable
  grind [outCanonical_next, State.onFn_canonical]

theorem execHringReset_canonical {s : State} (h : s.canonical) (fn : Nat) : outCanonical (execHringReset fn s) := by
  unfold execHringReset
  grind [outCanonical_next, State.onFn_canonical]

theorem execHringResume_canonical {s : State} (h : s.canonical) (fn : Nat) : outCanonical (execHringResume fn s) := by
  unfold execHringResume
  grind [outCanonical_next, State.canonical_iff, State.onFn_canonical]

theorem State.barWrite_canonical {s : State} (h : s.canonical) (fn : Nat) (off : Nat) (v : DWord) :
    (s.barWrite fn off v).canonical := by
  unfold State.barWrite
  grind [State.canonical_iff, State.onFn_canonical, State.ringCfg_canonical]

theorem execRegisterWrite_canonical {s : State} (h : s.canonical) (fn : Nat) (off : Nat) (v : DWord) :
    outCanonical (execRegisterWrite fn off v s) := by
  unfold execRegisterWrite
  grind [outCanonical_next, State.barWrite_canonical]

theorem execFunctionLevelResetVf_canonical {s : State} (h : s.canonical) (n : Nat) :
    outCanonical (execFunctionLevelResetVf n s) := by
  unfold execFunctionLevelResetVf
  grind [outCanonical_next, State.part_memsWf, State.beginReset_canonical, State.endReset_canonical]

theorem execFunctionLevelResetPf0_canonical {s : State} (h : s.canonical) : outCanonical (execFunctionLevelResetPf0 s) := by
  unfold execFunctionLevelResetPf0
  grind [outCanonical_next, State.updHost_canonical]

theorem State.partDone_canonical {s : State} (h : s.canonical) (r : CmdRef) (status : Nat) (detail : Nat) :
    (s.partDone r status detail).canonical := by
  unfold State.partDone
  grind [State.hostPart_canonical]

theorem State.hostRow_canonical {s : State} (h : s.canonical) (fn op : Nat) {run : State → CmdRef → List DWord → State}
    (hrun : ∀ t r c, t.canonical → (run t r c).canonical) : (s.hostRow fn op run).canonical := by
  have hserved := State.linkServed_canonical h fn
  unfold State.hostRow
  extract_lets x
  split
  · exact h
  · next a depth _ =>
    refine State.ite_canonical (fun _ => State.ite_canonical (fun _ => h) fun _ => ?_) fun _ => ?_
    · exact State.updHost_canonical (s := { s.linkServed fn with free := s.free + 1 }) hserved fn _
    · refine State.ite_canonical (fun _ => h) fun _ => State.updHost_canonical ?_ fn _
      have ht := State.updHost_canonical hserved fn
      exact State.ite_canonical (fun _ => State.updHost_canonical (ht _) fn _)
        fun _ => State.ite_canonical (fun _ => State.partDone_canonical (ht _) _ _ _) fun _ => hrun _ _ _ (ht _)

theorem execIndirect_canonical {s : State} (h : s.canonical) (fn : Nat) : outCanonical (execIndirect fn s) := by
  unfold execIndirect
  grind [outCanonical_next, State.canonical_iff, State.updHost_canonical, State.partDone_canonical, State.hostRow_canonical]

theorem execHostNop_canonical {s : State} (h : s.canonical) (fn : Nat) : outCanonical (execHostNop fn s) := by
  unfold execHostNop
  grind [outCanonical_next, State.partDone_canonical, State.hostRow_canonical]

theorem execCommandCompletion_canonical {s : State} (h : s.canonical) (fn : Nat) (ticket : Nat) :
    outCanonical (execCommandCompletion fn ticket s) := by
  unfold execCommandCompletion
  grind [outCanonical_next, State.canonical_iff, State.updHost_canonical, State.part_memsWf, State.linkServed_canonical,
    State.writeRecord_canonical, State.endResets_canonical]

end Sys2Proof.Machine
end

section
/-! SUPPORT. What the definitions of Machine/HostJobs keep: the byte stores in canonical form. -/

namespace Sys2Proof.Machine

set_option Elab.async false -- side by side, the proofs wait for one another and hold too many threads

/-- A step of a host command keeps the byte stores in canonical form. -/
def stepCanonical (f : JobStep) : Prop := ∀ (s : State) (j : HostJob), s.canonical → (f s j).1.canonical

theorem State.stepJob_canonical {s : State} (h : s.canonical) {f : JobStep} (hf : stepCanonical f) (j : HostJob) :
    (s.stepJob f j).canonical := by
  have hj := hf s j h
  unfold State.stepJob
  split <;> rename_i e <;> rw [e] at hj
  · exact hj
  · exact State.hostPart_canonical hj _ _ _ _ _
  · exact hj

theorem State.goOn_canonical {s : State} (h : s.canonical) (fn op : Nat) {f : JobStep} (hf : stepCanonical f) :
    (s.goOn fn op f).canonical := by
  refine State.ite_canonical (fun _ => h) fun _ => State.foldl_canonical (fun s j hs => State.stepJob_canonical hs hf j) _ ?_
  exact State.ite_canonical (fun _ => State.linkServed_canonical h fn) (fun _ => h)

theorem State.hostJobs_canonical {s : State} (h : s.canonical) (fn op : Nat) {f : JobStep} (hf : stepCanonical f) :
    (s.hostJobs fn op f).canonical :=
  State.hostRow_canonical (State.goOn_canonical h fn op hf) fn op (fun _ _ _ ht => State.stepJob_canonical ht hf _)

theorem launchStep_canonical : stepCanonical launchStep := by
  intro s j h
  unfold launchStep
  grind [State.launchAt_canonical]

theorem armStep_canonical : stepCanonical armStep := by
  intro s j h
  unfold armStep
  grind [State.readMem_canonical, State.arm_canonical]

theorem htodStep_canonical : stepCanonical htodStep := by
  intro s j h
  unfold htodStep
  grind [State.deliver_canonical, State.readyTiles_canonical]

theorem dtohStep_canonical : stepCanonical dtohStep := by
  intro s j h
  unfold dtohStep
  grind [State.readMem_canonical, State.withHostMem_canonical, State.hostMem_wf, memWrite_wf]

theorem domainStep_canonical (c : List DWord) : stepCanonical (domainStep c) := by
  intro s j h
  unfold domainStep
  grind [State.updPart_canonical, State.part_memsWf, Part.memsWf]

theorem peerStep_canonical : stepCanonical peerStep := by
  intro s j h
  unfold peerStep
  grind [State.readMem_canonical, State.updPart_canonical, State.part_memsWf, Part.memsWf]

theorem memOfFrom_wf (bs : List Byte) (lo : Nat) :
    memWfFrom lo (((List.range' lo bs.length).zip bs).filter (fun (_, b) => b != 0)) = true := by
  induction bs generalizing lo with
  | nil => rfl
  | cons b bs ih =>
    simp only [List.length_cons, List.range'_succ, List.zip_cons_cons, List.filter_cons]
    split
    · next hb => exact memWfFrom_cons.2 ⟨Nat.le_refl lo, by simpa using hb, ih (lo + 1)⟩
    · exact memWfFrom_mono (ih (lo + 1)) (Nat.le_succ lo)

theorem memOf_wf (bs : List Byte) : memWf (memOf bs) = true := by
  rw [memOf, List.range_eq_range']
  exact memOfFrom_wf bs 0

theorem planeStep_canonical : stepCanonical planeStep := by
  intro s j h
  unfold planeStep
  grind [State.readMem_canonical, State.updCore_canonical, State.core_memsWf, Core.setPlane_memsWf, memOf_wf, Core.memsWf]

theorem execLaunch_canonical {s : State} (h : s.canonical) (fn : Nat) : outCanonical (execLaunch fn s) :=
  outCanonical_next.2 (State.hostJobs_canonical h fn _ launchStep_canonical)

theorem execHostCadd_canonical {s : State} (h : s.canonical) (fn : Nat) : outCanonical (execHostCadd fn s) := by
  unfold execHostCadd
  grind [outCanonical_next, State.advanceCtr_canonical, State.partDone_canonical, State.hostRow_canonical]

theorem execHostArm_canonical {s : State} (h : s.canonical) (fn : Nat) : outCanonical (execHostArm fn s) :=
  outCanonical_next.2 (State.hostJobs_canonical h fn _ armStep_canonical)

theorem execHtod_canonical {s : State} (h : s.canonical) (fn : Nat) : outCanonical (execHtod fn s) :=
  outCanonical_next.2 (State.hostJobs_canonical h fn _ htodStep_canonical)

theorem execDtoh_canonical {s : State} (h : s.canonical) (fn : Nat) : outCanonical (execDtoh fn s) :=
  outCanonical_next.2 (State.hostJobs_canonical h fn _ dtohStep_canonical)

theorem execDomain_canonical {s : State} (h : s.canonical) (fn : Nat) : outCanonical (execDomain fn s) :=
  outCanonical_next.2 (State.hostRow_canonical h fn _ fun _ _ _ ht => State.stepJob_canonical ht (domainStep_canonical _) _)

theorem execPeer_canonical {s : State} (h : s.canonical) (fn : Nat) : outCanonical (execPeer fn s) :=
  outCanonical_next.2 (State.hostJobs_canonical h fn _ peerStep_canonical)

theorem execPlane_canonical {s : State} (h : s.canonical) (fn : Nat) : outCanonical (execPlane fn s) :=
  outCanonical_next.2 (State.hostJobs_canonical h fn _ planeStep_canonical)

theorem State.create_canonical {s : State} (h : s.canonical) (b : List DWord) (k : Nat) : (s.create b k).canonical := by
  have hcore {t : State} (ht : t.canonical) (c : Nat) (f : Core → Core) (hf : ∀ x : Core, x.memsWf → (f x).memsWf) :=
    State.updCore_canonical ht c (hf _ (State.core_memsWf ht c))
  unfold State.create
  extract_lets p x bays core t u v
  have ht : t.canonical := State.withDram_canonical (s := { s with npd := s.npd.clearRange x })
    h (Dram.giveKey_wf (State.cells_wf h) k (some p))
  have hu : u.canonical := State.setPart_canonical ht p (fun _ => rfl)
  refine State.updHost_canonical (State.foldl_canonical (fun r i hr => ?_) bays hu) p _
  refine State.foldl_canonical (fun r c hr => hcore hr c core fun y hy => ?_) _ (State.updBay_canonical hr i _)
  exact ⟨memClear_wf _ _ hy.1, hy.2⟩

theorem pcreateStep_canonical : stepCanonical pcreateStep := by
  intro s j h
  unfold pcreateStep
  grind [State.readMem_canonical, State.create_canonical]

theorem resetStep_canonical (destroy : Bool) : stepCanonical (resetStep destroy) := by
  intro s j h
  unfold resetStep
  grind [State.beginReset_canonical, State.endReset_canonical, State.destroy_canonical]

theorem execPcreate_canonical {s : State} (h : s.canonical) (fn : Nat) : outCanonical (execPcreate fn s) :=
  outCanonical_next.2 (State.hostJobs_canonical h fn _ pcreateStep_canonical)

theorem execPdestroy_canonical {s : State} (h : s.canonical) (fn : Nat) : outCanonical (execPdestroy fn s) :=
  outCanonical_next.2 (State.hostJobs_canonical h fn _ (resetStep_canonical true))

theorem execPreset_canonical {s : State} (h : s.canonical) (fn : Nat) : outCanonical (execPreset fn s) :=
  outCanonical_next.2 (State.hostJobs_canonical h fn _ (resetStep_canonical false))

theorem State.updateBegin_canonical {s : State} (h : s.canonical) (j : HostJob) (img : List Byte) :
    (s.updateBegin j img).1.canonical := by
  unfold State.updateBegin
  grind [State.canonical_iff, Core.ended_memsWf, Part.ended_memsWf, State.tableVersion_canonical]

theorem State.switchOver_canonical {s : State} (h : s.canonical) (u : Update) : (s.switchOver u).canonical := by
  unfold State.switchOver
  grind [State.canonical_iff, State.endImage_canonical, State.writeTable_canonical, State.runImage_canonical]

theorem updateStep_canonical : stepCanonical updateStep := by
  intro s j h
  unfold updateStep
  grind [State.readMem_canonical, State.updateBegin_canonical, State.switchOver_canonical]

theorem execUpdate_canonical {s : State} (h : s.canonical) (fn : Nat) : outCanonical (execUpdate fn s) :=
  outCanonical_next.2 (State.hostJobs_canonical h fn _ updateStep_canonical)

theorem State.updateFails_canonical {s : State} (h : s.canonical) (u : Update) : (s.updateFails u).canonical := by
  unfold State.updateFails
  exact State.hostPart_canonical (State.canonical_of_eq h rfl rfl rfl rfl rfl) u.fn u.ticket 0x13 u.index 0

theorem execUpdateQuiesceTimeout_canonical {s : State} (h : s.canonical) : outCanonical (execUpdateQuiesceTimeout s) := by
  rw [execUpdateQuiesceTimeout, outCanonical_next]
  split
  · exact State.ite_canonical (fun _ => State.updateFails_canonical h _) (fun _ => h)
  · exact h

theorem execFirmwareWatchdogFailover_canonical {s : State} (h : s.canonical) : outCanonical (execFirmwareWatchdogFailover s) := by
  unfold execFirmwareWatchdogFailover
  grind [outCanonical_next, State.canonical_iff, State.foldl_canonical, State.part_memsWf, State.threadFault_canonical,
    State.tableVersion_canonical, State.runImage_canonical, State.updateFails_canonical]

end Sys2Proof.Machine
end

section
/-! SUPPORT. What the definitions of Machine/Events keep: the byte stores in canonical form. -/

namespace Sys2Proof.Machine

set_option Elab.async false -- side by side, the proofs wait for one another and hold too many threads

theorem State.lineWait_canonical {s : State} (h : s.canonical) (a : Agent) : (s.lineWait a).canonical := by
  unfold State.lineWait
  grind [State.canonical_iff, State.updStrm_canonical, State.block_canonical]

theorem State.reach_canonical {s : State} (h : s.canonical) (a : Agent) : (s.reach a).canonical := by
  unfold State.reach
  grind [State.canonical_iff, State.updStrm_canonical, State.raise_canonical, State.lineWait_canonical]

theorem execLineAdvance_canonical {s : State} (h : s.canonical) (a : Agent) : outCanonical (execLineAdvance a s) := by
  unfold execLineAdvance
  grind [outCanonical_next, State.canonical_iff, State.updStrm_canonical, State.raise_canonical, State.reach_canonical]

theorem execFreezeStart_canonical {s : State} (h : s.canonical) (core : Nat) : outCanonical (execFreezeStart core s) := by
  unfold execFreezeStart
  grind [outCanonical_next, State.core_memsWf, Core.memsWf, State.updCore_canonical, Core.freeze_memsWf]

theorem State.thawed_canonical {s : State} (h : s.canonical) (c : Nat) : (s.thawed c).canonical := by
  unfold State.thawed
  grind [State.core_memsWf, Core.memsWf, State.updCore_canonical, Core.thaw_memsWf]

theorem execVectorReplyArrival_canonical {s : State} (h : s.canonical) (core : Nat) (slot : Nat) (seq : Nat) :
    outCanonical (execVectorReplyArrival core slot seq s) := by
  unfold execVectorReplyArrival
  grind [outCanonical_next, State.updSlot_canonical, State.thawed_canonical]

theorem Core.abandon_memsWf {x : Core} (h : x.memsWf) : (x.abandon).memsWf := by
  unfold Core.abandon
  grind [Core.memsWf]

theorem execFreezeWatchdogExpiry_canonical {s : State} (h : s.canonical) (core : Nat) :
    outCanonical (execFreezeWatchdogExpiry core s) := by
  unfold execFreezeWatchdogExpiry
  grind [outCanonical_next, State.core_memsWf, Core.memsWf, State.setCore_canonical, State.thawed_canonical, Core.abandon_memsWf]

theorem execUnitsPass_canonical {s : State} (h : s.canonical) (core : Nat) : outCanonical (execUnitsPass core s) := by
  unfold execUnitsPass
  grind [outCanonical_next, State.passUnits_canonical]

theorem execUnitIdleExpiry_canonical {s : State} (h : s.canonical) (core : Nat) : outCanonical (execUnitIdleExpiry core s) := by
  unfold execUnitIdleExpiry
  grind [outCanonical_next, State.passUnits_canonical]

theorem execUnitHoldExpiry_canonical {s : State} (h : s.canonical) (core : Nat) : outCanonical (execUnitHoldExpiry core s) := by
  unfold execUnitHoldExpiry
  grind [outCanonical_next, State.passUnits_canonical]

theorem execGleaningDrainTimeout_canonical {s : State} (h : s.canonical) (core : Nat) :
    outCanonical (execGleaningDrainTimeout core s) := by
  unfold execGleaningDrainTimeout
  grind [outCanonical_next, State.tryStop_canonical]

theorem execWriteQueueDrain_canonical {s : State} (h : s.canonical) (ctrl : Nat) : outCanonical (execWriteQueueDrain ctrl s) := by
  unfold execWriteQueueDrain
  grind [outCanonical_next, State.canonical_iff, Dram.drainOldest_wf]

theorem execCountPeriodClear_canonical {s : State} (h : s.canonical) (part : Nat) :
    outCanonical (execCountPeriodClear part s) := by
  unfold execCountPeriodClear
  grind [outCanonical_next, State.canonical_iff, State.part_memsWf]

theorem Dram.laneError_wf {d : Dram} (h : memWf d.cells = true) (ctrl : Nat) (ch : Nat) (lane : Nat) :
    memWf (d.laneError ctrl ch lane).cells = true := by
  unfold Dram.laneError
  grind [Dram.updChan_wf, Dram.fence_wf]

theorem execCrcReplay_canonical {s : State} (h : s.canonical) (ctrl : Nat) (channel : Nat) (lane : Nat) (again : Bool) :
    outCanonical (execCrcReplay ctrl channel lane again s) := by
  unfold execCrcReplay
  grind [outCanonical_next, State.canonical_iff, Dram.updChan_wf, Dram.fence_wf, Dram.laneError_wf]

theorem execLaneRepair_canonical {s : State} (h : s.canonical) (ctrl : Nat) (channel : Nat) (lane : Nat) :
    outCanonical (execLaneRepair ctrl channel lane s) := by
  unfold execLaneRepair
  grind [outCanonical_next, State.canonical_iff, Dram.updChan_wf, Dram.window_wf]

theorem execPatrolScrubRead_canonical {s : State} (h : s.canonical) (line : Nat) : outCanonical (execPatrolScrubRead line s) := by
  unfold execPatrolScrubRead
  grind [outCanonical_next, State.canonical_iff, Dram.resolve_wf]

theorem State.sendRecord_canonical {s : State} (h : s.canonical) : (s.sendRecord).canonical := by
  unfold State.sendRecord
  grind [State.canonical_iff, State.part_memsWf, State.event_canonical]

end Sys2Proof.Machine
end

section
/-! SUPPORT. What the definitions of Machine/Unblock keep: the byte stores in canonical form. -/

namespace Sys2Proof.Machine

set_option Elab.async false -- side by side, the proofs wait for one another and hold too many threads

theorem reissue_canonical (i : Instr) {s : State} (h : s.canonical) : outCanonical (reissue i s) := by
  cases i with
  | add g d a b => exact State.alu_canonical h g d a b _
  | addShortReg d a b => exact State.aluReg_canonical h d a b _
  | addShortImm d a i => exact State.aluImm_canonical h d a i _
  | addShortB d i => exact execAddShortB_canonical h d i
  | sub g d a b => exact State.alu_canonical h g d a b _
  | subShortReg d a b => exact State.aluReg_canonical h d a b _
  | mul g d a b => exact State.alu_canonical h g d a b _
  | mulShortReg d a b => exact State.aluReg_canonical h d a b _
  | mulh g d a b => exact State.alu_canonical h g d a b _
  | mulhu g d a b => exact State.alu_canonical h g d a b _
  | div g d a b => exact State.alu_canonical h g d a b _
  | divu g d a b => exact State.alu_canonical h g d a b _
  | rem g d a b => exact State.alu_canonical h g d a b _
  | remu g d a b => exact State.alu_canonical h g d a b _
  | and g d a b => exact State.alu_canonical h g d a b _
  | andShortReg d a b => exact State.aluReg_canonical h d a b _
  | andShortImm d a i => exact State.aluImm_canonical h d a i _
  | or g d a b => exact State.alu_canonical h g d a b _
  | orShortReg d a b => exact State.aluReg_canonical h d a b _
  | orShortImm d a i => exact State.aluImm_canonical h d a i _
  | xor g d a b => exact State.alu_canonical h g d a b _
  | xorShortReg d a b => exact State.aluReg_canonical h d a b _
  | xorShortImm d a i => exact State.aluImm_canonical h d a i _
  | andn g d a b => exact (State.alu_canonical h g d a b _ : outCanonical (execAndn g d a b s))
  | shl g d a b => exact State.alu_canonical h g d a b _
  | shlShortReg d a b => exact State.aluReg_canonical h d a b _
  | shlShortImm d a i => exact State.aluImm_canonical h d a i _
  | shr g d a b => exact State.alu_canonical h g d a b _
  | shrShortReg d a b => exact State.aluReg_canonical h d a b _
  | shrShortImm d a i => exact State.aluImm_canonical h d a i _
  | sra g d a b => exact State.alu_canonical h g d a b _
  | sraShortReg d a b => exact State.aluReg_canonical h d a b _
  | sraShortImm d a i => exact State.aluImm_canonical h d a i _
  | rotl g d a b => exact State.alu_canonical h g d a b _
  | rotr g d a b => exact State.alu_canonical h g d a b _
  | clz g d a => exact (State.unary_canonical h g d a _ : outCanonical (execClz g d a s))
  | ctz g d a => exact (State.unary_canonical h g d a _ : outCanonical (execCtz g d a s))
  | popc g d a => exact (State.unary_canonical h g d a _ : outCanonical (execPopc g d a s))
  | bfx g d a f => exact execBfx_canonical h g d a f
  | bfi g d a f => exact execBfi_canonical h g d a f
  | movi g hi zx d w => exact execMovi_canonical h g hi zx d w
  | moviShort d i => exact execMoviShort_canonical h d i
  | lea g sh d a b => exact (State.alu_canonical h g d a b _ : outCanonical (execLea g sh d a b s))
  | min g d a b => exact State.alu_canonical h g d a b _
  | minShortReg d a b => exact State.aluReg_canonical h d a b _
  | max g d a b => exact State.alu_canonical h g d a b _
  | maxShortReg d a b => exact State.aluReg_canonical h d a b _
  | minu g d a b => exact State.alu_canonical h g d a b _
  | maxu g d a b => exact State.alu_canonical h g d a b _
  | cmp g cond d a b => exact execCmp_canonical h g cond d a b
  | sel g pm d a b => exact execSel_canonical h g pm d a b
  | plog g table d a b => exact execPlog_canonical h g table d a b
  | nop => exact execNop_canonical h
  | br g off => exact execBr_canonical h g off
  | brShort i => exact execBrShort_canonical h i
  | brx g a off => exact execBrx_canonical h g a off
  | call g d off => exact execCall_canonical h g d off
  | callShort d i => exact execCallShort_canonical h d i
  | callx g d a off => exact execCallx_canonical h g d a off
  | ret g a => exact execRet_canonical h g a
  | loop g s1 n => exact execLoop_canonical h g s1 n
  | bloop g off => exact execBloop_canonical h g off
  | bloopShort i => exact execBloopShort_canonical h i
  | fwait g f lit v => exact execFwait_canonical h g f lit v
  | fwaitShort f v => exact execFwaitShort_canonical h f v
  | fsig g f lit v => exact execFsig_canonical h g f lit v
  | fsigShort f v => exact execFsigShort_canonical h f v
  | fset g f lit v => exact execFset_canonical h g f lit v
  | fread g d f => exact execFread_canonical h g d f
  | waitb g lit n => exact execWaitb_canonical h g lit n
  | shalt g f => exact execShalt_canonical h g f
  | vadd x => exact (State.velem_canonical h x _ _ _ _ _ : outCanonical (execVadd x s))
  | vaddBf16Short d a b => exact execVaddBf16Short_canonical h d a b
  | vaddFp32Short d a b => exact execVaddFp32Short_canonical h d a b
  | vsub x => exact (State.velem_canonical h x _ _ _ _ _ : outCanonical (execVsub x s))
  | vsubBf16Short d a b => exact execVsubBf16Short_canonical h d a b
  | vmul x => exact (State.velem_canonical h x _ _ _ _ _ : outCanonical (execVmul x s))
  | vmulBf16Short d a b => exact execVmulBf16Short_canonical h d a b
  | vmulFp32Short d a b => exact execVmulFp32Short_canonical h d a b
  | fma x => exact (State.velem_canonical h x _ _ _ _ _ : outCanonical (execFma x s))
  | fmaBf16Short d a b => exact execFmaBf16Short_canonical h d a b
  | fmaFp32Short d a b => exact execFmaFp32Short_canonical h d a b
  | fms x => exact (State.velem_canonical h x _ _ _ _ _ : outCanonical (execFms x s))
  | fnma x => exact (State.velem_canonical h x _ _ _ _ _ : outCanonical (execFnma x s))
  | vmin x => exact (State.velem_canonical h x _ _ _ _ _ : outCanonical (execVmin x s))
  | vminBf16Short d a b => exact execVminBf16Short_canonical h d a b
  | vmax x => exact (State.velem_canonical h x _ _ _ _ _ : outCanonical (execVmax x s))
  | vmaxBf16Short d a b => exact execVmaxBf16Short_canonical h d a b
  | vminnum x => exact (State.velem_canonical h x _ _ _ _ _ : outCanonical (execVminnum x s))
  | vmaxnum x => exact (State.velem_canonical h x _ _ _ _ _ : outCanonical (execVmaxnum x s))
  | vabs x => exact (State.velem_canonical h x _ _ _ _ _ : outCanonical (execVabs x s))
  | vneg x => exact (State.velem_canonical h x _ _ _ _ _ : outCanonical (execVneg x s))
  | vand x => exact (State.velem_canonical h x _ _ _ _ _ : outCanonical (execVand x s))
  | vor x => exact (State.velem_canonical h x _ _ _ _ _ : outCanonical (execVor x s))
  | vxor x => exact (State.velem_canonical h x _ _ _ _ _ : outCanonical (execVxor x s))
  | vshl x => exact (State.velem_canonical h x _ _ _ _ _ : outCanonical (execVshl x s))
  | vshr x => exact (State.velem_canonical h x _ _ _ _ _ : outCanonical (execVshr x s))
  | vsra x => exact (State.velem_canonical h x _ _ _ _ _ : outCanonical (execVsra x s))
  | vcmp x => exact (State.velem_canonical h x _ _ _ _ _ : outCanonical (execVcmp x s))
  | vsel x => exact (State.velem_canonical h x _ _ _ _ _ : outCanonical (execVsel x s))
  | vmov x => exact execVmov_canonical h x
  | vmovBf16Short d a => exact execVmovBf16Short_canonical h d a
  | vdiv x => exact (State.velem_canonical h x _ _ _ _ _ : outCanonical (execVdiv x s))
  | vsqrt x => exact (State.velem_canonical h x _ _ _ _ _ : outCanonical (execVsqrt x s))
  | vrotRow g ty mask d a n =>
    exact (State.vaxis_canonical h g _ mask d a _ _ _ _
      : outCanonical (execVrotRow g ty mask d a n s))
  | vrotCol g ty mask d a n =>
    exact (State.vaxis_canonical h g _ mask d a _ _ _ _
      : outCanonical (execVrotCol g ty mask d a n s))
  | vbcastRow g ty mask d a n =>
    exact (State.vaxis_canonical h g _ mask d a _ _ _ _
      : outCanonical (execVbcastRow g ty mask d a n s))
  | vbcastCol g ty mask d a n =>
    exact (State.vaxis_canonical h g _ mask d a _ _ _ _
      : outCanonical (execVbcastCol g ty mask d a n s))
  | vredRow g ty round mask d a fn =>
    exact (State.vaxis_canonical h g _ mask d a _ _ _ _
      : outCanonical (execVredRow g ty round mask d a fn s))
  | vredCol g ty round mask d a fn =>
    exact (State.vaxis_canonical h g _ mask d a _ _ _ _
      : outCanonical (execVredCol g ty round mask d a fn s))
  | vcvt g round mask d a fmts => exact execVcvt_canonical h g round mask d a fmts
  | vpack g round mask d a fmts => exact execVpack_canonical h g round mask d a fmts
  | vunpk g mask d a fmts => exact execVunpk_canonical h g mask d a fmts
  | vrgn g first count => exact execVrgn_canonical h g first count
  | vyield g => exact execVyield_canonical h g
  | kand g d a b => exact (State.kop_canonical h g d _ : outCanonical (execKand g d a b s))
  | kor g d a b => exact (State.kop_canonical h g d _ : outCanonical (execKor g d a b s))
  | kxor g d a b => exact (State.kop_canonical h g d _ : outCanonical (execKxor g d a b s))
  | kandn g d a b => exact (State.kop_canonical h g d _ : outCanonical (execKandn g d a b s))
  | kfill g d x => exact execKfill_canonical h g d x
  | mpset g sel v => exact execMpset_canonical h g sel v
  | mm g bank ovw sig => exact execMm_canonical h g bank ovw sig
  | mmg g bank ovw sig => exact execMmg_canonical h g bank ovw sig
  | acrd x int lay => exact execAcrd_canonical h x int lay
  | acclr g bank sig => exact execAcclr_canonical h g bank sig
  | accvt x round fmt => exact execAccvt_canonical h x round fmt
  | mscl g tabB q => exact execMscl_canonical h g tabB q
  | mprog g => exact execMprog_canonical h g
  | ld g size d a off => exact execLd_canonical h g size d a off
  | st g size d a off => exact execSt_canonical h g size d a off
  | vld g w mask d imm => exact execVld_canonical h g w mask d imm
  | vst g w mask d imm => exact execVst_canonical h g w mask d imm
  | vstQ g w q a fmt => exact execVstQ_canonical h g w q a fmt
  | fence g scope pred succ => exact execFence_canonical h g scope pred succ
  | amo g op acq rel scope d a b => exact execAmo_canonical h g op acq rel scope d a b
  | cas g acq rel scope d a b c => exact execCas_canonical h g acq rel scope d a b c
  | vamo g op ret mask d a b => exact execVamo_canonical h g op ret mask d a b
  | marm g d a off => exact execMarm_canonical h g d a off
  | mwait g ne d b => exact execMwait_canonical h g ne d b
  | dset g d w b => exact execDset_canonical h g d w b
  | drld g all d => exact execDrld_canonical h g all d
  | sstart g cls line => exact execSstart_canonical h g cls line
  | sstop g cls sig => exact execSstop_canonical h g cls sig
  | qput g q d n => exact execQput_canonical h g q d n
  | qget g d q n => exact execQget_canonical h g d q n
  | wadv g d b => exact execWadv_canonical h g d b
  | unfold g d b => exact execUnfold_canonical h g d b
  | pswap g => exact execPswap_canonical h g
  | talloc g win d n size key => exact execTalloc_canonical h g win d n size key
  | tfree g n => exact (State.tileOp_canonical h g n _ _ : outCanonical (execTfree g n s))
  | tsetFill g n => exact (State.tileOp_canonical h g n _ _ : outCanonical (execTsetFill g n s))
  | tsetFillfor g n b => exact (State.tileOp_canonical h g n _ _ : outCanonical (execTsetFillfor g n b s))
  | tsetDrain g n => exact (State.tileOp_canonical h g n _ _ : outCanonical (execTsetDrain g n s))
  | tsetAbort g n => exact (State.tileOp_canonical h g n _ _ : outCanonical (execTsetAbort g n s))
  | tsetAdv g n => exact (State.tileOp_canonical h g n _ _ : outCanonical (execTsetAdv g n s))
  | tsetOrg g n b => exact execTsetOrg_canonical h g n b
  | tsetWstep g n b => exact execTsetWstep_canonical h g n b
  | tsetKey g n b => exact execTsetKey_canonical h g n b
  | tqry g d n w => exact execTqry_canonical h g d n w
  | tpost g scope n => exact (State.tileOp_canonical h g n _ _ : outCanonical (execTpost g scope n s))
  | trot g dn dst src mask sig => exact execTrot_canonical h g dn dst src mask sig
  | tres g d a core => exact execTres_canonical h g d a core
  | taddr g d n b core => exact execTaddr_canonical h g d n b core
  | enq g d a => exact execEnq_canonical h g d a
  | enqnb g d a => exact execEnqnb_canonical h g d a
  | split g d a n => exact execSplit_canonical h g d a n
  | srad g b => exact execSrad_canonical h g b
  | retire g => exact execRetire_canonical h g
  | yield g d => exact execYield_canonical h g d
  | glaunch g d a => exact execGlaunch_canonical h g d a
  | dbar g nw d => exact execDbar_canonical h g nw d
  | pin g d a m => exact execPin_canonical h g d a m
  | glean g d a => exact execGlean_canonical h g d a
  | copy g d t src dst => exact execCopy_canonical h g d t src dst
  | tmplw g t w b => exact execTmplw_canonical h g t w b
  | swait g d t b => exact execSwait_canonical h g d t b
  | nmc g d a => exact execNmc_canonical h g d a
  | nmfence g d => exact execNmfence_canonical h g d
  | arm g d a b => exact execArm_canonical h g d a b
  | disarm g d a => exact execDisarm_canonical h g d a
  | crd g d a => exact execCrd_canonical h g d a
  | cadd g d a b => exact execCadd_canonical h g d a b
  | cwait g d a b => exact execCwait_canonical h g d a b
  | send g d a => exact execSend_canonical h g d a
  | hret g n => exact execHret_canonical h g n
  | rsalloc g d a => exact execRsalloc_canonical h g d a
  | rscon g d a b c => exact execRscon_canonical h g d a b c
  | rsclose g drop d a => exact execRsclose_canonical h g drop d a
  | tsrd g sel d => exact execTsrd_canonical h g sel d
  | trap g n => exact execTrap_canonical h g n
  | tret g skip => exact execTret_canonical h g skip
  | sysrd g d sel => exact execSysrd_canonical h g d sel
  | syswr g a sel => exact execSyswr_canonical h g a sel
  | ppoint g d m => exact execPpoint_canonical h g d m
  | xinv g d a b => exact execXinv_canonical h g d a b
  | partStop g d a => exact execPartStop_canonical h g d a
  | partRelease g d a => exact execPartRelease_canonical h g d a
  | partReset g d a => exact execPartReset_canonical h g d a
  | partRequest g d a => exact execPartRequest_canonical h g d a
  | cryoQuery g d a => exact State.cryoInstr_canonical h g d a
  | cryoCool g d a => exact State.cryoInstr_canonical h g d a
  | cryoWarm g d a => exact State.cryoInstr_canonical h g d a
  | cryoForceRetreat g d a => exact State.cryoInstr_canonical h g d a
  | cryoReleaseRetreat g d a => exact State.cryoInstr_canonical h g d a
  | cryoClearRatev g d a => exact State.cryoInstr_canonical h g d a
  | _ => exact outCanonical_next.2 h

theorem outState_canonical {s : State} (h : s.canonical) {o : Out} (ho : outCanonical o) : (outState s o).canonical := by
  cases o with
  | next t => exact ho t rfl
  | fault f => exact h
  | refused r => exact h

theorem State.illegal_canonical {s : State} (h : s.canonical) (a : Agent) (n : Nat) : (s.illegal a n).canonical := by
  unfold State.illegal
  grind [State.advance_canonical, State.raise_canonical]

theorem State.retry_canonical {s : State} (h : s.canonical) (a : Agent) : (s.retry a).canonical := by
  unfold State.retry
  grind [outState_canonical, execTransferRowset_canonical, execLineAdvance_canonical, reissue_canonical, State.illegal_canonical]

theorem execStreamUnblock_canonical {s : State} (h : s.canonical) (a : Agent) : outCanonical (execStreamUnblock a s) := by
  unfold execStreamUnblock
  grind [outCanonical_next, State.canonical_iff, State.updStrm_canonical, State.updOwn_canonical, State.retry_canonical]

theorem State.syncFirst_canonical {s t : State} (h : s.canonical) {c k r : Nat} (ht : s.syncFirst c k r = some t) :
    t.canonical := by
  obtain ⟨cls, _, hc⟩ := List.exists_of_findSome?_eq_some ht
  have hr := State.retry_canonical (s := { s with agent := .strm c k cls }) h (.strm c k cls)
  grind

theorem execAsyncTrapDelivery_canonical {s : State} (h : s.canonical) (core : Nat) (slot : Nat) :
    outCanonical (execAsyncTrapDelivery core slot s) := by
  unfold execAsyncTrapDelivery
  grind [outCanonical_next, State.tryStop_canonical, State.asyncTrap_canonical, State.syncFirst_canonical]

end Sys2Proof.Machine
end

section
/-! SUPPORT. What the definitions of Machine/Turn keep: the byte stores in canonical form. -/

namespace Sys2Proof.Machine

set_option Elab.async false -- side by side, the proofs wait for one another and hold too many threads

theorem State.coreTime_memsWf (s : State) (n c : Nat) {x : Core} (h : x.memsWf) : (s.coreTime n c x).memsWf := by
  unfold State.coreTime
  have hy := Core.markAsked_memsWf h s.cycle
  grind [Core.skipCycles_memsWf, Core.memsWf]

theorem State.endCycle_canonical {s : State} (h : s.canonical) : s.endCycle.canonical := by
  refine State.noteStalls_canonical ?_
  rw [State.canonical_iff] at h ⊢
  exact ⟨coresWf_map h.1 (fun _ => rfl) (fun _ hx => Core.newCycle_memsWf hx),
    partsWf_map h.2.1 (fun _ => rfl) (fun _ hx => Part.newCycle_memsWf hx), h.2.2⟩

theorem State.pass_canonical {s : State} (h : s.canonical) (n : Nat) : (s.pass n).canonical := by
  refine State.ite_canonical (fun _ => h) (fun _ => State.endCycle_canonical ?_)
  exact State.mapCores_canonical h _ (fun _ => rfl) (fun e hx => State.coreTime_memsWf s n e.1 hx)

theorem State.crossed_canonical {s : State} (h : s.canonical) (lo : Nat) (hi : Nat) : (s.crossed lo hi).canonical := by
  unfold State.crossed
  grind [State.canonical_iff, State.startRots_canonical, State.joinWaits_canonical, State.replaceDue_canonical,
    State.closeAllDue_canonical]

theorem State.lapse_canonical {s : State} (h : s.canonical) (n : Nat) : (s.lapse n).canonical := by
  unfold State.lapse
  grind [State.startRots_canonical, State.replaceDue_canonical, State.pass_canonical, State.crossed_canonical]

theorem State.nextAt_canonical {s : State} (h : s.canonical) (r : Nat) : (s.nextAt r).canonical :=
  State.crossed_canonical (State.lapse_canonical h 1) 0 r

theorem Dram.upset_cells (d : Dram) (o : Option (Nat × Bool)) : (d.upset o).cells = d.cells := by
  cases o <;> rfl

theorem State.tock_canonical {s : State} (h : s.canonical) (stepNo : Nat) : (s.tock stepNo).canonical := by
  refine State.lapse_canonical ?_ _
  have hs := State.sendRecord_canonical h
  refine State.ite_canonical (fun _ => h) fun _ => ?_
  have hd (o : Option (Nat × Bool)) : memWf (s.sendRecord.dram.upset o).cells = true := by
    rw [Dram.upset_cells]
    exact State.cells_wf hs
  exact State.withDram_canonical (s := { s.sendRecord with fw := _ }) hs (Dram.openOverdue_wf (hd _) _)

theorem State.enter_canonical {s : State} (h : s.canonical) (t : Turn) : (s.enter t).canonical := by
  unfold State.enter
  split
  · exact h
  · exact State.ite_canonical (fun _ => State.crossed_canonical h _ _) (fun _ => State.nextAt_canonical h _)

theorem State.tick_canonical {s : State} (h : s.canonical) : (s.tick).1.canonical := by
  unfold State.tick
  grind [State.canonical_iff, State.enter_canonical]

theorem State.bring_canonical {s : State} (h : s.canonical) (i : Instr) : (s.bring i).1.canonical := by
  unfold State.bring
  grind [State.event_canonical, State.enter_canonical]

theorem State.begins_canonical {s : State} (h : s.canonical) (a : Agent) : (s.begins a).canonical := by
  unfold State.begins
  grind [State.canonical_iff, State.spent_canonical, State.nextAt_canonical]

theorem State.prepare_canonical {s : State} (h : s.canonical) (t : Turn) : (s.prepare t).1.canonical := by
  cases t with
  | agent a => grind [State.prepare, State.begins_canonical, State.bring_canonical, State.illegal_canonical]
  | event i => grind [State.prepare]

theorem exec_canonical (i : Instr) {s : State} (h : s.canonical) : outCanonical (exec i s) := by
  have hr := reissue_canonical i h
  cases i with
  | lineAdvance a => exact execLineAdvance_canonical h a
  | streamUnblock a => exact execStreamUnblock_canonical h a
  | asyncTrapDelivery core slot => exact execAsyncTrapDelivery_canonical h core slot
  | freezeStart core => exact execFreezeStart_canonical h core
  | vectorReplyArrival core slot seq => exact execVectorReplyArrival_canonical h core slot seq
  | freezeWatchdogExpiry core => exact execFreezeWatchdogExpiry_canonical h core
  | taskBinding core slot => exact execTaskBinding_canonical h core slot
  | retirementComplete core slot => exact execRetirementComplete_canonical h core slot
  | launchWaitJoin part => exact execLaunchWaitJoin_canonical h part
  | stealRequest core => exact execStealRequest_canonical h core
  | stealAnswer thief => exact execStealAnswer_canonical h thief
  | gangBinding bay => exact execGangBinding_canonical h bay
  | gleaningPreemptTimeout core slot => exact execGleaningPreemptTimeout_canonical h core slot
  | domainStallTimeout part level domain => exact execDomainStallTimeout_canonical h part level domain
  | barrierCompletion part level domain => exact execBarrierCompletion_canonical h part level domain
  | unitsPass core => exact execUnitsPass_canonical h core
  | unitIdleExpiry core => exact execUnitIdleExpiry_canonical h core
  | unitHoldExpiry core => exact execUnitHoldExpiry_canonical h core
  | gleaningDrainTimeout core => exact execGleaningDrainTimeout_canonical h core
  | transferRowset a => exact execTransferRowset_canonical h a
  | planeSwap core => exact execPlaneSwap_canonical h core
  | matrixStep core slot => exact execMatrixStep_canonical h core slot
  | readoutRowset core slot => exact execReadoutRowset_canonical h core slot
  | rotationStart bay core => exact execRotationStart_canonical h bay core
  | rotationEnd bay core => exact execRotationEnd_canonical h bay core
  | residencyViewUpdate die core => exact execResidencyViewUpdate_canonical h die core
  | copyAdmission bay => exact execCopyAdmission_canonical h bay
  | copyExecution bay eng => exact execCopyExecution_canonical h bay eng
  | copyCompletion bay eng => exact execCopyCompletion_canonical h bay eng
  | nmcLineUpdate stack => exact execNmcLineUpdate_canonical h stack
  | translationWalkComplete u part granule => exact execTranslationWalkComplete_canonical h u part granule
  | writeQueueDrain ctrl => exact execWriteQueueDrain_canonical h ctrl
  | countPeriodClear part => exact execCountPeriodClear_canonical h part
  | crcReplay ctrl channel lane again => exact execCrcReplay_canonical h ctrl channel lane again
  | laneRepair ctrl channel lane => exact execLaneRepair_canonical h ctrl channel lane
  | patrolScrubRead line => exact execPatrolScrubRead_canonical h line
  | packetReceive p => exact execPacketReceive_canonical h p
  | barrierArrivalMessage p => exact execBarrierArrivalMessage_canonical h p
  | handlerStart part => exact execHandlerStart_canonical h part
  | eventHandlerStart part => exact execEventHandlerStart_canonical h part
  | handlerWatchdog t => exact execHandlerWatchdog_canonical h t
  | counterAdvance msg => exact execCounterAdvance_canonical h msg
  | sendAcknowledged part idx => exact execSendAcknowledged_canonical h part idx
  | sendTimeout part idx => exact execSendTimeout_canonical h part idx
  | reductionSlotTimeout slot => exact execReductionSlotTimeout_canonical h slot
  | hringResvRead fn => exact execHringResvRead_canonical h fn
  | hringCommit fn v => exact execHringCommit_canonical h fn v
  | hringEnable fn v => exact execHringEnable_canonical h fn v
  | hrxEnable fn v => exact execHrxEnable_canonical h fn v
  | hringReset fn => exact execHringReset_canonical h fn
  | hringResume fn => exact execHringResume_canonical h fn
  | registerWrite fn off v => exact execRegisterWrite_canonical h fn off v
  | functionLevelResetVf n => exact execFunctionLevelResetVf_canonical h n
  | functionLevelResetPf0 => exact execFunctionLevelResetPf0_canonical h
  | hostNop fn => exact execHostNop_canonical h fn
  | launch fn => exact execLaunch_canonical h fn
  | htod fn => exact execHtod_canonical h fn
  | dtoh fn => exact execDtoh_canonical h fn
  | hostCadd fn => exact execHostCadd_canonical h fn
  | hostArm fn => exact execHostArm_canonical h fn
  | indirect fn => exact execIndirect_canonical h fn
  | domain fn => exact execDomain_canonical h fn
  | peer fn => exact execPeer_canonical h fn
  | plane fn => exact execPlane_canonical h fn
  | pcreate fn => exact execPcreate_canonical h fn
  | pdestroy fn => exact execPdestroy_canonical h fn
  | preset fn => exact execPreset_canonical h fn
  | update fn => exact execUpdate_canonical h fn
  | commandCompletion fn ticket => exact execCommandCompletion_canonical h fn ticket
  | updateQuiesceTimeout => exact execUpdateQuiesceTimeout_canonical h
  | firmwareWatchdogFailover => exact execFirmwareWatchdogFailover_canonical h
  | moduleColdReset => exact execModuleColdReset_canonical h
  | temperatureSample r => exact execTemperatureSample_canonical h r
  | cryoSettleExpiry die => exact execCryoSettleExpiry_canonical h die
  | timingSetChange ctrl channel => exact execTimingSetChange_canonical h ctrl channel
  | limiterTick e => exact execLimiterTick_canonical h e
  | telemetrySample => exact execTelemetrySample_canonical h
  | translationInvalidateComplete idx => exact execTranslationInvalidateComplete_canonical h idx
  | sendRetransmit part idx => exact execSendRetransmit_canonical h part idx
  | ptpMessageReceive time locked master => exact execPtpMessageReceive_canonical h time locked master
  | _ => exact hr

theorem after_canonical {o : Out} (ho : outCanonical o) (stepNo : Nat) : outCanonical (after stepNo o) := by
  cases o with
  | next t => exact outCanonical_next.2 (State.tock_canonical (ho t rfl) stepNo)
  | fault f => exact fun t ht => nomatch ht
  | refused r => exact fun t ht => nomatch ht

theorem step_canonical {s : State} (h : s.canonical) : outCanonical (step s) := by
  have hp := State.prepare_canonical (State.tick_canonical h) s.tick.2
  unfold step
  split
  · next t e =>
    rw [e] at hp
    exact after_canonical (outCanonical_next.2 hp) s.stepNo
  · next t i e =>
    rw [e] at hp
    exact after_canonical (exec_canonical i hp) s.stepNo

/-- Settles O60: the invariant is read off the part's byte stores, and every operation of the model keeps it. -/
theorem memoriesStayCanonical : Obligations.MemoriesStayCanonical := by
  intro s t h ht
  exact step_canonical h t ht

end Sys2Proof.Machine
end

section
/-! SUPPORT. The state of the module and of its dies (R427, R430): what memory accesses and placement leave of it, and what one
sample of every die makes of it. -/

namespace Sys2Proof.Machine

set_option Elab.async false

/-! ## Memory accesses and placement leave the cryogenic state -/

theorem State.foldl_cryo {α : Type} {f : State → α → State} (hf : ∀ s a, (f s a).cryo = s.cryo) (l : List α) (s : State) :
    (l.foldl f s).cryo = s.cryo :=
  List.foldlRecOn (motive := fun t : State => t.cryo = s.cryo) l f rfl (fun t ht a _ => (hf t a).trans ht)

theorem State.count_cryo (s : State) (pa key : Nat) (cnt : Bool) : (s.count pa key cnt).cryo = s.cryo := by
  obtain ⟨d, _, h⟩ := State.count_dram s pa key cnt
  rw [h]

theorem State.readPhys_cryo (s : State) (pa n key : Nat) (cnt : Bool) : (s.readPhys pa n key cnt).1.cryo = s.cryo := by
  unfold State.readPhys
  grind [State.count_cryo]

theorem State.writePhys_cryo (s : State) (pa key : Nat) (cnt : Bool) (bs : List Byte) : (s.writePhys pa key cnt bs).cryo = s.cryo :=
  State.count_cryo _ pa key cnt

theorem State.readForWrite_cryo (s : State) (pa n key : Nat) : (s.readForWrite pa n key).1.cryo = s.cryo := by
  unfold State.readForWrite
  split <;> rfl

theorem State.readTable_cryo (s : State) (pa : Nat) : (s.readTable pa).1.cryo = s.cryo := by
  unfold State.readTable
  grind [State.readPhys_cryo]

theorem State.walk_cryo (s : State) (va level table : Nat) : (s.walk va level table).1.cryo = s.cryo := by
  induction level generalizing s table with
  | zero => grind [State.walk, State.readTable_cryo]
  | succ l ih => grind [State.walk, State.readTable_cryo]

theorem State.walkFor_cryo (s : State) (p va : Nat) : (s.walkFor p va).1.cryo = s.cryo := by
  unfold State.walkFor
  grind [State.walk_cryo]

theorem State.translate_cryo (s : State) (x : Acc) (va : Nat) (kind : AKind) : (s.translate x va kind).1.cryo = s.cryo := by
  unfold State.translate
  grind [State.walkFor_cryo]

theorem State.decideAt_cryo (s : State) (x : Acc) (a : Nat) (kind : AKind) : (s.decideAt x a kind).1.cryo = s.cryo := by
  unfold State.decideAt
  grind [State.translate_cryo]

theorem State.decideAll_cryo (s : State) (x : Acc) (kind : AKind) (ps : List (Nat × Nat)) :
    (s.decideAll x kind ps).1.cryo = s.cryo := by
  induction ps generalizing s with
  | nil => rfl
  | cons p ps ih => exact (ih _).trans (State.decideAt_cryo s x p.1 kind)

theorem State.check_cryo (s : State) (x : Acc) (a n : Nat) (kind : AKind) : (s.check x a n kind).1.cryo = s.cryo := by
  unfold State.check State.checkParts State.spent
  grind [State.decideAll_cryo]

theorem State.readPart_cryo (s : State) (p : Part1) : (s.readPart p).1.cryo = s.cryo := by
  unfold State.readPart
  grind [State.readPhys_cryo]

theorem State.readParts_cryo (s : State) (ps : List Part1) : (s.readParts ps).1.cryo = s.cryo := by
  induction ps generalizing s with
  | nil => rfl
  | cons p ps ih => grind [State.readParts, State.readPart_cryo]

theorem State.readMem_cryo (s : State) (x : Acc) (a n : Nat) : (s.readMem x a n).1.cryo = s.cryo := by
  unfold State.readMem
  grind [State.check_cryo, State.readParts_cryo]

theorem State.primePart_cryo (s : State) (p : Part1) : (s.primePart p).1.cryo = s.cryo := by
  unfold State.primePart
  grind [State.readForWrite_cryo]

theorem State.primeParts_cryo (s : State) (ps : List Part1) : (s.primeParts ps).1.cryo = s.cryo := by
  induction ps generalizing s with
  | nil => rfl
  | cons p ps ih => grind [State.primeParts, State.primePart_cryo]

theorem State.claim_cryo (s : State) (x : Acc) (cs : List (Nat × Nat)) : (s.claim x cs).cryo = s.cryo := by
  refine State.foldl_cryo (fun s e => ?_) cs s
  rfl

theorem State.writeAll_cryo (s : State) (ps : List Part1) (bs : List Byte) : (s.writeAll ps bs).cryo = s.cryo := by
  have hw (s : State) (p : Part1) (bs : List Byte) : (s.writePart p bs).cryo = s.cryo := by
    unfold State.writePart
    grind [State.writePhys_cryo, State.updCore_cryo]
  induction ps generalizing s bs with
  | nil => rfl
  | cons p ps ih => exact (ih _ _).trans (hw s p _)

theorem State.writeMem_cryo (s : State) (x : Acc) (a : Nat) (bs : List Byte) : (s.writeMem x a bs).1.cryo = s.cryo := by
  unfold State.writeMem
  grind [State.check_cryo, State.primeParts_cryo, State.claim_cryo, State.writeAll_cryo]

theorem State.spill_cryo (s : State) (c i : Nat) (e : TaskEntry) : (s.spill c i e).1.cryo = s.cryo := by
  unfold State.spill
  grind [State.writeMem_cryo]

theorem State.joinSaved_cryo (s : State) (c : Nat) (e : TaskEntry) : (s.joinSaved c e).cryo = s.cryo := by
  unfold State.joinSaved State.ringFaultEvent State.event State.pushEntry
  grind [State.spill_cryo, State.updCore_cryo, State.updPart_cryo]

theorem State.readEntry_cryo (s : State) (c : Nat) (e : TaskEntry) : (s.readEntry c e).1.cryo = s.cryo := by
  unfold State.readEntry State.ringFaultEvent State.event
  grind [State.readMem_cryo, State.updCore_cryo, State.updPart_cryo]

theorem State.refill_cryo (s : State) (c n : Nat) : (s.refill c n).cryo = s.cryo := by
  induction n generalizing s with
  | zero => rfl
  | succ n ih => grind [State.refill, State.readEntry_cryo, State.updCore_cryo]

theorem State.takeEntry_cryo (s : State) (c i : Nat) : (s.takeEntry c i).cryo = s.cryo := State.refill_cryo _ c 32

theorem State.placeTask_cryo (s : State) (die p : Nat) (h : List DWord) : (s.placeTask die p h).1.cryo = s.cryo := by
  have hf : (s.freshViews die p).cryo = s.cryo := State.foldl_cryo (fun s c => by split <;> rfl) _ s
  unfold State.placeTask
  extract_lets t
  split <;> exact hf

theorem State.retreatDie_cryo (s : State) (d : Nat) : (s.retreatDie d).cryo = s.cryo := by
  refine State.foldl_cryo (fun s e => ?_) _ s
  unfold State.rePlace
  grind [State.placeTask_cryo, State.takeEntry_cryo, State.joinSaved_cryo]

theorem State.replaceDue_cryo (s : State) : s.replaceDue.cryo = { s.cryo with replace := [] } :=
  State.foldl_cryo State.retreatDie_cryo s.cryo.replace _

/-! ## What changes of state leave of the cryogenic registers -/

/-- Thresholds, readings, states, bands, forced bits and the halt signal are the same. -/
structure Cryo.sameStates (x y : Cryo) : Prop where
  tband : y.tband = x.tband
  temp : y.temp = x.temp
  mstate : y.mstate = x.mstate
  dstate : y.dstate = x.dstate
  band : y.band = x.band
  forced : y.forced = x.forced
  halted : y.halted = x.halted

theorem Cryo.sameStates_trans {x y z : Cryo} (h : x.sameStates y) (g : y.sameStates z) : x.sameStates z :=
  ⟨g.tband.trans h.tband, g.temp.trans h.temp, g.mstate.trans h.mstate, g.dstate.trans h.dstate, g.band.trans h.band,
    g.forced.trans h.forced, g.halted.trans h.halted⟩

theorem State.dieChanged_sameStates (s : State) (d old : Nat) : s.cryo.sameStates (s.dieChanged d old).cryo := by
  unfold State.dieChanged
  extract_lets new s1 src s2 s3 s4
  have h2 : s.cryo.sameStates s2.cryo := ⟨rfl, rfl, rfl, rfl, rfl, rfl, rfl⟩
  have h3 : s3.cryo = s2.cryo := by
    unfold s3
    split_ifs <;> rfl
  have h4 : s4.cryo = s3.cryo := by
    unfold s4
    split <;> rfl
  rw [← h3, ← h4] at h2
  split_ifs
  · exact ⟨rfl, rfl, rfl, rfl, rfl, rfl, rfl⟩
  · exact ⟨h2.tband, h2.temp, h2.mstate, h2.dstate, h2.band, h2.forced, h2.halted⟩
  · exact h2

theorem State.rate_sameStates (s : State) (d t : Nat) : s.cryo.sameStates (s.rate d t).cryo := by
  unfold State.rate
  dsimp only
  split_ifs <;> exact ⟨rfl, rfl, rfl, rfl, rfl, rfl, rfl⟩

theorem State.markSettle_sameStates (s : State) (d : Nat) : s.cryo.sameStates (s.markSettle d).cryo := ⟨rfl, rfl, rfl, rfl, rfl, rfl, rfl⟩

theorem State.replaceDue_sameStates (s : State) : s.cryo.sameStates s.replaceDue.cryo := by
  rw [State.replaceDue_cryo]
  exact ⟨rfl, rfl, rfl, rfl, rfl, rfl, rfl⟩

/-! ## A sample of every die (R427, R430) -/

/-- The state of a die in band `b` after a sample: only in cold running does a sample move it (R430). -/
def Cryo.warmed (x : Cryo) (b old : Nat) : Nat :=
  if x.mstate = 2 then (if 3 ≤ b ∧ (old = 2 ∨ old = 3) then 4 else if b = 2 ∧ old = 2 then 3 else old) else old

/-- From `s` to `t` the module stands as it was, and the dies come to bands `b` and states `st`. -/
def State.sampled (s t : State) (b st : Nat → Nat) : Prop :=
  (t.cryo.tband = s.cryo.tband ∧ t.cryo.temp = s.cryo.temp ∧ t.cryo.mstate = s.cryo.mstate ∧ t.cryo.halted = s.cryo.halted) ∧
    (∀ e, t.band e = b e) ∧ ∀ e, t.dstate e = st e

theorem Cryo.sameStates_dstate {s t : State} (h : s.cryo.sameStates t.cryo) (d : Nat) : t.dstate d = s.dstate d := by
  rw [State.dstate, State.dstate, h.mstate, h.dstate]

theorem Cryo.sameStates_band {s t : State} (h : s.cryo.sameStates t.cryo) (d : Nat) : t.band d = s.band d := by
  rw [State.band, State.band, h.band]

theorem State.sampled_of_sameStates {s t u : State} {b st : Nat → Nat} (h : s.sampled t b st) (g : t.cryo.sameStates u.cryo) :
    s.sampled u b st := by
  obtain ⟨⟨h1, h2, h3, h4⟩, hb, hd⟩ := h
  refine ⟨?_, fun e => (Cryo.sameStates_band g e).trans (hb e), fun e => (Cryo.sameStates_dstate g e).trans (hd e)⟩
  exact ⟨g.tband.trans h1, g.temp.trans h2, g.mstate.trans h3, g.halted.trans h4⟩

theorem State.setDie_sampled (s : State) (d st : Nat) : s.sampled (s.setDie d st) s.band (fun e => if e = d then st else s.dstate e) := by
  have h := State.dieChanged_sameStates { s with cryo := { s.cryo with dstate := Tbl.set s.cryo.dstate d st } } d (s.dstate d)
  refine State.sampled_of_sameStates ?_ h
  exact ⟨⟨rfl, rfl, rfl, rfl⟩, fun _ => rfl, fun e => Tbl.get_set s.cryo.mstate s.cryo.dstate e d st⟩

theorem State.warmer_sampled (s : State) (d : Nat) :
    s.sampled (s.warmer d) s.band (fun e => if e = d then s.cryo.warmed (s.band d) (s.dstate d) else s.dstate e) := by
  have hself : s.sampled s s.band (fun e => if e = d then s.dstate d else s.dstate e) :=
    ⟨⟨rfl, rfl, rfl, rfl⟩, fun _ => rfl, fun e => by dsimp only; split <;> simp [*]⟩
  unfold State.warmer Cryo.warmed
  by_cases hm : s.cryo.mstate = 2
  · simp only [hm, ne_eq, not_true_eq_false, if_false, if_true]
    split
    · exact State.setDie_sampled s d 4
    · split
      · exact State.setDie_sampled s d 3
      · exact hself
  · simp only [hm, ne_eq, not_false_eq_true, if_false, if_true]
    exact hself

theorem State.sampleDie_sampled (s : State) (d t : Nat) :
    s.sampled (s.sampleDie d t) (fun e => if e = d then s.cryo.bandFor (s.band d) t else s.band e)
      (fun e => if e = d then s.cryo.warmed (s.cryo.bandFor (s.band d) t) (s.dstate d) else s.dstate e) := by
  generalize hu : ({ s with cryo := { s.cryo with band := Tbl.set s.cryo.band d (s.cryo.bandFor (s.band d) t) } } : State) = u
  have hb (e : Nat) : u.band e = if e = d then s.cryo.bandFor (s.band d) t else s.band e := by
    subst hu
    exact Tbl.get_set 0 _ e d _
  have hd (e : Nat) : u.dstate e = s.dstate e := by subst hu; rfl
  have hr := State.rate_sameStates u d t
  have hx : ((u.rate d t).cryo.mstate = s.cryo.mstate) := by rw [hr.mstate, ← hu]
  obtain ⟨⟨h1, h2, h3, h4⟩, hwb, hwd⟩ := State.warmer_sampled (u.rate d t) d
  have hs : s.sampled ((u.rate d t).warmer d) (fun e => if e = d then s.cryo.bandFor (s.band d) t else s.band e)
      (fun e => if e = d then s.cryo.warmed (s.cryo.bandFor (s.band d) t) (s.dstate d) else s.dstate e) := by
    refine ⟨⟨?_, ?_, ?_, ?_⟩, fun e => ?_, fun e => ?_⟩
    · rw [h1, hr.tband, ← hu]
    · rw [h2, hr.temp, ← hu]
    · rw [h3, hx]
    · rw [h4, hr.halted, ← hu]
    · rw [hwb, Cryo.sameStates_band hr, hb]
    · dsimp only at hwd ⊢
      rw [hwd, Cryo.sameStates_band hr, Cryo.sameStates_dstate hr, Cryo.sameStates_dstate hr, hb, hd, hd, if_pos rfl]
      simp only [Cryo.warmed, hx]
  subst hu
  exact State.sampled_of_sameStates hs (State.markSettle_sameStates _ d)

theorem State.sampleDies_sampled (rd : Nat → Nat) (ds : List Nat) (hds : ds.Nodup) (s : State) :
    s.sampled (ds.foldl (fun s d => s.sampleDie d (rd d)) s)
      (fun e => if e ∈ ds then s.cryo.bandFor (s.band e) (rd e) else s.band e)
      (fun e => if e ∈ ds then s.cryo.warmed (s.cryo.bandFor (s.band e) (rd e)) (s.dstate e) else s.dstate e) := by
  induction ds generalizing s with
  | nil => exact ⟨⟨rfl, rfl, rfl, rfl⟩, fun e => by simp, fun e => by simp⟩
  | cons d ds ih =>
    obtain ⟨hd, hn⟩ := List.nodup_cons.1 hds
    obtain ⟨⟨h1, h2, h3, h4⟩, hb, hst⟩ := State.sampleDie_sampled s d (rd d)
    obtain ⟨⟨g1, g2, g3, g4⟩, gb, gst⟩ := ih hn (s.sampleDie d (rd d))
    have hband (old t : Nat) : (s.sampleDie d (rd d)).cryo.bandFor old t = s.cryo.bandFor old t := by
      unfold Cryo.bandFor Cryo.th Cryo.hyst
      rw [h1]
    have hwarm (b old : Nat) : (s.sampleDie d (rd d)).cryo.warmed b old = s.cryo.warmed b old := by
      simp only [Cryo.warmed, h3]
    refine ⟨⟨g1.trans h1, g2.trans h2, g3.trans h3, g4.trans h4⟩, fun e => ?_, fun e => ?_⟩
    · dsimp only at gb hb ⊢
      rw [List.foldl_cons, gb, hb, hband]
      by_cases he : e = d
      · subst he; simp [hd]
      · simp [he]
    · dsimp only at gst hst hb ⊢
      rw [List.foldl_cons, gst, hst, hb, hband, hwarm]
      by_cases he : e = d
      · subst he; simp [hd]
      · simp [he]

end Sys2Proof.Machine
end

section
/-! SUPPORT. Which module events leave every byte, and what TEMPERATURE_SAMPLE, CRYO_SETTLE_EXPIRY and TIMING_SET_CHANGE do
(R427, R430, R431, R433). -/

namespace Sys2Proof.Machine

/-! ## Samples, settled dies and windows leave every byte -/

theorem State.sameBytes_refl (s : State) : s.sameBytes s := fun _ _ => rfl

theorem State.sameBytes_trans {s t u : State} (h : s.sameBytes t) (g : t.sameBytes u) : s.sameBytes u :=
  fun m a => (g m a).trans (h m a)

/-- States whose stores are the same data. -/
theorem State.sameBytes_of_stores {s t : State} (hc : ∀ c, (t.core c).scratch = (s.core c).scratch ∧
      (t.core c).plane0 = (s.core c).plane0 ∧ (t.core c).plane1 = (s.core c).plane1)
    (hp : ∀ p, (t.part p).recs = (s.part p).recs) (hn : t.npd.handlers = s.npd.handlers) (hd : t.dram.cells = s.dram.cells)
    (hh : t.hostMem = s.hostMem) : s.sameBytes t := by
  intro m a
  have hst : t.store m = s.store m := by
    cases m with
    | scratch c => exact (hc c).1
    | plane c n => simp only [State.store, Core.plane, (hc c).2.1, (hc c).2.2]
    | handlers => exact hn
    | tiers => exact hd
    | host => exact hh
    | crib p r => rw [State.store_crib, State.store_crib, hp]
  rw [State.byteAt, State.byteAt, hst]

theorem State.sameBytes_withDram (s : State) {d : Dram} (h : d.cells = s.dram.cells) : s.sameBytes { s with dram := d } :=
  State.sameBytes_of_stores (fun _ => ⟨rfl, rfl, rfl⟩) (fun _ => rfl) rfl h rfl

/-- A change of every core that keeps its stores. -/
theorem State.sameBytes_mapCores (s : State) (g : Nat × Core → Nat × Core) (hg : ∀ e, (g e).1 = e.1)
    (h : ∀ e, (g e).2.scratch = e.2.scratch ∧ (g e).2.plane0 = e.2.plane0 ∧ (g e).2.plane1 = e.2.plane1) :
    s.sameBytes { s with cores := s.cores.map g } := by
  have hm : s.cores.map g = s.cores.map (fun e => (e.1, (g (e.1, e.2)).2)) :=
    List.map_congr_left (fun e _ => Prod.ext (hg e) rfl)
  refine State.sameBytes_of_stores (fun c => ?_) (fun _ => rfl) rfl rfl rfl
  have hv := Tbl.get_map_view (fun x : Core => (x.scratch, x.plane0, x.plane1)) (fun c x => (g (c, x)).2)
    (fun c x => by rw [(h (c, x)).1, (h (c, x)).2.1, (h (c, x)).2.2]) (Core.reset c) s.cores c
  simp only [State.core, hm]
  simpa using hv

theorem State.updPart_sameBytes (s : State) (p : Nat) {f : Part → Part} (hf : ∀ x, (f x).recs = x.recs) :
    s.sameBytes (s.updPart p f) := by
  refine State.sameBytes_of_stores (fun _ => ⟨rfl, rfl, rfl⟩) (fun q => ?_) rfl rfl rfl
  by_cases hq : q = p
  · subst hq
    rw [State.part_updPart, hf]
  · rw [State.updPart, State.part_setPart_other _ _ hq]

theorem State.event_sameBytes (s : State) (p kind sub index : Nat) (i1 i2 : DWord) : s.sameBytes (s.event p kind sub index i1 i2) := by
  refine State.updPart_sameBytes s p (fun x => ?_)
  split <;> rfl

theorem State.dieChanged_sameBytes (s : State) (d old : Nat) : s.sameBytes (s.dieChanged d old) := by
  unfold State.dieChanged
  extract_lets new s1 src s2 s3 s4
  have h2 : s.sameBytes s2 := State.event_sameBytes s 0 19 0 0 _ _
  have h3 : s2.sameBytes s3 := by
    unfold s3
    split_ifs
    · exact State.sameBytes_withDram _ (Dram.eachChan_cells _ _ _)
    · exact State.sameBytes_withDram _ (Dram.eachChan_cells _ _ _)
    · exact State.sameBytes_refl _
  have h4 : s3.sameBytes s4 := by
    unfold s4
    split
    · refine State.sameBytes_mapCores s3 _ (fun _ => rfl) fun e => ?_
      dsimp only
      split <;> exact ⟨rfl, rfl, rfl⟩
    · exact State.sameBytes_refl _
  have h := State.sameBytes_trans (State.sameBytes_trans h2 h3) h4
  split_ifs
  · exact State.sameBytes_refl _
  · exact h
  · exact h

theorem State.setDie_sameBytes (s : State) (d st : Nat) : s.sameBytes (s.setDie d st) :=
  State.dieChanged_sameBytes { s with cryo := { s.cryo with dstate := Tbl.set s.cryo.dstate d st } } d (s.dstate d)

theorem State.setModule_sameBytes (s : State) (m : Nat) : s.sameBytes (s.setModule m) :=
  List.foldlRecOn (motive := fun t : State => s.sameBytes t) _ _ (State.sameBytes_refl _)
    (fun _ ht e _ => State.sameBytes_trans ht (State.dieChanged_sameBytes _ e.1 e.2))

/-- A change of the module's state gives every die that state, and leaves readings and bands. -/
theorem State.setModule_sameStates (s : State) (m : Nat) :
    ({ s.cryo with mstate := m, dstate := [] } : Cryo).sameStates (s.setModule m).cryo :=
  List.foldlRecOn (motive := fun t : State => ({ s.cryo with mstate := m, dstate := [] } : Cryo).sameStates t.cryo) _ _
    ⟨rfl, rfl, rfl, rfl, rfl, rfl, rfl⟩ (fun _ ht e _ => Cryo.sameStates_trans ht (State.dieChanged_sameStates _ e.1 e.2))

theorem State.setModule_dstate (s : State) (m d : Nat) : (s.setModule m).dstate d = m := by
  have h := State.setModule_sameStates s m
  rw [State.dstate, h.mstate, h.dstate]
  rfl

/-- No die waits for a re-placement after a change to a state other than retreat. -/
theorem State.dieChanged_replace {s : State} {d : Nat} (old : Nat) (h : s.dstate d ≠ 4) :
    (s.dieChanged d old).cryo.replace = s.cryo.replace := by
  unfold State.dieChanged
  extract_lets new s1 src s2 s3 s4
  have h3 : s3.cryo = s2.cryo := by
    unfold s3
    split_ifs <;> rfl
  have h4 : s4.cryo = s3.cryo := by
    unfold s4
    split <;> rfl
  rw [if_neg (c := new = 4) h]
  split
  · rfl
  · rw [h4, h3]
    rfl

theorem State.setModule_replace (s : State) {m : Nat} (hm : m ≠ 4) : (s.setModule m).cryo.replace = s.cryo.replace := by
  unfold State.setModule
  extract_lets olds src u
  refine (List.foldlRecOn (motive := fun t : State => u.cryo.sameStates t.cryo ∧ t.cryo.replace = u.cryo.replace) olds _
    ⟨⟨rfl, rfl, rfl, rfl, rfl, rfl, rfl⟩, rfl⟩ (fun t ht e _ => ?_)).2
  have hd : t.dstate e.1 = m := by rw [State.dstate, ht.1.mstate, ht.1.dstate]; rfl
  exact ⟨Cryo.sameStates_trans ht.1 (State.dieChanged_sameStates _ e.1 e.2),
    (State.dieChanged_replace e.2 (by rw [hd]; exact hm)).trans ht.2⟩

theorem State.setDie_replace (s : State) (d : Nat) {st : Nat} (h : st ≠ 4) : (s.setDie d st).cryo.replace = s.cryo.replace := by
  refine State.dieChanged_replace (s := { s with cryo := { s.cryo with dstate := Tbl.set s.cryo.dstate d st } }) (s.dstate d) ?_
  simp [State.dstate, h]

/-! ## TEMPERATURE_SAMPLE (R427, R430, R433) -/

/-- A die's reading as SYS.TEMP shows it. -/
def dieReading (r : Readings) (d : Nat) : Nat := clampT (r.dies.getD d 0)

theorem fieldNat_ofNat (n : Nat) {lo k : Nat} (h : lo + k ≤ 64) : fieldNat (BitVec.ofNat 64 n) lo k = n / 2 ^ lo % 2 ^ k := by
  rw [fieldNat, BitVec.extractLsb'_toNat, BitVec.toNat_ofNat, Nat.shiftRight_eq_div_pow]
  apply Nat.eq_of_testBit_eq
  intro i
  simp only [Nat.testBit_mod_two_pow, Nat.testBit_div_two_pow]
  by_cases hi : i < k
  · have hl : i + lo < 64 := by omega
    simp [hi, hl]
  · simp [hi]

theorem foldl_range_four {α : Type} (f : α → Nat → α) (a : α) : (List.range 4).foldl f a = f (f (f (f a 0) 1) 2) 3 := rfl

theorem tempReg_eq (r : Readings) : tempReg r = BitVec.ofNat 64 (clampT (hbmMax r) * 2 ^ 50 + clampT r.npd * 2 ^ 40 +
    (0 + dieReading r 0 * 2 ^ (10 * 0) + dieReading r 1 * 2 ^ (10 * 1) + dieReading r 2 * 2 ^ (10 * 2) +
      dieReading r 3 * 2 ^ (10 * 3))) := by
  rw [tempReg, foldl_range_four]
  rfl

theorem clampT_lt (t : Nat) : clampT t < 1024 := by
  unfold clampT
  omega

theorem tempReg_die (r : Readings) {d : Nat} (hd : d < 4) : fieldNat (tempReg r) (10 * d) 10 = dieReading r d := by
  have h0 : dieReading r 0 < 1024 := clampT_lt _
  have h1 : dieReading r 1 < 1024 := clampT_lt _
  have h2 : dieReading r 2 < 1024 := clampT_lt _
  have h3 : dieReading r 3 < 1024 := clampT_lt _
  rw [tempReg_eq, fieldNat_ofNat _ (by omega)]
  interval_cases d <;> omega

theorem tempReg_npd (r : Readings) : fieldNat (tempReg r) 40 10 = clampT r.npd := by
  have h0 : dieReading r 0 < 1024 := clampT_lt _
  have h1 : dieReading r 1 < 1024 := clampT_lt _
  have h2 : dieReading r 2 < 1024 := clampT_lt _
  have h3 : dieReading r 3 < 1024 := clampT_lt _
  have h4 := clampT_lt r.npd
  rw [tempReg_eq, fieldNat_ofNat _ (by omega)]
  omega

theorem tempReg_hbm (r : Readings) : fieldNat (tempReg r) 50 10 = clampT (hbmMax r) := by
  have h0 : dieReading r 0 < 1024 := clampT_lt _
  have h1 : dieReading r 1 < 1024 := clampT_lt _
  have h2 : dieReading r 2 < 1024 := clampT_lt _
  have h3 : dieReading r 3 < 1024 := clampT_lt _
  have h4 := clampT_lt r.npd
  have h5 := clampT_lt (hbmMax r)
  rw [tempReg_eq, fieldNat_ofNat _ (by omega)]
  omega

/-- A value of SYS.TEMP. The lemmas about it hold of any value, so that none computes with the readings. -/
def State.withTemp (s : State) (v : DWord) : State := { s with cryo := { s.cryo with temp := v } }

theorem State.withTemp_power (s : State) (v : DWord) : (s.withTemp v).power = s.power := rfl
theorem State.withTemp_sameBytes (s : State) (v : DWord) : s.sameBytes (s.withTemp v) := fun _ _ => rfl

/-- Every die sampled in turn. -/
def State.sampleDies (s : State) (r : Readings) : State :=
  ((List.range 4).zip ((List.range 4).map (dieReading r))).foldl (fun (s : State) (d, t) => s.sampleDie d t) s

theorem State.sampleDies_eq (s : State) (r : Readings) :
    s.sampleDies r = (List.range 4).foldl (fun s d => s.sampleDie d (dieReading r d)) s := by
  have hz : (List.range 4).zip ((List.range 4).map (dieReading r)) = (List.range 4).map (fun d => (d, dieReading r d)) := rfl
  rw [State.sampleDies, hz, List.foldl_map]

/-- A sample of every die over some value of SYS.TEMP. -/
theorem State.sampleDies_withTemp (s : State) (v : DWord) (r : Readings) :
    ((s.withTemp v).sampleDies r).cryo.temp = v ∧ ((s.withTemp v).sampleDies r).cryo.mstate = s.cryo.mstate ∧
      ((s.withTemp v).sampleDies r).cryo.halted = s.cryo.halted ∧
      ∀ d, d < 4 → ((s.withTemp v).sampleDies r).band d = s.cryo.bandFor (s.band d) (dieReading r d) ∧
        ((s.withTemp v).sampleDies r).dstate d = s.cryo.warmed (s.cryo.bandFor (s.band d) (dieReading r d)) (s.dstate d) := by
  obtain ⟨⟨_, ht, hm, hh⟩, hb, hd⟩ := State.sampleDies_sampled (dieReading r) (List.range 4) List.nodup_range (s.withTemp v)
  rw [State.sampleDies_eq]
  exact ⟨ht, hm, hh, fun d hlt => ⟨(hb d).trans (if_pos (List.mem_range.2 hlt)), (hd d).trans (if_pos (List.mem_range.2 hlt))⟩⟩

/-- Some reading is above HALTK. -/
def State.tooHot (s : State) (r : Readings) : Prop := (∃ d, d < 4 ∧ s.power.halt < dieReading r d) ∨ s.power.halt < clampT r.npd

/-- Every reading is above 250 K (R430). -/
def allWarm (r : Readings) : Prop := (∀ u ∈ r.hbms, 1000 < u) ∧ ∀ d, d < 4 → 1000 < dieReading r d

theorem execTemperatureSample_eq (s : State) (r : Readings) : execTemperatureSample r s = .next (
    if (((List.range 4).map (dieReading r)).any (fun t => decide ((s.withTemp (tempReg r)).power.halt < t)) ||
        decide ((s.withTemp (tempReg r)).power.halt < clampT r.npd)) = true
    then (s.withTemp (tempReg r)).haltModule
    else (if ((s.withTemp (tempReg r)).sampleDies r).cryo.mstate = 5 ∧
          (r.hbms ++ (List.range 4).map (dieReading r)).all (fun t => decide (1000 < t)) = true
        then ((s.withTemp (tempReg r)).sampleDies r).setModule 0 else (s.withTemp (tempReg r)).sampleDies r).replaceDue) := by
  unfold execTemperatureSample
  extract_lets src t v u w
  have hw : w = if u.cryo.mstate = 5 ∧ (r.hbms ++ v).all (fun t => decide (1000 < t)) = true then u.setModule 0 else u := rfl
  have hu : u = (s.withTemp (tempReg r)).sampleDies r := rfl
  have hv : v = (List.range 4).map (dieReading r) := rfl
  have ht : t = s.withTemp (tempReg r) := rfl
  rw [← hu, ← hv, ← ht, ← hw]

theorem anyAbove_iff (r : Readings) (k : Nat) :
    (((List.range 4).map (dieReading r)).any (fun t => decide (k < t)) || decide (k < clampT r.npd)) = true ↔
      (∃ d, d < 4 ∧ k < dieReading r d) ∨ k < clampT r.npd := by
  simp

theorem allWarm_iff (r : Readings) :
    (r.hbms ++ (List.range 4).map (dieReading r)).all (fun t => decide (1000 < t)) = true ↔ allWarm r := by
  simp [allWarm]

theorem exec_sample_hot {s : State} {r : Readings} (h : s.tooHot r) :
    exec (.temperatureSample r) s = .next (s.withTemp (tempReg r)).haltModule := by
  refine (execTemperatureSample_eq s r).trans ?_
  rw [State.withTemp_power]
  rw [if_pos ((anyAbove_iff r s.power.halt).2 h)]

theorem exec_sample_warm {s : State} {r : Readings} (h : ¬ s.tooHot r) (hm : ((s.withTemp (tempReg r)).sampleDies r).cryo.mstate = 5)
    (hw : allWarm r) : exec (.temperatureSample r) s = .next (((s.withTemp (tempReg r)).sampleDies r).setModule 0).replaceDue := by
  refine (execTemperatureSample_eq s r).trans ?_
  rw [State.withTemp_power]
  rw [if_neg (mt (anyAbove_iff r s.power.halt).1 h), if_pos ⟨hm, (allWarm_iff r).2 hw⟩]

theorem exec_sample_cool {s : State} {r : Readings} (h : ¬ s.tooHot r)
    (hc : ¬ (((s.withTemp (tempReg r)).sampleDies r).cryo.mstate = 5 ∧ allWarm r)) :
    exec (.temperatureSample r) s = .next ((s.withTemp (tempReg r)).sampleDies r).replaceDue := by
  refine (execTemperatureSample_eq s r).trans ?_
  rw [State.withTemp_power]
  rw [if_neg (mt (anyAbove_iff r s.power.halt).1 h), if_neg (fun hh => hc ⟨hh.1, (allWarm_iff r).1 hh.2⟩)]

/-! ## HALT (R433) -/

theorem Dram.chan_updChan (x : Dram) (n m : Nat) (f : Channel → Channel) :
    (x.updChan n f).chan m = if m = n then f (x.chan n) else x.chan m := by
  simp only [Dram.chan, Dram.updChan, Tbl.get_set]

/-- A fold whose steps keep `P`, and one of whose steps gives it. -/
theorem foldl_reaches {σ α : Type} {P : σ → Prop} {g : σ → α → σ} {l : List α} {a : α} (ha : a ∈ l)
    (hkeep : ∀ x b, P x → P (g x b)) (hat : ∀ x, P (g x a)) (x : σ) : P (l.foldl g x) := by
  induction l generalizing x with
  | nil => simp at ha
  | cons b l ih =>
    obtain rfl | ha := List.mem_cons.1 ha
    · exact List.foldlRecOn l g (hat x) (fun x hx b _ => hkeep x b hx)
    · exact ih ha _

/-- A change of every channel of a die that leaves each with `Q` keeps `Q` where it stands. -/
theorem Dram.eachChan_keeps {Q : Channel → Prop} {f : Channel → Channel} (hf : ∀ y, Q (f y)) {x : Dram} {m : Nat}
    (h : Q (x.chan m)) (d : Nat) : Q ((x.eachChan d f).chan m) := by
  refine List.foldlRecOn (motive := fun x : Dram => Q (x.chan m)) _ _ h (fun x hx e _ => ?_)
  refine List.foldlRecOn (motive := fun x : Dram => Q (x.chan m)) _ _ hx (fun x hx i _ => ?_)
  rw [Dram.chan_updChan]
  split
  · exact hf _
  · exact hx

/-- And gives it to every channel of the die. -/
theorem Dram.eachChan_reaches {Q : Channel → Prop} {f : Channel → Channel} (hf : ∀ y, Q (f y)) (x : Dram) {d c n i : Nat}
    (hc : (c, n) ∈ dieCtrls d) (hi : i < n) : Q ((x.eachChan d f).chan (chanNo c i)) := by
  have hkeep (x : Dram) (k : Nat) (h : Q (x.chan (chanNo c i))) : Q ((x.updChan k f).chan (chanNo c i)) := by
    rw [Dram.chan_updChan]
    split
    · exact hf _
    · exact h
  refine foldl_reaches (P := fun x : Dram => Q (x.chan (chanNo c i))) hc (fun x e hx => ?_) (fun x => ?_) x
  · exact List.foldlRecOn (motive := fun x : Dram => Q (x.chan (chanNo c i))) _ _ hx (fun x hx k _ => hkeep x _ hx)
  · refine foldl_reaches (P := fun x : Dram => Q (x.chan (chanNo c i))) (List.mem_range.2 hi) (fun x k hx => hkeep x _ hx) (fun x => ?_) x
    rw [Dram.chan_updChan, if_pos rfl]
    exact hf _

/-- Both tiers refresh themselves. -/
def Dram.selfRefresh (x : Dram) : Dram :=
  (List.range 4).foldl (fun x d => x.eachChan d (fun y => { y with refresh := .self, want := none })) x

theorem mem_dieCtrls {n : Nat} (hn : n < 16) : (n, if n < 8 then 32 else 16) ∈ dieCtrls (n % 8 / 2) := by
  interval_cases n <;> simp [dieCtrls]

/-- A halted module's memories refresh themselves. -/
theorem Dram.selfRefresh_refresh (x : Dram) {n ch : Nat} (hn : n < 16) (hch : ch < if n < 8 then 32 else 16) :
    (x.selfRefresh.chan (chanNo n ch)).refresh = .self := by
  have hd : n % 8 / 2 ∈ List.range 4 := List.mem_range.2 (by omega)
  unfold Dram.selfRefresh
  refine foldl_reaches (P := fun x : Dram => (x.chan (chanNo n ch)).refresh = .self) hd (fun x d hx => ?_) (fun x => ?_) x
  · exact Dram.eachChan_keeps (Q := fun y => y.refresh = .self) (fun _ => rfl) hx d
  · exact Dram.eachChan_reaches (Q := fun y => y.refresh = .self) (fun _ => rfl) x (mem_dieCtrls hn) hch

theorem Dram.selfRefresh_cells (x : Dram) : x.selfRefresh.cells = x.cells :=
  List.foldlRecOn (motive := fun y : Dram => y.cells = x.cells) _ _ rfl (fun y hy d _ => (Dram.eachChan_cells y d _).trans hy)

theorem State.sameBytes_of_fields {s t : State} (hc : t.cores = s.cores) (hp : t.parts = s.parts) (hn : t.npd = s.npd)
    (hd : t.dram.cells = s.dram.cells) (hh : t.hostMem = s.hostMem) : s.sameBytes t :=
  State.sameBytes_of_stores (fun c => by simp only [State.core, hc, and_self]) (fun p => by simp only [State.part, hp])
    (by rw [hn]) hd hh

/-- A state with other cryogenic registers and other memories. The lemmas about it hold of any, so that none computes with them. -/
def State.withCold (s : State) (x : Cryo) (d : Dram) : State := { s with cryo := x, dram := d }

theorem State.haltModule_eq (s : State) : s.haltModule =
    s.withCold { s.cryo with mstate := 6, dstate := [], halted := true } s.dram.selfRefresh := rfl

theorem State.withCold_fields (s : State) (x : Cryo) (d : Dram) :
    (s.withCold x d).cryo = x ∧ (s.withCold x d).dram = d ∧ (s.withCold x d).cores = s.cores ∧ (s.withCold x d).parts = s.parts :=
  ⟨rfl, rfl, rfl, rfl⟩

theorem State.withCold_sameBytes (s : State) (x : Cryo) {d : Dram} (h : d.cells = s.dram.cells) : s.sameBytes (s.withCold x d) :=
  State.sameBytes_of_fields rfl rfl rfl h rfl

/-! ## Bands (R427) -/

/-- The highest band whose threshold a reading has reached. -/
def Cryo.upBand (x : Cryo) (t : Nat) : Nat := ([5, 4, 3, 2, 1].find? (fun b => decide (x.th b ≤ t))).getD 0

theorem Cryo.bandFor_eq (x : Cryo) (old t : Nat) : x.bandFor old t =
    if old ≤ x.upBand t then x.upBand t else if t + x.hyst < x.th old then old - 1 else old := rfl

theorem Cryo.upBand_reached (x : Cryo) (t : Nat) : x.upBand t = 0 ∨ 1 ≤ x.upBand t ∧ x.upBand t ≤ 5 ∧ x.th (x.upBand t) ≤ t := by
  unfold Cryo.upBand
  cases h : [5, 4, 3, 2, 1].find? (fun b => decide (x.th b ≤ t)) with
  | none => exact .inl rfl
  | some b =>
    have hb := List.mem_of_find?_eq_some h
    have ht := List.find?_some h
    refine .inr ⟨?_, ?_, by simpa using ht⟩ <;> (simp at hb; simp; omega)

theorem Cryo.le_upBand (x : Cryo) {t n : Nat} (h1 : 1 ≤ n) (h5 : n ≤ 5) (hn : x.th n ≤ t) : n ≤ x.upBand t := by
  simp only [Cryo.upBand, List.find?_cons, List.find?_nil]
  interval_cases n <;> simp only [hn, decide_true] <;> (repeat' split) <;> simp

theorem Cryo.bandFor_spec (x : Cryo) (old t : Nat) :
    (∀ n, 1 ≤ n → n ≤ 5 → x.th n ≤ t → n ≤ x.bandFor old t) ∧
      (x.bandFor old t ≤ old ∨ 1 ≤ x.bandFor old t ∧ x.bandFor old t ≤ 5 ∧ x.th (x.bandFor old t) ≤ t) ∧
      old ≤ x.bandFor old t + 1 ∧ (x.bandFor old t < old → t + x.hyst < x.th old) := by
  have hup := x.upBand_reached t
  have hle (n : Nat) (h1 : 1 ≤ n) (h5 : n ≤ 5) (hn : x.th n ≤ t) := x.le_upBand h1 h5 hn
  rw [Cryo.bandFor_eq]
  by_cases h : old ≤ x.upBand t
  · rw [if_pos h]
    exact ⟨hle, hup.elim (fun e => .inl (by omega)) .inr, by omega, fun hlt => absurd hlt (by omega)⟩
  · rw [if_neg h]
    split
    · next hlow =>
      exact ⟨fun n h1 h5 hn => by have := hle n h1 h5 hn; omega, .inl (by omega), by omega, fun _ => hlow⟩
    · exact ⟨fun n h1 h5 hn => by have := hle n h1 h5 hn; omega, .inl (Nat.le_refl _), by omega, fun hlt => absurd hlt (by omega)⟩

/-! ## What a sample leaves -/

/-- A sample above HALTK halts the part. -/
theorem sample_hot {s : State} {r : Readings} (h : s.tooHot r) : ∃ t, exec (.temperatureSample r) s = .next t ∧
    t.cryo.temp = tempReg r ∧ t.cryo.halted = true ∧ t.cryo.mstate = 6 ∧ (∀ d, t.dstate d = 6) ∧ t.cores = s.cores ∧
      t.parts = s.parts ∧ s.sameBytes t ∧
      ∀ n ch, n < 16 → ch < (if n < 8 then 32 else 16) → (t.dram.chan (chanNo n ch)).refresh = .self := by
  have hmain (v : DWord) : let t := (s.withTemp v).haltModule
      t.cryo.temp = v ∧ t.cryo.halted = true ∧ t.cryo.mstate = 6 ∧ (∀ d, t.dstate d = 6) ∧ t.cores = s.cores ∧
        t.parts = s.parts ∧ s.sameBytes t ∧
        ∀ n ch, n < 16 → ch < (if n < 8 then 32 else 16) → (t.dram.chan (chanNo n ch)).refresh = .self := by
    intro t
    have ht : t = (s.withTemp v).withCold _ _ := State.haltModule_eq _
    obtain ⟨hc, hd, hcores, hparts⟩ := State.withCold_fields (s.withTemp v)
      { (s.withTemp v).cryo with mstate := 6, dstate := [], halted := true } (s.withTemp v).dram.selfRefresh
    rw [ht]
    refine ⟨by rw [hc]; rfl, by rw [hc], by rw [hc], fun d => by rw [State.dstate, hc]; rfl, hcores, hparts,
      State.sameBytes_trans (State.withTemp_sameBytes s v)
        (State.withCold_sameBytes _ _ (Dram.selfRefresh_cells _)), fun n ch hn hch => ?_⟩
    rw [hd]
    exact Dram.selfRefresh_refresh _ hn hch
  exact ⟨_, exec_sample_hot h, hmain (tempReg r)⟩

/-- One below it gives every die its band, and moves dies in cold running, or the module from warming up to warm storage. -/
theorem sample_cool {s : State} {r : Readings} (h : ¬ s.tooHot r) : ∃ t, exec (.temperatureSample r) s = .next t ∧
    t.cryo.temp = tempReg r ∧ t.cryo.halted = s.cryo.halted ∧
      (∀ d, d < 4 → t.band d = s.cryo.bandFor (s.band d) (dieReading r d)) ∧
      (s.cryo.mstate = 5 ∧ allWarm r → t.cryo.mstate = 0 ∧ ∀ d, t.dstate d = 0) ∧
      (¬ (s.cryo.mstate = 5 ∧ allWarm r) → t.cryo.mstate = s.cryo.mstate ∧
        ∀ d, d < 4 → t.dstate d = s.cryo.warmed (s.cryo.bandFor (s.band d) (dieReading r d)) (s.dstate d)) := by
  obtain ⟨ht, hm, hh, hd⟩ := State.sampleDies_withTemp s (tempReg r) r
  by_cases hc : s.cryo.mstate = 5 ∧ allWarm r
  · have hr := State.replaceDue_sameStates (((s.withTemp (tempReg r)).sampleDies r).setModule 0)
    have hs := State.setModule_sameStates ((s.withTemp (tempReg r)).sampleDies r) 0
    refine ⟨_, exec_sample_warm h (hm.trans hc.1) hc.2, ?_, ?_, fun d hlt => ?_, fun _ => ⟨?_, fun d => ?_⟩, fun hn => absurd hc hn⟩
    · rw [hr.temp, hs.temp, ht]
    · rw [hr.halted, hs.halted, hh]
    · rw [Cryo.sameStates_band hr, ← (hd d hlt).1, State.band, State.band, hs.band]
    · rw [hr.mstate, hs.mstate]
    · rw [Cryo.sameStates_dstate hr, State.setModule_dstate]
  · have hr := State.replaceDue_sameStates ((s.withTemp (tempReg r)).sampleDies r)
    refine ⟨_, exec_sample_cool h (by rw [hm]; exact hc), ?_, ?_, fun d hlt => ?_, fun hy => absurd hy hc, fun _ => ⟨?_, fun d hlt => ?_⟩⟩
    · rw [hr.temp, ht]
    · rw [hr.halted, hh]
    · rw [Cryo.sameStates_band hr, (hd d hlt).1]
    · rw [hr.mstate, hm]
    · rw [Cryo.sameStates_dstate hr, (hd d hlt).2]

/-! ## CRYO_SETTLE_EXPIRY (R430) -/

/-- The die has held its lower band for SETTLE ms. -/
theorem State.settled_iff (s : State) (d : Nat) : s.settled d = true ↔
    ∃ c, Tbl.get none s.cryo.since d = some c ∧ c + s.cryo.settle * 1700000 ≤ s.cycle := by
  unfold State.settled
  cases Tbl.get none s.cryo.since d <;> simp

theorem settle_module {s : State} (hr : s.cryo.replace = []) (hm : s.cryo.mstate = 1) (d : Nat)
    (hs : ∀ e, e < 4 → s.settled e = true) : exec (.cryoSettleExpiry d) s = .next (s.setModule 2) := by
  have hall : (List.range 4).all s.settled = true := List.all_eq_true.2 (fun e he => hs e (List.mem_range.1 he))
  have hrep : (s.setModule 2).cryo.replace = [] := (State.setModule_replace s (by omega)).trans hr
  change execCryoSettleExpiry d s = _
  rw [execCryoSettleExpiry, if_pos hm, if_pos hall, State.replaceDue_none _ hrep]

theorem settle_module_waits {s : State} (hr : s.cryo.replace = []) (hm : s.cryo.mstate = 1) (d : Nat)
    (hs : ∃ e, e < 4 ∧ ¬ s.settled e = true) : exec (.cryoSettleExpiry d) s = .next s := by
  obtain ⟨e, he, hns⟩ := hs
  have hall : ¬ (List.range 4).all s.settled = true := fun h => hns (List.all_eq_true.1 h e (List.mem_range.2 he))
  change execCryoSettleExpiry d s = _
  rw [execCryoSettleExpiry, if_pos hm, if_neg hall, State.replaceDue_none _ hr]

theorem settle_die_waits {s : State} (hr : s.cryo.replace = []) (hm : s.cryo.mstate = 2) {d : Nat} (hs : ¬ s.settled d = true) :
    exec (.cryoSettleExpiry d) s = .next s := by
  change execCryoSettleExpiry d s = _
  rw [execCryoSettleExpiry, if_neg (by omega), if_pos (.inr (.inr (by simpa using hs))), State.replaceDue_none _ hr]

/-- A settled die falls back: from retreat, unless it is forced, to excursion, and from there to cold running. -/
theorem settle_die {s : State} (hr : s.cryo.replace = []) (hm : s.cryo.mstate = 2) {d : Nat} (hd : d < 4) (hs : s.settled d = true) :
    ∃ t, exec (.cryoSettleExpiry d) s = .next t ∧ s.sameBytes t ∧ s.sampled t s.band (fun e => if e = d then
      (if s.dstate d = 4 ∧ s.cryo.forced.getLsbD d = false then 3 else if s.dstate d = 3 then 2 else s.dstate d) else s.dstate e) := by
  have hgo : ¬ (4 ≤ d ∨ s.cryo.mstate ≠ 2 ∨ (!s.settled d) = true) := by simp [hm, hs, hd]
  have he (u : State) (hu : (if s.dstate d = 4 ∧ (!s.cryo.forced.getLsbD d) = true then (s.setDie d 3).markSettle d
      else if s.dstate d = 3 then s.setDie d 2 else s) = u) (hrep : u.cryo.replace = []) : exec (.cryoSettleExpiry d) s = .next u := by
    change execCryoSettleExpiry d s = _
    rw [execCryoSettleExpiry, if_neg (by omega), if_neg hgo, hu, State.replaceDue_none _ hrep]
  by_cases h4 : s.dstate d = 4 ∧ s.cryo.forced.getLsbD d = false
  · refine ⟨_, he _ (if_pos (by simpa using h4)) ((State.setDie_replace s d (by omega)).trans hr), State.setDie_sameBytes s d 3, ?_⟩
    rw [if_pos h4]
    exact State.sampled_of_sameStates (State.setDie_sampled s d 3) (State.markSettle_sameStates _ d)
  · have h4' : ¬ (s.dstate d = 4 ∧ (!s.cryo.forced.getLsbD d) = true) := by simpa using h4
    rw [if_neg h4]
    by_cases h3 : s.dstate d = 3
    · refine ⟨_, he _ (by rw [if_neg h4', if_pos h3]) ((State.setDie_replace s d (by omega)).trans hr), State.setDie_sameBytes s d 2, ?_⟩
      rw [if_pos h3]
      exact State.setDie_sampled s d 2
    · refine ⟨s, he _ (by rw [if_neg h4', if_neg h3]) hr, State.sameBytes_refl s, ?_⟩
      rw [if_neg h3]
      exact ⟨⟨rfl, rfl, rfl, rfl⟩, fun _ => rfl, fun e => by dsimp only; split <;> simp [*]⟩

/-! ## TIMING_SET_CHANGE (R431) -/

theorem window_waits {s : State} {n ch : Nat} (hn : n < 16) (hch : ch < if n < 8 then 32 else 16)
    (hx : (s.dram.chan (chanNo n ch)).replays ≠ []) : exec (.timingSetChange n ch) s = .next s := by
  have hw : s.dram.window n ch = s.dram := if_pos (by simpa using hx)
  change execTimingSetChange n ch s = _
  rw [execTimingSetChange, if_pos ⟨hn, hch⟩, hw]

theorem window_retimes {s : State} {n ch : Nat} (hn : n < 16) (hch : ch < if n < 8 then 32 else 16)
    (hx : (s.dram.chan (chanNo n ch)).replays = []) (hr : (s.dram.chan (chanNo n ch)).repair = []) :
    ∃ t, exec (.timingSetChange n ch) s = .next t ∧ s.sameBytes t ∧
      t.dram.chan (chanNo n ch) = (s.dram.chan (chanNo n ch)).retimed := by
  have hw : s.dram.window n ch = s.dram.updChan (chanNo n ch) (fun _ => (s.dram.chan (chanNo n ch)).retimed) := by
    simp [Dram.window, Channel.repaired, hx, hr]
  refine ⟨{ s with dram := s.dram.window n ch }, if_pos ⟨hn, hch⟩ |> congrArg _, ?_, ?_⟩
  · exact State.sameBytes_withDram s (by rw [hw]; rfl)
  · change (s.dram.window n ch).chan (chanNo n ch) = _
    rw [hw, Dram.chan_updChan, if_pos rfl]

end Sys2Proof.Machine
end

section
/-! SUPPORT. The limiter and the telemetry (R435 to R440). -/

namespace Sys2Proof.Machine

/-! ## The limiter (R435 to R439) -/

theorem foldl_add_eq_sum (f : Nat → Nat) (l : List Nat) : l.foldl (fun n d => n + f d) 0 = (l.map f).sum := by
  rw [List.sum_eq_foldl, List.foldl_map]

theorem demand_eq (s : State) (e : EnergyDelta) : s.demand e =
    (fixedPower e + (((List.range 4).filter (fun d => decide (s.dieCap d < 256))).map (fun d => e.cd.getD d 0)).sum : Nat) +
      (((((List.range 4).filter (fun d => decide (256 ≤ s.dieCap d))).map (fun d => e.cd.getD d 0)).sum : Nat) - (e.chaff : Int)) *
        256 / s.power.duty := by
  have hf : (fun d => !decide (s.dieCap d < 256)) = (fun d => decide (256 ≤ s.dieCap d)) := by
    funext d
    rw [← decide_not, decide_eq_decide, Nat.not_lt]
  have hf' : (not ∘ fun d => decide (s.dieCap d < 256)) = (fun d => decide (256 ≤ s.dieCap d)) := hf
  simp only [State.demand, List.partition_eq_filter_filter, hf', foldl_add_eq_sum]

/-- A duty as the rules give it (R435). -/
theorem duty_eq {ep sf : Nat} {dm : Int} (f : Nat) (hne : dm ≠ sf) :
    ((max 1 (min 256 (if dm = sf then f else (256 * ((ep - sf : Nat) : Int) / (dm - sf)).toNat)) : Nat) : Int) =
      max 1 (min 256 (256 * max ((ep : Int) - sf) 0 / (dm - sf))) := by
  rw [if_neg hne]
  have hc : ((ep - sf : Nat) : Int) = max ((ep : Int) - sf) 0 := by omega
  rw [hc]
  generalize 256 * max ((ep : Int) - sf) 0 / (dm - sf) = x
  omega

theorem Power.counter_count (x : Power) (i n j : Nat) :
    (x.count i n).counter j = if j = i then x.counter j + BitVec.ofNat 64 n else x.counter j := by
  simp only [Power.counter, Power.count, Tbl.get_set]
  split
  · next h => rw [h]
  · rfl

theorem Power.meter_eq (x : Power) (e : EnergyDelta) : x.meter e =
    (((((((((x.count 0 (e.cd.getD 0 0 + e.cd.getD 1 0 + e.cd.getD 2 0 + e.cd.getD 3 0 + e.npd + e.hbm + e.silo + e.link)).count 1
      (e.cd.getD 0 0)).count 2 (e.cd.getD 1 0)).count 3 (e.cd.getD 2 0)).count 4 (e.cd.getD 3 0)).count 5 e.npd).count 6 e.hbm).count 7
        e.silo).count 8 e.link).count 9 e.chaff := rfl

/-- The counters over a tick (R439). -/
theorem Power.meter_counter (x : Power) (e : EnergyDelta) :
    (x.meter e).counter 0 = x.counter 0 + BitVec.ofNat 64 (e.cd.getD 0 0 + e.cd.getD 1 0 + e.cd.getD 2 0 + e.cd.getD 3 0 + fixedPower e) ∧
      (∀ d, d < 4 → (x.meter e).counter (1 + d) = x.counter (1 + d) + BitVec.ofNat 64 (e.cd.getD d 0)) ∧
      (x.meter e).counter 5 = x.counter 5 + BitVec.ofNat 64 e.npd ∧ (x.meter e).counter 6 = x.counter 6 + BitVec.ofNat 64 e.hbm ∧
      (x.meter e).counter 7 = x.counter 7 + BitVec.ofNat 64 e.silo ∧ (x.meter e).counter 8 = x.counter 8 + BitVec.ofNat 64 e.link ∧
      (x.meter e).counter 9 = x.counter 9 + BitVec.ofNat 64 e.chaff := by
  rw [Power.meter_eq]
  refine ⟨?_, fun d hd => ?_, ?_, ?_, ?_, ?_, ?_⟩
  case refine_2 => interval_cases d <;> simp [Power.counter_count]
  case refine_1 => simp [Power.counter_count, fixedPower, Nat.add_assoc]
  all_goals simp [Power.counter_count]

/-- The power that a tick comes to under the rules (R435). -/
def State.newPower (s : State) (e : EnergyDelta) : Nat :=
  min (max (s.demand e).toNat (max (s.power.e - s.power.rampop) s.power.pfloor)) (min (s.power.e + s.power.rampop) s.power.pcapop)

/-- And its duty. -/
def State.newDuty (s : State) (e : EnergyDelta) : Nat :=
  if (s.newPower e : Int) < s.demand e then
    max 1 (min 256 (if s.demand e = fixedPower e then (Config.freeWord s.free).toNat
      else (256 * ((s.newPower e - fixedPower e : Nat) : Int) / (s.demand e - fixedPower e)).toNat))
  else 256

theorem State.newDuty_full {s : State} {e : EnergyDelta} (h : s.demand e ≤ s.newPower e) : s.newDuty e = 256 :=
  if_neg (not_lt.2 h)

theorem State.newDuty_bounds (s : State) (e : EnergyDelta) : 1 ≤ s.newDuty e ∧ s.newDuty e ≤ 256 := by
  unfold State.newDuty
  split
  · exact ⟨Nat.le_max_left _ _, Nat.max_le.2 ⟨by omega, Nat.min_le_left _ _⟩⟩
  · exact ⟨by omega, Nat.le_refl _⟩

theorem State.newDuty_short {s : State} {e : EnergyDelta} (h : (s.newPower e : Int) < s.demand e) (hne : s.demand e ≠ fixedPower e) :
    (s.newDuty e : Int) =
      max 1 (min 256 (256 * max ((s.newPower e : Int) - fixedPower e) 0 / (s.demand e - fixedPower e))) := by
  rw [State.newDuty, if_pos h]
  exact duty_eq _ hne

theorem exec_limiter {s : State} (e : EnergyDelta) (hw : s.power.chaffw ≠ 0) : ∃ t, exec (.limiterTick e) s = .next t ∧ s.sameBytes t ∧
    t.power.e = s.newPower e ∧ t.power.d = s.demand e ∧ t.power.duty = s.newDuty e ∧
    t.power.chaffOn = s.chaffCores.take ((((s.newPower e : Int) - s.demand e).toNat + s.power.chaffw - 1) / s.power.chaffw) ∧
    t.power.cptr = (s.power.cptr + 1) % 72 ∧ t.power.emax = max s.power.emax (s.newPower e) ∧
    t.power.emin = min s.power.emin (s.newPower e) ∧ ∀ i, t.power.counter i = (s.power.meter e).counter i :=
  ⟨_, rfl, fun _ _ => rfl, rfl, rfl, rfl, congrArg (s.chaffCores.take ·) (if_neg hw), rfl, rfl, rfl, fun _ => rfl⟩

/-! ## Telemetry (R440) -/

/-- A record of the interval stands at the end of those that wait, within 16. -/
def State.recorded (s : State) : State :=
  if s.power.telEn then
    { s with power := { s.power with
      telSeq := s.power.telSeq + 1
      telWait := (s.power.telWait ++ [s.telRecord]).drop ((s.power.telWait ++ [s.telRecord]).length - 16)
      telLost := s.power.telLost + ((s.power.telWait ++ [s.telRecord]).length - 16) } }
  else s

/-- The next interval begins. -/
def State.newInterval (s : State) : State :=
  { s with power := { s.power with telStart := s.time, emax := s.power.e, emin := s.power.e, thr := 0, short := 0 } }

theorem exec_telemetry (s : State) : exec .telemetrySample s = .next (State.telSend 16 s.recorded.newInterval) := rfl

theorem dwBytes_length (ws : List DWord) : (dwBytes ws).length = 8 * ws.length := by
  simp [dwBytes, List.length_flatMap, leBytes_length, Nat.mul_comm]

theorem telRecord_length (s : State) : s.telRecord.length = 16 := rfl

theorem State.telSend_idle {s : State} (h : s.power.telWait = []) (n : Nat) : State.telSend n s = s := by
  cases n with
  | zero => rfl
  | succ n => simp only [State.telSend, h]

theorem State.telSend_full {s : State} (h : 4096 ≤ (s.part 0).sends.length) (n : Nat) : State.telSend n s = s := by
  cases n with
  | zero => rfl
  | succ n =>
    simp only [State.telSend]
    split
    · rfl
    · exact if_pos h

/-- A send to another device is outstanding until it is acknowledged. -/
theorem State.launchSend_device {s : State} {p peer : Nat} (hs : peer ≠ (s.part p).self) (hk : peerKind ((s.part p).peer peer) = 1)
    (block : DWord) (rod : Bool) (cen : Option Nat) (hdr : List DWord) (pay : List Byte) : ∃ q : Send,
      s.launchSend p block peer rod cen hdr pay = s.updPart p (fun x => { x with nextSend := x.nextSend + 1, sends := x.sends ++ [q] }) ∧
        q.peer = peer ∧ q.payload = pay := by
  generalize hq : ({ idx := (s.part p).nextSend, block := block, peer := peer, rod := rod, cen := cen, hdr := hdr,
                     payload := pay, first := npdCycles s.cycle, tries := 1, arrived := false } : Send) = q
  have hpeer : q.peer = peer := by rw [← hq]
  generalize hu : s.updPart p (fun x => { x with nextSend := x.nextSend + 1, sends := x.sends ++ [q] }) = u
  have hself : (u.part p).self = (s.part p).self := by rw [← hu, State.part_updPart]; rfl
  have hto : (u.part p).peer peer = (s.part p).peer peer := by rw [← hu, State.part_updPart]; rfl
  have ht : u.transmit p q = (u, .waits) := by
    simp only [State.transmit, hpeer, hself, hto, hk]
    exact if_neg hs
  refine ⟨q, ?_, hpeer, by rw [← hq]⟩
  unfold State.launchSend
  simp only [hq, hu, ht]

theorem State.telSend_device {s : State} {r : List DWord} (h : s.power.telWait = [r]) (hr : r.length = 16)
    (hroom : (s.part 0).sends.length < 4096) (hs : s.power.telPeer ≠ (s.part 0).self)
    (hk : peerKind ((s.part 0).peer s.power.telPeer) = 1) (n : Nat) : ∃ q : Send, ∃ free,
      State.telSend (n + 1) s = State.updPart { s with free := free, power := { s.power with telWait := [], telLost := 0 } } 0
        (fun x => { x with nextSend := x.nextSend + 1, sends := x.sends ++ [q] }) ∧ q.peer = s.power.telPeer ∧ q.payload.length = 128 := by
  obtain ⟨q, hq, hpeer, hpay⟩ := State.launchSend_device
    (s := { s with free := s.free + 2, power := { s.power with telWait := [], telLost := 0 } }) hs hk _ _ _ _ _
  refine ⟨q, s.free + 2, ?_, hpeer, ?_⟩
  · simp only [State.telSend, h]
    rw [if_neg (by omega), hq]
    exact State.telSend_idle rfl n
  · rw [hpay, dwBytes_length, List.length_set, hr]

/-! ### A sample -/

/-- An interval begins at `t`, the power and the energy counters as they stand. -/
def State.interval (s t : State) : Prop :=
  t.power.telStart = s.time ∧ t.power.emax = s.power.e ∧ t.power.emin = s.power.e ∧ t.power.thr = 0 ∧ t.power.short = 0 ∧
    t.power.e = s.power.e ∧ t.power.energy = s.power.energy

theorem telemetry_off {s : State} (hw : s.power.telWait = []) (he : s.power.telEn = false) :
    ∃ t, exec .telemetrySample s = .next t ∧ s.interval t ∧ (t.part 0).sends = (s.part 0).sends := by
  have hr : s.recorded = s := if_neg (by simp [he])
  refine ⟨s.newInterval, ?_, ⟨rfl, rfl, rfl, rfl, rfl, rfl, rfl⟩, rfl⟩
  rw [exec_telemetry, hr, State.telSend_idle (s := s.newInterval) hw]

/-- The state in which the record of the ended interval waits alone. -/
def State.oneRecord (s : State) : State :=
  State.newInterval { s with power := { s.power with telSeq := s.power.telSeq + 1, telWait := [s.telRecord] } }

theorem exec_telemetry_on {s : State} (hw : s.power.telWait = []) (he : s.power.telEn = true) :
    exec .telemetrySample s = .next (State.telSend 16 s.oneRecord) := by
  rw [exec_telemetry, State.recorded, if_pos he, hw]
  rfl

theorem telemetry_full {s : State} (hw : s.power.telWait = []) (he : s.power.telEn = true) (hf : 4096 ≤ (s.part 0).sends.length) :
    ∃ t, exec .telemetrySample s = .next t ∧ s.interval t ∧ t.power.telWait = [s.telRecord] ∧ t.power.telSeq = s.power.telSeq + 1 := by
  refine ⟨s.oneRecord, ?_, ⟨rfl, rfl, rfl, rfl, rfl, rfl, rfl⟩, rfl, rfl⟩
  rw [exec_telemetry_on hw he, State.telSend_full (s := s.oneRecord) hf]

theorem telemetry_sent {s : State} (hw : s.power.telWait = []) (he : s.power.telEn = true) (hroom : (s.part 0).sends.length < 4096)
    (hs : s.power.telPeer ≠ (s.part 0).self) (hk : peerKind ((s.part 0).peer s.power.telPeer) = 1) :
    ∃ t q, exec .telemetrySample s = .next t ∧ s.interval t ∧ s.sameBytes t ∧ t.power.telWait = [] ∧
      t.power.telSeq = s.power.telSeq + 1 ∧ t.power.telLost = 0 ∧ (t.part 0).sends = (s.part 0).sends ++ [q] ∧
      q.peer = s.power.telPeer ∧ q.payload.length = 128 := by
  obtain ⟨q, free, ht, hq, hpay⟩ := State.telSend_device (s := s.oneRecord) rfl (telRecord_length s) hroom hs hk 15
  have hx := (exec_telemetry_on hw he).trans (congrArg _ ht)
  refine ⟨_, q, hx, ⟨rfl, rfl, rfl, rfl, rfl, rfl, rfl⟩, ?_, rfl, rfl, rfl, ?_, hq, hpay⟩
  · exact State.sameBytes_trans (fun _ _ => rfl) (State.updPart_sameBytes _ 0 (fun _ => rfl))
  · rw [State.part_updPart]
    rfl

end Sys2Proof.Machine
end

section
/-! SUPPORT. Cold reset and the begin of the active complex (R8, R422, R425). -/

namespace Sys2Proof.Machine

/-! ## Cold reset (R8, R422, R425) -/

/-- The module as a cold reset leaves it before the active complex begins. -/
def State.coldReset (s : State) : State :=
  { State.reset with
    stepNo := s.stepNo, free := s.free, hostMem := s.hostMem, fw := Firmware.boot Config.bootImage s.fw.leaf,
    power := Power.latched Config.limitsRecord,
    parts := [(0, { Part.reset0 with root := some (Config.firmwareRoot % 2 ^ 30 * 2 ^ 12) })] }

theorem exec_coldReset (s : State) : exec .moduleColdReset s = .next s.coldReset.bootActive := rfl

theorem Firmware.boot_spec (img : List Byte) (leaf : Nat) :
    (Firmware.boot img leaf).leaf = leaf ∧ (Firmware.boot img leaf).up = (imgCheck img == 0) ∧
      (Firmware.boot img leaf).berr = imgCheck img ∧ (Firmware.boot img leaf).complexB = false ∧
      ((Firmware.boot img leaf).up = true → (Firmware.boot img leaf).img = img) := by
  unfold Firmware.boot
  dsimp only
  split
  · next h => exact ⟨rfl, by rw [h]; rfl, h.symm, rfl, fun _ => rfl⟩
  · next h => exact ⟨rfl, by simpa using h, rfl, rfl, fun hu => by simp at hu⟩

/-- The limiter at its floor. -/
def Power.atFloor (x : Power) : Power := { x with e := x.pfloor, emax := x.pfloor, emin := x.pfloor }

theorem Power.atFloor_spec (x : Power) (v : DWord) : ({ x with pwrcfg := v } : Power).atFloor.duty = x.duty ∧
    ({ x with pwrcfg := v } : Power).atFloor.e = ({ x with pwrcfg := v } : Power).atFloor.pfloor := ⟨rfl, rfl⟩

theorem Power.latched_spec (lim : Option (DWord × DWord)) :
    (Power.latched lim).duty = 256 ∧ (Power.latched lim).e = (Power.latched lim).pfloor := by
  unfold Power.latched
  extract_lets base x y
  have hx : x.duty = 256 := by
    unfold x
    split <;> rfl
  obtain ⟨hd, he⟩ := x.atFloor_spec (pwrClamp x.limpwr x.pwrcfg)
  exact ⟨hd.trans hx, he⟩

/-- What the active complex begins with: its table queued to the memory, and a thread of partition 0 at its image's entry. -/
theorem State.bootActive_up {s : State} (h : s.fw.up = true) : s.bootActive = (s.writeTable (imgTabv s.fw.img)).runImage := if_pos h

theorem State.bootActive_down {s : State} (h : s.fw.up = false) : s.bootActive = s := if_neg (by simp [h])

/-- The line write of the state table, into queues that are empty. -/
theorem State.writeTable_spec {s : State} (hq : s.dram.queues = []) (v : Nat) : ∃ d : Dram, s.writeTable v = { s with dram := d } ∧
    d.cells = s.dram.cells ∧ (∀ i, i < 4 → d.byteAt (stateTableAt + 4 + i) = .ofNat 8 (v / 256 ^ i)) ∧
    ∀ a, ¬ (stateTableAt ≤ a ∧ a < stateTableAt + 8) → d.byteAt a = s.dram.byteAt a := by
  have hroom (c) : (s.dram.queue c).length < 64 := by simp [Dram.queue, hq]
  have h64 : stateTableAt % 64 = 0 := Nat.mul_mod_left _ 64
  generalize hbs : leBytes 8 (v % 2 ^ 32 * 2 ^ 32 + Config.stateTableSize % 2 ^ 32) = bs
  have hl : bs.length = 8 := by rw [← hbs, leBytes_length]
  have hb := Dram.push_lineWrite (bs := bs) 0 (hroom (ctrlOf stateTableAt)) (by omega)
  refine ⟨_, by rw [State.writeTable, hbs, State.writePhys_lineWrite], Dram.cells_push (hroom _), fun i hi => ?_, fun a ha => ?_⟩
  · rw [hb, hl, if_pos (by omega), ← hbs, Nat.add_assoc, Nat.add_sub_cancel_left, leBytes_getD _ _ _ (by omega)]
    apply BitVec.eq_of_toNat_eq
    have hv : (v % 2 ^ 32 * 2 ^ 32 + Config.stateTableSize % 2 ^ 32) / 256 ^ (4 + i) = v % 2 ^ 32 / 256 ^ i := by
      rw [pow_add, ← Nat.div_div_eq_div_mul]
      congr 1
      omega
    rw [hv]
    simp only [BitVec.toNat_ofNat]
    interval_cases i <;> omega
  · rw [hb, hl, if_neg ha]

theorem State.coldReset_part (s : State) {p : Nat} (hp : p ≠ 0) : (s.coldReset.part p).live = false := by
  simp [State.part, State.coldReset, Tbl.get, Ne.symm hp]
  rfl

/-- What the begin of the active complex leaves. -/
def State.outsideBoot (s t : State) : Prop :=
  t.hostMem = s.hostMem ∧ t.cores = s.cores ∧ t.bays = s.bays ∧ t.dies = s.dies ∧ t.cryo = s.cryo ∧ t.host = s.host ∧
    t.jobs = s.jobs ∧ t.cycle = s.cycle ∧ t.parts = s.parts ∧ t.fw = s.fw ∧ t.power = s.power

theorem State.bootActive_outside (s : State) : s.outsideBoot s.bootActive := by
  unfold State.bootActive
  split
  · obtain ⟨d, _, hd⟩ := State.writePhys_dram s stateTableAt 0 false
      (leBytes 8 (imgTabv s.fw.img % 2 ^ 32 * 2 ^ 32 + Config.stateTableSize % 2 ^ 32))
    rw [State.writeTable, hd]
    exact ⟨rfl, rfl, rfl, rfl, rfl, rfl, rfl, rfl, rfl, rfl, rfl⟩
  · exact ⟨rfl, rfl, rfl, rfl, rfl, rfl, rfl, rfl, rfl, rfl, rfl⟩

/-- The thread in which the active complex runs its image. -/
theorem State.runImage_thread {s : State} (h : s.npd.threads = []) :
    ∃ n x, s.runImage = { s with npd := { s.npd with threads := [(n, x)] } } ∧ x.part = 0 ∧ x.job = .boot ∧
      x.strm.line = imgEntry s.fw.img ∧ x.strm.word = 0 ∧ x.strm.mode = .running := by
  refine ⟨s.freeThread 0, newThread 0 .boot (imgEntry s.fw.img) [] s.cycle 0, ?_, rfl, rfl, rfl, rfl, rfl⟩
  rw [State.runImage, State.startThread, h]
  rfl

/-- A cold reset whose image the ROM accepts leaves the active complex running it, with its state table (R422). -/
theorem coldReset_up {s : State} (h : s.coldReset.fw.up = true) :
    (∃ n x, s.coldReset.bootActive.npd = { State.reset.npd with threads := [(n, x)] } ∧ x.part = 0 ∧ x.job = .boot ∧
      x.strm.line = imgEntry Config.bootImage ∧ x.strm.word = 0 ∧ x.strm.mode = .running) ∧
    s.coldReset.bootActive.dram.cells = [] ∧
    (∀ i, i < 4 → s.coldReset.bootActive.dram.byteAt (stateTableAt + 4 + i) = .ofNat 8 (imgTabv Config.bootImage / 256 ^ i)) ∧
    ∀ a, ¬ (stateTableAt ≤ a ∧ a < stateTableAt + 8) → s.coldReset.bootActive.dram.byteAt a = 0 := by
  obtain ⟨_, _, _, _, hboot⟩ := Firmware.boot_spec Config.bootImage s.fw.leaf
  have himg : s.coldReset.fw.img = Config.bootImage := hboot h
  obtain ⟨d, hd, hcells, htab, hrest⟩ := State.writeTable_spec (s := s.coldReset) rfl (imgTabv Config.bootImage)
  obtain ⟨n, x, hx, hp, hj, hl, hw, hm⟩ := State.runImage_thread (s := { s.coldReset with dram := d }) rfl
  have ht : s.coldReset.bootActive = { s.coldReset with dram := d, npd := { s.coldReset.npd with threads := [(n, x)] } } := by
    rw [State.bootActive_up h, himg, hd, hx]
  rw [ht]
  exact ⟨⟨n, x, rfl, hp, hj, hl.trans (by rw [← himg]), hw, hm⟩, hcells, htab, fun a ha => (hrest a ha).trans rfl⟩

theorem chaffCores_eq (s : State) : s.chaffCores = ((List.range 72).map (fun i => (s.power.cptr + i) % 72)).filter (fun c =>
    decide (s.dstate (dieOf c) = 2 ∨ s.dstate (dieOf c) = 3)) := by
  unfold State.chaffCores State.dieRuns
  simp only [Bool.decide_or]
  rfl

/-! ## The part right after cold reset (R8) -/

theorem reset_stream (cls : Cls) (r : BitVec 6) :
    ((Slot.reset.strm cls).reg r) = 0 ∧ (Slot.reset.strm cls).mode = .halted := by
  have h : Slot.reset.strm cls = Stream.reset := by cases cls <;> rfl
  rw [h]
  refine ⟨?_, rfl⟩
  unfold Stream.reg
  split <;> rfl

theorem reset_pred (p : BitVec 4) : Stream.reset.pred p = decide (p = 0) := by
  revert p
  decide

theorem reset_store (m : Store) : State.reset.store m = [] := by
  cases m with
  | scratch c => rfl
  | plane c n =>
    simp only [State.store, Core.plane]
    split <;> rfl
  | handlers => rfl
  | tiers => rfl
  | host => rfl
  | crib p r => cases p <;> rfl

theorem reset_byteAt (m : Store) (a : Nat) : State.reset.byteAt m a = 0 := by
  rw [State.byteAt, reset_store]
  rfl

theorem reset_canonical : State.reset.canonical := by
  intro m
  rw [reset_store]
  rfl

end Sys2Proof.Machine
end

section
/-! The module events (O59). -/

namespace Sys2Proof.Machine

/-- Settles O59, clause by clause: the sample of every die and what follows it, the bands, settled dies and the module, a channel's
window, the limiter, telemetry, and the reset with the begin of the active complex. -/
theorem moduleEvents : Obligations.ModuleEvents := by
  refine ⟨fun s r => ?_, fun x old t => ?_, fun s d => ?_, fun s n ch => ?_, fun s e => ?_, fun s => ?_, fun s => ?_, fun s hs => ?_⟩
  · intro rd hot
    by_cases h : s.tooHot r
    · obtain ⟨t, ht, htemp, hh, hm, hd, hc, hp, hb, hr⟩ := sample_hot h
      refine ⟨t, ht, fun d hd => ?_, ?_, ?_, fun _ => ⟨hh, hm, hd, hc, hp, hb, hr⟩, fun hn => absurd h hn⟩
      · rw [htemp]
        exact tempReg_die r hd
      · rw [htemp]
        exact tempReg_npd r
      · rw [htemp]
        exact tempReg_hbm r
    · obtain ⟨t, ht, htemp, hh, hb, hw, hs⟩ := sample_cool h
      refine ⟨t, ht, fun d hd => ?_, ?_, ?_, fun hy => absurd hy h, fun _ => ⟨hh, fun d hd => ?_⟩⟩
      · rw [htemp]
        exact tempReg_die r hd
      · rw [htemp]
        exact tempReg_npd r
      · rw [htemp]
        exact tempReg_hbm r
      · intro b old
        refine ⟨hb d hd, fun h2 => ?_, ?_, fun h2 h5 => ?_⟩
        · obtain ⟨hm, hst⟩ := hs (fun hc => by omega)
          exact ⟨hm.trans h2, (hst d hd).trans (if_pos h2)⟩
        · intro warm h5
          refine ⟨fun hwarm => ?_, fun hwarm => ?_⟩
          · obtain ⟨hm, hst⟩ := hw ⟨h5, hwarm⟩
            exact ⟨hm, hst d⟩
          · obtain ⟨hm, hst⟩ := hs (fun hc => hwarm hc.2)
            exact ⟨hm.trans h5, (hst d hd).trans (if_neg (by omega))⟩
        · obtain ⟨hm, hst⟩ := hs (fun hc => h5 hc.1)
          exact ⟨hm, (hst d hd).trans (if_neg h2)⟩
  · exact x.bandFor_spec old t
  · intro m settled hr
    have hset (e : Nat) : s.settled e = true ↔ settled e := s.settled_iff e
    refine ⟨fun hm hall => ?_, fun hm hex => ?_, fun hm hd hn => ?_, fun hm hd hy => ?_⟩
    · exact ⟨_, settle_module hr hm d (fun e he => (hset e).2 (hall e he)), (State.setModule_sameStates s 2).mstate,
        State.setModule_dstate s 2, State.setModule_sameBytes s 2⟩
    · obtain ⟨e, he, hn⟩ := hex
      exact settle_module_waits hr hm d ⟨e, he, fun h => hn ((hset e).1 h)⟩
    · exact settle_die_waits hr hm (fun h => hn ((hset d).1 h))
    · obtain ⟨t, ht, hb, ⟨_, _, hmt, _⟩, _, hst⟩ := settle_die hr hm hd ((hset d).2 hy)
      exact ⟨t, ht, hmt.trans hm, hb, (hst d).trans (if_pos rfl), fun e he => (hst e).trans (if_neg he)⟩
  · intro x hn hch
    refine ⟨fun hx => window_waits hn hch hx, fun hx hr => ?_⟩
    obtain ⟨t, ht, hb, hc⟩ := window_retimes hn hch hx hr
    refine ⟨t, ht, hb, hc.trans ?_⟩
    change x.retimed = _
    unfold Channel.retimed
    cases x.want with
    | none => rfl
    | some fast => cases fast <;> rfl
  · intro p dm sf cd free capped ep
    refine ⟨demand_eq s e, fun hw => ?_⟩
    obtain ⟨t, ht, hb, he, hd, hduty, hch, hptr, hmax, hmin, hcnt⟩ := exec_limiter e hw
    obtain ⟨h0, h1, h5, h6, h7, h8, h9⟩ := p.meter_counter e
    refine ⟨t, ht, hb, he, hd, fun hle => hduty.trans (State.newDuty_full hle), fun _ => ?_, fun hlt hne => ?_, ?_, hptr, hmax, hmin,
      (hcnt 0).trans h0, fun d hd => (hcnt _).trans (h1 d hd), (hcnt 5).trans h5, (hcnt 6).trans h6, (hcnt 7).trans h7,
      (hcnt 8).trans h8, (hcnt 9).trans h9⟩
    · rw [hduty]
      exact State.newDuty_bounds s e
    · rw [hduty]
      exact State.newDuty_short hlt hne
    · rw [hch, chaffCores_eq]
      rfl
  · intro p interval hw
    exact ⟨telemetry_off hw, telemetry_full hw, telemetry_sent hw⟩
  · obtain ⟨hmem, hcores, hbays, hdies, hcryo, hhost, hjobs, hcyc, hparts, hfw, hpow⟩ := s.coldReset.bootActive_outside
    obtain ⟨hleaf, hup, hberr, hcx, _⟩ := Firmware.boot_spec Config.bootImage s.fw.leaf
    obtain ⟨hduty, he⟩ := Power.latched_spec Config.limitsRecord
    refine ⟨_, exec_coldReset s, hmem, hcores, hbays, hdies, fun h => ?_, fun h => coldReset_up (hfw ▸ h), hcryo, hhost, hjobs, hcyc,
      ?_, fun p hp => ?_, ?_, ?_, ?_, ?_, ?_⟩
    · rw [State.bootActive_down (hfw ▸ h)]
      exact ⟨rfl, rfl⟩
    · rw [hfw]
      exact hleaf
    · rw [State.part, hparts]
      exact s.coldReset_part hp
    · rw [hfw]
      exact hup
    · rw [hfw]
      exact hberr
    · rw [hfw]
      exact hcx
    · rw [hpow]
      exact hduty
    · rw [hpow]
      exact he
  · subst hs
    refine ⟨fun c k => ⟨rfl, rfl, rfl, fun _ => rfl, reset_stream, reset_pred, rfl, rfl⟩, fun c n => ⟨rfl, rfl, rfl, rfl, rfl⟩,
      reset_byteAt, reset_canonical, fun n => ⟨rfl, rfl, rfl⟩, ?_⟩
    exact ⟨rfl, rfl, rfl, rfl, rfl, rfl, rfl, rfl, rfl, fun fn => ⟨rfl, rfl⟩⟩

end Sys2Proof.Machine
end

section
/-! SUPPORT. Tables by number: what a filter, an erasure and a write keep of their entries. -/

namespace Sys2Proof.Tbl

variable {α : Type}

theorem get_filter (d : α) (t : Tbl α) (keep : Nat → Bool) (k : Nat) :
    get d (t.filter (fun e => keep e.1)) k = if keep k = true then get d t k else d := by
  induction t with
  | nil => simp
  | cons e t ih =>
    obtain ⟨i, x⟩ := e
    by_cases hi : i = k
    · subst hi
      cases h : keep i <;> simp [get, h, ih]
    · cases h : keep i <;> simp [get, hi, h, ih]

/-- What holds of the default and of every entry holds of what a read gives. -/
theorem get_holds {P : α → Prop} {d : α} (hd : P d) {t : Tbl α} (h : ∀ e ∈ t, P e.2) (k : Nat) : P (get d t k) := by
  induction t with
  | nil => exact hd
  | cons e t ih =>
    obtain ⟨i, x⟩ := e
    obtain ⟨hx, ht⟩ := List.forall_mem_cons.1 h
    rw [get]
    split
    · exact hx
    · exact ih ht

theorem mem_erase {t : Tbl α} {k : Nat} {e : Nat × α} (h : e ∈ erase t k) : e ∈ t ∧ e.1 ≠ k := by
  induction t with
  | nil => cases h
  | cons a t ih =>
    obtain ⟨i, x⟩ := a
    rw [erase] at h
    split at h
    · exact ⟨List.mem_cons_of_mem _ (ih h).1, (ih h).2⟩
    · next hi =>
      obtain rfl | h := List.mem_cons.1 h
      · exact ⟨List.mem_cons_self, hi⟩
      · exact ⟨List.mem_cons_of_mem _ (ih h).1, (ih h).2⟩

theorem mem_set_self (t : Tbl α) (k : Nat) (v : α) : (k, v) ∈ set t k v := by
  induction t with
  | nil => exact List.mem_cons_self
  | cons a t ih =>
    obtain ⟨i, x⟩ := a
    rw [set]
    split_ifs
    · exact List.mem_cons_self
    · exact List.mem_cons_self
    · exact List.mem_cons_of_mem _ ih

theorem mem_of_mem_set {t : Tbl α} {k : Nat} {v : α} {e : Nat × α} (h : e ∈ set t k v) : e = (k, v) ∨ e ∈ t := by
  induction t with
  | nil => exact .inl (List.mem_singleton.1 h)
  | cons a t ih =>
    obtain ⟨i, x⟩ := a
    rw [set] at h
    split_ifs at h
    · exact (List.mem_cons.1 h)
    · exact (List.mem_cons.1 h).imp_right (List.mem_cons_of_mem _)
    · obtain rfl | h := List.mem_cons.1 h
      · exact .inr List.mem_cons_self
      · exact (ih h).imp_right (List.mem_cons_of_mem _)

end Sys2Proof.Tbl
end

section
/-! SUPPORT. The registers of a function (R406 to R409, R416): what a read or a write of each makes of it. -/

namespace Sys2Proof.Machine

theorem fieldNat_zero {w : Nat} (v : BitVec w) (k : Nat) : fieldNat v 0 k = v.toNat % 2 ^ k := by
  simp [fieldNat]

/-! ## What the function's operations come to -/

theorem HostFn.resv_room {x : HostFn} (hen : x.ringEn = true) (h : ahead x.next x.doneT < 2 ^ x.rlog) :
    x.resv = ({ x with next := (x.next + 1) % 2 ^ 32 }, .ofNat 64 x.next) :=
  if_pos (by simp [hen, h])

theorem HostFn.resv_none {x : HostFn} (h : x.ringEn = false ∨ 2 ^ x.rlog ≤ ahead x.next x.doneT) :
    x.resv = (x, .ofNat 64 (2 ^ 63)) :=
  if_neg (by simpa [imp_iff_not_or] using h)

theorem HostFn.commit_out {x : HostFn} {v : DWord} (h : ahead (v.toNat % 2 ^ 32) x.doneT < ahead x.next x.doneT)
    (hc : x.commits.contains (v.toNat % 2 ^ 32) = false) : x.commit v = { x with commits := x.commits ++ [v.toNat % 2 ^ 32] } := by
  rw [HostFn.commit, fieldNat_zero]
  exact if_pos ⟨h, by rw [hc]; rfl⟩

theorem HostFn.commit_bad {x : HostFn} {v : DWord}
    (h : ahead x.next x.doneT ≤ ahead (v.toNat % 2 ^ 32) x.doneT ∨ x.commits.contains (v.toNat % 2 ^ 32) = true) :
    x.commit v = { x with badc := min (x.badc + 1) 0xFFFF } := by
  rw [HostFn.commit, fieldNat_zero]
  refine if_neg fun ⟨hlt, hc⟩ => h.elim (fun hle => Nat.not_lt.2 hle hlt) (fun hin => ?_)
  rw [hin] at hc
  cases hc

theorem HostFn.writeCfg_enabled {x : HostFn} (h : x.ringEn = true) (v : DWord) : x.writeCfg v = { x with ringEn := v.getLsbD 63 } :=
  if_pos h

theorem HostFn.writeCfg_bad {x : HostFn} {v : DWord} (h : x.ringEn = false)
    (hv : v.getLsbD 63 = false ∨ v.toNat % 2 ^ 5 < 6 ∨ 16 < v.toNat % 2 ^ 5) : x.writeCfg v = { x with rlog := v.toNat % 2 ^ 5 } := by
  rw [HostFn.writeCfg, fieldNat_zero, if_neg (by simp [h])]
  refine if_neg fun hc => ?_
  simp only [Bool.and_eq_true, decide_eq_true_eq] at hc
  obtain ⟨⟨hon, h6⟩, h16⟩ := hc
  rcases hv with hoff | hlt | hgt
  · exact absurd (hon.symm.trans hoff) (by decide)
  · omega
  · omega

theorem HostFn.writeCfg_starts {x : HostFn} {v : DWord} (h : x.ringEn = false) (hon : v.getLsbD 63 = true)
    (h6 : 6 ≤ v.toNat % 2 ^ 5) (h16 : v.toNat % 2 ^ 5 ≤ 16) : x.writeCfg v = { x with
      rlog := v.toNat % 2 ^ 5, ringEn := true, next := 0, head := 0, doneT := 0, commits := [], cmds := [], frames := [],
      resetting := false } := by
  rw [HostFn.writeCfg, fieldNat_zero, if_neg (by simp [h])]
  exact if_pos (by simp only [hon, h6, h16, decide_true, Bool.and_true])

theorem HostFn.writeRx_enabled {x : HostFn} (h : x.rxEn = true) (v : DWord) : x.writeRx v = { x with rxEn := v.getLsbD 63 } :=
  if_pos h

theorem HostFn.writeRx_disabled {x : HostFn} (h : x.rxEn = false) (v : DWord) : x.writeRx v = { x with
    xlog := v.toNat % 2 ^ 5, rxEn := v.getLsbD 63 && decide (12 ≤ v.toNat % 2 ^ 5) && decide (v.toNat % 2 ^ 5 ≤ 30) } := by
  rw [HostFn.writeRx, fieldNat_zero]
  exact if_neg (by simp [h])

theorem HostFn.reset1_idle {x : HostFn} (h : x.cmds = []) : x.reset1 = { x with
    next := 0, head := 0, doneT := 0, commits := [], frames := [], resetting := false } := by
  simp [HostFn.reset1, HostFn.emptied, h]

theorem HostFn.reset1_busy {x : HostFn} (h : x.cmds ≠ []) : x.reset1 = { x with
    resetting := true, frames := [], cmds := x.cmds.map (fun c => { c with issuing := false }) } :=
  if_neg (by simpa using h)

/-! ## Functions of no partition, and of one -/

theorem State.onFn_dead {s : State} {fn : Nat} (h : s.fnLive fn = false) (f : HostFn → HostFn) : s.onFn fn f = s :=
  if_neg (by simp [h])

theorem State.onFn_live {s : State} {fn : Nat} (h : s.fnLive fn = true) (f : HostFn → HostFn) : s.onFn fn f = s.updHost fn f :=
  if_pos h

theorem State.ringCfg_dead {s : State} {fn : Nat} (h : s.fnLive fn = false) (v : DWord) : s.ringCfg fn v = s := by
  rw [State.ringCfg, State.onFn_dead h]
  exact if_neg (by simp)

/-- A write of HRING.CFG that does not enable a disabled ring. -/
theorem State.ringCfg_keeps {s : State} {fn : Nat} {v : DWord} (hl : s.fnLive fn = true)
    (h : (s.hostFn fn).ringEn = true ∨ ((s.hostFn fn).writeCfg v).ringEn = false) : s.ringCfg fn v = s.onFn fn (·.writeCfg v) := by
  rw [State.ringCfg, State.onFn_live hl]
  refine if_neg ?_
  rw [State.hostFn_updHost]
  rcases h with h | h <;> simp [h]

/-- One that does: the commands of the ring before are cut loose. -/
theorem State.ringCfg_starts {s : State} {fn : Nat} {v : DWord} (hl : s.fnLive fn = true) (hoff : (s.hostFn fn).ringEn = false)
    (hon : ((s.hostFn fn).writeCfg v).ringEn = true) : s.ringCfg fn v = (s.updHost fn (·.writeCfg v)).detach fn := by
  rw [State.ringCfg, State.onFn_live hl]
  refine if_pos ?_
  rw [State.hostFn_updHost]
  simp [hoff, hon]

/-- Every write to a function of no partition is ignored, whatever its offset. -/
theorem State.barWrite_dead {s : State} {fn : Nat} (h : s.fnLive fn = false) (off : Nat) (v : DWord) : s.barWrite fn off v = s := by
  unfold State.barWrite
  split <;> simp only [State.onFn_dead h, State.ringCfg_dead h, ite_self]

theorem exec_registers_dead {s : State} {fn : Nat} (h : s.fnLive fn = false) (v : DWord) :
    ∀ i ∈ [Instr.hringResvRead fn, .hringCommit fn v, .hringEnable fn v, .hrxEnable fn v, .hringReset fn, .hringResume fn],
      exec i s = .next s := by
  have hon (f : HostFn → HostFn) : (.next (s.onFn fn f) : Out) = .next s := congrArg _ (State.onFn_dead h f)
  have hcfg : (.next (s.ringCfg fn v) : Out) = .next s := congrArg _ (State.ringCfg_dead h v)
  simp only [List.forall_mem_cons, List.not_mem_nil, false_implies, implies_true, and_true]
  exact ⟨hon _, hon _, hcfg, hon _, hon _, hon _⟩

/-! ## Instructions on a function of a partition -/

/-- The instruction makes `y` of the function and changes nothing else. -/
def State.gives (s : State) (fn : Nat) (i : Instr) (y : HostFn) : Prop :=
  ∃ t, exec i s = .next t ∧ t.hostFn fn = y ∧ t = s.updHost fn (fun _ => y)

theorem State.gives_onFn {s : State} {fn : Nat} {i : Instr} {f : HostFn → HostFn} {y : HostFn} (hl : s.fnLive fn = true)
    (hi : exec i s = .next (s.onFn fn f)) (hy : f (s.hostFn fn) = y) : s.gives fn i y :=
  ⟨s.updHost fn f, hi.trans (congrArg _ (State.onFn_live hl f)), by rw [State.hostFn_updHost, hy], by rw [← hy]; rfl⟩

theorem State.gives_enable {s : State} {fn : Nat} {v : DWord} {y : HostFn} (hl : s.fnLive fn = true)
    (hy : (s.hostFn fn).writeCfg v = y) (h : (s.hostFn fn).ringEn = true ∨ y.ringEn = false) : s.gives fn (.hringEnable fn v) y :=
  State.gives_onFn hl (congrArg _ (State.ringCfg_keeps hl (by rwa [hy]))) hy

/-- A ring enabled anew, empty: what the function had under way reports to it no longer (R407). -/
theorem exec_enable_starts {s : State} {fn : Nat} {v : DWord} (hl : s.fnLive fn = true) (hoff : (s.hostFn fn).ringEn = false)
    (hon : ((s.hostFn fn).writeCfg v).ringEn = true) : ∃ t, exec (.hringEnable fn v) s = .next t ∧
      (∀ j ∈ t.jobs, j.fn = fn → j.ticket = 2 ^ 32) ∧ (∀ u, t.fw.update = some u → u.fn = fn → u.ticket = 2 ^ 32) ∧
      (∀ w ∈ (t.part fn).waits, ∀ f n i, w.host = some (f, n, i) → n = 2 ^ 32) ∧ t.hostFn fn = (s.hostFn fn).writeCfg v := by
  refine ⟨(s.updHost fn (·.writeCfg v)).detach fn, congrArg Host.Outcome.next (State.ringCfg_starts hl hoff hon),
    fun j hj hfn => ?_, fun u hu hfn => ?_, fun w hw f n i hwh => ?_,
    State.hostFn_updHost s fn (·.writeCfg v)⟩
  · obtain ⟨k, _, rfl⟩ := List.mem_map.1 hj
    by_cases hk : k.fn = fn
    · rw [if_pos hk]
      rfl
    · rw [if_neg hk] at hfn
      exact absurd hfn hk
  · obtain ⟨k, _, rfl⟩ := Option.map_eq_some_iff.1 hu
    by_cases hk : k.fn = fn
    · rw [if_pos hk]
      rfl
    · rw [if_neg hk] at hfn
      exact absurd hfn hk
  · rw [State.detach, State.part_updPart] at hw
    obtain ⟨k, _, rfl⟩ := List.mem_map.1 hw
    obtain ⟨q, _, hq⟩ := Option.map_eq_some_iff.1 hwh
    simp only [Prod.mk.injEq] at hq
    exact hq.2.1.symm

theorem exec_control_resume (s : State) (fn : Nat) : exec (.registerWrite fn 0x038 1) s = exec (.hringResume fn) s := rfl

theorem exec_control_reset (s : State) (fn : Nat) : exec (.registerWrite fn 0x038 2) s = exec (.hringReset fn) s := rfl

end Sys2Proof.Machine
end

section
/-! SUPPORT. What a partition reset ends and clears (R21, R421). -/

namespace Sys2Proof.Machine

theorem memGet_clear (m : Memory) {a n j : Nat} (h1 : a ≤ j) (h2 : j < a + n) : memGet (memClear m a n) j = 0 := by
  induction m with
  | nil => rfl
  | cons e m ih =>
    obtain ⟨i, b⟩ := e
    by_cases hi : a ≤ i ∧ i < a + n
    · rw [memClear, List.filter_cons_of_neg (by simp [hi])]
      exact ih
    · rw [memClear, List.filter_cons_of_pos (by grind), memGet, if_neg (by omega)]
      exact ih

/-! ## The cores of a partition -/

theorem State.mem_coresOf {s : State} {p c : Nat} : c ∈ s.coresOf p ↔ s.holdsCore p c = true := by
  simp only [State.coresOf, List.mem_filter, List.mem_range]
  refine ⟨And.right, fun h => ⟨?_, h⟩⟩
  simp only [State.holdsCore, Bool.and_eq_true, decide_eq_true_eq] at h
  exact h.1

theorem State.coresOf_nodup (s : State) (p : Nat) : (s.coresOf p).Nodup := List.nodup_range.filter _

theorem State.core_foldl_updCore (f : Nat → Core → Core) {l : List Nat} (hl : l.Nodup) (s : State) (c : Nat) :
    (l.foldl (fun (s : State) c => s.updCore c (f c)) s).core c = if c ∈ l then f c (s.core c) else s.core c := by
  induction l generalizing s with
  | nil => rfl
  | cons d l ih =>
    obtain ⟨hd, hl⟩ := List.nodup_cons.1 hl
    rw [List.foldl_cons, ih hl]
    by_cases hc : c = d
    · subst hc
      simp [hd]
    · simp [hc, State.core_updCore_other]

/-- Cores changed one after another: nothing but the cores changes. -/
theorem State.foldl_updCore_cores (f : Nat → Core → Core) (l : List Nat) (s : State) :
    ∃ cs, l.foldl (fun (s : State) c => s.updCore c (f c)) s = { s with cores := cs } := by
  refine List.foldlRecOn (motive := fun t : State => ∃ cs, t = { s with cores := cs }) l _ ⟨s.cores, rfl⟩ (fun t ht c _ => ?_)
  obtain ⟨cs, rfl⟩ := ht
  exact ⟨_, rfl⟩

/-- A change of each core of the partition, and of nothing else. -/
theorem State.foldl_coresOf (s : State) (p : Nat) (f : Nat → Core → Core) : ∃ cs,
    (s.coresOf p).foldl (fun (s : State) c => s.updCore c (f c)) s = { s with cores := cs } ∧
    ∀ c, State.core { s with cores := cs } c = if s.holdsCore p c = true then f c (s.core c) else s.core c := by
  obtain ⟨cs, hcs⟩ := State.foldl_updCore_cores f (s.coresOf p) s
  refine ⟨cs, hcs, fun c => ?_⟩
  rw [← hcs, State.core_foldl_updCore f (s.coresOf_nodup p)]
  simp only [State.mem_coresOf]

/-! ## A reset begins -/

theorem Core.dropUnits_scratch (x : Core) (k : Nat) : (x.dropUnits k).scratch = x.scratch := by
  unfold Core.dropUnits
  split <;> rfl

theorem Core.ended_scratch (x : Core) (c : Nat) : (x.ended c).scratch = x.scratch :=
  List.foldlRecOn (motive := fun y : Core => y.scratch = x.scratch) (List.range 4) _ rfl
    (fun y hy k _ => (y.dropUnits_scratch k).trans hy)

theorem State.beginReset_spec {s : State} {p : Nat} (h : (s.part p).inReset = false) :
    (s.beginReset p).part p = (s.part p).ended ∧ (s.beginReset p).dram = s.dram ∧ (s.beginReset p).npd = s.npd.without p ∧
    (s.beginReset p).jobs = s.jobs.filter (fun j => j.fn != p || j.underWay) ∧
    ∀ c, (s.beginReset p).core c = if s.holdsCore p c = true then (s.core c).ended c else s.core c := by
  obtain ⟨cs, hcs, hcore⟩ := s.foldl_coresOf p (fun c x => x.ended c)
  simp only [State.beginReset, h, Bool.false_eq_true, if_false, hcs]
  exact ⟨State.part_updPart _ p _, rfl, rfl, rfl, hcore⟩

theorem Npd.without_keeps {n : Npd} {m : Msg} (hm : m ∈ n.msgs) (hs : m.stage = .deliver) (hd : m.done ≠ 0) (p : Nat) :
    m ∈ (n.without p).msgs :=
  List.mem_filter.2 ⟨hm, by simp [Msg.underWay, hs, hd]⟩

theorem Npd.without_threads {n : Npd} {p : Nat} {y : Nat × Thread} (hy : y ∈ (n.without p).threads) : y.2.part ≠ p := by
  simpa using (List.mem_filter.1 hy).2

/-! ## A reset ends -/

theorem State.resetWaits_iff (s : State) (p : Nat) : s.resetWaits p = true ↔
    (∃ w ∈ s.dram.nm, w.part = p) ∨ (∃ m ∈ s.npd.msgs, m.part = p) ∨ ∃ j ∈ s.jobs, j.fn = p := by
  simp only [State.resetWaits, Bool.or_eq_true, List.any_eq_true, beq_iff_eq, or_assoc]

theorem State.endReset_waits {s : State} {p : Nat} (h : s.resetWaits p = true) : s.endReset p = s :=
  if_pos (.inr h)

/-- Completion records written one after another: host memory and function registers alone change. -/
theorem State.foldl_writeRecord (p : Nat) (l : List HostCmd) (s : State) :
    ∃ m h, l.foldl (fun (s : State) c => s.writeRecord p c) s = { s with hostMem := m, host := h } := by
  refine List.foldlRecOn (motive := fun t : State => ∃ m h, t = { s with hostMem := m, host := h }) l _ ⟨s.hostMem, s.host, rfl⟩
    (fun t ht c _ => ?_)
  obtain ⟨m, h, rfl⟩ := ht
  exact ⟨_, _, rfl⟩

theorem State.endReset_spec {s : State} {p : Nat} (h : (s.part p).inReset = true) (hw : s.resetWaits p = false) :
    (s.endReset p).part p = (s.part p).cleared ∧ (s.endReset p).dram = s.dram ∧
    (s.endReset p).npd = s.npd.clearRange (s.part p) ∧
    (s.endReset p).hostFn p = { HostFn.reset with vectors := ((s.endReset p).hostFn p).vectors } ∧
    ∀ c, (s.endReset p).core c = if s.holdsCore p c = true then (s.core c).cleared else s.core c := by
  obtain ⟨cs, hcs, hcore⟩ := s.foldl_coresOf p (fun _ x => x.cleared)
  simp only [State.endReset, h, hw, Bool.not_true, Bool.false_eq_true, or_self, if_false, hcs]
  generalize hu : State.updPart _ p _ = u
  obtain ⟨m, hs, hms⟩ := State.foldl_writeRecord p (u.hostFn p).cmds u
  rw [hms, ← hu]
  refine ⟨State.part_updPart _ p _, rfl, rfl, ?_, hcore⟩
  rw [State.hostFn_updHost]
  rfl

theorem Npd.clearRange_counter (n : Npd) (x : Part) (k : Nat) :
    Tbl.get 0 (n.clearRange x).counters k = if x.hasCounter k = true then 0 else Tbl.get 0 n.counters k := by
  refine (Tbl.get_filter 0 n.counters (fun i => !x.hasCounter i) k).trans ?_
  cases x.hasCounter k <;> rfl

/-! ## Function level resets -/

theorem exec_reset_none {s : State} {p : Nat} (h : p = 0 ∨ 64 ≤ p ∨ (s.part p).live = false) :
    exec (.functionLevelResetVf p) s = .next s := by
  refine congrArg Host.Outcome.next (if_pos ?_)
  simpa using h

section
variable {s : State} {p : Nat} (h0 : 0 < p) (h64 : p < 64) (hl : (s.part p).live = true)
include h0 h64 hl

theorem exec_reset_live :
    exec (.functionLevelResetVf p) s = .next (if (s.part p).inReset then s.endReset p else s.beginReset p) := by
  refine congrArg Host.Outcome.next (if_neg ?_)
  rintro (hz | hbig | hdead)
  · exact h0.ne' hz
  · exact Nat.not_lt.2 hbig h64
  · simp [hl] at hdead

/-- A reset ends what the partition runs; the writes under way go on (R21). -/
theorem exec_reset_begins (hr : (s.part p).inReset = false) : ∃ t, exec (.functionLevelResetVf p) s = .next t ∧
    (t.part p).inReset = true ∧ (t.part p).events = [] ∧ (t.part p).recs = [] ∧ (t.part p).sends = [] ∧
    (t.part p).root = (s.part p).root ∧ (t.part p).key = (s.part p).key ∧ t.dram = s.dram ∧
    (∀ c k, c < 72 → s.holdsCore p c = true → t.slot c k = Slot.reset ∧ (t.core c).queue = [] ∧
      (t.core c).scratch = (s.core c).scratch ∧ (t.core c).frz = Frz.reset ∧ (t.core c).swaps = 0 ∧ (t.core c).range = 0) ∧
    (∀ m ∈ s.npd.msgs, m.part = p → m.stage = .deliver → m.done ≠ 0 → m ∈ t.npd.msgs) ∧
    (∀ j ∈ s.jobs, j.fn = p → j.op = 2 → j.done ≠ 0 → j ∈ t.jobs) ∧
    (∀ c, s.holdsCore p c = false → t.core c = s.core c) ∧ ∀ y ∈ t.npd.threads, y.2.part ≠ p := by
  obtain ⟨hpart, hdram, hnpd, hjobs, hcore⟩ := State.beginReset_spec hr
  refine ⟨s.beginReset p, by rw [exec_reset_live h0 h64 hl, hr]; rfl, ?_⟩
  rw [hpart, hnpd, hjobs]
  refine ⟨rfl, rfl, rfl, rfl, rfl, rfl, hdram, fun c k _ hc => ?_, fun m hm _ hs hd => Npd.without_keeps hm hs hd p,
    fun j hj _ ho hd => List.mem_filter.2 ⟨hj, by simp [HostJob.underWay, ho, hd]⟩,
    fun c hc => (hcore c).trans (if_neg (by simp [hc])), fun y hy => Npd.without_threads hy⟩
  have hce := (hcore c).trans (if_pos hc)
  rw [State.slot, hce]
  exact ⟨rfl, rfl, Core.ended_scratch _ c, rfl, rfl, rfl⟩

theorem exec_reset_waits (hr : (s.part p).inReset = true)
    (hw : (∃ w ∈ s.dram.nm, w.part = p) ∨ (∃ m ∈ s.npd.msgs, m.part = p) ∨ ∃ j ∈ s.jobs, j.fn = p) :
    exec (.functionLevelResetVf p) s = .next s := by
  rw [exec_reset_live h0 h64 hl, if_pos hr, State.endReset_waits ((s.resetWaits_iff p).2 hw)]

/-- Once nothing of the partition is under way the reset clears what it holds. -/
theorem exec_reset_ends (hr : (s.part p).inReset = true) (hnm : ∀ w ∈ s.dram.nm, w.part ≠ p) (hmsgs : ∀ m ∈ s.npd.msgs, m.part ≠ p)
    (hjobs : ∀ j ∈ s.jobs, j.fn ≠ p) : ∃ t, exec (.functionLevelResetVf p) s = .next t ∧
    (t.part p).inReset = false ∧ (t.part p).doms = [] ∧ t.dram = s.dram ∧ (t.part p).npart3 = (s.part p).npart3 &&& ~~~0xF80000 ∧
    (t.hostFn p = { HostFn.reset with vectors := (t.hostFn p).vectors }) ∧
    (∀ c, s.holdsCore p c = true → (t.core c).tiles = [] ∧ (t.core c).templates = [] ∧
      ∀ a, (a < 0x800000 → t.byteAt (.scratch c) a = 0) ∧ t.byteAt (.plane c 0) a = 0 ∧ t.byteAt (.plane c 1) a = 0) ∧
    (∀ n, (s.part p).hasCounter n = true → t.counter n = 0) ∧ ∀ n, (s.part p).hasCounter n = false → t.counter n = s.counter n := by
  have hw : s.resetWaits p = false := by
    rw [Bool.eq_false_iff, Ne, State.resetWaits_iff]
    rintro (⟨w, hw, he⟩ | ⟨m, hm, he⟩ | ⟨j, hj, he⟩)
    exacts [hnm w hw he, hmsgs m hm he, hjobs j hj he]
  obtain ⟨hpart, hdram, hnpd, hfn, hcore⟩ := State.endReset_spec hr hw
  have hctr (n : Nat) : (s.endReset p).counter n = if (s.part p).hasCounter n = true then 0 else s.counter n := by
    rw [State.counter, hnpd]
    exact Npd.clearRange_counter s.npd _ n
  refine ⟨s.endReset p, by rw [exec_reset_live h0 h64 hl, if_pos hr], ?_⟩
  rw [hpart]
  refine ⟨rfl, rfl, hdram, rfl, hfn, fun c hc => ?_, fun n hn => (hctr n).trans (if_pos hn),
    fun n hn => (hctr n).trans (if_neg (by simp [hn]))⟩
  have hce := (hcore c).trans (if_pos hc)
  simp only [State.byteAt, State.store, hce]
  exact ⟨rfl, rfl, fun a => ⟨fun ha => memGet_clear _ (Nat.zero_le a) (by omega), rfl, rfl⟩⟩

end

/-- PF0's own reset ends its receive ring, and empties its command ring where no command is under way. -/
theorem exec_resetPf0 {s : State} (h : (s.hostFn 0).cmds = []) : ∃ t, exec .functionLevelResetPf0 s = .next t ∧
    t.hostFn 0 = { s.hostFn 0 with
      rxEn := false, next := 0, head := 0, doneT := 0, commits := [], frames := [], resetting := false } := by
  refine ⟨_, rfl, (State.hostFn_updHost s 0 _).trans ?_⟩
  rw [HostFn.reset1_idle h]

end Sys2Proof.Machine
end

section
/-! SUPPORT. Completion records of the command ring (R412, R413). -/

namespace Sys2Proof.Machine

/-! ## Reads behind a write -/

theorem memNat_write_above (m : Memory) {a n b : Nat} (h : a + n ≤ b) (bs : List Byte) :
    memNat (memWrite m b bs) a n = memNat m a n := by
  rw [memNat_eq, memNat_eq, memRead_eq, memRead_eq]
  refine congrArg leNat (List.map_congr_left fun i hi => ?_)
  have hi := List.mem_range.1 hi
  rw [memGet_write, if_neg (by omega)]

theorem recordBytes_length (c : HostCmd) : (recordBytes c).length = 16 := by
  simp only [recordBytes, List.length_append, leBytes_length]

/-- The two doublewords of a record where it was written. -/
theorem memNat_record (m : Memory) (a : Nat) {c : HostCmd} (ht : c.ticket < 2 ^ 32) (hs : c.status < 2 ^ 16) :
    memNat (memWrite m a (recordBytes c)) a 8 = c.ticket * 2 ^ 32 + c.status * 2 ^ 16 ∧
    memNat (memWrite m a (recordBytes c)) (a + 8) 8 = c.tag.toNat * 2 ^ 32 + c.detail % 2 ^ 32 := by
  have htag := c.tag.isLt
  rw [recordBytes, memWrite_append, leBytes_length]
  constructor
  · rw [memNat_write_above _ (Nat.le_refl _), memNat_write]
    omega
  · rw [memNat_write]
    omega

/-! ## The function once a command has completed -/

theorem HostFn.raise_vectors (x : HostFn) (v n : Nat) :
    Tbl.get 0 (x.raise v).vectors n = Tbl.get 0 x.vectors n + if n = v then 1 else 0 := by
  rw [HostFn.raise, Tbl.get_set]
  split
  · next h => rw [h]
  · rfl

theorem State.updHost_withHostMem (s : State) (m : Memory) (fn : Nat) (f : HostFn → HostFn) :
    State.updHost { s with hostMem := m } fn f = { s with hostMem := m, host := Tbl.set s.host fn (f (s.hostFn fn)) } := rfl

/-- The vectors that a completion raises. -/
def HostFn.notified (x : HostFn) (c : HostCmd) : HostFn :=
  let y := if c.irq then x.raise 0 else x
  if c.status = 6 then y.raise 1 else y

theorem HostFn.notified_fields (x : HostFn) (c : HostCmd) : ∃ vs, x.notified c = { x with vectors := vs } ∧
    ∀ n, Tbl.get 0 vs n = Tbl.get 0 x.vectors n + (if c.irq = true ∧ n = 0 then 1 else 0) + (if c.status = 6 ∧ n = 1 then 1 else 0) := by
  by_cases hi : c.irq = true <;> by_cases hs : c.status = 6
  · refine ⟨((x.raise 0).raise 1).vectors, by simp [HostFn.notified, hi, hs, HostFn.raise], fun n => ?_⟩
    simp [HostFn.raise_vectors, hi, hs]
  · refine ⟨(x.raise 0).vectors, by simp [HostFn.notified, hi, hs, HostFn.raise], fun n => ?_⟩
    simp [HostFn.raise_vectors, hi, hs]
  · refine ⟨(x.raise 1).vectors, by simp [HostFn.notified, hi, hs, HostFn.raise], fun n => ?_⟩
    simp [HostFn.raise_vectors, hi, hs]
  · exact ⟨x.vectors, by simp [HostFn.notified, hi, hs], fun n => by simp [hi, hs]⟩

/-- Host memory and the function's vectors are all that a record changes. -/
theorem State.writeRecord_eq (s : State) (fn : Nat) (c : HostCmd) : s.writeRecord fn c = { s with
    hostMem := memWrite s.hostMem ((s.hostFn fn).cqBase.toNat + c.ticket % 2 ^ (s.hostFn fn).rlog * 16) (recordBytes c),
    host := Tbl.set s.host fn ((s.hostFn fn).notified c) } :=
  State.updHost_withHostMem s _ fn (·.notified c)

theorem HostFn.settle_done {x : HostFn} (hc : x.cmds = []) (hr : x.resetting = false) :
    ∃ cs, x.settle = { x with doneT := x.head, commits := cs } := by
  refine ⟨x.commits.filter (fun t => decide (ahead t x.head < ahead x.next x.head)), ?_⟩
  simp [HostFn.settle, hc, hr]

/-! ## COMMAND_COMPLETION -/

/-- The state after a command's completion. -/
def State.completed (s : State) (fn : Nat) (c : HostCmd) : State :=
  ((s.linkServed fn).writeRecord fn c).updHost fn (fun x =>
    HostFn.settle { x with cmds := x.cmds.filter (fun d => d.ticket != c.ticket) })

theorem State.endResets_none {s : State} (h : ∀ e ∈ s.parts, e.2.inReset = false) : s.endResets = s := by
  refine List.foldlRecOn (motive := fun t : State => t = s) s.parts _ rfl (fun t ht e he => ?_)
  simp [h e he, ht]

section
variable {s : State} {fn : Nat} {c : HostCmd} (hc : (s.hostFn fn).cmds = [c]) (hp : ∀ e ∈ s.parts, e.2.inReset = false)
include hc hp

theorem exec_completion_waits (h : c.subs ≠ 0 ∨ c.issuing = true) : exec (.commandCompletion fn c.ticket) s = .next s := by
  have hr : (s.hostFn fn).ready c = false := by
    rcases h with h | h <;> simp [HostFn.ready, h]
  refine congrArg Host.Outcome.next ?_
  simp [State.endResets_none hp, hc, hr]

theorem exec_completion_done (hl : s.linkTurn fn = true) (hs : c.subs = 0) (hi : c.issuing = false) :
    exec (.commandCompletion fn c.ticket) s = .next (s.completed fn c) := by
  have hr : (s.hostFn fn).ready c = true := by simp [HostFn.ready, hs, hi, hc]
  have hrun : (s.part fn).inReset = false := Tbl.get_holds (P := fun x : Part => x.inReset = false) rfl hp fn
  refine congrArg Host.Outcome.next ?_
  simp [State.endResets_none hp, hc, hr, hrun, hl]
  rfl

end

theorem State.completed_hostFn {s : State} {fn : Nat} {c : HostCmd} (hc : (s.hostFn fn).cmds = [c])
    (hr : (s.hostFn fn).resetting = false) : ∃ cs vs, (s.completed fn c).hostFn fn =
      { s.hostFn fn with cmds := [], doneT := (s.hostFn fn).head, commits := cs, vectors := vs } ∧
    ∀ n, Tbl.get 0 vs n = Tbl.get 0 (s.hostFn fn).vectors n + (if c.irq = true ∧ n = 0 then 1 else 0) +
      (if c.status = 6 ∧ n = 1 then 1 else 0) := by
  obtain ⟨vs, hvs, hn⟩ := (s.hostFn fn).notified_fields c
  have hrec : ((s.linkServed fn).writeRecord fn c).hostFn fn = (s.hostFn fn).notified c := by
    rw [State.writeRecord_eq]
    exact Tbl.get_set_same _ _ fn _
  obtain ⟨cs, hcs⟩ := HostFn.settle_done (x := { s.hostFn fn with cmds := [], vectors := vs }) rfl hr
  refine ⟨cs, vs, ?_, hn⟩
  rw [State.completed, State.hostFn_updHost, hrec, hvs]
  simpa [hc] using hcs

theorem State.completed_hostMem (s : State) (fn : Nat) (c : HostCmd) : (s.completed fn c).hostMem =
    memWrite s.hostMem ((s.hostFn fn).cqBase.toNat + c.ticket % 2 ^ (s.hostFn fn).rlog * 16) (recordBytes c) := rfl

theorem State.completed_byteAt (s : State) (fn : Nat) (c : HostCmd) {m : Store} (h : m ≠ .host) (a : Nat) :
    (s.completed fn c).byteAt m a = s.byteAt m a := by
  cases m with
  | host => exact absurd rfl h
  | scratch _ => rfl
  | plane _ _ => rfl
  | handlers => rfl
  | tiers => rfl
  | crib _ _ => rfl

end Sys2Proof.Machine
end

section
/-! SUPPORT. The watchdogs of the update and of the firmware (R422, R424). -/

namespace Sys2Proof.Machine

/-! ## The update's limit -/

theorem exec_quiesce_waits {s : State} {u : Update} (hu : s.fw.update = some u)
    (h : npdCycles s.cycle < u.start + 2 ^ 20 ∨ s.fwBusy = false) : exec .updateQuiesceTimeout s = .next s := by
  refine congrArg Host.Outcome.next ?_
  simp only [hu]
  refine if_neg fun ⟨hd, hb⟩ => h.elim (fun hlt => Nat.not_le.2 hlt hd) (fun hf => ?_)
  rw [hf] at hb
  cases hb

theorem exec_quiesce_ends {s : State} {u : Update} (hu : s.fw.update = some u) (hd : u.start + 2 ^ 20 ≤ npdCycles s.cycle)
    (hb : s.fwBusy = true) : exec .updateQuiesceTimeout s = .next (s.updateFails u) := by
  refine congrArg Host.Outcome.next ?_
  simp only [hu]
  exact if_pos ⟨hd, hb⟩

/-- The update's command, where it stands alone and has no status yet, ends with status 0x13. -/
theorem State.updateFails_cmds {s : State} {u : Update} {c : HostCmd} (hc : (s.hostFn u.fn).cmds = [c]) (ht : c.ticket = u.ticket)
    (hs : c.status = 0) (hi : c.index = 0) :
    ((s.updateFails u).hostFn u.fn).cmds = [{ c with subs := c.subs - 1, status := 0x13, detail := 0 }] := by
  have hcmds : ((s.updateFails u).hostFn u.fn).cmds = (s.hostFn u.fn).cmds.map (fun (c : HostCmd) =>
      if c.ticket = u.ticket then c.partEnds 0x13 u.index 0 else c) :=
    congrArg HostFn.cmds (State.hostFn_updHost _ u.fn _)
  rw [hcmds, hc]
  simp [ht, HostCmd.partEnds, hs, hi]

/-! ## Threads that end -/

/-- What the end of threads leaves of the machine, for the firmware's sake. -/
def State.threadsEnd (s t : State) : Prop :=
  (∃ n, t.fw = { s.fw with faults := n }) ∧ t.cycle = s.cycle

theorem State.threadFault_spec (s : State) (t cls sub : Nat) (addr : DWord) :
    s.threadsEnd (s.threadFault t cls sub addr) ∧ (s.threadFault t cls sub addr).npd.threads = Tbl.erase s.npd.threads t := by
  have hf : ∃ n, (if (s.thread t).part = 0 then { s with fw := { s.fw with faults := s.fw.faults + 1 } } else s) =
      { s with fw := { s.fw with faults := n } } := by
    split
    · exact ⟨_, rfl⟩
    · exact ⟨_, rfl⟩
  obtain ⟨n, hn⟩ := hf
  simp only [State.threadFault, hn]
  cases (s.thread t).job with
  | msg id =>
    refine ⟨⟨⟨n, rfl⟩, rfl⟩, congrArg (Tbl.erase · t) ?_⟩
    dsimp only
    split
    · split <;> rfl
    · rfl
  | event k =>
    dsimp only
    split
    · exact ⟨⟨⟨n, rfl⟩, rfl⟩, rfl⟩
    · exact ⟨⟨⟨n, rfl⟩, rfl⟩, rfl⟩
  | boot => exact ⟨⟨⟨n, rfl⟩, rfl⟩, rfl⟩

/-- The threads of a list that partition 0 owns end, each by the watchdog. -/
def State.endFirmware (s : State) (l : List (Nat × Thread)) : State :=
  l.foldl (fun (s : State) (t, x) => if x.part = 0 then s.threadFault t 8 0 0 else s) s

theorem State.endFirmware_spec (l : List (Nat × Thread)) (s : State) : s.threadsEnd (s.endFirmware l) ∧
    ∀ y ∈ (s.endFirmware l).npd.threads, y ∈ s.npd.threads ∧ ∀ e ∈ l, e.2.part = 0 → y.1 ≠ e.1 := by
  induction l generalizing s with
  | nil => exact ⟨⟨⟨_, rfl⟩, rfl⟩, fun y hy => ⟨hy, fun e he => absurd he List.not_mem_nil⟩⟩
  | cons a l ih =>
    obtain ⟨t, x⟩ := a
    by_cases hx : x.part = 0
    · obtain ⟨⟨⟨n, hn⟩, hc⟩, ht⟩ := s.threadFault_spec t 8 0 0
      obtain ⟨⟨⟨m, hm⟩, hd⟩, hy⟩ := ih (s.threadFault t 8 0 0)
      have hstep : s.endFirmware ((t, x) :: l) = (s.threadFault t 8 0 0).endFirmware l := congrArg (State.endFirmware · l) (if_pos hx)
      rw [hstep]
      refine ⟨⟨⟨m, by rw [hm, hn]⟩, hd.trans hc⟩, fun y hmem => ?_⟩
      obtain ⟨hin, hne⟩ := hy y hmem
      rw [ht] at hin
      obtain ⟨hs, hyt⟩ := Tbl.mem_erase hin
      exact ⟨hs, List.forall_mem_cons.2 ⟨fun _ => hyt, hne⟩⟩
    · obtain ⟨hend, hy⟩ := ih s
      have hstep : s.endFirmware ((t, x) :: l) = s.endFirmware l := congrArg (State.endFirmware · l) (if_neg hx)
      rw [hstep]
      refine ⟨hend, fun y hmem => ⟨(hy y hmem).1, List.forall_mem_cons.2 ⟨fun h0 => absurd h0 hx, (hy y hmem).2⟩⟩⟩

/-- No thread of partition 0 is left. -/
theorem State.endFirmware_threads (s : State) : ∀ y ∈ (s.endFirmware s.npd.threads).npd.threads, y.2.part ≠ 0 := by
  intro y hy hp
  obtain ⟨hin, hne⟩ := (State.endFirmware_spec s.npd.threads s).2 y hy
  exact hne y hin hp rfl

/-! ## The firmware's watchdog -/

theorem State.tableVersion_dram (s : State) : ∃ d, s.tableVersion.1 = { s with dram := d } := by
  have hr : ∃ d, (s.readPhys stateTableAt 8 0 false).1 = { s with dram := d } := by
    unfold State.readPhys
    split
    · exact ⟨s.dram, rfl⟩
    · exact ⟨_, rfl⟩
  obtain ⟨d, hd⟩ := hr
  refine ⟨d, ?_⟩
  rw [← hd, State.tableVersion]
  split <;> next h => rw [h]

theorem State.runImage_threads (s : State) :
    (s.freeThread 0, newThread 0 .boot (imgEntry s.fw.img) [] s.cycle 0) ∈ s.runImage.npd.threads ∧
    ∀ y ∈ s.runImage.npd.threads, y = (s.freeThread 0, newThread 0 .boot (imgEntry s.fw.img) [] s.cycle 0) ∨ y ∈ s.npd.threads :=
  ⟨Tbl.mem_set_self _ _ _, fun _ hy => Tbl.mem_of_mem_set hy⟩

theorem exec_watchdog_waits {s : State} (h : ¬ npdCycles s.fw.served + 2 ^ 22 ≤ npdCycles s.cycle ∨ s.fw.up = false) :
    exec .firmwareWatchdogFailover s = .next s := by
  refine congrArg Host.Outcome.next (if_pos (h.imp Nat.lt_of_not_le fun hu => ?_))
  rw [hu]
  rfl

/-- The standby's image takes the place of the active one. -/
def State.failedOver (s : State) (now : Nat) : State := { s with fw := { s.fw with
  complexB := !s.fw.complexB, ver := s.fw.sbyVer, img := s.fw.sbyImg, sby := false, served := now } }

section
variable {s : State} (hlate : npdCycles s.fw.served + 2 ^ 22 ≤ npdCycles s.cycle) (hup : s.fw.up = true)
  (hu : s.fw.update = none)
include hlate hup hu

theorem exec_watchdog_late : exec .firmwareWatchdogFailover s = .next (
    let v := s.endFirmware s.npd.threads
    if v.fw.sby then (v.failedOver v.cycle).tableVersion.1.runImage else { v with fw := { v.fw with up := false } }) := by
  refine congrArg Host.Outcome.next ((if_neg ?_).trans ?_)
  · simp only [hup, Bool.not_true, Bool.false_eq_true, or_false]
    exact Nat.not_lt.2 hlate
  · simp only [hu]
    rfl

/-- With no standby the module goes on without firmware. -/
theorem exec_watchdog_alone (hsby : s.fw.sby = false) : ∃ t, exec .firmwareWatchdogFailover s = .next t ∧
    t.fw.up = false ∧ t.fw.complexB = s.fw.complexB ∧ ∀ y ∈ t.npd.threads, y.2.part ≠ 0 := by
  obtain ⟨⟨n, hn⟩, _⟩ := (State.endFirmware_spec s.npd.threads s).1
  have hexec := exec_watchdog_late hlate hup hu
  simp only [hn, hsby, Bool.false_eq_true, if_false] at hexec
  exact ⟨_, hexec, rfl, rfl, s.endFirmware_threads⟩

/-- With one it runs the standby's image, in the only thread of partition 0. -/
theorem exec_watchdog_standby (hsby : s.fw.sby = true) : ∃ t n x, exec .firmwareWatchdogFailover s = .next t ∧
    t.fw.up = true ∧ t.fw.complexB = (!s.fw.complexB) ∧ t.fw.ver = s.fw.sbyVer ∧ t.fw.img = s.fw.sbyImg ∧ t.fw.sby = false ∧
    t.fw.served = s.cycle ∧ (n, x) ∈ t.npd.threads ∧ x.job = .boot ∧ x.strm.line = imgEntry s.fw.sbyImg ∧ x.strm.word = 0 ∧
    x.strm.mode = .running ∧ ∀ y ∈ t.npd.threads, y.2.part = 0 → y = (n, x) := by
  obtain ⟨⟨n, hn⟩, hcyc⟩ := (State.endFirmware_spec s.npd.threads s).1
  have hleft := s.endFirmware_threads
  have hexec := exec_watchdog_late hlate hup hu
  generalize s.endFirmware s.npd.threads = v at hn hcyc hleft hexec
  have hv : v.fw.sby = true := by rw [hn, hsby]
  simp only [hv, if_true] at hexec
  obtain ⟨d, hd⟩ := (v.failedOver v.cycle).tableVersion_dram
  rw [hd] at hexec
  obtain ⟨hin, hall⟩ := State.runImage_threads { v.failedOver v.cycle with dram := d }
  have hvup : v.fw.up = true := by rw [hn, hup]
  have hcx : v.fw.complexB = s.fw.complexB := by rw [hn]
  have hver : v.fw.sbyVer = s.fw.sbyVer := by rw [hn]
  have himg : v.fw.sbyImg = s.fw.sbyImg := by rw [hn]
  exact ⟨_, _, _, hexec, hvup, congrArg (!·) hcx, hver, himg, rfl, hcyc, hin, rfl, congrArg (fun i => (imgEntry i : Int)) himg, rfl, rfl,
    fun y hy h0 => (hall y hy).resolve_right fun hv => hleft y hv h0⟩

end

end Sys2Proof.Machine
end

section
/-! Function registers, function level resets and completion (O56). -/

namespace Sys2Proof.Machine

/-- Settles O56: each register write is one operation of `HostFn`, a partition reset changes the partition's cores one by one and
the rest at once, and the firmware's watchdog ends every thread of partition 0 before the standby's image starts. -/
theorem hostRegistersAndResets : Obligations.HostRegistersAndResets := by
  unfold Obligations.HostRegistersAndResets
  refine ⟨?_, ?_, ?_, ?_, ?_⟩
  · intro s fn v x gives n log
    refine ⟨fun hl => exec_registers_dead hl v, fun off hl => congrArg Host.Outcome.next (State.barWrite_dead hl off v), fun hl => ?_⟩
    have on {i : Instr} {f : HostFn → HostFn} {y : HostFn} (hi : exec i s = .next (s.onFn fn f)) (hy : f x = y) : gives i y :=
      State.gives_onFn hl hi hy
    refine ⟨fun hen hroom => ?room, fun hnone => ?full,
      fun hout hc => on rfl (HostFn.commit_out hout hc),
      fun hbad => on rfl (HostFn.commit_bad hbad),
      fun hen => State.gives_enable hl (HostFn.writeCfg_enabled hen v) (.inl hen),
      fun hoff hbad => State.gives_enable hl (HostFn.writeCfg_bad hoff hbad) (.inr hoff),
      fun hoff hon h6 h16 => ?starts,
      fun hen => on rfl (HostFn.writeRx_enabled hen v),
      fun hoff => on rfl (HostFn.writeRx_disabled hoff v),
      fun hidle => on rfl (HostFn.reset1_idle hidle),
      fun hbusy => on rfl (HostFn.reset1_busy hbusy),
      on rfl rfl,
      fun hoff => ⟨on rfl (if_neg (by simp [hoff])), on rfl (if_neg (by simp [hoff]))⟩,
      fun hen => ⟨on rfl (if_pos hen), on rfl (if_pos hen)⟩,
      fun hoff => on rfl (if_neg (by simp [hoff])),
      on rfl rfl, rfl, rfl, rfl,
      fun hv => hv ▸ exec_control_resume s fn,
      fun hv => hv ▸ exec_control_reset s fn⟩
    case room =>
      have hr := HostFn.resv_room hen hroom
      exact ⟨congrArg Prod.snd hr, on rfl (congrArg Prod.fst hr)⟩
    case full =>
      have hr := HostFn.resv_none hnone
      exact ⟨congrArg Prod.snd hr, on rfl (congrArg Prod.fst hr)⟩
    case starts =>
      have hcfg := HostFn.writeCfg_starts hoff hon h6 h16
      obtain ⟨t, ht, hjobs, hupd, hwaits, hfn⟩ := exec_enable_starts (v := v) hl hoff (by rw [hcfg])
      exact ⟨t, ht, hjobs, hupd, hwaits, hfn.trans hcfg⟩
  · intro s p x
    exact ⟨exec_reset_none, exec_reset_begins, exec_reset_waits, exec_reset_ends, exec_resetPf0⟩
  · intro s fn c x hc hp hl
    refine ⟨exec_completion_waits hc hp, fun hs hi hr => ⟨s.completed fn c, exec_completion_done hc hp hl hs hi, ?_⟩⟩
    obtain ⟨cs, vs, hy, hvs⟩ := State.completed_hostFn hc hr
    dsimp only
    rw [hy, State.completed_hostMem]
    refine ⟨rfl, rfl, rfl, rfl, rfl, fun ht hst => memNat_record _ _ ht hst, fun a ha => ?_,
      fun m a hm => State.completed_byteAt s fn c hm a, hvs⟩
    rw [memGet_write, recordBytes_length, if_neg fun hin => ha.elim (Nat.not_lt.2 hin.1) (Nat.not_le.2 hin.2)]
  · intro s u hu
    exact ⟨exec_quiesce_waits hu, fun hd hb => ⟨s.updateFails u, exec_quiesce_ends hu hd hb, rfl,
      fun c hc ht hs hi => State.updateFails_cmds hc ht hs hi⟩⟩
  · intro s late
    exact ⟨exec_watchdog_waits, exec_watchdog_alone, exec_watchdog_standby⟩

end Sys2Proof.Machine
end
section
/-! SUPPORT. Turns: the words of a stream decode to no step that has a place of its own in a core cycle, and the beginning of a
turn leaves a part that runs running (R433). -/

namespace Sys2Proof

/-! ## Decoded instructions have no place of their own in a core cycle -/

/-- Every instruction that a table of the opcode map gives is brought at once: no place of `turnRank` is its own. -/
def unplaced (o : Option OpDec) : Prop := ∀ p, o = some p → Machine.turnRank (.event p.ins) = none

theorem unplaced_some {o : OpDec} (h : Machine.turnRank (.event o.ins) = none) : unplaced (some o) :=
  fun _ e => Option.some.inj e ▸ h

theorem decTset_unplaced (l : Long) : Machine.turnRank (.event (decTset l).ins) = none := by
  unfold decTset
  dsimp only
  split <;> rfl

theorem decPart_unplaced (l : Long) : Machine.turnRank (.event (decPart l).ins) = none := by
  unfold decPart
  dsimp only
  split <;> rfl

theorem decScalar_unplaced (l : Long) (n : Nat) : unplaced (decScalar l n) := by
  unfold decScalar
  split <;> rintro _ ⟨⟩ <;> rfl

theorem decControl_unplaced (cls : Option Cls) (l : Long) (n : Nat) : unplaced (decControl cls l n) := by
  unfold decControl
  split <;> rintro _ ⟨⟩ <;> rfl

theorem decElem_unplaced (l : Long) (n : Nat) : unplaced (decElem l n) := by
  unfold decElem decVTy
  extract_lets int
  split <;> try split
  all_goals (rintro _ ⟨⟩ <;> rfl)

theorem decAxis_unplaced (l : Long) (n : Nat) : unplaced (decAxis l n) := by
  unfold decAxis
  split <;> rintro _ ⟨⟩ <;> rfl

theorem decMatrix_unplaced (l : Long) (n : Nat) : unplaced (decMatrix l n) := by
  unfold decMatrix
  split <;> rintro _ ⟨⟩ <;> rfl

theorem decMemory_unplaced (l : Long) (n : Nat) : unplaced (decMemory l n) := by
  unfold decMemory
  split
  case h_4 => exact unplaced_some (by split <;> rfl)
  all_goals (rintro _ ⟨⟩ <;> rfl)

theorem decEngine_unplaced (l : Long) (n : Nat) : unplaced (decEngine l n) := by
  unfold decEngine
  split
  case h_12 => exact unplaced_some (decTset_unplaced l)
  all_goals (rintro _ ⟨⟩ <;> rfl)

theorem decSystem_unplaced (cls : Option Cls) (l : Long) (n : Nat) : unplaced (decSystem cls l n) := by
  unfold decSystem
  split
  case h_18 => exact unplaced_some (decPart_unplaced l)
  all_goals (rintro _ ⟨⟩ <;> rfl)

theorem opDec_unplaced (cls : Option Cls) (l : Long) : unplaced (opDec cls l) := by
  unfold opDec
  extract_lets n
  split
  · exact decScalar_unplaced l n
  · exact decControl_unplaced cls l n
  · exact decElem_unplaced l _
  · exact decAxis_unplaced l n
  · exact decMatrix_unplaced l n
  · exact decMemory_unplaced l n
  · exact decEngine_unplaced l n
  · exact decSystem_unplaced cls l n

theorem decShortA_unplaced (w : Word) : unplaced (decShortA w) := by
  unfold decShortA
  extract_lets d a b i z
  split <;> rintro _ ⟨⟩ <;> rfl

theorem decShortB_unplaced (w : Word) : unplaced (decShortB w) := by
  unfold decShortB
  extract_lets d i
  split <;> rintro _ ⟨⟩ <;> rfl

/-- The checks let through the instruction of the table, or none. -/
theorem check_ins {cls : Option Cls} {o : OpDec} {i : Instr} (h : check cls o = .ok i) : o.ins = i := by
  unfold check at h
  grind

theorem decode_unplaced {cls : Option Cls} {ws : List Word} {i : Instr} (h : decode cls ws = .ok i) :
    Machine.turnRank (.event i) = none := by
  have through {o : Option OpDec} (ho : unplaced o)
      (e : (match o with | none => .error 2 | some p => check cls p) = Except.ok i) : Machine.turnRank (.event i) = none := by
    cases o with
    | none => cases e
    | some p => exact check_ins e ▸ ho p rfl
  unfold decode at h
  split at h
  · cases h
  · split at h
    · exact through (decShortA_unplaced _) h
    · exact through (decShortB_unplaced _) h
    · split at h
      · exact through (opDec_unplaced cls _) h
      · cases h
    · split at h
      · exact through (opDec_unplaced cls _) h
      · cases h

end Sys2Proof
end
section
/-! SUPPORT. What falls due as a core cycle goes on leaves the part running: launches, firings, deliveries and closing reduction
slots leave the cryogenic state, and re-placements only empty the list of dies to place anew (R315, R433). -/

namespace Sys2Proof.Machine

/-! ## Queues and launches -/

theorem State.event_cryo (s : State) (p kind sub index : Nat) (i1 i2 : DWord) : (s.event p kind sub index i1 i2).cryo = s.cryo := rfl

theorem State.joinQueue_cryo (s : State) (c : Nat) (e : TaskEntry) : (s.joinQueue c e).1.cryo = s.cryo := by
  unfold State.joinQueue State.pushEntry
  grind [State.spill_cryo, State.updCore_cryo]

theorem State.join_cryo (s : State) (c : Nat) (q : Piece) : (s.join c q).1.cryo = s.cryo := by
  unfold State.join State.joinGang
  grind [State.joinQueue_cryo, State.updPart_cryo, State.updBay_cryo]

theorem State.freshViews_cryo (s : State) (die p : Nat) : (s.freshViews die p).cryo = s.cryo :=
  State.foldl_cryo (fun _ _ => by split <;> rfl) _ s

theorem State.placeAny_cryo (s : State) (die p : Nat) (h : List DWord) : (s.placeAny die p h).1.cryo = s.cryo := by
  unfold State.placeAny State.placeGang
  grind [State.placeTask_cryo, State.freshViews_cryo, State.updDie_cryo]

theorem State.drawId_cryo (s : State) (p : Nat) : (s.drawId p).1.cryo = s.cryo := rfl

theorem State.launchPiece_cryo (s : State) (p : Nat) (h : List DWord) (host : Option (Nat × Nat × Nat)) :
    (s.launchPiece p h host).1.cryo = s.cryo := by
  unfold State.launchPiece State.newPiece
  grind [State.placeAny_cryo, State.drawId_cryo, State.join_cryo, State.updPart_cryo, State.updCore_cryo, State.ringFaultEvent,
    State.event_cryo]

theorem State.launchAt_cryo (s : State) (p : Nat) (a : DWord) (host : Option (Nat × Nat × Nat)) :
    (s.launchAt p a host).1.cryo = s.cryo := by
  unfold State.launchAt
  grind [State.readMem_cryo, State.launchPiece_cryo]

theorem State.launchJoin_cryo (s : State) (p : Nat) (seen ws : List WaitLaunch) : (s.launchJoin p seen ws).cryo = s.cryo := by
  induction ws generalizing seen with
  | nil => rfl
  | cons w ws ih => grind [State.launchJoin, State.hostPart, State.drawId_cryo, State.join_cryo, State.updPart_cryo,
      State.updCore_cryo, State.updHost_cryo, State.ringFaultEvent, State.event_cryo]

theorem State.joinWaits_cryo (s : State) : s.joinWaits.cryo = s.cryo :=
  State.foldl_cryo (fun s _ => State.foldl_cryo (fun s _ => State.launchJoin_cryo s _ _ _) _ s) s.parts s

/-! ## Sends, firings and advances -/

theorem State.launchSend_cryo (s : State) (p : Nat) (block : DWord) (peer : Nat) (rod : Bool) (cen : Option Nat) (hdr : List DWord)
    (payload : List Byte) : (s.launchSend p block peer rod cen hdr payload).cryo = s.cryo := by
  have ht (s : State) (d : Send) : (s.transmit p d).1.cryo = s.cryo := by
    unfold State.transmit State.loopMsg State.rxWrite State.linkServed
    grind [State.updHost_cryo]
  unfold State.launchSend State.sendArrives State.sendFailed State.dropSend
  grind [State.updPart_cryo, State.event_cryo]

theorem State.sendAt_cryo (s : State) (p : Nat) (x : Acc) (a : Nat) : (s.sendAt p x a).1.cryo = s.cryo := by
  unfold State.sendAt
  grind [State.readMem_cryo, State.launchSend_cryo]

theorem State.firedCopy_cryo (s : State) (p n : Nat) (arg : DWord) : (s.firedCopy p n arg).1.cryo = s.cryo := by
  unfold State.firedCopy State.refusedAct
  grind [State.event_cryo, State.updCore_cryo, State.updBay_cryo]

theorem State.action_cryo (s : State) (p n act : Nat) (arg : DWord) : (s.action p n act arg).1.cryo = s.cryo := by
  unfold State.action State.refusedAct State.npdFault
  grind [State.event_cryo, State.launchAt_cryo, State.firedCopy_cryo, State.sendAt_cryo]

theorem State.readyTiles_cryo (s : State) (x : Acc) (ts : List (Nat × Nat)) : (s.readyTiles x ts).cryo = s.cryo :=
  State.foldl_cryo (fun s e => by dsimp only; split <;> rfl) ts s

theorem State.fire_cryo (s : State) (n depth : Nat) : (s.fire n depth).1.cryo = s.cryo := by
  unfold State.fire State.act State.updEntry
  grind [State.readyTiles_cryo, State.action_cryo]

theorem State.test_cryo (s : State) (v : DWord) (depth : Nat) (ns : List Nat) : (s.test v depth ns).1.cryo = s.cryo := by
  induction ns generalizing s with
  | nil => rfl
  | cons n ns ih => grind [State.test, State.fire_cryo]

theorem State.advanceList_cryo (s : State) (ds : List Due) : (s.advanceList ds).1.cryo = s.cryo := by
  have h1 (s : State) (d : Due) : (s.advanceOne d).1.cryo = s.cryo := by
    unfold State.advanceOne State.refusedAct State.setCounter
    grind [State.event_cryo, State.test_cryo]
  induction ds generalizing s with
  | nil => rfl
  | cons d ds ih => exact (ih _).trans (h1 s d)

theorem State.advanceCtr_cryo (s : State) (c : Nat) (by1 : DWord) : (s.advanceCtr c by1).cryo = s.cryo := by
  have hall (n : Nat) (s : State) (ds : List Due) : (State.advanceAll n s ds).cryo = s.cryo := by
    induction n generalizing s ds with
    | zero => rfl
    | succ n ih => grind [State.advanceAll, State.advanceList_cryo]
  exact hall 18 s _

/-! ## Reduction slots that close -/

theorem State.deliver_cryo (s : State) (x : Acc) (done : Nat) (ts ls : List (Nat × Nat)) (bs : List Byte) :
    (s.deliver x done ts ls bs).1.cryo = s.cryo := by
  have hw (s : State) (done : Nat) (ps : List Part1) (bs : List Byte) : (s.writeLines done ps bs).1.cryo = s.cryo := by
    induction ps generalizing s done bs with
    | nil => rfl
    | cons p ps ih =>
      have h2 (t : State) : (t.writePart p (bs.take p.len)).cryo = t.cryo := t.writeAll_cryo [p] bs
      grind [State.writeLines, State.primePart_cryo]
  induction ls generalizing s done ts bs with
  | nil => rfl
  | cons l ls ih =>
    unfold State.deliver
    have hc := s.check_cryo x l.1 l.2 .wr
    split
    · next e => rw [e] at hc; exact hc
    · next e => rw [e] at hc; exact hc
    · next t ps cs e =>
      rw [e] at hc
      have h1 := (hw (t.claim x cs) 0 ps (bs.take l.2)).trans ((t.claim_cryo x cs).trans hc)
      dsimp only
      split
      · next g => rw [g] at h1; exact h1
      · next g => rw [g] at h1; exact (ih _ _ _ _).trans h1

theorem State.writeResult_cryo (s : State) (n : Nat) : (s.writeResult n).cryo = s.cryo := by
  unfold State.writeResult State.npdFault State.freeRSlot State.updRSlot
  grind [State.deliver_cryo, State.readyTiles_cryo, State.advanceCtr_cryo, State.event_cryo]

theorem State.closeAllDue_cryo (s : State) : s.closeAllDue.cryo = s.cryo := by
  refine State.foldl_cryo (fun s e => ?_) s.npd.rslots s
  show (s.closeDue e.1).cryo = s.cryo
  unfold State.closeDue State.closeSlot State.updRSlot
  grind [State.writeResult_cryo]

/-! ## The places of a core cycle -/

theorem State.startRots_cryo (s : State) (a n : Nat) : (s.startRots a n).cryo = s.cryo := by
  refine State.foldl_cryo (fun s e => ?_) s.cores s
  have hr (rs : List (Nat × Rot)) : (s.startRot 0 rs).cryo = s.cryo := by
    unfold State.startRot
    refine State.foldl_cryo (fun s e => ?_) rs s
    rfl
  grind

theorem State.replaceDue_keepsHalted (s : State) : s.replaceDue.cryo.halted = s.cryo.halted := by
  rw [State.replaceDue_cryo]

theorem State.crossed_keepsHalted (s : State) (lo hi : Nat) : (s.crossed lo hi).cryo.halted = s.cryo.halted := by
  unfold State.crossed
  grind [State.startRots_cryo, State.closeAllDue_cryo, State.joinWaits_cryo, State.replaceDue_keepsHalted]

theorem State.pass_cryo (s : State) (n : Nat) : (s.pass n).cryo = s.cryo := (s.pass_rest n).2.1

theorem State.lapse_keepsHalted (s : State) (n : Nat) : (s.lapse n).cryo.halted = s.cryo.halted := by
  unfold State.lapse
  grind [State.pass_cryo, State.startRots_cryo, State.crossed_keepsHalted, State.replaceDue_keepsHalted]

theorem State.enter_keepsHalted (s : State) (t : Turn) : (s.enter t).cryo.halted = s.cryo.halted := by
  unfold State.enter State.nextAt
  grind [State.crossed_keepsHalted, State.lapse_keepsHalted]

/-- The beginning of a turn neither halts the part nor ends its halt. -/
theorem State.tick_keepsHalted (s : State) : s.tick.1.cryo.halted = s.cryo.halted := by
  unfold State.tick
  split <;> exact State.enter_keepsHalted _ _

end Sys2Proof.Machine
end
section
/-! What a step is (O6, O7). -/

namespace Sys2Proof.Machine

/-! ## The turn of an agent -/

/-- A decoded instruction has no place of its own in the core cycle: the turn goes on with it at once. -/
theorem State.bring_decoded {s : State} {a : Agent} {i : Instr} (h : s.decodeAt a = .ok i) (t : State) : t.bring i = (t, some i) := by
  have hr : turnRank (.event i) = none := decode_unplaced h
  unfold State.bring State.enter
  rw [hr]

theorem step_of_prepare {s u t : State} {tn : Turn} {i : Instr} (ht : s.tick = (u, tn)) (hp : u.prepare tn = (t, some i)) :
    step s = after s.stepNo (exec i t) := by
  unfold step
  rw [ht, hp]

/-- What the turn of an agent brings, where that is the instruction at which it stands. -/
theorem step_of_doing {s u v : State} {a : Agent} {i : Instr} (ht : s.tick = (u, .agent a)) (hv : u.begins a = v)
    (hd : v.doing a = .run i) (hi : v.decodeAt a = .ok i) : step s = after s.stepNo (exec i v) := by
  refine step_of_prepare ht ?_
  unfold State.prepare
  simp only [hv, hd]
  exact State.bring_decoded hi v

theorem State.atWord_inLine {s : State} {a : Agent} {i : Instr} (hm : (s.strm a).mode ≠ .blocked) (hx : (s.strm a).xfer = none)
    (hl : (s.strm a).inLine = true) (hi : s.decodeAt a = .ok i) : s.atWord a = .run i := by
  have hw : ¬ ((s.strm a).word = 0 ∨ 16 ≤ (s.strm a).word) := by
    simp only [Stream.inLine, Bool.and_eq_true, decide_eq_true_eq] at hl
    omega
  unfold State.atWord
  simp only [hm, hx, hw, hi, Option.isSome_none, Bool.false_eq_true, if_false]

/-- A running stream that nothing keeps does what stands at its word. -/
theorem State.doing_stream {v : State} {c k : Nat} {cls : Cls} (hc : cls ≠ .net) (hh : v.cryo.halted = false)
    (hf : v.forced c k cls = none) (hp : (v.slot c k).phase = .running) (hq : (v.slot c k).piece.isSome = true)
    (hk : v.clockOn c = true) (ht : v.trapDue c k = false) (hin : (v.slot c k).trap.intrap = true → cls = .ctl)
    (hm : (v.strm (.strm c k cls)).mode = .running) (hi : (v.core c).mayIssue k cls v.cycle = true)
    (hl : cls = .vec → (v.slot c k).late = false) : v.doing (.strm c k cls) = v.atWord (.strm c k cls) := by
  have hm' : ((v.slot c k).strm cls).mode = .running := hm
  have hq' : (v.slot c k).piece.isNone = false := by
    rw [← Option.not_isSome, hq]
    rfl
  have hin' : ¬ (cls = .net ∨ ((v.slot c k).trap.intrap = true ∧ cls ≠ .ctl)) := by
    rintro (h | ⟨h, h'⟩)
    · exact hc h
    · exact h' (hin h)
  have hl' : ¬ (cls = .vec ∧ (v.slot c k).late = true) := by
    rintro ⟨h, h'⟩
    rw [hl h] at h'
    cases h'
  unfold State.doing
  simp only [hh, hf, hp, hq', hk, ht, hin', hm', hi, hl', ne_eq, not_true_eq_false, Bool.not_true, Bool.false_eq_true, or_self,
    if_false, ite_self]

theorem State.doing_thread {v : State} {t : Nat} (hh : v.cryo.halted = false) (hn : v.npd.threads.any (fun (n, _) => n == t) = true) :
    v.doing (.thread t) = v.atWord (.thread t) := by
  unfold State.doing
  simp only [hh, hn, Bool.false_eq_true, if_false, if_true]

/-! ## The beginning of a turn -/

theorem State.begins_pass {u : State} (h : u.nothingDue) (a : Agent) : ∃ l n r,
    u.begins a = { State.pass { u with agent := a, xl := l } n with rank := r } := by
  obtain ⟨l, hl⟩ : ∃ l, (if (u.strm a).mode = .blocked then { u with agent := a } else
      State.spent { u with agent := a } (.agent a)) = { u with agent := a, xl := l } := by
    split
    · exact ⟨u.xl, rfl⟩
    · exact ⟨_, rfl⟩
  have hn : State.nothingDue { u with agent := a, xl := l } := h
  unfold State.begins
  rw [hl]
  dsimp only
  split
  · exact ⟨l, 1, u.rank, State.nextAt_rest _ hn _⟩
  · exact ⟨l, 0, u.rank, rfl⟩

/-- Where nothing falls due, the beginning of a turn changes no stream and no byte. -/
theorem State.begins_rest {u : State} (h : u.nothingDue) (a : Agent) : (u.begins a).agent = a ∧ (u.begins a).cryo = u.cryo ∧
    (∀ b, (u.begins a).strm b = u.strm b) ∧ u.sameBytes (u.begins a) := by
  obtain ⟨l, n, r, e⟩ := State.begins_pass h a
  rw [e]
  obtain ⟨-, hcryo, -, -, -, -, -, -, -, -, hagent⟩ := State.pass_rest { u with agent := a, xl := l } n
  exact ⟨hagent, hcryo, State.pass_strm { u with agent := a, xl := l } n, State.pass_byteAt { u with agent := a, xl := l } n⟩

theorem State.prepare_event {u : State} {i : Instr} (hi : isEvent i = true) (h : u.cryo.halted = false ∨ i = .moduleColdReset) :
    u.prepare (.event i) = (u, some i) := by
  unfold State.prepare
  rcases h with h | rfl
  · simp [hi, h]
  · simp [hi]

/-- Settles O6: a turn brings the instruction at which its agent stands, and that instruction has no other place in the cycle. -/
theorem stepRunsTheDecodedInstruction : Obligations.StepRunsTheDecodedInstruction := by
  refine ⟨?_, ?_, fun u a h => State.begins_rest h a, ?_⟩
  · intro s u v c k cls i ht hv hc hh hf hp hq hk hd hin hm hi hl hx hw he
    refine step_of_doing ht hv ((State.doing_stream hc hh hf hp hq hk hd hin hm hi hl).trans ?_) he
    exact State.atWord_inLine (by rw [hm]; exact nofun) hx hw he
  · intro s u v t i ht hv hh hn hm hx hw he
    exact step_of_doing ht hv ((State.doing_thread hh hn).trans (State.atWord_inLine hm hx hw he)) he
  · intro s u i ht hi h
    have hu : u.cryo.halted = s.cryo.halted := (congrArg (fun p => p.1.cryo.halted) ht).symm.trans s.tick_keepsHalted
    exact step_of_prepare ht (State.prepare_event hi (hu ▸ h))

/-! ## Every instruction answers (O7) -/

theorem State.firmwareOnly_next (s : State) (g : Guard) (body : State → State) : ∃ t, s.firmwareOnly g body = .next t := by
  unfold State.firmwareOnly
  split <;> exact ⟨_, rfl⟩

/-- No meaning refuses or faults. -/
theorem exec_next (i : Instr) (s : State) : ∃ t, exec i s = .next t := by
  cases i
  case vmov x =>
    show ∃ t, execVmov x s = .next t
    unfold execVmov
    split <;> exact ⟨_, rfl⟩
  case xinv => exact State.firmwareOnly_next s _ _
  case partStop => exact State.firmwareOnly_next s _ _
  case partRelease => exact State.firmwareOnly_next s _ _
  case partReset => exact State.firmwareOnly_next s _ _
  case partRequest => exact State.firmwareOnly_next s _ _
  case cryoQuery => exact State.firmwareOnly_next s _ _
  case cryoCool => exact State.firmwareOnly_next s _ _
  case cryoWarm => exact State.firmwareOnly_next s _ _
  case cryoForceRetreat => exact State.firmwareOnly_next s _ _
  case cryoReleaseRetreat => exact State.firmwareOnly_next s _ _
  case cryoClearRatev => exact State.firmwareOnly_next s _ _
  all_goals exact ⟨_, rfl⟩

theorem step_safe (s : State) : Safe s := by
  unfold Safe step
  split
  · exact ⟨_, rfl⟩
  · next t i _ =>
    obtain ⟨u, hu⟩ := exec_next i t
    rw [hu]
    exact ⟨_, rfl⟩

/-! ## The passing of time at a step's end (O7) -/

/-- A controller's record that enters the firmware's queue changes that partition's events, and the controllers' records. -/
theorem State.sendRecord_eq (s : State) : s.sendRecord = s ∨
    ∃ es ev i1 i2, s.sendRecord = State.event { s with dram := { s.dram with events := es } } 0 17 0 ev i1 i2 := by
  unfold State.sendRecord
  extract_lets p
  split
  · exact .inl rfl
  · split
    · exact .inr ⟨_, _, _, _, rfl⟩
    · exact .inl rfl
    · exact .inl rfl

theorem State.event_nothingDue {s : State} (h : s.nothingDue) (p kind sub index : Nat) (i1 i2 : DWord) :
    (s.event p kind sub index i1 i2).nothingDue := by
  obtain ⟨hr, hw, hs, hc⟩ := h
  refine ⟨hr, fun e he => ?_, hs, hc⟩
  rcases Tbl.mem_of_mem_set he with rfl | he
  · have : (s.part p).waits = [] := Tbl.get_holds (P := fun x : Part => x.waits = []) rfl hw p
    show (Part.waits (if _ then _ else _)) = []
    split <;> exact this
  · exact hw e he

theorem State.sendRecord_rest {s : State} (h : s.nothingDue) : s.sendRecord.nothingDue ∧ s.sendRecord.cycle = s.cycle ∧
    s.sendRecord.cryo = s.cryo ∧ (∀ a, s.sendRecord.strm a = s.strm a) ∧ s.sameBytes s.sendRecord := by
  rcases s.sendRecord_eq with e | ⟨es, ev, i1, i2, e⟩
  · rw [e]
    exact ⟨h, rfl, rfl, fun _ => rfl, State.sameBytes_refl s⟩
  · have hs : s.sameBytes (State.event { s with dram := { s.dram with events := es } } 0 17 0 ev i1 i2) :=
      State.sameBytes_trans (State.sameBytes_withDram s rfl) (State.event_sameBytes _ 0 17 0 ev i1 i2)
    rw [e]
    refine ⟨State.event_nothingDue (s := { s with dram := { s.dram with events := es } }) h _ _ _ _ _ _, rfl, rfl, fun a => ?_, hs⟩
    rfl

theorem Dram.fence_cells (x : Dram) (ctrl ch : Nat) : (x.fence ctrl ch).cells = x.cells := by
  unfold Dram.fence
  extract_lets n
  split <;> rfl

theorem Dram.window_cells (x : Dram) (ctrl ch : Nat) : (x.window ctrl ch).cells = x.cells := by
  unfold Dram.window
  extract_lets n
  split
  · rfl
  · dsimp only
    generalize Channel.repaired _ _ = r
    split
    · exact Dram.fence_cells _ ctrl ch
    · rfl

theorem Dram.openOverdue_cells (x : Dram) (now : Nat) : (x.openOverdue now).cells = x.cells := by
  refine List.foldlRecOn (motive := fun y : Dram => y.cells = x.cells) _ _ rfl (fun y hy e _ => ?_)
  dsimp only
  split
  · exact (Dram.window_cells y _ _).trans hy
  · exact hy

theorem State.tock_rest {s : State} (h : s.nothingDue) (n : Nat) : (s.tock n).cycle = s.cycle + Config.stepCycles n ∧
    (s.tock n).cryo = s.cryo ∧ (∀ a, (s.tock n).strm a = s.strm a) ∧ s.sameBytes (s.tock n) := by
  have hlive : ∃ u, s.tock n = u.pass (Config.stepCycles n) ∧ u.cycle = s.cycle ∧ u.cryo = s.cryo ∧ (∀ a, u.strm a = s.strm a) ∧
      s.sameBytes u := by
    obtain ⟨hn, hcycle, hcryo, hstrm, hbytes⟩ := State.sendRecord_rest h
    unfold State.tock
    dsimp only
    split
    · exact ⟨s, State.lapse_rest s h _, rfl, rfl, fun _ => rfl, State.sameBytes_refl s⟩
    · generalize s.sendRecord = v at *
      refine ⟨_, State.lapse_rest _ ?_ _, hcycle, hcryo, ?_, State.sameBytes_trans hbytes (State.sameBytes_of_fields
        (s := v) rfl rfl rfl ((Dram.openOverdue_cells _ _).trans (Dram.upset_cells _ _)) rfl)⟩
      · exact hn
      · exact hstrm
  obtain ⟨u, e, hcycle, hcryo, hstrm, hbytes⟩ := hlive
  obtain ⟨hc, hy, -⟩ := u.pass_rest (Config.stepCycles n)
  rw [e]
  exact ⟨hc.trans (by rw [hcycle]), hy.trans hcryo, fun a => (u.pass_strm _ a).trans (hstrm a),
    State.sameBytes_trans hbytes (u.pass_byteAt _)⟩

/-- Settles O7: every meaning answers a next state, and time passes over registers and bytes. -/
theorem stepsAnswerAndTimeLeavesDataAlone : Obligations.StepsAnswerAndTimeLeavesDataAlone :=
  ⟨step_safe, fun _ n h => State.tock_rest h n⟩

end Sys2Proof.Machine
end

section
/-! SUPPORT. What an update of a slot, of a stream and an issue leave of a core and of the part. -/

namespace Sys2Proof.Machine

/-! ## Slots of a core -/

theorem Core.setSlot_view {β : Type} {v : Core → β} (hv : coreView v) (x : Core) (k : Nat) (y : Slot) : v (x.setSlot k y) = v x :=
  hv x _ x.units x.tilesWas

theorem State.core_updCore_view {β : Type} {v : Core → β} (s : State) (c d : Nat) {f : Core → Core} (hf : ∀ x, v (f x) = v x) :
    v ((s.updCore c f).core d) = v (s.core d) := by
  by_cases h : d = c
  · subst h
    rw [State.core_updCore]
    exact hf _
  · rw [State.core_updCore_other _ _ h]

theorem State.core_updSlot_view {β : Type} {v : Core → β} (hv : coreView v) (s : State) (c k d : Nat) (f : Slot → Slot) :
    v ((s.updSlot c k f).core d) = v (s.core d) :=
  s.core_updCore_view c d (f := fun x => x.setSlot k (f (s.slot c k))) (fun x => Core.setSlot_view hv x k _)

theorem State.slot_updCore_slots (s : State) (c d j : Nat) {f : Core → Core} (hf : ∀ x, (f x).slots = x.slots) :
    (s.updCore c f).slot d j = s.slot d j :=
  s.core_updCore_view (v := fun x => x.slot j) c d (fun x => by unfold Core.slot; rw [hf])

/-! ## Bytes -/

theorem coreView_scratch : coreView Core.scratch := fun _ _ _ _ => rfl
theorem coreView_plane0 : coreView Core.plane0 := fun _ _ _ _ => rfl
theorem coreView_plane1 : coreView Core.plane1 := fun _ _ _ _ => rfl
theorem coreView_tiles : coreView Core.tiles := fun _ _ _ _ => rfl

theorem State.updCore_sameBytes (s : State) (c : Nat) {f : Core → Core} (hs : ∀ x, (f x).scratch = x.scratch)
    (h0 : ∀ x, (f x).plane0 = x.plane0) (h1 : ∀ x, (f x).plane1 = x.plane1) : s.sameBytes (s.updCore c f) :=
  State.sameBytes_of_stores (fun d => ⟨s.core_updCore_view c d hs, s.core_updCore_view c d h0, s.core_updCore_view c d h1⟩)
    (fun _ => rfl) rfl rfl rfl

theorem State.setSlot_sameBytes (s : State) (c k : Nat) (x : Slot) : s.sameBytes (s.setSlot c k x) :=
  s.updCore_sameBytes c (f := fun y => y.setSlot k x) (fun _ => rfl) (fun _ => rfl) (fun _ => rfl)

theorem State.updSlot_sameBytes (s : State) (c k : Nat) (f : Slot → Slot) : s.sameBytes (s.updSlot c k f) :=
  s.setSlot_sameBytes c k _

theorem State.updOwn_sameBytes (s : State) (a : Agent) (f : Slot → Slot) : s.sameBytes (s.updOwn a f) := by
  cases a with
  | strm c k cls => exact s.updSlot_sameBytes c k f
  | thread t => exact State.sameBytes_refl s

theorem State.updThread_sameBytes (s : State) (t : Nat) (f : Thread → Thread) : s.sameBytes (s.updThread t f) :=
  State.sameBytes_of_stores (fun _ => ⟨rfl, rfl, rfl⟩) (fun _ => rfl) rfl rfl rfl

theorem State.updStrm_sameBytes (s : State) (a : Agent) (f : Stream → Stream) : s.sameBytes (s.updStrm a f) := by
  cases a with
  | strm c k cls => exact s.updSlot_sameBytes c k _
  | thread t => exact s.updThread_sameBytes t _

end Sys2Proof.Machine
end

section
/-! The frame of an issue (O30). -/

namespace Sys2Proof.Machine

/-! ## An issue-beat -/

/-- A signal that takes effect, or that goes on waiting, changes flags and the list of waiting signals. -/
theorem Slot.runSigs_eq (x : Slot) : ∃ t q, x.runSigs = { x with flagCyc := t, sigs := q } := by
  refine List.foldlRecOn (motive := fun y : Slot => ∃ t q, y = { x with flagCyc := t, sigs := q }) _ _ ⟨x.flagCyc, [], rfl⟩
    (fun y hy p _ => ?_)
  obtain ⟨t, q, rfl⟩ := hy
  dsimp only
  split
  · unfold Slot.applySig
    split <;> exact ⟨_, q, rfl⟩
  · exact ⟨t, _, rfl⟩

/-- `x` with another vector file, other exception flags, and other signals. -/
def Slot.landed (x : Slot) (v : VecState) (fp new : DWord) (t : Tbl FlagCyc) (q : List PendSig) : Slot :=
  { x with v := v, regs := { x.regs with fpstat := fp }, fpNew := new, flagCyc := t, sigs := q }

/-- Results land, and then signals that waited for them take effect. -/
theorem Slot.landDue_runSigs (x : Slot) (beat : Nat) : ∃ v fp new,
    v.inflight = x.v.inflight.filter (fun r => !(decide (r.due < landLimit x.v.inflight beat) && r.fault.isNone)) ∧
      x.landDue beat = (x.landed v fp new x.flagCyc x.sigs).runSigs := by
  unfold Slot.landDue
  extract_lets lim y left
  obtain ⟨v, fp, new, hy⟩ : ∃ v fp new, y = x.landed v fp new x.flagCyc x.sigs := by
    refine List.foldlRecOn (motive := fun y : Slot => ∃ v fp new, y = x.landed v fp new x.flagCyc x.sigs) _ _
      ⟨x.v, x.regs.fpstat, x.fpNew, rfl⟩ (fun y hy r _ => ?_)
    obtain ⟨v, fp, new, rfl⟩ := hy
    exact ⟨_, _, _, rfl⟩
  clear_value y
  subst hy
  exact ⟨{ v with inflight := left }, fp, new, rfl, rfl⟩

/-- The results that land change the vector file, the exception flags, and the signals that wait for them. -/
theorem Slot.landDue_eq (x : Slot) (beat : Nat) : ∃ v fp new t q, x.landDue beat = x.landed v fp new t q := by
  obtain ⟨v, fp, new, -, h⟩ := x.landDue_runSigs beat
  obtain ⟨t, q, hr⟩ := (x.landed v fp new x.flagCyc x.sigs).runSigs_eq
  exact ⟨v, fp, new, t, q, h.trans hr⟩

theorem Slot.beat_eq (x : Slot) : ∃ v fp new t q, x.beat = x.landed v fp new t q := by
  obtain ⟨v, fp, new, t, q, h⟩ := x.landDue_eq x.v.beat
  unfold Slot.beat
  rw [h]
  exact ⟨_, fp, new, t, q, rfl⟩

/-! ## An issue -/

/-- The units' mark of a vector or matrix issue (R134). -/
def Core.noteIssue (now : Nat) (x : Core) : Core := { x with units := { x.units with lastIssue := now, offer := false } }

theorem Core.noteIssue_slots (now : Nat) (x : Core) : (x.noteIssue now).slots = x.slots := rfl

/-- What the issue does to the issuing slot. -/
def beatOf : Cls → Slot → Slot
  | .vec => Slot.beat
  | .ctl | .mat | .ldr | .str | .net => id

theorem State.issued_slot (s : State) (c k : Nat) (cls : Cls) :
    (s.issued (.strm c k cls)).slot c k = beatOf cls (s.slot c k) := by
  cases cls
  case vec => exact (State.slot_updCore_slots _ c c k (Core.noteIssue_slots s.cycle)).trans (s.slot_updSlot c k _)
  case mat => exact s.slot_updCore_slots c c k (Core.noteIssue_slots s.cycle)
  all_goals rfl

theorem State.issued_slot_other (s : State) {c k d j : Nat} (cls : Cls) (h : (d, j) ≠ (c, k)) :
    (s.issued (.strm c k cls)).slot d j = s.slot d j := by
  cases cls
  case vec => exact (State.slot_updCore_slots _ c d j (Core.noteIssue_slots s.cycle)).trans (s.slot_updSlot_other _ h)
  case mat => exact s.slot_updCore_slots c d j (Core.noteIssue_slots s.cycle)
  all_goals rfl

theorem State.issued_core_view {β : Type} {v : Core → β} (hv : coreView v) (s : State) (a : Agent) (d : Nat) :
    v ((s.issued a).core d) = v (s.core d) := by
  have hu (s : State) (c now : Nat) : v ((s.updCore c (Core.noteIssue now)).core d) = v (s.core d) :=
    s.core_updCore_view c d (fun x => hv x x.slots _ x.tilesWas)
  cases a with
  | thread t => rfl
  | strm c k cls =>
    cases cls
    case vec => exact (hu _ c s.cycle).trans (State.core_updSlot_view hv s c k d _)
    case mat => exact hu s c s.cycle
    all_goals rfl

/-- The issue of a stream's instruction changes nothing outside the cores. -/
theorem State.issued_rest (s : State) (c k : Nat) (cls : Cls) : ∃ cs, s.issued (.strm c k cls) = { s with cores := cs } := by
  cases cls <;> exact ⟨_, rfl⟩

theorem State.issued_sameBytes (s : State) (a : Agent) : s.sameBytes (s.issued a) := by
  have hc (d : Nat) : ((s.issued a).core d).scratch = (s.core d).scratch ∧ ((s.issued a).core d).plane0 = (s.core d).plane0 ∧
      ((s.issued a).core d).plane1 = (s.core d).plane1 :=
    ⟨s.issued_core_view coreView_scratch a d, s.issued_core_view coreView_plane0 a d, s.issued_core_view coreView_plane1 a d⟩
  cases a with
  | thread t => exact State.sameBytes_refl s
  | strm c k cls =>
    obtain ⟨cs, h⟩ := s.issued_rest c k cls
    rw [h] at hc ⊢
    exact State.sameBytes_of_stores hc (fun _ => rfl) rfl rfl rfl

theorem State.advance_sameBytes (s : State) (a : Agent) (n : Nat) : s.sameBytes (s.advance a n) :=
  State.sameBytes_trans (s.updStrm_sameBytes a _) (State.issued_sameBytes _ a)

theorem Slot.landed_strm (x : Slot) (v : VecState) (fp new : DWord) (t : Tbl FlagCyc) (q : List PendSig) (cls : Cls) :
    (x.landed v fp new t q).strm cls = x.strm cls := by
  cases cls <;> rfl

theorem beatOf_landed (cls : Cls) (x : Slot) : ∃ v fp new t q, beatOf cls x = x.landed v fp new t q := by
  cases cls
  case vec => exact x.beat_eq
  all_goals exact ⟨x.v, x.regs.fpstat, x.fpNew, x.flagCyc, x.sigs, rfl⟩

/-- The slot of a stream that has issued an instruction of `n` words. -/
theorem State.advance_slot (s : State) (c k n : Nat) (cls : Cls) : (s.advance (.strm c k cls) n).slot c k =
    beatOf cls ((s.slot c k).setStrm cls { ((s.slot c k).strm cls).done with word := ((s.slot c k).strm cls).word + n }) := by
  unfold State.advance
  rw [State.issued_slot]
  exact congrArg (beatOf cls) (s.slot_updSlot c k _)

theorem State.advance_slot_other (s : State) {c k d j : Nat} (n : Nat) (cls : Cls) (h : (d, j) ≠ (c, k)) :
    (s.advance (.strm c k cls) n).slot d j = s.slot d j :=
  (State.issued_slot_other _ cls h).trans (s.slot_updSlot_other _ h)

theorem State.advance_core_view {β : Type} {v : Core → β} (hv : coreView v) (s : State) (c k n : Nat) (cls : Cls) (d : Nat) :
    v ((s.advance (.strm c k cls) n).core d) = v (s.core d) :=
  (State.issued_core_view hv _ _ d).trans (State.core_updSlot_view hv s c k d _)

theorem State.advance_rest (s : State) (c k n : Nat) (cls : Cls) : ∃ cs, s.advance (.strm c k cls) n = { s with cores := cs } := by
  obtain ⟨cs, h⟩ := State.issued_rest (s.updStrm (.strm c k cls) (fun t => { t.done with word := t.word + n })) c k cls
  exact ⟨cs, h⟩

theorem Slot.strm_setStrm_other (x : Slot) {cls d : Cls} (t : Stream) (h : d ≠ cls) (hd : d ≠ .net) (hc : cls ≠ .net) :
    (x.setStrm cls t).strm d = x.strm d := by
  cases cls <;> cases d <;> first | rfl | contradiction

/-- A change of a stream leaves the rest of its slot. -/
theorem Slot.setStrm_rest (x : Slot) (cls : Cls) (t : Stream) : (x.setStrm cls t).trap = x.trap ∧ (x.setStrm cls t).queues = x.queues ∧
    (x.setStrm cls t).descs = x.descs ∧ (x.setStrm cls t).m = x.m := by
  cases cls <;> exact ⟨rfl, rfl, rfl, rfl⟩

/-- Settles O30: the slot is that of the effect with its stream moved on and a beat passed, and nothing else is written. -/
theorem issueFrame : Obligations.IssueFrame := by
  intro s c k n cls f hc me y t
  have hy : (s.updOwn me f).slot c k = y := s.slot_updSlot c k f
  let z : Stream := { (y.strm cls).done with word := (y.strm cls).word + n }
  have ht : t.slot c k = beatOf cls (y.setStrm cls z) := by
    rw [State.advance_slot, hy]
  obtain ⟨v, fp, new, tf, q, hb⟩ := beatOf_landed cls (y.setStrm cls z)
  have hl : t.slot c k = (y.setStrm cls z).landed v fp new tf q := ht.trans hb
  have hs (d : Cls) : (t.slot c k).strm d = (y.setStrm cls z).strm d := by rw [hl, Slot.landed_strm]
  have hme : t.strm me = z := (hs cls).trans (y.strm_setStrm z hc)
  obtain ⟨htrap, hqueues, hdescs, hm⟩ := y.setStrm_rest cls z
  obtain ⟨cs, hrest⟩ := (s.updOwn me f).advance_rest c k n cls
  refine ⟨by rw [hme], by rw [hme]; rfl, by rw [hme]; rfl, by rw [hme]; rfl, by rw [hme]; rfl, fun d hd hn => ?_, ?_, ?_, ?_, ?_,
    fun hv => ?_, fun d j h => ?_, fun d => ?_, ?_, ?_, ?_, ?_, ?_, ?_⟩
  · rw [hs, y.strm_setStrm_other z hd hn hc]
  · rw [hl]; exact htrap
  · rw [hl]; exact hqueues
  · rw [hl]; exact hdescs
  · rw [hl]; exact hm
  · rw [ht, hme]
    cases cls <;> first | rfl | contradiction
  · exact (State.advance_slot_other _ n cls h).trans (s.slot_updSlot_other f h)
  · exact (State.advance_core_view coreView_tiles _ c k n cls d).trans (State.core_updSlot_view coreView_tiles s c k d f)
  · exact (congrArg State.parts hrest :)
  · exact (congrArg State.npd hrest :)
  · exact (congrArg State.dram hrest :)
  · exact (congrArg State.xl hrest :)
  · exact (congrArg State.host hrest :)
  · exact State.sameBytes_trans (s.updOwn_sameBytes me f) (State.advance_sameBytes _ me n)

end Sys2Proof.Machine
end

section
/-! SUPPORT. An access that names virtual addresses only (R240): whatever it meets, it changes nothing beside the tiers and the
translation caches. -/

namespace Sys2Proof.Machine

/-- `t` is `s` but for the tiers and the translation caches. -/
def State.memOnly (s t : State) : Prop := ∃ d l, t = { s with dram := d, xl := l }

theorem State.memOnly_refl (s : State) : s.memOnly s := ⟨s.dram, s.xl, rfl⟩

theorem State.memOnly_trans {s t u : State} (h : s.memOnly t) (g : t.memOnly u) : s.memOnly u := by
  obtain ⟨d, l, rfl⟩ := h
  obtain ⟨e, m, rfl⟩ := g
  exact ⟨e, m, rfl⟩

/-! ## Reads and writes of a tier -/

theorem State.count_memOnly (s : State) (pa key : Nat) (cnt : Bool) : s.memOnly (s.count pa key cnt) := by
  obtain ⟨d, _, h⟩ := State.count_dram s pa key cnt
  exact ⟨d, s.xl, h⟩

theorem State.readPhys_memOnly (s : State) (pa n key : Nat) (cnt : Bool) : s.memOnly (s.readPhys pa n key cnt).1 := by
  unfold State.readPhys
  split
  · exact State.memOnly_refl s
  · exact State.memOnly_trans ⟨_, s.xl, rfl⟩ (State.count_memOnly _ pa key cnt)

theorem State.writePhys_memOnly (s : State) (pa key : Nat) (cnt : Bool) (bs : List Byte) : s.memOnly (s.writePhys pa key cnt bs) := by
  obtain ⟨d, _, h⟩ := State.writePhys_dram s pa key cnt bs
  exact ⟨d, s.xl, h⟩

theorem State.readForWrite_memOnly (s : State) (pa n key : Nat) : s.memOnly (s.readForWrite pa n key).1 := by
  unfold State.readForWrite
  split
  · exact State.memOnly_refl s
  · exact ⟨_, s.xl, rfl⟩

/-! ## Translation (R241 to R249) -/

theorem State.readTable_memOnly (s : State) (pa : Nat) : s.memOnly (s.readTable pa).1 := by
  have h := s.readPhys_memOnly pa 8 0 false
  unfold State.readTable
  split
  · exact State.memOnly_refl s
  · split
    · exact State.memOnly_refl s
    · split <;> (next e => rw [e] at h; exact h)

theorem State.walk_memOnly (s : State) (va level table : Nat) : s.memOnly (s.walk va level table).1 := by
  induction level generalizing s table with
  | zero =>
    have h := s.readTable_memOnly (table + 8 * (va / 2 ^ (12 + 9 * 0) % 512))
    unfold State.walk
    split
    · next e => rw [e] at h; exact h
    · next e =>
      rw [e] at h
      dsimp only
      split_ifs
      any_goals exact h
      split <;> exact h
  | succ l ih =>
    have h := s.readTable_memOnly (table + 8 * (va / 2 ^ (12 + 9 * (l + 1)) % 512))
    unfold State.walk
    split
    · next e => rw [e] at h; exact h
    · next e =>
      rw [e] at h
      dsimp only
      split_ifs
      any_goals exact h
      · exact State.memOnly_trans h (ih _ _)
      · split <;> exact h

theorem State.translate_memOnly (s : State) (x : Acc) (va : Nat) (kind : AKind) : s.memOnly (s.translate x va kind).1 := by
  have hw : s.memOnly (s.walkFor x.part va).1 := by
    unfold State.walkFor
    split
    · exact State.memOnly_refl s
    · exact State.walk_memOnly s va 3 _
  unfold State.translate
  split
  · exact State.memOnly_refl s
  · split
    · exact State.memOnly_refl s
    · split_ifs
      · exact State.memOnly_refl s
      · split
        · next e => rw [e] at hw; exact hw
        · next e =>
          rw [e] at hw
          split
          · exact hw
          · exact State.memOnly_trans hw ⟨_, _, rfl⟩
      · exact State.memOnly_refl s

/-! ## The parts of an access -/

/-- A part of an access that proceeds does so at a byte of a tier, without a claim. -/
def PRes.inTiers : PRes → Prop
  | .ok (.pa _ _ _) none | .exc _ | .race _ _ _ | .hold _ => True
  | .ok (.pa _ _ _) (some _) | .ok (.sp _ _) _ => False

def Loc.isTier : Loc → Prop
  | .pa _ _ _ => True
  | .sp _ _ => False

theorem State.decideAt_memOnly {x : Acc} (hx : x.space = .virt) (s : State) (a : Nat) (kind : AKind) :
    s.memOnly (s.decideAt x a kind).1 ∧ (s.decideAt x a kind).2.inTiers := by
  have h := s.translate_memOnly x a kind
  unfold State.decideAt
  dsimp only
  rw [if_neg (by simp [hx])]
  split
  · exact ⟨State.memOnly_refl s, trivial⟩
  · split
    · next e =>
      rw [e] at h
      refine ⟨h, ?_⟩
      dsimp only
      split <;> trivial
    · next e => rw [e] at h; exact ⟨h, trivial⟩
    · next e => rw [e] at h; exact ⟨h, trivial⟩
    · next e => rw [e] at h; exact ⟨h, trivial⟩

theorem State.decideAll_memOnly {x : Acc} (hx : x.space = .virt) (kind : AKind) (ps : List (Nat × Nat)) (s : State) :
    s.memOnly (s.decideAll x kind ps).1 ∧ ∀ r ∈ (s.decideAll x kind ps).2, r.2.2.inTiers := by
  induction ps generalizing s with
  | nil => exact ⟨State.memOnly_refl s, fun _ h => nomatch h⟩
  | cons p ps ih =>
    obtain ⟨h1, h2⟩ := State.decideAt_memOnly hx s p.1 kind
    obtain ⟨g1, g2⟩ := ih (s.decideAt x p.1 kind).1
    exact ⟨State.memOnly_trans h1 g1, List.forall_mem_cons.2 ⟨h2, g2⟩⟩

theorem State.judge_inTiers {s : State} {chan : Bool} {rs : List (Nat × Nat × PRes)} {ps : List Part1} {cs : List (Nat × Nat)}
    (hr : ∀ r ∈ rs, r.2.2.inTiers) (h : s.judge chan rs = .ok ps cs) : (∀ p ∈ ps, p.loc.isTier) ∧ cs = [] := by
  unfold State.judge at h
  dsimp only at h
  split at h
  · cases h
  split at h
  · cases h
  split at h
  · cases h
  split at h
  · cases h
  split at h
  · cases h
  split at h
  · cases h
  split at h
  · cases h
  obtain ⟨rfl, rfl⟩ := Chk.ok.inj h
  constructor
  · intro p hp
    obtain ⟨⟨a, n, r⟩, hm, he⟩ := List.mem_filterMap.1 hp
    have hin : r.inTiers := hr _ hm
    match r, hin, he with
    | .ok (.pa _ _ _) none, _, he => cases he; trivial
  · rw [List.filterMap_eq_nil_iff.2, List.dedup_nil]
    rintro ⟨a, n, r⟩ hm
    have hin : r.inTiers := hr _ hm
    match r, hin with
    | .ok (.pa _ _ _) none, _ => rfl
    | .exc _, _ => rfl
    | .race _ _ _, _ => rfl
    | .hold _, _ => rfl

theorem State.check_memOnly {x : Acc} (hx : x.space = .virt) (s : State) (a n : Nat) (kind : AKind) :
    s.memOnly (s.check x a n kind).1 ∧ ∀ ps cs, (s.check x a n kind).2 = .ok ps cs → (∀ p ∈ ps, p.loc.isTier) ∧ cs = [] := by
  obtain ⟨h1, h2⟩ := State.decideAll_memOnly hx kind (pieces a n) s
  unfold State.check State.checkParts
  dsimp only
  split
  · exact ⟨State.memOnly_trans h1 ⟨_, _, rfl⟩, nofun⟩
  · exact ⟨State.memOnly_trans h1 ⟨_, _, rfl⟩, nofun⟩
  · next e =>
    refine ⟨h1, fun ps cs he => ?_⟩
    cases he
    exact State.judge_inTiers h2 e

/-! ## Writes -/

theorem State.primeParts_memOnly (s : State) (ps : List Part1) : s.memOnly (s.primeParts ps).1 := by
  have h1 (s : State) (p : Part1) : s.memOnly (s.primePart p).1 := by
    unfold State.primePart
    split
    · exact State.memOnly_refl s
    · next pa key cnt _ =>
      have h := s.readForWrite_memOnly pa p.len key
      split
      · exact State.memOnly_refl s
      · split <;> (next e => rw [e] at h; exact h)
  induction ps generalizing s with
  | nil => exact State.memOnly_refl s
  | cons p ps ih =>
    have h := h1 s p
    unfold State.primeParts
    split
    · next e => rw [e] at h; exact h
    · next e => rw [e] at h; exact State.memOnly_trans h (ih _)

theorem State.writeAll_memOnly {ps : List Part1} (hp : ∀ p ∈ ps, p.loc.isTier) (s : State) (bs : List Byte) :
    s.memOnly (s.writeAll ps bs) := by
  induction ps generalizing s bs with
  | nil => exact State.memOnly_refl s
  | cons p ps ih =>
    obtain ⟨hp1, hps⟩ := List.forall_mem_cons.1 hp
    refine State.memOnly_trans ?_ (ih hps _ _)
    unfold State.writePart
    split
    · next e => rw [e] at hp1; exact hp1.elim
    · exact State.writePhys_memOnly s _ _ _ _

theorem State.writeMem_memOnly {x : Acc} (hx : x.space = .virt) (s : State) (a : Nat) (bs : List Byte) :
    s.memOnly (s.writeMem x a bs).1 := by
  obtain ⟨h, hok⟩ := State.check_memOnly hx s a bs.length .wr
  unfold State.writeMem
  split
  · next e => rw [e] at h; exact h
  · next e => rw [e] at h; exact h
  · next t ps cs e =>
    rw [e] at h hok
    obtain ⟨hps, rfl⟩ := hok ps cs rfl
    have hq := t.primeParts_memOnly ps
    split
    · next g => rw [g] at hq; exact State.memOnly_trans h hq
    · next u g =>
      rw [g] at hq
      exact State.memOnly_trans (State.memOnly_trans h hq) (State.writeAll_memOnly hps u bs)

end Sys2Proof.Machine
end

section
/-! SUPPORT. What a save writes (R392): the record, the slot that it frees, and the queue that the piece joins. -/

namespace Sys2Proof.Machine

/-! ## Changes that leave cores and crib records -/

/-- The cores and the crib records of `t` are those of `s`. -/
def State.sameCribs (s t : State) : Prop := t.cores = s.cores ∧ ∀ p, (t.part p).recs = (s.part p).recs

theorem State.sameCribs_refl (s : State) : s.sameCribs s := ⟨rfl, fun _ => rfl⟩

theorem State.sameCribs_trans {s t u : State} (h : s.sameCribs t) (g : t.sameCribs u) : s.sameCribs u :=
  ⟨g.1.trans h.1, fun p => (g.2 p).trans (h.2 p)⟩

theorem State.memOnly_sameCribs {s t : State} (h : s.memOnly t) : s.sameCribs t := by
  obtain ⟨d, l, rfl⟩ := h
  exact ⟨rfl, fun _ => rfl⟩

theorem State.updPart_recs (s : State) (p q : Nat) {f : Part → Part} (hf : ∀ x, (f x).recs = x.recs) :
    ((s.updPart p f).part q).recs = (s.part q).recs := by
  by_cases h : q = p
  · subst h
    rw [State.part_updPart]
    exact hf _
  · rw [State.updPart, State.part_setPart_other _ _ h]

theorem State.event_sameCribs (s : State) (p kind sub index : Nat) (i1 i2 : DWord) : s.sameCribs (s.event p kind sub index i1 i2) :=
  ⟨rfl, fun q => s.updPart_recs p q (fun x => by split <;> rfl)⟩

theorem State.core_congr {s t : State} (h : t.cores = s.cores) (c : Nat) : t.core c = s.core c := by
  unfold State.core
  rw [h]

theorem State.savedRec_congr {s t : State} {p : Nat} (h : (t.part p).recs = (s.part p).recs) (r : Nat) :
    t.savedRec p r = s.savedRec p r := by
  unfold State.savedRec
  rw [h]

/-- The stores of a record change tiers and translation caches alone. -/
theorem State.storeRec_memOnly {x : Acc} (hx : x.space = .virt) (base : Nat) (ws : List (Nat × BitVec 512)) (s : State) :
    s.memOnly (s.storeRec x base ws).1 := by
  induction ws generalizing s with
  | nil => exact State.memOnly_refl s
  | cons w ws ih =>
    obtain ⟨i, v⟩ := w
    have h := State.writeMem_memOnly hx s (base + 64 * (i % 65536)) (leBytes 64 v.toNat)
    unfold State.storeRec
    split
    · next e => rw [e] at h; exact State.memOnly_trans h (ih _)
    · next e => rw [e] at h; exact h
    · next e => rw [e] at h; exact h

/-! ## The queue that the piece joins -/

theorem State.spill_memOnly (s : State) (c i : Nat) (e : TaskEntry) : s.memOnly (s.spill c i e).1 := by
  have h := State.writeMem_memOnly (x := ringAcc e.piece.part (.core c)) rfl s (s.ringAddr e.piece.part c i)
    (leBytes 256 (Config.taskBytes e).toNat)
  unfold State.spill
  dsimp only
  split <;> (next g => rw [g] at h; exact h)

theorem State.pushEntry_slot (s : State) (c d j : Nat) (e : TaskEntry) : (s.pushEntry c e).slot d j = s.slot d j :=
  s.slot_updCore_slots c d j (f := fun x => { x with queue := x.queue ++ [e] }) (fun _ => rfl)

/-- A saved piece stands at its queue's tail, on chip where there is room. -/
theorem State.joinSaved_spec (s : State) (c : Nat) (e : TaskEntry) : ∃ t ring, s.sameCribs t ∧
    s.joinSaved c e = t.pushEntry c { e with ring := ring } ∧ ((s.core c).roomOnChip = true → ring = none) := by
  unfold State.joinSaved
  dsimp only
  split
  · exact ⟨s, none, State.sameCribs_refl s, rfl, fun _ => rfl⟩
  · next hr =>
    have h := State.memOnly_sameCribs (s.spill_memOnly c (s.core c).ringPlace { e with ring := some (s.core c).ringPlace })
    split
    · exact ⟨s, _, State.sameCribs_refl s, rfl, fun g => absurd g hr⟩
    · split
      · next g =>
        rw [g] at h
        exact ⟨_, _, State.sameCribs_trans h (State.event_sameCribs _ _ _ _ _ _ _), rfl, fun g => absurd g hr⟩
      · next g => rw [g] at h; exact ⟨_, _, h, rfl, fun g => absurd g hr⟩
      · next g => rw [g] at h; exact ⟨_, _, h, rfl, fun g => absurd g hr⟩

/-! ## The record -/

theorem Tbl.find?_set {α : Type} (t : Tbl α) (r : Nat) (y : α) :
    (Tbl.set t r y).find? (fun (i, _) => i == r) = some (r, y) := by
  induction t with
  | nil => simp [Tbl.set]
  | cons e t ih =>
    obtain ⟨i, x⟩ := e
    simp only [Tbl.set]
    split
    · simp
    · split
      · simp
      · next h => rw [List.find?_cons_of_neg (by simpa using Ne.symm h)]; exact ih

theorem memGet_slice (m : Memory) (a : Nat) {n i : Nat} (hi : i < n) : memGet (memSlice m a n) i = memGet m (a + i) := by
  induction m with
  | nil => rfl
  | cons e m ih =>
    obtain ⟨j, b⟩ := e
    by_cases hj : a ≤ j ∧ j < a + n
    · rw [memSlice, List.filter_cons_of_pos (by simp [hj])]
      simp only [List.map_cons, memGet]
      by_cases he : j = a + i
      · rw [if_pos (by omega), if_pos he]
      · rw [if_neg (by omega), if_neg he]
        exact ih
    · rw [memSlice, List.filter_cons_of_neg (by simpa using hj), memGet, if_neg (by omega)]
      exact ih

/-- The record that a save leaves of a slot. -/
def State.record (s : State) (c k : Nat) (held : Bool) (gang : Option Nat) : SavedPiece :=
  { slot := (s.slot c k).context, priv := memSlice (s.core c).scratch (privBase k) 0x100000, core := c, held := held, gang := gang }

theorem State.mapTiles_core {β : Type} {v : Core → β} (hv : ∀ (x : Core) ts tw, v { x with tiles := ts, tilesWas := tw } = v x)
    (s : State) (f : Tile → Tile) (c : Nat) : v ((s.mapTiles f).core c) = v (s.core c) :=
  Tbl.get_map_view v (fun _ x => x.mapTiles s.stepNo f) (fun _ x => hv x _ _) (Core.reset c) s.cores c

theorem State.mapTiles_record (s : State) (f : Tile → Tile) (c k : Nat) (held : Bool) (gang : Option Nat) :
    (s.mapTiles f).record c k held gang = s.record c k held gang :=
  State.mapTiles_core (v := fun x => SavedPiece.mk (x.slot k).context (memSlice x.scratch (privBase k) 0x100000) c held gang)
    (fun _ _ _ => rfl) s f c

theorem Core.dropUnits_slots (x : Core) (k : Nat) : (x.dropUnits k).slots = x.slots := by
  unfold Core.dropUnits
  split <;> rfl

theorem Core.dropUnits_queue (x : Core) (k : Nat) : (x.dropUnits k).queue = x.queue := by
  unfold Core.dropUnits
  split <;> rfl

/-- A free slot: everything at its reset value but the admission buffer. -/
theorem State.freeSlot_slot (s : State) (c k : Nat) : (s.freeSlot c k).slot c k = { Slot.reset with adm := (s.slot c k).adm } :=
  (State.slot_updCore_slots _ c c k (fun x => x.dropUnits_slots k)).trans (s.slot_updSlot c k _)

theorem State.freeSlot_queue (s : State) (c k d : Nat) : ((s.freeSlot c k).core d).queue = (s.core d).queue :=
  (State.core_updCore_view (v := Core.queue) _ c d (fun x => x.dropUnits_queue k)).trans
    (State.core_updSlot_view (v := Core.queue) (fun _ _ _ _ => rfl) s c k d _)

/-- Step 6 of R392 before the piece is queued. -/
def State.intoRec (s : State) (c k p uid r : Nat) (live : Tile → Bool) (held : Bool) (gang : Option Nat) : State :=
  let t := s.mapTiles (fun t => if live t then t.keep (slotCode c k) uid else t.release (slotCode c k))
  (t.updPart p (fun z => { z with recs := Tbl.set z.recs r (s.record c k held gang) })).freeSlot c k

theorem State.intoRec_slot (s : State) (c k p uid r : Nat) (live : Tile → Bool) (held : Bool) (gang : Option Nat) :
    ∃ ad, (s.intoRec c k p uid r live held gang).slot c k = { Slot.reset with adm := ad } :=
  ⟨_, State.freeSlot_slot _ c k⟩

theorem State.intoRec_queue (s : State) (c k p uid r d : Nat) (live : Tile → Bool) (held : Bool) (gang : Option Nat) :
    ((s.intoRec c k p uid r live held gang).core d).queue = (s.core d).queue :=
  (State.freeSlot_queue _ c k d).trans (State.mapTiles_core (v := Core.queue) (fun _ _ _ => rfl) s _ d)

theorem State.intoRec_savedRec (s : State) (c k p uid r : Nat) (live : Tile → Bool) (held : Bool) (gang : Option Nat) :
    (s.intoRec c k p uid r live held gang).savedRec p r = some (s.record c k held gang) := by
  have h : ((s.intoRec c k p uid r live held gang).part p).recs = Tbl.set (s.part p).recs r (s.record c k held gang) :=
    congrArg Part.recs (State.part_updPart
      (s.mapTiles (fun t => if live t then t.keep (slotCode c k) uid else t.release (slotCode c k))) p
      (fun z => { z with recs := Tbl.set z.recs r (s.record c k held gang) }))
  rw [State.savedRec, h, Tbl.find?_set]
  rfl

theorem State.roomOnChip_congr {x y : Core} (h : x.queue = y.queue) : x.roomOnChip = y.roomOnChip := by
  unfold Core.roomOnChip Core.onchip Core.ringed
  rw [h]

/-- Step 6 of R392 of a held piece, and of one that is queued. -/
theorem State.saveInto_held (s : State) (c k p uid r : Nat) (live : Tile → Bool) (gang : Option Nat) :
    s.saveInto c k p uid r live true gang = s.intoRec c k p uid r live true gang := by
  have h := s.mapTiles_record (fun t => if live t then t.keep (slotCode c k) uid else t.release (slotCode c k)) c k true gang
  unfold State.saveInto State.intoRec
  rw [← h]
  dsimp only [State.record]
  split <;> rfl

theorem State.saveInto_queued {s : State} {c k : Nat} {q : Piece} (hq : (s.slot c k).piece = some q) (p uid r : Nat)
    (live : Tile → Bool) (gang : Option Nat) : s.saveInto c k p uid r live false gang =
      (s.intoRec c k p uid r live false gang).joinSaved c { piece := q, saved := some r, ring := none } := by
  have h := s.mapTiles_record (fun t => if live t then t.keep (slotCode c k) uid else t.release (slotCode c k)) c k false gang
  have hp : ((s.mapTiles (fun t => if live t then t.keep (slotCode c k) uid else t.release (slotCode c k))).slot c k).piece = some q :=
    (State.mapTiles_core (v := fun x => (x.slot k).piece) (fun _ _ _ => rfl) s _ c).trans hq
  unfold State.saveInto State.intoRec
  rw [← h]
  dsimp only [State.record]
  rw [hp]
  rfl

/-! ## A save -/

/-- A save that is made found a free record and wrote it. -/
theorem State.saveSlot_saved {s u : State} {c k r : Nat} {live : Tile → Bool} {held : Bool} {gang : Option Nat} {q : Piece}
    (hq : (s.slot c k).piece = some q) (h : s.saveSlot c k live held gang = (u, .saved r)) :
    (s.part q.part).freeRec = some r ∧ ∃ t, s.memOnly t ∧ u = t.saveInto c k q.part q.uid r live held gang := by
  unfold State.saveSlot at h
  rw [hq] at h
  dsimp only at h
  split at h
  · cases h
  · next r' hr =>
    have hm := State.storeRec_memOnly (x := s.slotSync c k) rfl ((s.part q.part).recAt r')
      (Config.cribLines (s.slot c k).context (memSlice (s.core c).scratch (privBase k) 0x100000)) s
    split at h
    · next t e =>
      rw [e] at hm
      cases h
      exact ⟨hr, t, hm, rfl⟩
    · cases h
    · cases h

/-- What a piece's save leaves: its slot free, its record in the crib, itself queued unless it is held. -/
structure State.Saved (s u : State) (c k r : Nat) (held : Bool) (gang : Option Nat) (q : Piece) : Prop where
  free : ∃ ad, u.slot c k = { Slot.reset with adm := ad }
  kept : held = true → (u.core c).queue = (s.core c).queue
  queued : held = false → ∃ ring, (u.core c).queue = (s.core c).queue ++ [{ piece := q, saved := some r, ring := ring }] ∧
    ((s.core c).roomOnChip = true → ring = none)
  recorded : u.savedRec q.part r = some (s.record c k held gang)

theorem State.saveInto_saved {s t : State} (hm : s.memOnly t) {c k : Nat} {q : Piece} (hq : (s.slot c k).piece = some q) (r : Nat)
    (live : Tile → Bool) (held : Bool) (gang : Option Nat) :
    s.Saved (t.saveInto c k q.part q.uid r live held gang) c k r held gang q := by
  have hc : t.core c = s.core c := State.core_congr (State.memOnly_sameCribs hm).1 c
  have hr : t.record c k held gang = s.record c k held gang := by
    unfold State.record State.slot
    rw [hc]
  cases held with
  | true =>
    rw [State.saveInto_held]
    exact ⟨State.intoRec_slot _ _ _ _ _ _ _ _ _, fun _ => (State.intoRec_queue _ _ _ _ _ _ _ _ _ _).trans (congrArg _ hc), nofun,
      (State.intoRec_savedRec _ _ _ _ _ _ _ _ _).trans (congrArg _ hr)⟩
  | false =>
    have hq' : (t.slot c k).piece = some q := by
      unfold State.slot
      rw [hc]
      exact hq
    rw [State.saveInto_queued hq']
    have hqu := t.intoRec_queue c k q.part q.uid r c live false gang
    obtain ⟨ad, hs⟩ := t.intoRec_slot c k q.part q.uid r live false gang
    have hrec := t.intoRec_savedRec c k q.part q.uid r live false gang
    generalize t.intoRec c k q.part q.uid r live false gang = v at *
    obtain ⟨w, ring, hw, he, hring⟩ := v.joinSaved_spec c { piece := q, saved := some r, ring := none }
    have hv : w.core c = v.core c := State.core_congr hw.1 c
    rw [he]
    refine ⟨⟨ad, ?_⟩, nofun, fun _ => ⟨ring, ?_, fun h => hring ?_⟩, ?_⟩
    · rw [State.pushEntry_slot, ← hs]
      exact congrArg (fun x : Core => x.slot k) hv
    · rw [State.pushEntry, State.core_updCore, hv]
      exact congrArg (· ++ _) (hqu.trans (congrArg Core.queue hc))
    · rw [← h]
      exact State.roomOnChip_congr (hqu.trans (congrArg Core.queue hc))
    · exact (State.savedRec_congr (hw.2 q.part) r).trans (hrec.trans (congrArg _ hr))

end Sys2Proof.Machine
end

section
/-! SUPPORT. A slot on its way into a save (R392): transfers stopped, replies awaited, results in the landing buffer. -/

namespace Sys2Proof.Machine

/-! ## The landing buffer (R385) -/

/-- `x` with other results in flight and other held traps. -/
def Slot.withFlight (x : Slot) (fl : List InFlight) (ps : List HeldTrap) : Slot :=
  { x with v := { x.v with inflight := fl }, trap := { x.trap with pend := ps } }

/-- The result stands in the landing buffer, without a fault. -/
def InFlight.landed (r : InFlight) : Prop := r.arrived = true ∧ r.landing = true ∧ r.fault = none

theorem holdTrap_length (hs : List HeldTrap) (h : HeldTrap) : (holdTrap hs h).length = hs.length + 1 := by
  have := List.length_eq_length_filter_add (l := hs) (fun g => decide (g.rank ≤ h.rank))
  simp only [holdTrap, List.partition_eq_filter_filter, List.length_append, List.length_cons]
  have e : hs.filter (not ∘ fun g => decide (g.rank ≤ h.rank)) = hs.filter (fun x => !decide (x.rank ≤ h.rank)) := rfl
  rw [e]
  omega

/-- Every result whose reply has come enters the landing buffer, or its fault joins the held traps. -/
theorem Slot.landing_spec (x : Slot) (hx : ∀ r ∈ x.v.inflight, r.arrived = true) : ∃ fl ps, x.landing = x.withFlight fl ps ∧
    (∀ r ∈ fl, r.landed) ∧ fl.length + ps.length = x.v.inflight.length + x.trap.pend.length := by
  suffices h : ∀ (l : List InFlight) (fl : List InFlight) (ps : List HeldTrap), (∀ r ∈ l, r.arrived = true) → (∀ r ∈ fl, r.landed) →
      ∃ fl' ps', l.foldl (fun (y : Slot) r =>
        let kept := { y with v := { y.v with inflight := y.v.inflight ++ [{ r with landing := r.arrived }] } }
        match r.fault with
        | some (n, a, el) => if r.arrived then y.hold (r.heldFault x.v.beat n a el) else kept
        | none => kept) (x.withFlight fl ps) = x.withFlight fl' ps' ∧ (∀ r ∈ fl', r.landed) ∧
        fl'.length + ps'.length = fl.length + ps.length + l.length by
    obtain ⟨fl, ps, he, hl, hn⟩ := h x.v.inflight [] x.trap.pend hx (fun _ h => absurd h List.not_mem_nil)
    exact ⟨fl, ps, he, hl, by simpa [Nat.add_comm] using hn⟩
  intro l
  induction l with
  | nil => exact fun fl ps _ hf => ⟨fl, ps, rfl, hf, rfl⟩
  | cons r l ih =>
    intro fl ps hl hf
    obtain ⟨hr, hl⟩ := List.forall_mem_cons.1 hl
    rw [List.foldl_cons]
    dsimp only
    split
    · next n a el _ =>
      rw [if_pos hr]
      obtain ⟨fl', ps', he, hf', hn⟩ := ih fl (holdTrap ps (r.heldFault x.v.beat n a el)) hl hf
      exact ⟨fl', ps', he, hf', by rw [hn, holdTrap_length, List.length_cons]; omega⟩
    · next hn =>
      obtain ⟨fl', ps', he, hf', hn⟩ := ih (fl ++ [{ r with landing := r.arrived }]) ps hl (by
        rintro z hz
        obtain hz | hz := List.mem_append.1 hz
        · exact hf z hz
        · rw [List.mem_singleton.1 hz]
          exact ⟨hr, hr, hn⟩)
      exact ⟨fl', ps', he, hf', by rw [hn]; simp only [List.length_append, List.length_cons, List.length_nil]; omega⟩

/-! ## Descriptors and transfers (R172) -/

/-- Descriptors held by a transfer are let go. -/
def Slot.freeDescs (x : Slot) (image : Nat → BitVec 512) : Slot :=
  { x with descs := x.descs.map (fun (n, d) => (n, if d.holder.isSome && d.holder != some .mat then d.letGo (image n) else d)) }

theorem Desc.letGo_holder (d : Desc) (image : BitVec 512) : (d.letGo image).holder = none := by
  unfold Desc.letGo
  dsimp only
  split <;> rfl

theorem Slot.freeDescs_holder {x : Slot} {image : Nat → BitVec 512} {n : Nat} {d : Desc} (h : (n, d) ∈ (x.freeDescs image).descs) :
    d.holder = none ∨ d.holder = some .mat := by
  obtain ⟨⟨m, e⟩, -, he⟩ := List.mem_map.1 h
  obtain ⟨-, rfl⟩ := Prod.mk.inj he
  split
  · exact .inl (e.letGo_holder _)
  · next hh =>
    cases hd : e.holder with
    | none => exact .inl rfl
    | some c => exact .inr (by simpa [hd] using hh)

/-! ## Before a save -/

/-- The slot as it enters a save. -/
def Slot.entered (image : Nat → BitVec 512) (x : Slot) : Slot := ((x.freeDescs image).stopXfers.awaitReplies).landing

theorem State.enterSave_eq (s : State) (c k : Nat) : s.enterSave c k = s.updSlot c k (Slot.entered (s.core c).descImage) := by
  unfold State.enterSave State.stopTransfers State.letGo
  dsimp only
  rw [State.updSlot_updSlot, State.updSlot_updSlot]
  rfl

theorem State.enterSave_slot (s : State) (c k : Nat) : (s.enterSave c k).slot c k = (s.slot c k).entered (s.core c).descImage := by
  rw [State.enterSave_eq, State.slot_updSlot]

theorem Slot.entered_eq (image : Nat → BitVec 512) (x : Slot) : ∃ fl ps,
    x.entered image = (x.freeDescs image).stopXfers.withFlight fl ps ∧ (∀ r ∈ fl, r.landed) ∧
      fl.length + ps.length = x.v.inflight.length + x.trap.pend.length := by
  have h : ∀ r ∈ (x.freeDescs image).stopXfers.awaitReplies.v.inflight, r.arrived = true := by
    intro r hr
    obtain ⟨r', -, rfl⟩ := List.mem_map.1 hr
    rfl
  obtain ⟨fl, ps, he, hl, hn⟩ := Slot.landing_spec _ h
  exact ⟨fl, ps, he, hl, hn.trans (congrArg (· + _) (List.length_map _))⟩

/-- A transfer that stops leaves of its stream all but itself and what is to be issued again. -/
theorem Stream.stopXfer_rest (t : Stream) : t.stopXfer.xfer = none ∧ t.stopXfer.line = t.line ∧ t.stopXfer.word = t.word ∧
    t.stopXfer.regs = t.regs ∧ ∀ f, t.xfer = some f → t.stopXfer.again = some f.left := by
  unfold Stream.stopXfer
  cases h : t.xfer with
  | some f => exact ⟨rfl, rfl, rfl, rfl, fun g hg => by cases hg; rfl⟩
  | none => exact ⟨h, rfl, rfl, rfl, fun f g => by cases g⟩

theorem Slot.entered_piece (image : Nat → BitVec 512) (x : Slot) : (x.entered image).piece = x.piece := by
  obtain ⟨fl, ps, he, -⟩ := x.entered_eq image
  rw [he]
  rfl

theorem State.enterSave_sameBytes (s : State) (c k : Nat) : s.sameBytes (s.enterSave c k) := by
  rw [State.enterSave_eq]
  exact s.updSlot_sameBytes c k _

theorem State.enterSave_parts (s : State) (c k : Nat) : (s.enterSave c k).parts = s.parts := by
  rw [State.enterSave_eq]
  rfl

theorem State.enterSave_part (s : State) (c k p : Nat) : (s.enterSave c k).part p = s.part p := by
  unfold State.part
  rw [State.enterSave_parts]

theorem State.enterSave_core {β : Type} {v : Core → β} (hv : coreView v) (s : State) (c k d : Nat) :
    v ((s.enterSave c k).core d) = v (s.core d) := by
  rw [State.enterSave_eq]
  exact State.core_updSlot_view hv s c k d _

theorem coreView_queue : coreView Core.queue := fun _ _ _ _ => rfl

theorem State.enterSave_piece (s : State) (c k : Nat) : ((s.enterSave c k).slot c k).piece = (s.slot c k).piece := by
  rw [State.enterSave_slot, Slot.entered_piece]

end Sys2Proof.Machine
end

section
/-! The units pass (R132 to R137), and pieces that have held a slot or the units too long give way (R31, R135): O47. -/

namespace Sys2Proof.Machine

/-! ## Stops and resumptions at a pass -/

/-- `t` is `s` but for what is not a stream, a byte or an owner of units. -/
def State.opsOnly (s t : State) : Prop :=
  s.sameBytes t ∧ (∀ a, t.strm a = s.strm a) ∧ ∀ c, (t.core c).units = (s.core c).units

theorem State.opsOnly_refl (s : State) : s.opsOnly s := ⟨State.sameBytes_refl s, fun _ => rfl, fun _ => rfl⟩

theorem State.opsOnly_trans {s t u : State} (h : s.opsOnly t) (g : t.opsOnly u) : s.opsOnly u :=
  ⟨State.sameBytes_trans h.1 g.1, fun a => (g.2.1 a).trans (h.2.1 a), fun c => (g.2.2 c).trans (h.2.2 c)⟩

theorem State.slot_updSlot_view {β : Type} {v : Slot → β} (s : State) (c k d j : Nat) {f : Slot → Slot} (hf : ∀ x, v (f x) = v x) :
    v ((s.updSlot c k f).slot d j) = v (s.slot d j) := by
  by_cases h : (d, j) = (c, k)
  · obtain ⟨rfl, rfl⟩ := Prod.mk.inj h
    rw [State.slot_updSlot]
    exact hf _
  · rw [State.slot_updSlot_other _ _ h]

theorem State.updSlot_opsOnly (s : State) (c k : Nat) {f : Slot → Slot} (hf : ∀ cls x, (f x).strm cls = x.strm cls) :
    s.opsOnly (s.updSlot c k f) := by
  refine ⟨s.updSlot_sameBytes c k f, fun a => ?_, fun d => s.core_updCore_view c d (v := Core.units) (f := fun x => x.setSlot k _)
    (fun _ => rfl)⟩
  cases a with
  | strm d j cls => exact s.slot_updSlot_view (v := fun x => x.strm cls) c k d j (hf cls)
  | thread t => rfl

/-- A change of the matrix state leaves the streams. -/
theorem Slot.withMat_strm (m : MatState) (cls : Cls) (x : Slot) : Slot.strm { x with m := m } cls = x.strm cls := by
  cases cls <;> rfl

theorem State.setGangStat_opsOnly (s : State) (ms : List (Nat × Nat)) (f : OpStat → OpStat) : s.opsOnly (s.setGangStat ms f) :=
  List.foldlRecOn (motive := fun t : State => s.opsOnly t) ms _ (State.opsOnly_refl s)
    (fun t ht e _ => State.opsOnly_trans ht (t.updSlot_opsOnly e.1 e.2 (fun cls x => x.withMat_strm _ cls)))

theorem State.stopOps1_opsOnly (s : State) (c k : Nat) : s.opsOnly (s.stopOps1 c k) :=
  State.opsOnly_trans (s.updSlot_opsOnly c k (fun cls x => x.withMat_strm _ cls)) (State.setGangStat_opsOnly _ _ _)

theorem State.resumeOps_opsOnly (s : State) (c k : Nat) : s.opsOnly (s.resumeOps c k) := by
  unfold State.resumeOps
  extract_lets gs all t
  have ht : s.opsOnly t := s.updSlot_opsOnly c k (fun cls x => x.withMat_strm _ cls)
  split
  · exact State.opsOnly_trans ht (State.setGangStat_opsOnly _ _ _)
  · exact ht

/-! ## A grant -/

/-- The units that have passed to slot `k` at core cycle `now`. -/
def Units.granted (k now : Nat) : Units :=
  { valid := true, owner := k, ever := true, since := now, lastIssue := now + 4, offer := false, askedAt := none }

/-- The units of core `c` pass to slot `k`: nothing else that a stream or a byte shows. -/
def State.granted (s t : State) (c k : Nat) : Prop :=
  s.sameBytes t ∧ (∀ a, t.strm a = s.strm a) ∧ (t.core c).units = Units.granted k s.cycle

theorem State.grant_granted (s : State) (c k : Nat) : s.granted (s.grant c k) c k := by
  let f (x : Core) : Core := { x with units := Units.granted k s.cycle }
  obtain ⟨hb, hs, hu⟩ := (s.updCore c f).resumeOps_opsOnly c k
  refine ⟨State.sameBytes_trans (s.updCore_sameBytes c (f := f) (fun _ => rfl) (fun _ => rfl) (fun _ => rfl)) hb, fun a => (hs a).trans ?_,
    (hu c).trans (congrArg Core.units (s.core_updCore c f))⟩
  cases a with
  | strm d j cls => exact congrArg (Slot.strm · cls) (s.slot_updCore_slots c d j (f := f) (fun _ => rfl))
  | thread t => rfl

theorem State.setGangStat_cycle (s : State) (ms : List (Nat × Nat)) (f : OpStat → OpStat) : (s.setGangStat ms f).cycle = s.cycle :=
  List.foldlRecOn (motive := fun t : State => t.cycle = s.cycle) ms _ rfl (fun _ ht _ _ => ht)

theorem State.stopOps1_grant (s : State) (c j k : Nat) : s.granted ((s.stopOps1 c j).grant c k) c k := by
  obtain ⟨hb, hs, -⟩ := s.stopOps1_opsOnly c j
  obtain ⟨gb, gs, gu⟩ := (s.stopOps1 c j).grant_granted c k
  have hc : (s.stopOps1 c j).cycle = s.cycle := State.setGangStat_cycle _ _ _
  exact ⟨State.sameBytes_trans hb gb, fun a => (gs a).trans (hs a), by rw [gu, hc]⟩

/-! ## A pass -/

/-- What the event of a pass needs of a core whose units a slot owns. -/
theorem State.passUnits_spec {s : State} {c k : Nat} (hz : (s.core c).frz.since = none) (hg : (s.core c).grantee = some k)
    (cond : Core → Bool) :
    ((s.core c).units.valid = false → s.granted (s.passUnits c cond) c k) ∧
    ((s.core c).units.valid = true → (s.core c).ownerSlot.v.inflight = [] → cond (s.core c) = true →
      s.granted (s.passUnits c cond) c k) ∧
    ((s.core c).units.valid = true → cond (s.core c) = false → s.passUnits c cond = s) ∧
    ((s.core c).units.valid = true → (s.core c).ownerSlot.v.inflight ≠ [] → s.passUnits c cond = s) := by
  have hd : (s.core c).drained = (s.core c).ownerSlot.v.inflight.isEmpty := rfl
  unfold State.passUnits
  dsimp only
  rw [hz, hg]
  refine ⟨fun hv => ?_, fun hv hi hc => ?_, fun hv hc => ?_, fun hv hi => ?_⟩
  · simpa [hv] using s.grant_granted c k
  · simpa [hv, hd, hi, hc] using s.stopOps1_grant c _ k
  · simp [hv, hc]
  · simp [hv, hd, hi]

/-- The grant goes to a slot of the core that requests the units. -/
theorem Core.grantee_requests {x : Core} {k : Nat} (h : x.grantee = some k) : k < 4 ∧ x.requests k = true := by
  have hmem : x.normalAsks.contains k = true ∨ x.gleanAsks.contains k = true := by
    unfold Core.grantee at h
    dsimp only at h
    split at h
    · next e => cases h; exact .inl (List.find?_some e)
    · exact .inr (List.find?_some h)
  simp only [Core.normalAsks, Core.gleanAsks, List.contains_iff_mem, List.mem_filter, List.mem_range, Bool.and_eq_true] at hmem
  obtain ⟨h4, hr, -⟩ | ⟨h4, hr, -⟩ := hmem
  · exact ⟨h4, hr⟩
  · exact ⟨h4, hr⟩

/-! ## A piece gives way -/

/-- A stop that is to be tried again, once the crib has gained records beyond `after`. -/
def Slot.stopAgain (x : Slot) (after : Option Nat) : Slot := { x with stopping := some { held := false, after := after } }

/-- A stop of a running piece of no gang: saved and queued, or tried again once its crib gains a record. -/
theorem State.tryStop_alone {s : State} {c k : Nat} {q : Piece} (hq : (s.slot c k).piece = some q) (hg : q.gang = none)
    (hs : (s.slot c k).stopping = none) (hr : (s.slot c k).phase = .running) : s.tryStop c k false =
    match (s.enterSave c k).saveSlot c k (fun _ => true) false none with
    | (u, .saved _) => u
    | (u, .abandoned) => u.updSlot c k (·.stopAgain (some (u.part (u.partOf (.strm c k .ctl))).gains))
    | (u, .held) => u.updSlot c k (·.stopAgain none) := by
  have hw : s.stopWaits c k = false := by simp [State.stopWaits, hq, hs]
  have hp : s.stopPiece c k false = (s.enterSave c k).saveSlot c k (fun _ => true) false none := by
    simp only [State.stopPiece, hq, hg]
  unfold State.tryStop
  rw [if_neg (by simp [hw, hr]), hp]
  rfl

/-- A piece whose partition has no free record is told of, and goes on. -/
theorem State.saveSlot_full {s : State} {c k : Nat} {q : Piece} (hq : (s.slot c k).piece = some q) (hr : (s.part q.part).freeRec = none)
    (live : Tile → Bool) (held : Bool) (gang : Option Nat) : s.saveSlot c k live held gang =
      (s.event q.part 11 0 0 (BitVec.ofNat 64 (4 * c + k)) 0, .abandoned) := by
  simp only [State.saveSlot, hq, hr]

theorem State.event_part (s : State) (p kind sub index : Nat) (i1 i2 : DWord) :
    ((s.event p kind sub index i1 i2).part p).gains = (s.part p).gains ∧ s.told (s.event p kind sub index i1 i2) p kind sub index i1 i2 := by
  unfold State.told State.event
  rw [State.part_updPart]
  constructor
  · split <;> rfl
  · intro h0 hl
    rw [if_neg (by omega)]
    exact ⟨_, rfl, rfl, rfl, rfl, rfl, rfl, rfl⟩

section
variable {s : State} {c k : Nat} {q : Piece} (hq : (s.slot c k).piece = some q) (hg : q.gang = none)
  (hs : (s.slot c k).stopping = none) (hr : (s.slot c k).phase = .running)
include hq hg hs hr

theorem State.tryStop_saved {u : State} {r : Nat}
    (h : (s.enterSave c k).saveSlot c k (fun _ => true) false none = (u, .saved r)) : s.tryStop c k false = u := by
  rw [State.tryStop_alone hq hg hs hr, h]

theorem State.tryStop_mapped {r : Nat} (hf : (s.part q.part).freeRec = some r)
    (hm : (s.enterSave c k).mapped ((s.enterSave c k).slotSync c k) .wr ((s.part q.part).recAt r) 0x400000) :
    (s.enterSave c k).Saved (s.tryStop c k false) c k r false none q := by
  have hq' := (s.enterSave_piece c k).trans hq
  rw [← State.enterSave_part s c k] at hf hm
  obtain ⟨d, -, h⟩ := State.saveSlot_mapped (fun _ => true) false none hq' hf hm
  rw [State.tryStop_saved hq hg hs hr h]
  exact State.saveInto_saved ⟨d, (s.enterSave c k).xl, rfl⟩ hq' r _ false none

theorem State.tryStop_full (hf : (s.part q.part).freeRec = none) :
    s.told (s.tryStop c k false) q.part 11 0 0 (.ofNat 64 (4 * c + k)) 0 ∧
    (s.tryStop c k false).slot c k =
      { (s.enterSave c k).slot c k with stopping := some { held := false, after := some (s.part q.part).gains } } ∧
    s.sameBytes (s.tryStop c k false) := by
  have hq' := (s.enterSave_piece c k).trans hq
  have hp := s.enterSave_part c k q.part
  obtain ⟨hgain, htold⟩ := (s.enterSave c k).event_part q.part 11 0 0 (.ofNat 64 (4 * c + k)) 0
  have ht : (s.enterSave c k).time = s.time := by rw [State.enterSave_eq]; rfl
  rw [State.tryStop_alone hq hg hs hr, State.saveSlot_full hq' (by rw [hp]; exact hf)]
  dsimp only
  have hpart : ((s.enterSave c k).event q.part 11 0 0 (.ofNat 64 (4 * c + k)) 0).partOf (.strm c k .ctl) = q.part := by
    show (match ((s.enterSave c k).slot c k).piece with | some p => p.part | none => 0) = q.part
    rw [hq']
  refine ⟨?_, ?_, ?_⟩
  · unfold State.told at htold ⊢
    rw [hp, ht] at htold
    exact htold
  · rw [State.slot_updSlot, hpart, hgain, hp]
    rfl
  · exact State.sameBytes_trans (State.sameBytes_trans (s.enterSave_sameBytes c k) (State.event_sameBytes _ _ _ _ _ _ _))
      (State.updSlot_sameBytes _ c k _)

end

/-- Both events of a piece that has to give way are its stop. -/
theorem exec_giveWay {s : State} {c k : Nat} {t0 : Nat} (hz : (s.core c).frz.since = none) {i : Instr}
    (hi : (i = .gleaningPreemptTimeout c k ∧ (s.slot c k).gleanSince = some t0 ∧ (s.slot c k).phase = .running ∧ t0 + 65536 ≤ s.cycle) ∨
      (i = .gleaningDrainTimeout c ∧ (s.core c).units.askedAt = some t0 ∧ (s.core c).units.valid = true ∧
        (s.core c).units.owner = k ∧ (s.core c).displaced = true ∧ (s.slot c k).phase = .running ∧
        (s.slot c k).v.inflight ≠ [] ∧ t0 + 65536 ≤ s.cycle)) :
    (s.slot c k).phase = .running ∧ exec i s = .next (s.tryStop c k false) := by
  obtain ⟨rfl, ht, hr, hn⟩ | ⟨rfl, ha, hv, ho, hd, hr, hf, hn⟩ := hi
  · refine ⟨hr, ?_⟩
    show Host.Outcome.next _ = _
    dsimp only
    rw [ht]
    simp [hr, hz, hn]
  · refine ⟨hr, ?_⟩
    have hdr : (s.core c).drained = false := by
      rw [Core.drained, Core.ownerSlot, ho]
      exact List.isEmpty_eq_false_iff.2 hf
    have hr' : ((s.core c).slot k).phase = .running := hr
    show Host.Outcome.next _ = _
    dsimp only
    rw [ha]
    simp [hz, hv, hd, hdr, hr', hn, ho]

/-- Settles O47: a pass is a grant to the first requesting slot, and a piece that gives way is saved or told of. -/
theorem unitsPassAndPiecesGiveWay : Obligations.UnitsPassAndPiecesGiveWay := by
  refine ⟨?_, ?_⟩
  · intro s c k hz hg x cond passes
    obtain ⟨h4, hreq⟩ := Core.grantee_requests hg
    refine ⟨h4, hreq, fun i hi => ?_⟩
    obtain ⟨f, hexec, hf⟩ : ∃ f : Core → Bool, exec i s = .next (s.passUnits c f) ∧ (cond i ↔ f (s.core c) = true) := by
      simp only [List.mem_cons, List.not_mem_nil, or_false] at hi
      obtain rfl | rfl | rfl := hi
      · exact ⟨fun x => x.offered || x.displaced, rfl, by simp [cond, x]⟩
      · exact ⟨fun x => x.idle64 s.cycle, rfl, by simp [cond, x, Core.idle64, Decidable.imp_iff_not_or]⟩
      · exact ⟨fun x => x.held4096 s.cycle, rfl, by simp [cond, x, Core.held4096]⟩
    obtain ⟨h1, h2, h3, h5⟩ := State.passUnits_spec hz hg f
    have hp (h : s.granted (s.passUnits c f) c k) : passes i := ⟨_, hexec, h.1, fun a _ => h.2.1 a, h.2.2⟩
    rw [hf, Bool.not_eq_true]
    exact ⟨fun hv => hp (h1 hv), fun hv hi hc => hp (h2 hv hi hc), fun hv hc => by rw [hexec, h3 hv hc],
      fun hv hi => by rw [hexec, h5 hv hi]⟩
  · intro s c k q t0 hq hg hs hz i hi e
    obtain ⟨hr, hexec⟩ := exec_giveWay hz hi
    rw [hexec]
    refine ⟨fun u r h => by rw [State.tryStop_saved hq hg hs hr h], fun r hf hm => ?_, fun hf => ⟨_, rfl, State.tryStop_full hq hg hs hr hf⟩⟩
    obtain ⟨⟨ad, hfree⟩, -, hqueue, hrec⟩ := State.tryStop_mapped hq hg hs hr hf hm
    obtain ⟨ring, hqueue, -⟩ := hqueue rfl
    exact ⟨_, ring, _, rfl, by rw [hfree]; rfl, by rw [hfree]; rfl, by rw [hqueue, State.enterSave_core coreView_queue], hrec,
      (s.enterSave_piece c k).trans hq, rfl, rfl⟩

end Sys2Proof.Machine
end

section
/-! SUPPORT. What an instruction that answers in a scalar register leaves, and domain registers. -/

namespace Sys2Proof.Machine

theorem State.guarded_acts {s : State} {g : Guard} (h : s.acts s.agent g = true) (n : Nat) (body : State → State) :
    s.guarded g n body = .next (body s) := by
  unfold State.guarded
  rw [if_pos h]

theorem realAgent_strm {c k : Nat} {cls : Cls} (h : realAgent (.strm c k cls) = true) : cls ≠ .net := by
  rintro rfl
  exact Bool.noConfusion h

/-! ## Results -/

/-- A view of a slot that streams, landing results and their flags and signals do not touch. -/
def stillView {β : Type} (v : Slot → β) : Prop :=
  (∀ x cls t, v (Slot.setStrm x cls t) = v x) ∧ ∀ x w fp new t q, v (Slot.landed x w fp new t q) = v x

theorem stillView_piece : stillView Slot.piece := ⟨fun _ cls _ => by cases cls <;> rfl, fun _ _ _ _ _ _ => rfl⟩

theorem State.advance_still {β : Type} {v : Slot → β} (hv : stillView v) (s : State) (c k n : Nat) (cls : Cls) :
    v ((s.advance (.strm c k cls) n).slot c k) = v (s.slot c k) := by
  rw [State.advance_slot]
  obtain ⟨w, fp, new, t, q, h⟩ := beatOf_landed cls
    ((s.slot c k).setStrm cls { ((s.slot c k).strm cls).done with word := ((s.slot c k).strm cls).word + n })
  rw [h, hv.2, hv.1]

theorem State.updStrm_still {β : Type} {v : Slot → β} (hv : stillView v) (s : State) (c k : Nat) (cls : Cls) (f : Stream → Stream) :
    v ((s.updStrm (.strm c k cls) f).slot c k) = v (s.slot c k) :=
  (congrArg v (s.slot_updSlot c k _)).trans (hv.1 _ cls _)

theorem State.result_still {β : Type} {v : Slot → β} (hv : stillView v) (s : State) (c k n : Nat) (cls : Cls) (d : BitVec 6)
    (w : DWord) : v ((s.result (.strm c k cls) d w n).slot c k) = v (s.slot c k) :=
  (State.advance_still hv _ c k n cls).trans (State.updStrm_still hv s c k cls _)

theorem State.advance_strm (s : State) (c k n : Nat) {cls : Cls} (h : cls ≠ .net) : (s.advance (.strm c k cls) n).strm (.strm c k cls) =
    { (s.strm (.strm c k cls)).done with word := (s.strm (.strm c k cls)).word + n } := by
  show ((s.advance (.strm c k cls) n).slot c k).strm cls = _
  rw [State.advance_slot]
  obtain ⟨w, fp, new, t, q, he⟩ := beatOf_landed cls
    ((s.slot c k).setStrm cls { ((s.slot c k).strm cls).done with word := ((s.slot c k).strm cls).word + n })
  rw [he, Slot.landed_strm, Slot.strm_setStrm _ _ h]
  rfl

theorem State.result_strm (s : State) (c k n : Nat) {cls : Cls} (h : cls ≠ .net) (d : BitVec 6) (v : DWord) :
    ((s.result (.strm c k cls) d v n).strm (.strm c k cls)).word = (s.strm (.strm c k cls)).word + n ∧
    (s.result (.strm c k cls) d v n).reg (.strm c k cls) d = if d = 0 then 0 else v := by
  have hs : (s.setReg (.strm c k cls) d v).strm (.strm c k cls) = (s.strm (.strm c k cls)).setReg d v :=
    (congrArg (Slot.strm · cls) (s.slot_updSlot c k _)).trans (Slot.strm_setStrm _ _ h)
  have hw : ((s.strm (.strm c k cls)).setReg d v).word = (s.strm (.strm c k cls)).word := by
    unfold Stream.setReg
    split <;> rfl
  unfold State.result State.reg
  rw [State.advance_strm _ c k n h, hs]
  refine ⟨congrArg (· + n) hw, ?_⟩
  show ((s.strm (.strm c k cls)).setReg d v).reg d = _
  split
  · next hd => rw [hd]; rfl
  · next hd => exact Stream.reg_setReg _ v hd

theorem State.result_core {β : Type} {v : Core → β} (hv : coreView v) (s : State) (c k n : Nat) (cls : Cls) (d : BitVec 6)
    (w : DWord) (e : Nat) : v ((s.result (.strm c k cls) d w n).core e) = v (s.core e) :=
  (State.advance_core_view hv _ c k n cls e).trans (State.core_updSlot_view hv s c k e _)

theorem State.result_parts (s : State) (c k n : Nat) (cls : Cls) (d : BitVec 6) (v : DWord) :
    (s.result (.strm c k cls) d v n).parts = s.parts := by
  obtain ⟨cs, h⟩ := State.advance_rest (s.setReg (.strm c k cls) d v) c k n cls
  exact (congrArg State.parts h :)

theorem State.result_sameBytes (s : State) (a : Agent) (d : BitVec 6) (v : DWord) (n : Nat) : s.sameBytes (s.result a d v n) :=
  State.sameBytes_trans (s.updStrm_sameBytes a _) (State.advance_sameBytes _ a n)

/-- The results in flight land: the vector file, the exception flags and signals change. -/
theorem Slot.flushResults_eq (x : Slot) : ∃ v fp new t q, x.flushResults = x.landed v fp new t q := by
  unfold Slot.flushResults
  split
  · exact ⟨x.v, x.regs.fpstat, x.fpNew, x.flagCyc, x.sigs, rfl⟩
  · obtain ⟨v, fp, new, t, q, h⟩ := x.landDue_eq (x.v.inflight.foldl (fun n r => max n r.due) x.v.beat)
    dsimp only
    rw [h]
    exact ⟨_, fp, new, t, q, rfl⟩

/-! ## SYS.DOM (R32) -/

theorem domReg_toNat (level d : Nat) (epoch : DWord) (phase : Bool) (hl : level < 128) (hd : d < 2 ^ 24) :
    (domReg level d epoch phase).toNat = epoch.toNat % 65536 * 2 ^ 32 + b2n phase * 2 ^ 31 + level * 2 ^ 24 + d := by
  have hp : b2n phase ≤ 1 := by cases phase <;> decide
  rw [domReg, BitVec.toNat_ofNat, Nat.mod_eq_of_lt]
  omega

theorem domReg_fields (level d : Nat) (epoch : DWord) (phase : Bool) (hl : level < 128) (hd : d < 2 ^ 24) :
    (domReg level d epoch phase).toNat % 2 ^ 31 = level * 2 ^ 24 + d ∧
    (domReg level d epoch phase).toNat / 2 ^ 32 = epoch.toNat % 65536 ∧ (domReg level d epoch phase).getLsbD 31 = phase := by
  have h := domReg_toNat level d epoch phase hl hd
  have hp : b2n phase ≤ 1 := by cases phase <;> decide
  refine ⟨by omega, by omega, ?_⟩
  have hb : (domReg level d epoch phase).toNat / 2 ^ 31 % 2 = b2n phase := by omega
  show (domReg level d epoch phase).toNat.testBit 31 = phase
  rw [Nat.testBit_eq_decide_div_mod_eq, hb]
  cases phase <;> rfl

theorem fieldNat_eq (x : DWord) (lo k : Nat) : fieldNat x lo k = x.toNat / 2 ^ lo % 2 ^ k := by
  rw [fieldNat, BitVec.extractLsb'_toNat, Nat.shiftRight_eq_div_pow]

end Sys2Proof.Machine
end

section
/-! SRAD, PIN, RETIRE, YIELD and DBAR (R334 to R338), and the saves that they make (R392): O45. -/

namespace Sys2Proof.Machine

/-! ## PIN (R334) -/

/-- A queue entry whose mode is set where it carries the id. -/
def TaskEntry.repin (id v : Nat) (e : TaskEntry) : TaskEntry :=
  if e.piece.id.toNat = id then { e with piece := { e.piece with pin := v } } else e

def SavedPiece.repin (v : Nat) (y : SavedPiece) : SavedPiece :=
  { y with slot := { y.slot with piece := y.slot.piece.map (fun q => { q with pin := v }) } }

/-- The record of an entry that carries the id, where it has one. -/
def TaskEntry.recOf (id : Nat) (e : TaskEntry) : Option (Nat × Nat) :=
  if e.piece.id.toNat = id then e.saved.map (fun r => (e.piece.part, r)) else none

/-- PIN's mark in the crib record of an entry. -/
def State.pinEntry (s : State) (id v : Nat) (e : TaskEntry) : State :=
  match e.saved with
  | some r => if e.piece.id.toNat = id then s.updPart e.piece.part (·.pinSaved r v) else s
  | none => s

theorem State.pinEntry_eq (s : State) (id v : Nat) (e : TaskEntry) : s.pinEntry id v e =
    match e.recOf id with
    | some (p, r) => s.updPart p (·.pinSaved r v)
    | none => s := by
  unfold State.pinEntry TaskEntry.recOf
  by_cases h : e.piece.id.toNat = id
  · simp only [h, if_true]
    cases e.saved <;> rfl
  · simp only [h, if_false]
    cases e.saved <;> rfl

theorem Part.pinSaved_find (x : Part) (r v n : Nat) : ((x.pinSaved r v).recs.find? (fun (i, _) => i == n)).map (·.2) =
    ((x.recs.find? (fun (i, _) => i == n)).map (·.2)).map (fun y => if n = r then y.repin v else y) := by
  unfold Part.pinSaved
  rw [List.find?_map]
  cases h : x.recs.find? (fun (i, _) => i == n) with
  | none => simp [h]
  | some e =>
    have hn : e.1 = n := by simpa using List.find?_some h
    subst hn
    simp [h, SavedPiece.repin]

theorem Part.pinSaved_priv (x : Part) (r v n : Nat) :
    (Tbl.get SavedPiece.blank (x.pinSaved r v).recs n).priv = (Tbl.get SavedPiece.blank x.recs n).priv :=
  Tbl.get_map_view SavedPiece.priv (fun i (y : SavedPiece) => if i = r then y.repin v else y)
    (fun i y => by split <;> rfl) SavedPiece.blank x.recs n

/-- A change of a partition that keeps its records' own bytes of each slot. -/
theorem State.updPart_priv (s : State) (p : Nat) {f : Part → Part}
    (hf : ∀ x n, (Tbl.get SavedPiece.blank (f x).recs n).priv = (Tbl.get SavedPiece.blank x.recs n).priv) :
    s.sameBytes (s.updPart p f) := by
  intro m a
  unfold State.byteAt
  congr 1
  cases m with
  | crib q r =>
    rw [State.store_crib, State.store_crib]
    by_cases h : q = p
    · subst h
      rw [State.part_updPart]
      exact hf _ r
    · rw [State.updPart, State.part_setPart_other _ _ h]
  | scratch c => rfl
  | plane c n => rfl
  | handlers => rfl
  | tiers => rfl
  | host => rfl

/-- What PIN's marks change: the modes in the records that are marked. -/
structure State.Pinned (s t : State) (id v : Nat) (l : List TaskEntry) : Prop where
  cores : t.cores = s.cores
  bytes : s.sameBytes t
  recs : ∀ p r, t.savedRec p r =
    (s.savedRec p r).map (fun y => if ∃ e ∈ l, e.recOf id = some (p, r) then y.repin v else y)

theorem SavedPiece.repin_repin (v : Nat) (y : SavedPiece) : (y.repin v).repin v = y.repin v := by
  simp [SavedPiece.repin, Function.comp_def]

theorem State.pinEntry_savedRec (s : State) (id v : Nat) (e : TaskEntry) (p r : Nat) : (s.pinEntry id v e).savedRec p r =
    (s.savedRec p r).map (fun y => if e.recOf id = some (p, r) then y.repin v else y) := by
  rw [State.pinEntry_eq]
  cases h : e.recOf id with
  | none => simp
  | some pr =>
    obtain ⟨p', r'⟩ := pr
    by_cases hp : p = p'
    · subst hp
      simp only [State.savedRec, State.part_updPart, Part.pinSaved_find, Option.some.injEq, Prod.mk.injEq, true_and, eq_comm]
    · have hpart : (s.updPart p' (·.pinSaved r' v)).part p = s.part p := State.part_setPart_other s _ hp
      simp only [State.savedRec, hpart, Option.some.injEq, Prod.mk.injEq, Ne.symm hp, false_and, if_false, Option.map_id']

theorem State.pinEntry_rest (s : State) (id v : Nat) (e : TaskEntry) :
    (s.pinEntry id v e).cores = s.cores ∧ s.sameBytes (s.pinEntry id v e) := by
  rw [State.pinEntry_eq]
  split
  · exact ⟨rfl, s.updPart_priv _ (fun x n => x.pinSaved_priv _ v n)⟩
  · exact ⟨rfl, State.sameBytes_refl s⟩

theorem State.foldl_pinEntry (id v : Nat) (l : List TaskEntry) (s : State) :
    s.Pinned (l.foldl (fun s e => s.pinEntry id v e) s) id v l := by
  induction l generalizing s with
  | nil => exact ⟨rfl, State.sameBytes_refl s, fun p r => by simp⟩
  | cons e l ih =>
    obtain ⟨hc, hb, hr⟩ := ih (s.pinEntry id v e)
    obtain ⟨gc, gb⟩ := s.pinEntry_rest id v e
    refine ⟨hc.trans gc, State.sameBytes_trans gb hb, fun p r => ?_⟩
    rw [List.foldl_cons, hr, State.pinEntry_savedRec, Option.map_map]
    congr 1
    funext y
    by_cases h1 : e.recOf id = some (p, r) <;> by_cases h2 : ∃ e ∈ l, e.recOf id = some (p, r) <;>
      simp [h1, h2, SavedPiece.repin_repin]

theorem State.foldl_pinEntry_unsaved {id v : Nat} {l : List TaskEntry} (h : ∀ e ∈ l, e.saved = none) (s : State) :
    l.foldl (fun s e => s.pinEntry id v e) s = s := by
  induction l generalizing s with
  | nil => rfl
  | cons e l ih =>
    obtain ⟨he, hl⟩ := List.forall_mem_cons.1 h
    rw [List.foldl_cons, ih hl, State.pinEntry, he]

/-- The state that PIN leaves of entries that carry the id, before its answer. -/
def State.pinned (s : State) (c id v : Nat) : State :=
  ((s.core c).queue.foldl (fun s e => s.pinEntry id v e) s).updCore c (fun x => { x with queue := x.queue.map (·.repin id v) })

section
variable {s : State} {g : Guard} {c k : Nat} {cls : Cls} (hm : s.agent = .strm c k cls) (ha : s.acts s.agent g = true)
include hm ha

theorem exec_srad (b : Src) : exec (.srad g b) s = .next ((s.updCore c (fun x =>
    { x with range := .ofNat 2 (min (s.srcZ s.agent b).toNat 3) })).advance s.agent (srcWords b)) := by
  show execSrad g b s = _
  rw [execSrad, State.guarded_acts ha, hm]
  rfl

theorem exec_pin (d a : BitVec 6) (b : Src) : exec (.pin g d a b) s = .next (
    if 2 < (s.srcZ s.agent b).toNat then s.result s.agent d 2 (srcWords b)
    else if !(s.core c).queue.any (fun e => e.piece.id.toNat == (s.reg s.agent a).toNat) then s.result s.agent d 1 (srcWords b)
    else (s.pinned c (s.reg s.agent a).toNat (s.srcZ s.agent b).toNat).result s.agent d 0 (srcWords b)) := by
  show execPin g d a b s = _
  rw [execPin, State.guarded_acts ha, hm]
  rfl

/-- PIN of entries that carry the id. -/
theorem exec_pin_found {d a : BitVec 6} {b : Src} (hv : (s.srcZ s.agent b).toNat ≤ 2)
    (hq : ∃ e ∈ (s.core c).queue, e.piece.id.toNat = (s.reg s.agent a).toNat) : exec (.pin g d a b) s =
      .next ((s.pinned c (s.reg s.agent a).toNat (s.srcZ s.agent b).toNat).result s.agent d 0 (srcWords b)) := by
  have hany : (s.core c).queue.any (fun e => e.piece.id.toNat == (s.reg s.agent a).toNat) = true := by
    obtain ⟨e, he, hi⟩ := hq
    exact List.any_eq_true.2 ⟨e, he, by simpa using hi⟩
  rw [exec_pin hm ha, if_neg (by omega), if_neg (by simp [hany])]

end

/-- What PIN leaves (R334). -/
theorem State.pinned_spec (s : State) (c k id v n : Nat) (cls : Cls) (d : BitVec 6) :
    let t := (s.pinned c id v).result (.strm c k cls) d 0 n
    (t.core c).queue = (s.core c).queue.map (·.repin id v) ∧ s.sameBytes t ∧
    (realAgent (.strm c k cls) = true → (t.strm (.strm c k cls)).word = (s.strm (.strm c k cls)).word + n ∧ t.reg (.strm c k cls) d = 0) ∧
    (∀ e ∈ (s.core c).queue, e.piece.id.toNat = id → ∀ r y, e.saved = some r → s.savedRec e.piece.part r = some y →
      t.savedRec e.piece.part r = some (y.repin v)) ∧
    ((∀ e ∈ (s.core c).queue, e.saved = none) → t =
      (s.updCore c (fun x => { x with queue := (s.core c).queue.map (·.repin id v) })).result (.strm c k cls) d 0 n) := by
  intro t
  let f (x : Core) : Core := { x with queue := x.queue.map (·.repin id v) }
  obtain ⟨hc, hb, hr⟩ := State.foldl_pinEntry id v (s.core c).queue s
  refine ⟨?_, ?_, fun hn => ?_, fun e he hi r y hs hy => ?_, fun hu => ?_⟩
  · refine (State.result_core coreView_queue _ c k n cls d 0 c).trans ?_
    exact (congrArg Core.queue (State.core_updCore _ c f)).trans (congrArg (fun x : Core => x.queue.map _) (State.core_congr hc c))
  · exact State.sameBytes_trans (State.sameBytes_trans hb
      (State.updCore_sameBytes _ c (f := f) (fun _ => rfl) (fun _ => rfl) (fun _ => rfl))) (State.result_sameBytes _ _ d 0 n)
  · obtain ⟨hw, hreg⟩ := State.result_strm (s.pinned c id v) c k n (realAgent_strm hn) d 0
    have hs : (s.pinned c id v).strm (.strm c k cls) = s.strm (.strm c k cls) :=
      congrArg (Slot.strm · cls) ((State.slot_updCore_slots _ c c k (f := f) (fun _ => rfl)).trans
        (congrArg (fun x : Core => x.slot k) (State.core_congr hc c)))
    exact ⟨hw.trans (by rw [hs]), hreg.trans (ite_self 0)⟩
  · have hp : t.parts = (s.pinned c id v).parts := State.result_parts _ c k n cls d 0
    have hrec : e.recOf id = some (e.piece.part, r) := by rw [TaskEntry.recOf, if_pos hi, hs]; rfl
    have ht : t.savedRec e.piece.part r = ((s.core c).queue.foldl (fun s e => s.pinEntry id v e) s).savedRec e.piece.part r :=
      State.savedRec_congr (congrArg (fun ps => (Tbl.get Part.reset ps e.piece.part).recs) hp) r
    rw [ht, hr, hy, Option.map_some, if_pos ⟨e, he, hrec⟩]
  · show ((s.pinned c id v).result _ d 0 n) = _
    have hx : s.updCore c f = s.updCore c (fun x => { x with queue := (s.core c).queue.map (·.repin id v) }) := rfl
    rw [State.pinned, State.foldl_pinEntry_unsaved hu, ← hx]

/-! ## RETIRE (R335) -/

/-- What RETIRE leaves of its slot. -/
theorem exec_retire {s : State} {g : Guard} {c k : Nat} {cls : Cls} (hm : s.agent = .strm c k cls) (ha : s.acts s.agent g = true) :
    ∃ t, exec (.retire g) s = .next t ∧ (t.slot c k).phase = .retiring ∧ (t.slot c k).piece = (s.slot c k).piece ∧
      (t.slot c k).trap.pend = [] ∧ (t.slot c k).trap.intrap = false ∧ (t.slot c k).enq = [] ∧ s.sameBytes t := by
  have hp : (((s.advance (.strm c k cls) 2).stopTransfers c k).slot c k).piece = (s.slot c k).piece := by
    rw [State.stopTransfers, State.slot_updSlot, State.letGo, State.slot_updSlot]
    exact State.advance_still stillView_piece s c k 2 cls
  have hb : s.sameBytes ((s.advance (.strm c k cls) 2).stopTransfers c k) :=
    State.sameBytes_trans (State.advance_sameBytes s _ 2)
      (State.sameBytes_trans (State.updSlot_sameBytes _ c k _) (State.updSlot_sameBytes _ c k _))
  refine ⟨((s.advance (.strm c k cls) 2).stopTransfers c k).updSlot c k Slot.retiring, ?_, ?_⟩
  · show execRetire g s = _
    rw [execRetire, State.guarded_acts ha, hm]
    rfl
  generalize (s.advance (.strm c k cls) 2).stopTransfers c k = u at hp hb
  rw [State.slot_updSlot]
  have hr : (Slot.retiring (u.slot c k)).piece = (u.slot c k).piece := by
    unfold Slot.retiring
    extract_lets y
    obtain ⟨v, fp, new, t, q, h⟩ := Slot.flushResults_eq { u.slot c k with
      v := { (u.slot c k).v with inflight := (u.slot c k).v.inflight.filter (fun r => !(r.arrived && r.fault.isSome)) } }
    exact (congrArg Slot.piece h :)
  exact ⟨rfl, hr.trans hp, rfl, rfl, rfl, State.sameBytes_trans hb (u.updSlot_sameBytes c k _)⟩

/-! ## YIELD (R336) -/

theorem exec_yield {s : State} {g : Guard} {c k : Nat} {cls : Cls} (hm : s.agent = .strm c k cls) (ha : s.acts s.agent g = true)
    (d : BitVec 6) : exec (.yield g d) s = .next (
      if s.gangMember s.agent then s.result s.agent d 3 2
      else if !s.yieldWanted c then s.result s.agent d 1 2
      else match ((s.enterSave c k).result s.agent d 0 2).saveSlot c k (fun _ => true) false none with
        | (u, .saved _) => u
        | (u, .abandoned) => ((s.enterSave c k).abandonedAs u).result s.agent d 2 2
        | (_, .held) => (s.enterSave c k).block s.agent) := by
  show execYield g d s = _
  rw [execYield, State.guarded_acts ha, hm]
  rfl

theorem State.gangMember_iff {s : State} {c k : Nat} {cls : Cls} (hm : s.agent = .strm c k cls) :
    s.gangMember s.agent = true ↔ (s.slot c k).piece.bind (·.gang) ≠ none := by
  rw [hm]
  show (match (s.slot c k).piece with | some q => q.gang.isSome | none => false) = true ↔ _
  cases (s.slot c k).piece with
  | none => simp
  | some q => simp [Option.isSome_iff_ne_none]

/-- A save that the pages of its record allow, as YIELD makes it. -/
theorem State.yield_mapped {s : State} {c k r : Nat} {q : Piece} (cls : Cls) (d : BitVec 6) (hq : (s.slot c k).piece = some q)
    (hr : (s.part q.part).freeRec = some r)
    (hmap : ((s.enterSave c k).result (.strm c k cls) d 0 2).mapped (((s.enterSave c k).result (.strm c k cls) d 0 2).slotSync c k) .wr
      ((s.part q.part).recAt r) 0x400000) :
    ∃ t, ((s.enterSave c k).result (.strm c k cls) d 0 2).saveSlot c k (fun _ => true) false none = (t, .saved r) ∧
      ((s.enterSave c k).result (.strm c k cls) d 0 2).Saved t c k r false none q := by
  have hp : ((s.enterSave c k).result (.strm c k cls) d 0 2).part q.part = s.part q.part := by
    unfold State.part
    rw [State.result_parts, State.enterSave_parts]
  have hq' : (((s.enterSave c k).result (.strm c k cls) d 0 2).slot c k).piece = some q :=
    (State.result_still stillView_piece _ c k 2 cls d 0).trans ((s.enterSave_piece c k).trans hq)
  generalize (s.enterSave c k).result (.strm c k cls) d 0 2 = u at *
  rw [← hp] at hr hmap
  obtain ⟨m, -, h⟩ := State.saveSlot_mapped (fun _ => true) false none hq' hr hmap
  exact ⟨_, h, State.saveInto_saved ⟨m, u.xl, rfl⟩ hq' r _ false none⟩

end Sys2Proof.Machine
end

section
/-! The task instructions settled (O45): a slot that enters a save, a save that is made, DBAR, and the whole. -/

namespace Sys2Proof.Machine

/-! ## A slot that enters a save (R172, R385, R392) -/

theorem State.enterSave_spec (s : State) (c k : Nat) :
    let old := s.slot c k
    let t := s.enterSave c k
    let x := t.slot c k
    (∀ r ∈ x.v.inflight, r.arrived = true ∧ r.landing = true ∧ r.fault = none) ∧
    x.v.inflight.length + x.trap.pend.length = old.v.inflight.length + old.trap.pend.length ∧
    (∀ cls ∈ [Cls.ctl, .ldr, .str], (x.strm cls).xfer = none ∧ (x.strm cls).line = (old.strm cls).line ∧
      (x.strm cls).word = (old.strm cls).word ∧ (x.strm cls).regs = (old.strm cls).regs ∧
      ∀ f, (old.strm cls).xfer = some f → (x.strm cls).again = some f.left) ∧
    (∀ cls ∈ [Cls.vec, .mat], x.strm cls = old.strm cls) ∧
    (∀ n d, (n, d) ∈ x.descs → d.holder = none ∨ d.holder = some .mat) ∧
    x.m = old.m ∧ x.queues = old.queues ∧ x.flags = old.flags ∧ x.piece = old.piece ∧ x.phase = old.phase ∧ s.sameBytes t := by
  intro old t x
  obtain ⟨fl, ps, he, hl, hn⟩ := old.entered_eq (s.core c).descImage
  have hx : x = (old.freeDescs (s.core c).descImage).stopXfers.withFlight fl ps := (s.enterSave_slot c k).trans he
  rw [hx]
  refine ⟨hl, hn, ?_, ?_, fun n d h => Slot.freeDescs_holder h, rfl, rfl, rfl, rfl, rfl, s.enterSave_sameBytes c k⟩
  · simp only [List.forall_mem_cons]
    exact ⟨old.ctl.stopXfer_rest, old.ldr.stopXfer_rest, old.str.stopXfer_rest, fun _ h => absurd h List.not_mem_nil⟩
  · simp only [List.forall_mem_cons]
    exact ⟨rfl, rfl, fun _ h => absurd h List.not_mem_nil⟩

/-! ## A save that is made (R392) -/

theorem State.byteAt_crib {s : State} {p r : Nat} {y : SavedPiece} (h : s.savedRec p r = some y) (i : Nat) :
    s.byteAt (.crib p r) i = memGet y.priv i := by
  unfold State.savedRec at h
  unfold State.byteAt
  show memGet (match (s.part p).recs.find? (fun (i, _) => i == r) with | some (_, x) => x.priv | none => []) i = _
  cases hf : (s.part p).recs.find? (fun (i, _) => i == r) with
  | none => rw [hf] at h; cases h
  | some e => rw [hf] at h; cases h; rfl

theorem Slot.context_strm (x : Slot) : ∀ cls ∈ [Cls.ctl, .vec, .mat, .ldr, .str], x.context.strm cls = x.strm cls := by
  simp only [List.forall_mem_cons]
  exact ⟨rfl, rfl, rfl, rfl, rfl, fun _ h => absurd h List.not_mem_nil⟩

theorem State.saveSlot_spec {s u : State} {c k r : Nat} {live : Tile → Bool} {held : Bool} {q : Piece}
    (hq : (s.slot c k).piece = some q) (h : s.saveSlot c k live held none = (u, .saved r)) :
    (s.part q.part).freeRec = some r ∧ (u.slot c k).phase = .free ∧ (u.slot c k).piece = none ∧
    (held = true → (u.core c).queue = (s.core c).queue) ∧
    (held = false → ∃ ring, (u.core c).queue = (s.core c).queue ++ [{ piece := q, saved := some r, ring := ring }] ∧
      ((s.core c).roomOnChip = true → ring = none)) ∧
    ∃ y, u.savedRec q.part r = some y ∧ y.held = held ∧ y.core = c ∧ y.slot.piece = some q ∧ y.slot.m.acc = (s.slot c k).m.acc ∧
      (∀ cls ∈ [Cls.ctl, .vec, .mat, .ldr, .str], y.slot.strm cls = (s.slot c k).strm cls) ∧ y.slot.v = (s.slot c k).v ∧
      y.slot.queues = (s.slot c k).queues ∧ y.slot.flags = (s.slot c k).flags ∧ y.slot.flagCyc = (s.slot c k).flagCyc ∧
      (memWf (s.store (.scratch c)) = true →
        ∀ i, i < 0x100000 → u.byteAt (.crib q.part r) i = s.byteAt (.scratch c) (privBase k + i)) := by
  obtain ⟨hf, t, hm, rfl⟩ := State.saveSlot_saved hq h
  obtain ⟨⟨ad, hfree⟩, hkept, hqueued, hrec⟩ := State.saveInto_saved hm hq r live held none
  refine ⟨hf, by rw [hfree]; rfl, by rw [hfree]; rfl, hkept, hqueued, _, hrec, rfl, rfl, hq, rfl, (s.slot c k).context_strm,
    rfl, rfl, rfl, rfl, fun _ i hi => ?_⟩
  rw [State.byteAt_crib hrec]
  exact memGet_slice _ _ hi

/-! ## DBAR (R337) -/

/-- A domain of a partition is written. -/
def Part.setDom (y : Part) (level d : Nat) (x : Domain) : Part := { y with doms := Tbl.set y.doms (domKey level d) x }

theorem State.updDom_eq {s : State} {p level d : Nat} {x : Domain} (h : (s.part p).dom level d = some x) (f : Domain → Domain) :
    s.updDom p level d f = s.updPart p (·.setDom level d (f x)) := by
  unfold State.updDom
  rw [h]
  rfl

theorem Slot.arrive_strm (epoch : Nat) (cls : Cls) (x : Slot) : (x.arrive epoch).strm cls = x.strm cls := by
  cases cls <;> rfl

/-- A piece arrives at a barrier of its domain: its mark, and that the domain has been stirred. -/
theorem State.arrive_spec {s : State} {p level n : Nat} {dom : Domain} (h : (s.part p).dom level n = some dom) (f : Domain → Domain)
    (c k epoch : Nat) : let u := (s.updDom p level n f).updSlot c k (·.arrive epoch)
    (u.slot c k).piece = (s.slot c k).piece.map (fun q => { q with arrived := some epoch }) ∧ s.sameBytes u ∧
      ∀ a, u.strm a = s.strm a := by
  intro u
  rw [show u = (s.updPart p (·.setDom level n (f dom))).updSlot c k (·.arrive epoch) from
    congrArg (State.updSlot · c k (·.arrive epoch)) (State.updDom_eq h f)]
  obtain ⟨hb, hs, -⟩ := State.updSlot_opsOnly (s.updPart p (·.setDom level n (f dom))) c k
    (Slot.arrive_strm epoch)
  refine ⟨congrArg Slot.piece (State.slot_updSlot _ c k _), State.sameBytes_trans (s.updPart_sameBytes p (f := (·.setDom level n (f dom))) (fun _ => rfl)) hb,
    fun a => (hs a).trans ?_⟩
  cases a <;> rfl

section
variable {s : State} {g : Guard} {c k : Nat} (hm : s.agent = .strm c k .ctl) (ha : s.acts s.agent g = true)
include hm ha

/-- DBAR as it first issues, with no earlier engine work of its stream out. -/
theorem exec_dbar_first (ht : (s.slot c k).ctl.token = none) (hi : s.workOut s.agent (BitVec.allOnes 6) = false) (nw : Bool)
    (d : BitVec 6) : exec (.dbar g nw d) s = .next (
      let r := (s.slot c k).regs.dom
      let level := fieldNat r 24 3
      let n := fieldNat r 0 16
      if level = 0 then
        let v := domReg 0 n (BitVec.ofNat 64 (domEpoch r + 1)) (!r.getLsbD 31)
        (s.updSlot c k (fun x => { x with regs := { x.regs with dom := v } })).result s.agent d v 2
      else
        let p := s.partOf s.agent
        let epoch := match (s.part p).dom level n with | some x => x.epochx.toNat | none => 0
        let fresh := ((s.slot c k).piece.map (·.arrived)) != some (some epoch)
        let u := (s.updDom p level n (fun x => { x with stir := x.stir || fresh })).updSlot c k (·.arrive epoch)
        if nw then u.result s.agent d r 2
        else u.updStrm s.agent (fun t => { t with mode := .blocked, token := some 0, held := BitVec.ofNat 64 (domEpoch r) })) := by
  have hw : s.relWait true = false := hi
  have ht' : (s.strm (.strm c k .ctl)).token = none := ht
  show execDbar g nw d s = _
  rw [execDbar, State.guarded_acts ha, hm]
  simp only [ht', hw, Option.isSome_none, Bool.false_eq_true, false_and, and_false, if_false, Bool.and_false]
  rfl

theorem exec_dbar_task (ht : (s.slot c k).ctl.token = none) (hi : s.workOut s.agent (BitVec.allOnes 6) = false) (nw : Bool)
    (d : BitVec 6) (hl : fieldNat (s.slot c k).regs.dom 24 3 = 0) :
    let r := (s.slot c k).regs.dom
    let v := domReg 0 (fieldNat r 0 16) (BitVec.ofNat 64 (domEpoch r + 1)) (!r.getLsbD 31)
    exec (.dbar g nw d) s =
      .next ((s.updOwn s.agent (fun x => { x with regs := { x.regs with dom := v } })).result s.agent d v 2) := by
  intro r v
  have hu (f : Slot → Slot) : s.updOwn s.agent f = s.updSlot c k f := by rw [hm]; rfl
  rw [exec_dbar_first hm ha ht hi, hu]
  dsimp only
  rw [if_pos hl]

theorem exec_dbar_above (ht : (s.slot c k).ctl.token = none) (hi : s.workOut s.agent (BitVec.allOnes 6) = false) (nw : Bool)
    (d : BitVec 6) (hl : fieldNat (s.slot c k).regs.dom 24 3 ≠ 0) {dom : Domain}
    (hd : (s.part (s.partOf s.agent)).dom (fieldNat (s.slot c k).regs.dom 24 3) (fieldNat (s.slot c k).regs.dom 0 16) = some dom) :
    ∃ f, let r := (s.slot c k).regs.dom
      let u := (s.updDom (s.partOf s.agent) (fieldNat r 24 3) (fieldNat r 0 16) f).updSlot c k (·.arrive dom.epochx.toNat)
      exec (.dbar g nw d) s = .next (if nw = true then u.result s.agent d r 2
        else u.updStrm s.agent (fun t => { t with mode := .blocked, token := some 0, held := BitVec.ofNat 64 (domEpoch r) })) := by
  rw [exec_dbar_first hm ha ht hi]
  dsimp only
  rw [if_neg hl, hd]
  exact ⟨_, rfl⟩

theorem exec_dbar_passed {w : Nat} (ht : (s.slot c k).ctl.token = some w)
    (he : domEpoch (s.slot c k).regs.dom ≠ (s.slot c k).ctl.held.toNat) (nw : Bool) (d : BitVec 6) :
    exec (.dbar g nw d) s = .next (s.result s.agent d (s.slot c k).regs.dom 2) := by
  have ht' : (s.strm (.strm c k .ctl)).token = some w := ht
  have he' : domEpoch (s.own (.strm c k .ctl)).regs.dom ≠ (s.strm (.strm c k .ctl)).held.toNat := he
  show execDbar g nw d s = _
  rw [execDbar, State.guarded_acts ha, hm]
  simp only [ht', Option.isSome_some, if_true, true_and]
  rw [if_pos he']
  rfl

end

/-! ## PIN and YIELD -/

section
variable {s : State} {g : Guard} {c k : Nat} {cls : Cls} (hm : s.agent = .strm c k cls) (ha : s.acts s.agent g = true)
include hm ha

theorem exec_pin_marks {d a : BitVec 6} {b : Src} (hv : (s.srcZ s.agent b).toNat ≤ 2)
    (he : ∃ e ∈ (s.core c).queue, e.piece.id.toNat = (s.reg s.agent a).toNat) :
    ∃ q : List TaskEntry, q.length = (s.core c).queue.length ∧
      (∃ t, exec (.pin g d a b) s = .next t ∧ (t.core c).queue = q ∧ s.sameBytes t ∧
        (realAgent s.agent = true → (t.strm s.agent).word = (s.strm s.agent).word + srcWords b ∧ t.reg s.agent d = 0) ∧
        (∀ e ∈ (s.core c).queue, e.piece.id.toNat = (s.reg s.agent a).toNat → ∀ r y, e.saved = some r →
          s.savedRec e.piece.part r = some y → t.savedRec e.piece.part r = some (y.repin (s.srcZ s.agent b).toNat)) ∧
        ((∀ e ∈ (s.core c).queue, e.saved = none) →
          t = (s.updCore c (fun x => { x with queue := q })).result s.agent d 0 (srcWords b))) ∧
      ∀ (i : Nat) (e : TaskEntry), (s.core c).queue[i]? = some e →
        q[i]? = some (e.repin (s.reg s.agent a).toNat (s.srcZ s.agent b).toNat) := by
  have h := s.pinned_spec c k (s.reg s.agent a).toNat (s.srcZ s.agent b).toNat (srcWords b) cls d
  rw [← hm] at h
  exact ⟨_, List.length_map _, ⟨_, exec_pin_found hm ha hv he, h⟩, fun i e hi => by rw [List.getElem?_map, hi]; rfl⟩

theorem exec_yield_saves (hg : (s.slot c k).piece.bind (·.gang) = none) (d : BitVec 6) :
    let e := s.enterSave c k
    let at0 := e.result s.agent d 0 2
    (s.yieldWanted c = true → ∀ u r, at0.saveSlot c k (fun _ => true) false none = (u, .saved r) → exec (.yield g d) s = .next u) ∧
    (s.yieldWanted c = true → ∀ q r, (s.slot c k).piece = some q → (s.part q.part).freeRec = some r →
      at0.mapped (at0.slotSync c k) .wr ((s.part q.part).recAt r) 0x400000 →
      ∃ t y, exec (.yield g d) s = .next t ∧ (t.slot c k).phase = .free ∧ t.savedRec q.part r = some y ∧ y.slot.piece = some q) ∧
    (s.yieldWanted c = true → ∀ u, at0.saveSlot c k (fun _ => true) false none = (u, .abandoned) →
      exec (.yield g d) s = .next ((e.abandonedAs u).result s.agent d 2 2)) ∧
    (s.yieldWanted c = true → ∀ u, at0.saveSlot c k (fun _ => true) false none = (u, .held) →
      exec (.yield g d) s = .next (e.block s.agent)) := by
  intro e at0
  have hyield (hw : s.yieldWanted c = true) : exec (.yield g d) s = .next (
      match at0.saveSlot c k (fun _ => true) false none with
      | (u, .saved _) => u
      | (u, .abandoned) => (e.abandonedAs u).result s.agent d 2 2
      | (_, .held) => e.block s.agent) := by
    rw [exec_yield hm ha, if_neg (by simp [State.gangMember_iff hm, hg]), hw]
    rfl
  refine ⟨fun hw u r h => by rw [hyield hw, h], fun hw q r hq hr hmap => ?_, fun hw u h => by rw [hyield hw, h],
    fun hw u h => by rw [hyield hw, h]⟩
  have hme : at0 = e.result (.strm c k cls) d 0 2 := congrArg (fun a => e.result a d 0 2) hm
  rw [hme] at hmap
  obtain ⟨t, ht, ⟨ad, hfree⟩, -, -, hrec⟩ := State.yield_mapped cls d hq hr hmap
  refine ⟨t, _, by rw [hyield hw, hme, ht], by rw [hfree]; rfl, hrec, ?_⟩
  exact (State.result_still stillView_piece _ c k 2 cls d 0).trans ((s.enterSave_piece c k).trans hq)

end

/-! ## The whole -/

/-- Settles O45: each instruction by its own rule, and the saves by what `enterSave` and `saveInto` write. -/
theorem taskInstructions : Obligations.TaskInstructions := by
  refine ⟨?_, State.enterSave_spec, fun s u c k r live held q hq h => State.saveSlot_spec hq h, ?_⟩
  · intro s g b d a c k cls hm ha me v id
    refine ⟨exec_srad hm ha b, fun hv => ?_, fun hv hn => ?_, fun hv he => ?_, exec_retire hm ha, fun hg => ?_, fun hg => ⟨fun hy => ?_, ?_⟩⟩
    · rw [exec_pin hm ha, if_pos hv]
    · rw [exec_pin hm ha, if_neg (Nat.not_lt.2 hv), if_pos]
      simpa using hn
    · exact exec_pin_marks hm ha hv he
    · rw [exec_yield hm ha, if_pos ((State.gangMember_iff hm).2 hg)]
    · rw [exec_yield hm ha, if_neg (by simp [State.gangMember_iff hm, hg]), hy]
      exact congrArg Host.Outcome.next (if_pos rfl)
    · exact exec_yield_saves hm ha hg d
  · intro s g nw d c k hm ha me x r level n epoch p idle
    have hlevel : fieldNat r 24 3 = level := fieldNat_eq r 24 3
    have hn : fieldNat r 0 16 = n := by rw [fieldNat_eq]; simp [n]
    have hepoch : domEpoch r = epoch := fieldNat_eq r 32 16
    refine ⟨fun ht hl hi => ?_, fun dom ht hl hi hd => ?_, fun w ht he => exec_dbar_passed hm ha ht (by rw [hepoch]; exact he) nw d⟩
    · obtain ⟨h1, h2, h3⟩ := domReg_fields 0 n (BitVec.ofNat 64 (epoch + 1)) (!r.getLsbD 31) (by omega) (by omega)
      have hx := exec_dbar_task hm ha ht hi nw d (hlevel.trans hl)
      dsimp only at hx
      rw [hn, hepoch] at hx
      refine ⟨_, by rw [h1, hl], ?_, h3, ?_⟩
      · rw [h2, BitVec.toNat_ofNat]
        omega
      · exact hx
    · obtain ⟨f, hx⟩ := exec_dbar_above hm ha ht hi nw d (by rw [hlevel]; exact hl) (dom := dom) (by rw [hlevel, hn]; exact hd)
      dsimp only at hx
      rw [hlevel, hn, hepoch] at hx
      obtain ⟨h1, h2, h3⟩ := State.arrive_spec hd f c k dom.epochx.toNat
      exact ⟨_, h1, h2, fun a _ => h3 a, hx⟩

end Sys2Proof.Machine
end

section
/-! SUPPORT. Bindings and retirements (R31, R36, R313). -/

namespace Sys2Proof.Machine

/-! ## A queue that has nothing in its ring (R312) -/

theorem Core.ringed_zero {x : Core} : x.ringed = 0 ↔ ∀ e ∈ x.queue, e.ring = none := by
  simp only [Core.ringed, List.length_eq_zero_iff, List.filter_eq_nil_iff, Bool.not_eq_true, Option.isSome_eq_false_iff,
    Option.isNone_iff_eq_none]

theorem Core.onchip_unringed {x : Core} (h : x.ringed = 0) : x.onchip = x.queue.length := by
  rw [Core.onchip, List.filter_eq_self.2]
  exact fun e he => by simp [Core.ringed_zero.1 h e he]

/-- With nothing in the ring a refill changes nothing. -/
theorem State.refill_unringed {s : State} {c : Nat} (h : (s.core c).ringed = 0) (n : Nat) : s.refill c n = s := by
  have hf : (s.core c).queue.findIdx? (fun e => e.ring.isSome) = none :=
    List.findIdx?_eq_none_iff.2 (fun e he => by simp [Core.ringed_zero.1 h e he])
  cases n with
  | zero => rfl
  | succ n =>
    unfold State.refill
    dsimp only
    rw [hf]
    exact ite_self s

/-- The entry at position `i` taken away. -/
def Core.without (x : Core) (i : Nat) : Core := { x with queue := x.queue.eraseIdx i }

theorem State.takeEntry_unringed {s : State} {c : Nat} (h : (s.core c).ringed = 0) (i : Nat) :
    s.takeEntry c i = s.updCore c (·.without i) := by
  refine State.refill_unringed ?_ 32
  rw [State.core_updCore, Core.ringed_zero]
  exact fun e he => Core.ringed_zero.1 h e ((List.eraseIdx_sublist _ _).subset he)

theorem State.entryOf_mem {s : State} {c i : Nat} {e : TaskEntry} {f : TaskEntry → Bool} (h : s.entryOf c f = some (i, e)) :
    e ∈ (s.core c).queue := by
  have hm : ∀ {p : Nat × TaskEntry → Bool} {r}, (((List.range (s.core c).queue.length).zip (s.core c).queue).filter
      (fun (_, e) => f e && s.domainRoom e.piece)).find? p = some r → r.2 ∈ (s.core c).queue := fun hr =>
    (List.of_mem_zip (List.mem_of_mem_filter (List.mem_of_find?_eq_some hr))).2
  unfold State.entryOf at h
  dsimp only at h
  split at h
  · next g => cases h; exact hm g
  · exact hm h

/-! ## Binding (R313) -/

theorem Core.radius_slots (r : Nat) (x : Core) : (x.radius r).slots = x.slots := by
  unfold Core.radius
  split <;> rfl

theorem Core.radius_queue (r : Nat) (x : Core) : (x.radius r).queue = x.queue := by
  unfold Core.radius
  split <;> rfl

theorem Core.radius_mems (r : Nat) (x : Core) :
    (x.radius r).scratch = x.scratch ∧ (x.radius r).plane0 = x.plane0 ∧ (x.radius r).plane1 = x.plane1 := by
  unfold Core.radius
  split <;> exact ⟨rfl, rfl, rfl⟩

theorem State.bindFresh_slot (s : State) (c k : Nat) (q : Piece) : (s.bindFresh c k q).slot c k = s.freshSlot c k q :=
  (State.slot_updCore_slots _ c c k (Core.radius_slots _)).trans (s.slot_setSlot c k _)

theorem State.bindFresh_slot_other (s : State) {c k d j : Nat} (q : Piece) (h : (d, j) ≠ (c, k)) :
    (s.bindFresh c k q).slot d j = s.slot d j :=
  (State.slot_updCore_slots _ c d j (Core.radius_slots _)).trans (s.slot_setSlot_other _ h)

theorem State.bindFresh_queue (s : State) (c k d : Nat) (q : Piece) : ((s.bindFresh c k q).core d).queue = (s.core d).queue :=
  (State.core_updCore_view (v := Core.queue) _ c d (Core.radius_queue _)).trans
    (State.core_updCore_view (v := Core.queue) s c d (f := fun x => x.setSlot k _) (fun _ => rfl))

theorem State.bindFresh_sameBytes (s : State) (c k : Nat) (q : Piece) : s.sameBytes (s.bindFresh c k q) :=
  State.sameBytes_trans (s.setSlot_sameBytes c k _) (State.updCore_sameBytes _ c (fun x => (x.radius_mems _).1)
    (fun x => (x.radius_mems _).2.1) (fun x => (x.radius_mems _).2.2))

theorem startStream_spec (h : List DWord) (cls : Cls) :
    ((startStream h cls).mode = if hAbsent h cls = true then .halted else .running) ∧ (startStream h cls).line = hEntry h cls ∧
    (startStream h cls).word = 0 ∧ (∀ r, (startStream h cls).reg r = 0) ∧ ∀ j, j ≠ 0 → (startStream h cls).pred j = false :=
  have hp : ∀ j : BitVec 4, j ≠ 0 → (j == 0 || Stream.reset.preds.getLsbD j.toNat) = false := by decide
  ⟨rfl, rfl, rfl, fun _ => ite_self 0, hp⟩

theorem State.freshSlot_strm (s : State) (c k : Nat) (q : Piece) {cls : Cls} (h : cls ≠ .net) :
    (s.freshSlot c k q).strm cls = startStream q.hdr cls := by
  cases cls
  case net => exact absurd rfl h
  all_goals rfl

/-- A free slot binds a new piece that stands on chip. -/
theorem exec_taskBinding {s : State} {c k i : Nat} {e : TaskEntry} (hf : (s.slot c k).phase = .free) (hb : s.mayBind c k = true)
    (hn : s.nextEntry c = some (i, e)) (hs : e.saved = none) (hr : (s.core c).ringed = 0) :
    exec (.taskBinding c k) s = .next ((s.updCore c (·.without i)).bindFresh c k e.piece) := by
  have he : e.ring = none := Core.ringed_zero.1 hr e (State.entryOf_mem hn)
  have hread : s.readEntry c e = (s, true) := by
    unfold State.readEntry
    rw [he]
  show execTaskBinding c k s = _
  rw [execTaskBinding, if_neg (by rw [hf]; exact nofun), hb, hn]
  dsimp only
  rw [hread]
  dsimp only
  rw [State.bindEntry, State.takeEntry_unringed hr, hs]
  rfl

theorem taskBinding_spec {s : State} {c k i : Nat} {e : TaskEntry} (hf : (s.slot c k).phase = .free) (hb : s.mayBind c k = true)
    (hn : s.nextEntry c = some (i, e)) (hs : e.saved = none) (hr : (s.core c).ringed = 0) :
    let h := e.piece.hdr
    ∃ t, exec (.taskBinding c k) s = .next t ∧ s.sameBytes t ∧ (t.core c).queue = (s.core c).queue.eraseIdx i ∧
      (t.slot c k).phase = .running ∧ (t.slot c k).piece = some e.piece ∧ (t.slot c k).regs.itlo = e.piece.lo ∧
      (t.slot c k).regs.ithi = e.piece.hi ∧ (t.slot c k).trap = TrapRegs.reset ∧ (∀ f, (t.slot c k).flag f = 0) ∧
      (∀ cls, cls ≠ .net → let x := (t.slot c k).strm cls
        (x.mode = if hAbsent h cls = true then .halted else .running) ∧ x.line = hEntry h cls ∧ x.word = 0 ∧
        (∀ r, x.reg r = 0) ∧ ∀ j, j ≠ 0 → x.pred j = false) := by
  intro h
  refine ⟨_, exec_taskBinding hf hb hn hs hr, ?_, ?_, ?_⟩
  · exact State.sameBytes_trans (s.updCore_sameBytes c (f := (·.without i)) (fun _ => rfl) (fun _ => rfl) (fun _ => rfl))
      (State.bindFresh_sameBytes _ c k _)
  · exact (State.bindFresh_queue _ c k c _).trans (congrArg Core.queue (s.core_updCore c (·.without i)))
  · rw [State.bindFresh_slot]
    refine ⟨rfl, rfl, rfl, rfl, rfl, fun _ => rfl, fun cls hc => ?_⟩
    rw [State.freshSlot_strm _ c k _ hc]
    exact startStream_spec h cls

/-! ## Retirement (R36) -/

theorem Tbl.get_map_fixed {α : Type} {f : α → α} {d : α} (hd : f d = d) (t : Tbl α) (k : Nat) :
    Tbl.get d (t.map (fun (n, x) => (n, f x))) k = f (Tbl.get d t k) := by
  induction t with
  | nil => exact hd.symm
  | cons e t ih =>
    simp only [List.map_cons, Tbl.get]
    split
    · rfl
    · exact ih

theorem State.core_mapTiles (s : State) (f : Tile → Tile) (c : Nat) : (s.mapTiles f).core c = (s.core c).mapTiles s.stepNo f :=
  Tbl.get_map_fixed (f := fun x : Core => x.mapTiles s.stepNo f) (d := Core.reset c) rfl s.cores c

theorem State.updDom_cores (s : State) (p level d : Nat) (f : Domain → Domain) : (s.updDom p level d f).cores = s.cores := by
  unfold State.updDom
  split <;> rfl

theorem State.updDom_sameBytes (s : State) (p level d : Nat) (f : Domain → Domain) : s.sameBytes (s.updDom p level d f) := by
  unfold State.updDom
  split
  · exact s.updPart_sameBytes p (fun _ => rfl)
  · exact State.sameBytes_refl s

/-- The end of a piece's claims, and of its slot. -/
def State.retired (s : State) (c k : Nat) (q : Piece) : State :=
  ((s.countRetired q).mapTiles (·.release (slotCode c k))).freeSlot c k

theorem State.retired_slot (s : State) (c k : Nat) (q : Piece) :
    ((s.retired c k q).slot c k).phase = .free ∧ ((s.retired c k q).slot c k).piece = none := by
  unfold State.retired
  rw [State.freeSlot_slot]
  exact ⟨rfl, rfl⟩

/-- Another slot is left alone. -/
theorem State.retired_slot_other (s : State) {c k d j : Nat} (q : Piece) (h : (d, j) ≠ (c, k)) :
    (s.retired c k q).slot d j = s.slot d j := by
  refine (State.slot_updCore_slots _ c d j (fun x => x.dropUnits_slots k)).trans ((State.slot_updSlot_other _ _ h).trans ?_)
  refine (State.mapTiles_core (v := fun x => x.slot j) (fun _ _ _ => rfl) _ _ d).trans ?_
  exact congrArg (fun x : Core => x.slot j) (State.core_congr (s.updDom_cores _ _ _ _) d)

theorem State.freeSlot_sameBytes (s : State) (c k : Nat) : s.sameBytes (s.freeSlot c k) := by
  refine State.sameBytes_trans (s.updSlot_sameBytes c k _) (State.updCore_sameBytes _ c (f := (·.dropUnits k)) ?_ ?_ ?_)
  all_goals
    intro x
    unfold Core.dropUnits
    split <;> rfl

theorem State.retired_sameBytes (s : State) (c k : Nat) (q : Piece) : s.sameBytes (s.retired c k q) :=
  State.sameBytes_trans (s.updDom_sameBytes _ _ _ _) (State.sameBytes_trans
    (State.sameBytes_mapCores _ (fun (c, x) => (c, x.mapTiles _ _)) (fun _ => rfl) (fun _ => ⟨rfl, rfl, rfl⟩))
    (State.freeSlot_sameBytes _ c k))

theorem Tile.release_free (code : Nat) : Tile.free.release code = Tile.free := rfl

theorem Tile.release_state (x : Tile) (code : Nat) : (x.release code).state =
    if x.state = 2 ∧ x.prod = code then 1
    else if ¬ (x.state = 2 ∧ x.cons = code) ∧ x.state = 4 ∧ x.cons = code then 3 else x.state := by
  unfold Tile.release
  by_cases h1 : x.state = 2 ∧ x.prod = code
  · rw [if_pos h1, if_pos h1]; rfl
  · rw [if_neg h1, if_neg h1]
    by_cases h2 : x.state = 2 ∧ x.cons = code
    · rw [if_pos h2, if_neg (fun h => h.1 h2)]
    · rw [if_neg h2]
      by_cases h3 : x.state = 4 ∧ x.cons = code
      · rw [if_pos h3, if_pos ⟨h2, h3⟩]; rfl
      · rw [if_neg h3, if_neg (fun h => h3 h.2)]

theorem State.retired_tile (s : State) (c k d n : Nat) (q : Piece) :
    ((s.retired c k q).core d).tile n = ((s.core d).tile n).release (slotCode c k) := by
  have hd (x : Core) : (x.dropUnits k).tiles = x.tiles := by unfold Core.dropUnits; split <;> rfl
  have h1 : ((s.retired c k q).core d).tiles = (((s.countRetired q).mapTiles (·.release (slotCode c k))).core d).tiles :=
    (State.core_updCore_view (v := Core.tiles) _ c d hd).trans (State.core_updSlot_view coreView_tiles _ c k d _)
  have h2 : (((s.countRetired q).mapTiles (·.release (slotCode c k))).core d).tile n =
      (((s.countRetired q).core d).tile n).release (slotCode c k) := by
    rw [State.core_mapTiles]
    exact Tbl.get_map_fixed (f := fun t : Tile => t.release (slotCode c k)) (Tile.release_free _) _ n
  rw [Core.tile, h1]
  refine h2.trans ?_
  rw [State.countRetired, State.core_congr (s.updDom_cores _ _ _ _) d]

/-! ## Flags (R97) -/

/-- An increment adds to the value that the next cycle reads. -/
theorem Slot.flagNow_addFlag (x : Slot) (f : Nat) (n : BitVec 16) : (x.addFlag f n).flagNow f = x.flagNow f + n := by
  have h : (x.addFlag f n).flagCycOf f = { x.flagCycOf f with inc := (x.flagCycOf f).inc + n } := Tbl.get_set_same _ _ _ _
  have hf : (x.addFlag f n).flag f = x.flag f := rfl
  simp only [Slot.flagNow, h, hf, FlagCyc.value, BitVec.add_assoc]

section
variable {s : State} {c k : Nat} {q : Piece} (hq : (s.slot c k).piece = some q) (hr : (s.slot c k).phase = .retiring)
  (hd : s.quiet c k q.uid = true) (hg : q.gang = none)
include hq hr hd

theorem exec_retirementComplete {t : State} (ht : s.complete c k q = some t) :
    exec (.retirementComplete c k) s = .next (t.retired c k q) := by
  show execRetirementComplete c k s = _
  unfold execRetirementComplete
  dsimp only
  rw [hq]
  dsimp only
  rw [if_neg (by simp [hr, hd]), ht]
  rfl

include hg

/-- A piece without a completion signal retires. -/
theorem retirement_quietly (hk : hCkind q.hdr = 0) : ∃ t, exec (.retirementComplete c k) s = .next t ∧ s.sameBytes t ∧
    (t.slot c k).phase = .free ∧ (t.slot c k).piece = none ∧ (∀ d n, ((t.core d).tile n).state =
      (let x := (s.core d).tile n
       if x.state = 2 ∧ x.prod = slotCode c k then 1
       else if ¬ (x.state = 2 ∧ x.cons = slotCode c k) ∧ x.state = 4 ∧ x.cons = slotCode c k then 3 else x.state)) := by
  have hc : s.complete c k q = some s := by
    simp only [State.complete, State.matesLive, hg, hk, Bool.false_eq_true, if_false]
  obtain ⟨hf, hp⟩ := s.retired_slot c k q
  exact ⟨_, exec_retirementComplete hq hr hd hc, s.retired_sameBytes c k q, hf, hp, fun d n => by
    rw [State.retired_tile, Tile.release_state]⟩

/-- A piece that signals a flag of another bound piece retires. -/
theorem retirement_flag {d j f : Nat} (hk : hCkind q.hdr = 2) (ht : hTarget q.hdr = 256 * d + 64 * j + f) (hj : j < 4) (hf : f < 64)
    (hne : (d, j) ≠ (c, k)) (hp : (s.slot d j).piece.isSome = true) (hph : (s.slot d j).phase ≠ .restoring)
    (hs : (s.slot d j).sigs = []) : ∃ t, exec (.retirementComplete c k) s = .next t ∧
      (t.slot d j).flagNow f = (s.slot d j).flagNow f + (q.hi - q.lo).setWidth 16 ∧ (t.slot c k).phase = .free := by
  let add (y : Slot) : Slot := Slot.runSigs (y.addFlag f ((q.hi - q.lo).setWidth 16))
  obtain ⟨z, hz⟩ := Option.isSome_iff_exists.1 hp
  have h1 : hTarget q.hdr / 256 = d := by omega
  have h2 : hTarget q.hdr / 64 % 4 = j := by omega
  have h3 : hTarget q.hdr % 64 = f := by omega
  have hc : s.complete c k q = some (s.updSlot d j add) := by
    simp only [State.complete, State.matesLive, hg, hk, Bool.false_eq_true, if_false, h1, h2, h3, hz, if_neg hph]
    rfl
  have hadd : add (s.slot d j) = (s.slot d j).addFlag f ((q.hi - q.lo).setWidth 16) := by
    show Slot.runSigs _ = _
    unfold Slot.runSigs
    rw [show ((s.slot d j).addFlag f ((q.hi - q.lo).setWidth 16)).sigs = [] from hs]
    show { (s.slot d j).addFlag f ((q.hi - q.lo).setWidth 16) with sigs := [] } = _
    rw [← show ((s.slot d j).addFlag f ((q.hi - q.lo).setWidth 16)).sigs = [] from hs]
  refine ⟨_, exec_retirementComplete hq hr hd hc, ?_, (State.retired_slot _ c k q).1⟩
  rw [State.retired_slot_other _ q hne, State.slot_updSlot, hadd, Slot.flagNow_addFlag]

end

end Sys2Proof.Machine
end

section
/-! SUPPORT. Launches that join (R316) and stealing (R322 to R326). -/

namespace Sys2Proof.Machine

/-! ## Joining a queue that has nothing in its ring -/

/-- The entry at the tail, and the ring's faults forgotten. -/
def Core.joined (e : TaskEntry) (x : Core) : Core := { x with queue := x.queue ++ [e], rfault := false, rtry := false }

theorem Core.roomOnChip_unringed {x : Core} (hr : x.ringed = 0) (hl : x.queue.length < 32) : x.roomOnChip = true := by
  simp [Core.roomOnChip, Core.onchip_unringed hr, hr, hl]

theorem State.joinQueue_unringed {s : State} {c : Nat} (hr : (s.core c).ringed = 0) (hl : (s.core c).queue.length < 32)
    {e : TaskEntry} (he : e.ring = none) : s.joinQueue c e = (s.updCore c (Core.joined e), .joined) := by
  have hf : (s.core c).full = false := decide_eq_false (by unfold Core.limit; omega)
  have hee : { e with ring := none } = e := by cases e; cases he; rfl
  unfold State.joinQueue
  dsimp only
  rw [hf, Core.roomOnChip_unringed hr hl, hee]
  simp only [Bool.false_eq_true, if_false, if_true, State.pushEntry, State.updCore, State.core_setCore, State.setCore_setCore]
  rfl

/-! ## A waiting launch joins (R316) -/

/-- The first of the launches of a partition that wait joins its queue. -/
theorem launchWaitJoin_spec {s : State} {p : Nat} {w : WaitLaunch} {ws : List WaitLaunch} (hw : (s.part p).waits = w :: ws)
    (hg : hGang w.piece.hdr = 0) (hl : (s.core w.target).queue.length < 32) (hr : (s.core w.target).ringed = 0) (hh : w.host = none) :
    ∃ t, exec (.launchWaitJoin p) s = .next t ∧ (t.part p).waits = ws ∧ s.sameBytes t ∧
      (t.core w.target).queue = (s.core w.target).queue ++
        [{ piece := { w.piece with id := .ofNat 32 ((s.part p).nextId % 2 ^ 32) }, saved := none, ring := none }] := by
  let e : TaskEntry := { piece := { w.piece with id := .ofNat 32 ((s.part p).nextId % 2 ^ 32) }, saved := none, ring := none }
  have hstuck : (s.core w.target).ringStuck = false := by
    rw [Core.ringStuck, Core.roomOnChip_unringed hr hl, Bool.not_true, Bool.and_false]
  have hjoin : (s.drawId p).1.join w.target e.piece = ((s.drawId p).1.updCore w.target (Core.joined e), .joined) := by
    have hgang : ¬ hGang e.piece.hdr ≠ 0 := fun h => h hg
    rw [State.join, if_neg hgang]
    exact State.joinQueue_unringed (s := (s.drawId p).1) hr hl rfl
  refine ⟨(((s.drawId p).1.updCore w.target (Core.joined e)).updPart p (fun x => { x with waits := ws })), ?_, ?_, ?_, ?_⟩
  · show Host.Outcome.next (s.launchJoin p [] (s.part p).waits) = _
    rw [hw, State.launchJoin]
    simp only [List.any_nil, hstuck, Bool.and_false, Bool.or_false, Bool.false_eq_true, if_false]
    have hj : (s.drawId p).1.join w.target { w.piece with id := (s.drawId p).2 } = _ := hjoin
    rw [hj, hh]
    rfl
  · rw [State.part_updPart]
  · exact State.sameBytes_trans (s.updPart_sameBytes p (f := fun x => { x with nextId := (x.nextId + 1) % 2 ^ 32 }) (fun _ => rfl))
      (State.sameBytes_trans (State.updCore_sameBytes _ _ (f := Core.joined e) (fun _ => rfl) (fun _ => rfl) (fun _ => rfl))
        (State.updPart_sameBytes _ p (f := fun x => { x with waits := ws }) (fun _ => rfl)))
  · exact congrArg Core.queue (State.core_updCore (s.drawId p).1 w.target (Core.joined e))

/-! ## A thief asks (R323) -/

theorem lfsrStep_bits (x : BitVec 16) : (∀ i, i < 15 → (lfsrStep x).getLsbD (i + 1) = x.getLsbD i) ∧
    (lfsrStep x).getLsbD 0 = (x.getLsbD 15 ^^ x.getLsbD 13 ^^ x.getLsbD 12 ^^ x.getLsbD 10) := by
  unfold lfsrStep
  generalize (x.getLsbD 15 ^^ x.getLsbD 13 ^^ x.getLsbD 12 ^^ x.getLsbD 10) = b
  constructor
  · intro i hi
    have h16 : i + 1 < 16 := by omega
    rw [BitVec.getLsbD_eq_getElem (x := x) (by omega : i < 16)]
    simp [h16]
  · simp

theorem stealRequest_spec {s : State} {c : Nat} (hs : (s.core c).steal = none) (ha : (s.core c).stealAt ≤ s.cycle)
    (hi : s.idle c = true) :
    let x := (s.core c).lfsr
    let u := s.freshViews (dieOf c) (((s.bay (bayOf c)).owner).getD 0)
    u.candidates c ≠ [] → ∃ v ∈ u.candidates c, ∃ l : BitVec 16, (∀ i, i < 15 → l.getLsbD (i + 1) = x.getLsbD i) ∧
      l.getLsbD 0 = (x.getLsbD 15 ^^ x.getLsbD 13 ^^ x.getLsbD 12 ^^ x.getLsbD 10) ∧
      (u.candidates c)[l.toNat % (u.candidates c).length]? = some v ∧
      exec (.stealRequest c) s = .next (u.updCore c (fun y => { y with lfsr := l, steal := some v })) := by
  intro x u hc
  have hlt : (lfsrStep x).toNat % (u.candidates c).length < (u.candidates c).length :=
    Nat.mod_lt _ (List.length_pos_of_ne_nil hc)
  refine ⟨_, List.getElem_mem hlt, lfsrStep x, (lfsrStep_bits x).1, (lfsrStep_bits x).2, List.getElem?_eq_getElem hlt, ?_⟩
  show execStealRequest c s = _
  unfold execStealRequest
  dsimp only
  rw [if_neg (by simp [hs, hi, Nat.not_lt.2 ha]), if_neg (by simpa using hc), List.getElem?_eq_getElem hlt]

/-! ## A victim answers (R324) -/

/-- No thief takes a task whose radius is 0, nor one that is pinned there. -/
theorem State.loot_refuse (s : State) (c v : Nat) {e : TaskEntry} (h : hRadius e.piece.hdr = 0 ∨ e.piece.pin = 2) :
    s.loot c v e = .refuse := by
  have hb : (!withinRange (hRadius e.piece.hdr) v c || !unitHas (hLevel e.piece.hdr) (s.unitOfTask e.piece.part e.piece.hdr) c ||
      e.piece.pin == 2 || !s.holdsCore e.piece.part c) = true := by
    obtain h | h := h
    · simp [h, withinRange]
    · simp [h]
  unfold State.loot
  exact if_pos hb

theorem Core.tailEntry_mem {x : Core} {i : Nat} {e : TaskEntry} (h : x.tailEntry = some (i, e)) : e ∈ x.queue := by
  have hm := List.mem_of_find?_eq_some h
  rw [List.mem_reverse] at hm
  exact (List.of_mem_zip hm).2

/-- The thief asks nobody any more. -/
def Core.answered (x : Core) : Core := { x with steal := none }
/-- A refused thief waits. -/
def Core.refused (now : Nat) (x : Core) : Core := { x with stealAt := now + 256 }
/-- The victim keeps the lower part of an entry. -/
def Core.keeps (i : Nat) (e : TaskEntry) (x : Core) : Core := { x with queue := x.queue.set i e }

def TaskEntry.lower (e : TaskEntry) (m : Nat) : TaskEntry := { e with piece := { e.piece with hi := .ofNat 64 m } }
def TaskEntry.upper (e : TaskEntry) (uid m : Nat) : TaskEntry := { e with piece := { e.piece with uid := uid, lo := .ofNat 64 m } }

/-- The state that an answer leaves. -/
def State.answered (s : State) (c v i : Nat) (e : TaskEntry) : Loot → State
  | .refuse => (s.updCore c Core.answered).updCore c (Core.refused s.cycle)
  | .whole => ((s.updCore c Core.answered).updCore v (·.without i)).updCore c (Core.joined e)
  | .upper m => ((State.updCore { s with uid := s.uid + 1 } c Core.answered).updCore v (Core.keeps i (e.lower m))).updCore c
      (Core.joined (e.upper (s.uid + 1) m))

theorem State.answered_sameBytes (s : State) (c v i : Nat) (e : TaskEntry) (l : Loot) : s.sameBytes (s.answered c v i e l) := by
  have hc (u : State) (d : Nat) (x : TaskEntry) : u.sameBytes (u.updCore d (Core.joined x)) :=
    u.updCore_sameBytes d (fun _ => rfl) (fun _ => rfl) (fun _ => rfl)
  have ha (u : State) : u.sameBytes (u.updCore c Core.answered) := u.updCore_sameBytes c (fun _ => rfl) (fun _ => rfl) (fun _ => rfl)
  cases l with
  | refuse =>
    exact State.sameBytes_trans (ha s)
      (State.updCore_sameBytes _ c (f := Core.refused s.cycle) (fun _ => rfl) (fun _ => rfl) (fun _ => rfl))
  | whole =>
    exact State.sameBytes_trans (State.sameBytes_trans (ha s)
      (State.updCore_sameBytes _ v (f := (·.without i)) (fun _ => rfl) (fun _ => rfl) (fun _ => rfl))) (hc _ c e)
  | upper m =>
    exact State.sameBytes_trans (State.sameBytes_trans (ha { s with uid := s.uid + 1 })
      (State.updCore_sameBytes _ v (f := Core.keeps i (e.lower m)) (fun _ => rfl) (fun _ => rfl) (fun _ => rfl))) (hc _ c _)

/-- A core changed, then another, then the first again. -/
theorem State.core_thrice (s : State) {c v : Nat} (h : c ≠ v) (f g j : Core → Core) :
    (((s.updCore c f).updCore v g).updCore c j).core c = j (f (s.core c)) ∧
    (((s.updCore c f).updCore v g).updCore c j).core v = g (s.core v) := by
  rw [State.core_updCore, State.core_updCore_other _ g h, State.core_updCore, State.core_updCore_other _ j (Ne.symm h),
    State.core_updCore, State.core_updCore_other _ f (Ne.symm h)]
  exact ⟨rfl, rfl⟩

section
variable {s : State} {c v i : Nat} {e : TaskEntry} (hs : (s.core c).steal = some v) (hne : c ≠ v)
  (ht : (s.core v).tailEntry = some (i, e)) (hv : (s.core v).ringed = 0) (hr : (s.core c).ringed = 0)
  (hl : (s.core c).queue.length < 32)
include hs hne ht hv hr hl

theorem exec_stealAnswer : exec (.stealAnswer c) s = .next (s.answered c v i e (s.loot c v e)) := by
  have he : e.ring = none := Core.ringed_zero.1 hv e (Core.tailEntry_mem ht)
  have hcore : (s.updCore c Core.answered).core v = s.core v := State.core_updCore_other s _ (Ne.symm hne)
  have ht' : ((s.updCore c Core.answered).core v).tailEntry = some (i, e) := (congrArg Core.tailEntry hcore).trans ht
  have hv' : ((s.updCore c Core.answered).core v).ringed = 0 := (congrArg Core.ringed hcore).trans hv
  have hloot : (s.updCore c Core.answered).loot c v e = s.loot c v e := rfl
  have hjoin (u : State) (g : Core → Core) (d : TaskEntry) (hd : d.ring = none) (hu : u.cores = s.cores) :
      ((u.updCore c Core.answered).updCore v g).joinQueue c d =
        (((u.updCore c Core.answered).updCore v g).updCore c (Core.joined d), .joined) := by
    have hc : ((u.updCore c Core.answered).updCore v g).core c = (s.core c).answered := by
      rw [State.core_updCore_other _ g hne, State.core_updCore, State.core_congr hu]
    exact State.joinQueue_unringed (by rw [hc]; exact hr) (by rw [hc]; exact hl) hd
  have hanswer {u t : State} {d : TaskEntry} (h : u.joinQueue c d = (t, .joined)) : (match u.joinQueue c d with
      | (t, .joined) => t
      | _ => (s.updCore c Core.answered).updCore c (Core.refused s.cycle)) = t := by rw [h]
  show execStealAnswer c s = _
  unfold execStealAnswer
  rw [hs]
  dsimp only
  change Host.Outcome.next (match ((s.updCore c Core.answered).core v).tailEntry with | none => _ | some (i, e) => _) = _
  rw [ht']
  dsimp only
  change Host.Outcome.next (match (s.updCore c Core.answered).loot c v e with | .refuse => _ | .whole => _ | .upper m => _) = _
  rw [hloot]
  cases s.loot c v e with
  | refuse => rfl
  | whole =>
    have h : ((s.updCore c Core.answered).takeEntry v i).joinQueue c e = (s.answered c v i e .whole, .joined) := by
      rw [State.takeEntry_unringed hv']
      exact hjoin s (·.without i) e he rfl
    exact congrArg Host.Outcome.next (hanswer h)
  | upper m =>
    exact congrArg Host.Outcome.next (hanswer
      (hjoin { s with uid := s.uid + 1 } (Core.keeps i (e.lower m)) (e.upper (s.uid + 1) m) he rfl))

theorem stealAnswer_spec :
    let q := e.piece
    (hRadius q.hdr = 0 ∨ q.pin = 2 → s.loot c v e = .refuse) ∧
    ∃ t, exec (.stealAnswer c) s = .next t ∧ (t.core c).steal = none ∧ s.sameBytes t ∧
      (s.loot c v e = .refuse → (t.core c).stealAt = s.cycle + 256 ∧ (t.core c).queue = (s.core c).queue ∧
        (t.core v).queue = (s.core v).queue) ∧
      (s.loot c v e = .whole → (t.core c).queue = (s.core c).queue ++ [e] ∧ (t.core v).queue = (s.core v).queue.eraseIdx i) ∧
      (∀ m, s.loot c v e = .upper m → m < 2 ^ 64 → ∃ e', (t.core c).queue = (s.core c).queue ++ [e'] ∧
        e'.piece.lo.toNat = m ∧ e'.piece.hi = q.hi ∧ e'.piece.hdr = q.hdr ∧
        (t.core v).queue = (s.core v).queue.set i { e with piece := { q with hi := .ofNat 64 m } }) := by
  intro q
  refine ⟨s.loot_refuse c v, _, exec_stealAnswer hs hne ht hv hr hl, ?_⟩
  cases s.loot c v e with
  | refuse =>
    have hc : (s.answered c v i e .refuse).core c = ((s.core c).answered).refused s.cycle := by
      rw [State.answered, State.core_updCore, State.core_updCore]
    have hcv : (s.answered c v i e .refuse).core v = s.core v := by
      rw [State.answered, State.core_updCore_other _ _ (Ne.symm hne), State.core_updCore_other _ _ (Ne.symm hne)]
    exact ⟨congrArg Core.steal hc, s.answered_sameBytes c v i e .refuse,
      fun _ => ⟨congrArg Core.stealAt hc, (congrArg Core.queue hc :), congrArg Core.queue hcv⟩, nofun, nofun⟩
  | whole =>
    obtain ⟨hc, hcv⟩ := s.core_thrice hne Core.answered (·.without i) (Core.joined e)
    exact ⟨congrArg Core.steal hc, s.answered_sameBytes c v i e .whole, nofun,
      fun _ => ⟨congrArg Core.queue hc, congrArg Core.queue hcv⟩, nofun⟩
  | upper m =>
    obtain ⟨hc, hcv⟩ := State.core_thrice { s with uid := s.uid + 1 } hne Core.answered (Core.keeps i (e.lower m))
      (Core.joined (e.upper (s.uid + 1) m))
    refine ⟨congrArg Core.steal hc, s.answered_sameBytes c v i e (.upper m), nofun, nofun, fun n hn hlt => ?_⟩
    cases hn
    exact ⟨_, congrArg Core.queue hc, Nat.mod_eq_of_lt hlt, rfl, rfl, congrArg Core.queue hcv⟩

end

end Sys2Proof.Machine
end

section
/-! What happens to tasks without an instruction (R31 to R37, R313 to R331), settled: gangs, domains, views, and O46. -/

namespace Sys2Proof.Machine

/-! ## A gang that is complete binds (R328) -/

theorem insertSlot_perm (x : Nat × Nat) (l : List (Nat × Nat)) : (insertSlot x l).Perm (x :: l) := by
  induction l with
  | nil => exact List.Perm.refl _
  | cons y ys ih =>
    unfold insertSlot
    split
    · exact List.Perm.refl _
    · exact (ih.cons y).trans (List.Perm.swap x y ys)

theorem sortSlots_perm (l : List (Nat × Nat)) : (sortSlots l).Perm l := by
  induction l with
  | nil => exact List.Perm.refl _
  | cons x xs ih => exact (insertSlot_perm x _).trans (ih.cons x)

theorem State.bindMembers_bays (t : Nat) (q : Piece) (slots l : List (Nat × Nat)) (s : State) (i : Nat) :
    (s.bindMembers t q slots i l).bays = s.bays := by
  induction l generalizing s i with
  | nil => rfl
  | cons e l ih => exact ih _ _

theorem State.bindMembers_slot_other (t : Nat) (q : Piece) (slots : List (Nat × Nat)) {l : List (Nat × Nat)} {d j : Nat}
    (h : (d, j) ∉ l) (s : State) (i : Nat) : (s.bindMembers t q slots i l).slot d j = s.slot d j := by
  induction l generalizing s i with
  | nil => rfl
  | cons e l ih =>
    obtain ⟨he, hl⟩ := not_or.1 (fun g => h (List.mem_cons.2 g))
    exact (ih hl _ _).trans (State.bindFresh_slot_other _ _ he)

/-- Each member's slot runs its piece of the gang. -/
theorem State.bindMembers_slot (t : Nat) (q : Piece) (slots : List (Nat × Nat)) {l : List (Nat × Nat)} (hl : l.Nodup) {n c k : Nat}
    (h : l[n]? = some (c, k)) (s : State) (i : Nat) : ∃ uid,
      ((s.bindMembers t q slots i l).slot c k).phase = .running ∧ ((s.bindMembers t q slots i l).slot c k).piece =
        some { q with uid := uid, gang := some { ticket := t, member := i + n, slots := slots } } := by
  induction l generalizing s i n with
  | nil => cases h
  | cons e l ih =>
    obtain ⟨he, hl⟩ := List.nodup_cons.1 hl
    cases n with
    | zero =>
      obtain rfl : e = (c, k) := by simpa using h
      refine ⟨s.uid + 1, ?_⟩
      show ((State.bindMembers (State.bindFresh { s with uid := s.uid + 1 } c k _) t q slots (i + 1) l).slot c k).phase = _ ∧
        ((State.bindMembers (State.bindFresh { s with uid := s.uid + 1 } c k _) t q slots (i + 1) l).slot c k).piece = _
      rw [State.bindMembers_slot_other t q slots he, State.bindFresh_slot]
      exact ⟨rfl, rfl⟩
    | succ n =>
      obtain ⟨uid, hr, hp⟩ := ih hl (by simpa using h) (State.bindFresh { s with uid := s.uid + 1 } e.1 e.2
        { q with uid := s.uid + 1, gang := some { ticket := t, member := i, slots := slots } }) (i + 1)
      exact ⟨uid, hr, by rw [show i + (n + 1) = i + 1 + n by omega]; exact hp⟩

section
variable {s : State} {b : Nat} {x : Gang} (hg : (s.bay b).gangs = [x]) (hn : x.slots.length = x.size)
include hg hn

/-- No slot is reserved for a gang that has all its slots. -/
theorem State.reserve_complete (ck : Nat × Nat) : s.reserve b ck = s := by
  have hf : (s.bay b).gangFor ck.1 = none := by
    simp [Bay.gangFor, hg, Gang.wants, hn]
  unfold State.reserve
  rw [hf]
  exact ite_self s

theorem State.gangRounds_complete (n : Nat) : State.gangRounds b n s = s := by
  have hr : (baySlotList b).foldl (fun (s : State) ck => s.reserve b ck) s = s := by
    refine List.foldlRecOn (motive := fun t : State => t = s) _ _ rfl (fun t ht ck _ => ?_)
    rw [ht]
    exact State.reserve_complete hg hn ck
  have hy : younger [x] = none := by simp [younger, hn]
  have hrel : s.releaseYounger b = s := by
    unfold State.releaseYounger
    rw [hg, hy]
  induction n with
  | zero => rfl
  | succ n ih =>
    unfold State.gangRounds
    rw [hr, hrel, ih]

/-- A complete gang whose bay has no other binds. -/
theorem exec_gangBinding (hs : x.saved = []) (hd : s.dieRuns (b / 3) = true) (hr : s.domainRoom x.piece = true) :
    exec (.gangBinding b) s = .next ((s.bindMembers x.ticket x.piece (sortSlots x.slots) 0 (sortSlots x.slots)).updBay b
      (fun y => { y with gangs := y.gangs.filter (fun h => h.ticket != x.ticket) })) := by
  have hb : s.bindGang b x = (s.bindMembers x.ticket x.piece (sortSlots x.slots) 0 (sortSlots x.slots)).updBay b
      (fun y => { y with gangs := y.gangs.filter (fun h => h.ticket != x.ticket) }) := by
    unfold State.bindGang
    dsimp only
    rw [if_neg (by simp [hn, hd, hr]), hs]
    rfl
  have ha : (State.bindApart b (s, []) x).1 = s.bindGang b x := by
    unfold State.bindApart
    rw [if_neg (by simp)]
  show Host.Outcome.next ((((State.gangRounds b 16 s).bay b).gangs.foldl (State.bindApart b) (State.gangRounds b 16 s, [])).1) = _
  rw [State.gangRounds_complete hg hn, hg]
  exact congrArg Host.Outcome.next (ha.trans hb)

theorem gangBinding_spec (hs : x.saved = []) (hd : s.dieRuns (b / 3) = true) (hr : s.domainRoom x.piece = true) (hx : x.slots.Nodup) :
    ∃ t, exec (.gangBinding b) s = .next t ∧ (t.bay b).gangs = [] ∧ ∀ i c k, (sortSlots x.slots)[i]? = some (c, k) →
      (t.slot c k).phase = .running ∧ ((t.slot c k).piece.bind (·.gang)) =
        some { ticket := x.ticket, member := i, slots := sortSlots x.slots } ∧
      ((t.slot c k).piece.map (·.hdr)) = some x.piece.hdr := by
  refine ⟨_, exec_gangBinding hg hn hs hd hr, ?_, fun i c k hi => ?_⟩
  · have hb : (s.bindMembers x.ticket x.piece (sortSlots x.slots) 0 (sortSlots x.slots)).bay b = s.bay b := by
      unfold State.bay
      rw [State.bindMembers_bays]
    rw [State.bay_updBay, hb, hg]
    simp
  · obtain ⟨uid, hp, hq⟩ := s.bindMembers_slot x.ticket x.piece (sortSlots x.slots) ((sortSlots_perm _).nodup_iff.2 hx) hi 0
    rw [Nat.zero_add] at hq
    refine ⟨hp, ?_, ?_⟩
    · exact congrArg (Option.bind · (·.gang)) hq
    · exact congrArg (Option.map (·.hdr)) hq

end

/-! ## Slots changed one after another -/

theorem State.foldl_updSlot (f : Nat → Slot → Slot) (hf : ∀ n x, f n (f n x) = f n x) (l : List (Nat × Nat)) (s : State) (c k : Nat) :
    (l.foldl (fun (s : State) ck => s.updSlot ck.1 ck.2 (f s.cycle)) s).slot c k =
      if (c, k) ∈ l then f s.cycle (s.slot c k) else s.slot c k := by
  induction l generalizing s with
  | nil => rfl
  | cons e l ih =>
    obtain ⟨d, j⟩ := e
    rw [List.foldl_cons, ih]
    by_cases h : (c, k) = (d, j)
    · obtain ⟨rfl, rfl⟩ := Prod.mk.inj h
      rw [State.slot_updSlot, State.updSlot_cycle, hf]
      simp
    · rw [State.slot_updSlot_other _ _ h, State.updSlot_cycle]
      simp only [List.mem_cons, h, false_or]

theorem State.foldl_updSlot_sameBytes (f : Nat → Slot → Slot) (l : List (Nat × Nat)) (s : State) :
    s.sameBytes (l.foldl (fun (s : State) ck => s.updSlot ck.1 ck.2 (f s.cycle)) s) :=
  List.foldlRecOn (motive := fun t : State => s.sameBytes t) l _ (State.sameBytes_refl s)
    (fun _ ht _ _ => State.sameBytes_trans ht (State.updSlot_sameBytes _ _ _ _))

theorem State.foldl_updSlot_part (f : Nat → Slot → Slot) (l : List (Nat × Nat)) (s : State) (p : Nat) :
    (l.foldl (fun (s : State) ck => s.updSlot ck.1 ck.2 (f s.cycle)) s).part p = s.part p :=
  List.foldlRecOn (motive := fun t : State => t.part p = s.part p) l _ rfl (fun _ ht _ _ => ht)

/-! ## Domain stalls (R318) -/

/-- The count of R318 starts anew. -/
def Slot.countsFrom (now : Nat) (x : Slot) : Slot := { x with enqSince := some now }

/-- The enqueue with tag `tag` fails. -/
def Slot.failEnq (tag : Nat) (x : Slot) : Slot :=
  { x with enq := x.enq.map (fun (w : EnqWait) => if w.tag = tag then { w with failed := true } else w) }

/-- The smaller of two under an order of keys. -/
theorem pickMin_spec {xs : List (Nat × List Nat)} (h : xs ≠ []) : ∃ x ∈ xs, pickMin xs = some x.1 := by
  suffices hs : ∀ (l : List (Nat × List Nat)) (m : Nat × List Nat), ∃ x ∈ m :: l, l.foldl (fun (m : Option (Nat × List Nat)) x =>
      match m with
      | none => some x
      | some y => if keyLess x.2 y.2 then some x else m) (some m) = some x by
    obtain ⟨y, ys, rfl⟩ := List.exists_cons_of_ne_nil h
    obtain ⟨x, hx, he⟩ := hs ys y
    exact ⟨x, hx, congrArg (Option.map Prod.fst) he⟩
  intro l
  induction l with
  | nil => exact fun m => ⟨m, List.mem_singleton.2 rfl, rfl⟩
  | cons e l ih =>
    intro m
    rw [List.foldl_cons]
    dsimp only
    split
    · obtain ⟨x, hx, he⟩ := ih e
      exact ⟨x, List.mem_cons_of_mem _ hx, he⟩
    · obtain ⟨x, hx, he⟩ := ih m
      refine ⟨x, ?_, he⟩
      obtain rfl | hx := List.mem_cons.1 hx
      · exact List.mem_cons_self
      · exact List.mem_cons_of_mem _ (List.mem_cons_of_mem _ hx)

/-- The oldest enqueue of those that are blocked, by number. -/
theorem pickMin_zip {α : Type} {l : List α} (h : l ≠ []) (key : α → List Nat) :
    ∃ i x, pickMin ((List.range l.length).zip (l.map key)) = some i ∧ l[i]? = some x := by
  have hne : (List.range l.length).zip (l.map key) ≠ [] := by
    intro h0
    have := congrArg List.length h0
    simp at this
    exact h this
  obtain ⟨⟨i, ks⟩, hm, he⟩ := pickMin_spec hne
  have hi : i < l.length := List.mem_range.1 (List.of_mem_zip hm).1
  exact ⟨i, l[i], he, List.getElem?_eq_getElem hi⟩

/-- The piece is enqueue-blocked: its stream waits with a tag. -/
theorem State.stalled_token {s : State} {c k : Nat} (h : s.stalled (c, k) = true) : ∃ tag, (s.slot c k).ctl.token = some tag := by
  simp only [State.stalled, Bool.and_eq_true] at h
  have hb := h.1
  unfold State.enqBlocked at hb
  split at hb
  · next tag _ ht => exact ⟨tag, ht⟩
  · cases hb

/-- The order of blocked enqueues: by the core cycle of issue, then by slot. -/
def State.enqAge (s : State) (ck : Nat × Nat) : List Nat :=
  [(match s.enqBlocked (s.slot ck.1 ck.2) with | some w => w.issued | none => 0), ck.1, ck.2]

/-- One enqueue of the slot has failed, and the counts of `ls` start anew. -/
def State.stallOver (s : State) (p level d : Nat) (c k : Nat) (ls : List (Nat × Nat)) : State :=
  (ls.foldl (fun (s : State) ck => s.updSlot ck.1 ck.2 (Slot.countsFrom s.cycle))
    (s.updSlot c k (Slot.failEnq (((s.slot c k).ctl.token).getD 0)))).event p 8 0 0 (BitVec.ofNat 64 (level * 2 ^ 16 + d)) 0

theorem exec_stall_none {s : State} {p level d : Nat} (h : (if level = 0 then ((s.domainSlots p level d).filter s.stalled).isEmpty
      else (s.domainSlots p level d).isEmpty || ((s.domainSlots p level d).filter s.stalled).length != (s.domainSlots p level d).length) = true) :
    exec (.domainStallTimeout p level d) s = .next s := by
  show execDomainStallTimeout p level d s = _
  unfold execDomainStallTimeout
  exact congrArg Host.Outcome.next (if_pos h)

theorem exec_stall_some {s : State} {p level d : Nat} (h : (if level = 0 then ((s.domainSlots p level d).filter s.stalled).isEmpty
      else (s.domainSlots p level d).isEmpty || ((s.domainSlots p level d).filter s.stalled).length != (s.domainSlots p level d).length) = false)
    (hl : (s.domainSlots p level d).filter s.stalled ≠ []) : ∃ c k, (c, k) ∈ s.domainSlots p level d ∧ s.stalled (c, k) = true ∧
      exec (.domainStallTimeout p level d) s = .next (s.stallOver p level d c k (if level = 0 then [] else s.domainSlots p level d)) := by
  obtain ⟨i, ⟨c, k⟩, hp, hi⟩ := pickMin_zip hl s.enqAge
  obtain ⟨hm, hs⟩ := List.mem_filter.1 (List.mem_of_getElem? hi)
  refine ⟨c, k, hm, hs, ?_⟩
  show execDomainStallTimeout p level d s = _
  unfold execDomainStallTimeout
  dsimp only
  rw [if_neg (by rw [h]; exact nofun)]
  change Host.Outcome.next (match pickMin ((List.range ((s.domainSlots p level d).filter s.stalled).length).zip
    (((s.domainSlots p level d).filter s.stalled).map s.enqAge)) with | none => _ | some i => _) = _
  rw [hp]
  dsimp only
  rw [hi]
  dsimp only
  unfold State.stallOver
  split <;> rfl

theorem State.stallOver_sameBytes (s : State) (p level d c k : Nat) (ls : List (Nat × Nat)) :
    s.sameBytes (s.stallOver p level d c k ls) :=
  State.sameBytes_trans (s.updSlot_sameBytes c k _) (State.sameBytes_trans (State.foldl_updSlot_sameBytes Slot.countsFrom ls _)
    (State.event_sameBytes _ _ _ _ _ _ _))

theorem State.stallOver_slot (s : State) (p level d c k : Nat) (ls : List (Nat × Nat)) (e j : Nat) :
    (s.stallOver p level d c k ls).slot e j =
      if (e, j) ∈ ls then ((s.updSlot c k (Slot.failEnq (((s.slot c k).ctl.token).getD 0))).slot e j).countsFrom s.cycle
      else (s.updSlot c k (Slot.failEnq (((s.slot c k).ctl.token).getD 0))).slot e j :=
  State.foldl_updSlot Slot.countsFrom (fun _ _ => rfl) ls _ e j

/-- The enqueue that its stream waits for has failed. -/
theorem State.stallOver_failed {s : State} {c k : Nat} (h : s.stalled (c, k) = true) (p level d : Nat) (ls : List (Nat × Nat)) :
    ∀ w ∈ ((s.stallOver p level d c k ls).slot c k).enq, some w.tag = (s.slot c k).ctl.token → w.failed = true := by
  obtain ⟨tag, ht⟩ := State.stalled_token h
  have he : ((s.stallOver p level d c k ls).slot c k).enq = ((s.slot c k).failEnq tag).enq := by
    rw [State.stallOver_slot, State.slot_updSlot, ht]
    split <;> rfl
  intro w hw hwt
  rw [he] at hw
  obtain ⟨v, -, rfl⟩ := List.mem_map.1 hw
  by_cases hv : v.tag = tag
  · rw [if_pos hv]
  · rw [if_neg hv, ht] at hwt
    exact absurd (Option.some.inj hwt) hv

theorem domainStall_spec (s : State) (p level d : Nat) :
    let ms := s.domainSlots p level d
    (level ≠ 0 → (ms = [] ∨ ∃ x ∈ ms, s.stalled x = false) → exec (.domainStallTimeout p level d) s = .next s) ∧
    (level ≠ 0 → ms ≠ [] → (∀ x ∈ ms, s.stalled x = true) → ∃ t, exec (.domainStallTimeout p level d) s = .next t ∧
      (∃ c k, (c, k) ∈ ms ∧ ∀ w ∈ (t.slot c k).enq, some w.tag = (s.slot c k).ctl.token → w.failed = true) ∧
      (∀ c k, (c, k) ∈ ms → (t.slot c k).enqSince = some s.cycle) ∧ s.sameBytes t) ∧
    (level = 0 → (∀ x ∈ ms, s.stalled x = false) → exec (.domainStallTimeout p level d) s = .next s) ∧
    (level = 0 → (∃ x ∈ ms, s.stalled x = true) → ∃ t c k, exec (.domainStallTimeout p level d) s = .next t ∧ (c, k) ∈ ms ∧
      s.stalled (c, k) = true ∧ s.sameBytes t ∧
      ∀ w ∈ (t.slot c k).enq, some w.tag = (s.slot c k).ctl.token → w.failed = true) := by
  intro ms
  refine ⟨fun hl h => exec_stall_none ?_, fun hl hne h => ?_, fun hl h => exec_stall_none ?_, fun hl h => ?_⟩
  · rw [if_neg hl]
    obtain h | ⟨x, hx, hsx⟩ := h
    · rw [show s.domainSlots p level d = [] from h]
      rfl
    · have hlt : (ms.filter s.stalled).length ≠ ms.length := fun he => by
        have := List.length_filter_eq_length_iff.1 he x hx
        rw [hsx] at this
        exact Bool.noConfusion this
      simp [ms, hlt]
  · have hf : ms.filter s.stalled = ms := List.filter_eq_self.2 h
    obtain ⟨c, k, hm, hs, he⟩ := exec_stall_some (s := s) (p := p) (level := level) (d := d)
      (by rw [if_neg hl, show (s.domainSlots p level d).filter s.stalled = ms from hf]; simpa [ms] using hne)
      (by rw [show (s.domainSlots p level d).filter s.stalled = ms from hf]; exact hne)
    rw [if_neg hl] at he
    refine ⟨_, he, ⟨c, k, hm, State.stallOver_failed hs p level d _⟩, fun e j hej => ?_, State.stallOver_sameBytes _ _ _ _ _ _ _⟩
    rw [State.stallOver_slot, if_pos hej]
    rfl
  · rw [if_pos hl, List.isEmpty_iff, List.filter_eq_nil_iff]
    exact fun x hx => by simp [h x hx]
  · obtain ⟨x, hx, hsx⟩ := h
    have hne : (s.domainSlots p level d).filter s.stalled ≠ [] := List.ne_nil_of_mem (List.mem_filter.2 ⟨hx, hsx⟩)
    obtain ⟨c, k, hm, hs, he⟩ := exec_stall_some (by rw [if_pos hl]; simpa using hne) hne
    exact ⟨_, c, k, he, hm, hs, State.stallOver_sameBytes _ _ _ _ _ _ _, State.stallOver_failed hs p level d _⟩

/-! ## Domain barriers (R34, R331) -/

theorem Part.dom_setDom (y : Part) (level d : Nat) (x : Domain) : (y.setDom level d x).dom level d = some x := by
  exact congrArg (Option.map Prod.snd) (Tbl.find?_set y.doms (domKey level d) x)

/-- A domain after a barrier of it has completed. -/
def Domain.next (x : Domain) : Domain := { x with epochx := x.epochx + 1, phase := !x.phase, stir := false, sent := false }

/-- The slot reads a domain register. -/
def Slot.seesDom (v : DWord) (_ : Nat) (x : Slot) : Slot := { x with regs := { x.regs with dom := v } }

theorem Slot.seesDom_dom (v : DWord) (n : Nat) (x : Slot) : (Slot.seesDom v n x).regs.dom = v := rfl

theorem Slot.seesDom_twice (v : DWord) (n : Nat) (x : Slot) : Slot.seesDom v n (Slot.seesDom v n x) = Slot.seesDom v n x := rfl

theorem State.domainSlots_updPart (s : State) (p level d q : Nat) (f : Part → Part) :
    (s.updPart q f).domainSlots p level d = s.domainSlots p level d := rfl

theorem State.completeBarrier_eq {s : State} {p level d : Nat} {x : Domain} (h : (s.part p).dom level d = some x) :
    s.completeBarrier p level d x = (s.domainSlots p level d).foldl
      (fun (s : State) ck => s.updSlot ck.1 ck.2 (Slot.seesDom (domReg level d (x.epochx + 1) (!x.phase)) s.cycle))
      (s.updPart p (·.setDom level d x.next)) := by
  unfold State.completeBarrier
  dsimp only
  rw [State.updDom_eq h, State.domainSlots_updPart]
  rfl

theorem barrierCompletion_spec {s : State} {p level d : Nat} {x : Domain} (h : (s.part p).dom level d = some x) (h1 : 1 ≤ level)
    (h4 : level ≤ 4) :
    (¬ (x.stir = true ∧ x.expect.toNat ≤ s.barrierSum p level d x) → exec (.barrierCompletion p level d) s = .next s) ∧
    (x.stir = true → x.expect.toNat ≤ s.barrierSum p level d x → ∃ t, exec (.barrierCompletion p level d) s = .next t ∧
      (t.part p).dom level d = some { x with epochx := x.epochx + 1, phase := !x.phase, stir := false, sent := false } ∧
      ∀ c k, (c, k) ∈ s.domainSlots p level d → (t.slot c k).regs.dom = domReg level d (x.epochx + 1) (!x.phase)) := by
  have hexec : exec (.barrierCompletion p level d) s = .next
      (if x.stir ∧ x.expect.toNat ≤ s.barrierSum p level d x then s.completeBarrier p level d x else s) := by
    show execBarrierCompletion p level d s = _
    unfold execBarrierCompletion
    rw [h]
    dsimp only
    rw [if_neg (by omega), if_pos (by omega)]
  refine ⟨fun hn => by rw [hexec, if_neg hn], fun hs he => ⟨_, by rw [hexec, if_pos ⟨hs, he⟩], ?_, fun c k hck => ?_⟩⟩
  · rw [State.completeBarrier_eq h, State.foldl_updSlot_part, State.part_updPart, Part.dom_setDom]
    rfl
  · rw [State.completeBarrier_eq h, State.foldl_updSlot (Slot.seesDom _) (Slot.seesDom_twice _), if_pos hck]
    exact Slot.seesDom_dom _ _ _

/-! ## Views (R205, R320) -/

theorem Tbl.get_foldl_set {α : Type} (d : α) (f : Nat → α) (l : List Nat) (t : Tbl α) (k : Nat) :
    Tbl.get d (l.foldl (fun t k => Tbl.set t k (f k)) t) k = if k ∈ l then f k else Tbl.get d t k := by
  induction l generalizing t with
  | nil => rfl
  | cons e l ih =>
    rw [List.foldl_cons, ih, Tbl.get_set]
    by_cases h : k = e
    · subst h
      simp
    · simp [h]

theorem Core.toView_res (x : Core) (now : Nat) {key n : Nat} {t : Tile} (h0 : key ≠ 0) (hm : (n, t) ∈ x.tiles) (hs : t.state ≠ 0)
    (hk : t.key.toNat = key) : Tbl.get (0, 0, 0) (x.toView now).res key = x.residency key := by
  have hmem : key ∈ x.keys := by
    refine List.mem_dedup.2 (List.mem_filterMap.2 ⟨(n, t), hm, ?_⟩)
    have hne : t.key ≠ 0 := fun h => h0 (by rw [← hk, h]; rfl)
    show (if t.state = 0 ∨ t.key = 0 then none else some t.key.toNat) = some key
    rw [if_neg (fun h => h.elim hs hne), hk]
  exact (Tbl.get_foldl_set (0, 0, 0) x.residency x.keys [] key).trans (if_pos hmem)

theorem State.updateView_core (s : State) (die c : Nat) :
    ((s.updateView die c).die die).core c = (s.core c).toView s.cycle := by
  rw [State.updateView, State.die_updDie]
  exact Tbl.get_set_same _ _ _ _

theorem State.updateView_core_other (s : State) {die c d : Nat} (h : d ≠ c) :
    ((s.updateView die c).die die).core d = (s.die die).core d := by
  rw [State.updateView, State.die_updDie]
  exact Tbl.get_set_other _ _ _ h

theorem residencyView_spec (s : State) {die c : Nat} (hd : die < 4) (hc : c < 72) :
    ∃ t, exec (.residencyViewUpdate die c) s = .next t ∧ s.sameBytes t ∧
    (((t.die die).core c).load = (s.core c).load) ∧ ((t.die die).core c).free = (s.core c).freeSlots ∧
    ∀ key, key < 2 ^ 32 → key ≠ 0 → (∃ n x, (n, x) ∈ (s.core c).tiles ∧ x.state ≠ 0 ∧ x.key.toNat = key) →
      (t.die die).resOf c key = ((s.core c).residency key).1 := by
  refine ⟨s.updateView die c, ?_, State.sameBytes_of_fields rfl rfl rfl rfl rfl, ?_, ?_, fun key _ h0 ⟨n, x, hm, hs, hk⟩ => ?_⟩
  · show execResidencyViewUpdate die c s = _
    rw [execResidencyViewUpdate, if_neg (by omega)]
  · rw [State.updateView_core]
    rfl
  · rw [State.updateView_core]
    rfl
  · rw [Die.resOf, State.updateView_core, Core.toView_res _ _ h0 hm hs hk]

/-- The view of a core is taken anew where it has grown old. -/
theorem State.freshViews_core (s : State) (die p : Nat) {c : Nat} (hc : c ∈ s.coresOf p) :
    ((s.freshViews die p).die die).core c = if ((s.die die).core c).at1 + 64 ≤ s.cycle then (s.core c).toView s.cycle
      else (s.die die).core c := by
  suffices h : ∀ (l : List Nat), l.Nodup → ∀ u : State, u.cores = s.cores → u.cycle = s.cycle →
      ((l.foldl (fun (s : State) c => if ((s.die die).core c).at1 + 64 ≤ s.cycle then s.updateView die c else s) u).die die).core c =
        if c ∈ l ∧ ((u.die die).core c).at1 + 64 ≤ s.cycle then (s.core c).toView s.cycle else (u.die die).core c by
    have := h (s.coresOf p) (s.coresOf_nodup p) s rfl rfl
    simpa only [State.freshViews, hc, true_and] using this
  intro l
  induction l with
  | nil => intro _ u _ _; simp
  | cons e l ih =>
    intro hl u hu hcyc
    obtain ⟨he, hl⟩ := List.nodup_cons.1 hl
    rw [List.foldl_cons, ih hl _ (by split; exacts [hu, hu]) (by split; exacts [hcyc, hcyc])]
    by_cases h : c = e
    · subst h
      simp only [he, false_and, if_false, List.mem_cons, true_or, true_and, hcyc]
      split
      · rw [State.updateView_core, hcyc, State.core_congr hu]
      · rfl
    · have hv : ((if ((u.die die).core e).at1 + 64 ≤ u.cycle then u.updateView die e else u).die die).core c = (u.die die).core c := by
        split
        · exact State.updateView_core_other u h
        · rfl
      simp only [hv, List.mem_cons, h, false_or]

/-- Settles O46: each event by the lemma on it, the queues concerned having nothing in their rings. -/
theorem taskEvents : Obligations.TaskEvents :=
  ⟨fun _ _ _ _ _ hf hb hn hs hr => taskBinding_spec hf hb hn hs hr,
    fun _ _ _ _ hq hr hd hg => ⟨fun hk => retirement_quietly hq hr hd hg hk,
      fun _ _ _ hk ht hj hf hne hp hph hs => retirement_flag hq hr hd hg hk ht hj hf hne hp hph hs⟩,
    fun _ _ _ _ hw hg hl hr hh => launchWaitJoin_spec hw hg hl hr hh,
    fun _ _ hs ha hi => stealRequest_spec hs ha hi,
    fun _ _ _ _ _ hs hne ht hv hr hl => stealAnswer_spec hs hne ht hv hr hl,
    fun _ _ _ hg hn hs hd hr hx => gangBinding_spec hg hn hs hd hr hx,
    domainStall_spec,
    fun _ _ _ _ _ h h1 h4 => barrierCompletion_spec h h1 h4,
    fun s _ _ hd hc => residencyView_spec s hd hc,
    fun s die p _ hc => s.freshViews_core die p hc⟩

end Sys2Proof.Machine
end

section
/-! SUPPORT. Lines that a stream reaches, and the resumption of a blocked stream (R27, R38, R41, R42, R44). -/

namespace Sys2Proof.Machine

/-! ## What a change of a stream leaves -/

theorem State.strm_updStrm_real (s : State) {a : Agent} (h : realAgent a = true) (f : Stream → Stream) :
    (s.updStrm a f).strm a = f (s.strm a) := by
  cases a with
  | strm c k cls => exact (congrArg (Slot.strm · cls) (s.slot_updSlot c k _)).trans (Slot.strm_setStrm _ _ (realAgent_strm h))
  | thread t => exact congrArg Thread.strm (s.thread_updThread t _)

theorem State.thread_updStrm_view {β : Type} {v : Thread → β} (hv : ∀ x y, v { x with strm := y } = v x) (s : State) (t u : Nat)
    (f : Stream → Stream) : v ((s.updStrm (.thread t) f).thread u) = v (s.thread u) := by
  by_cases h : u = t
  · subst h
    exact (congrArg v (s.thread_updThread u _)).trans (hv _ _)
  · exact congrArg v (s.thread_updThread_other _ h)

theorem State.planeOf_updStrm (s : State) (a b : Agent) (f : Stream → Stream) : (s.updStrm a f).planeOf b = s.planeOf b := by
  cases a with
  | thread t => cases b <;> rfl
  | strm c k cls =>
    cases b with
    | thread t => rfl
    | strm d j e => exact State.core_updSlot_view (v := Core.activePlane) (fun _ _ _ _ => rfl) s c k d _

theorem State.codeWord_updStrm (s : State) (a b : Agent) (f : Stream → Stream) (plane : Nat) (l : Int) (w : Nat) :
    (s.updStrm a f).codeWord b plane l w = s.codeWord b plane l w := by
  cases b with
  | strm d j e =>
    cases a with
    | thread t => rfl
    | strm c k cls =>
      exact State.core_updSlot_view (v := fun x => memWord (x.plane plane) ((storeAt e).1 + l.toNat * 64 + 4 * w))
        (fun _ _ _ _ => rfl) s c k d _
  | thread u =>
    cases a with
    | strm c k cls => rfl
    | thread t =>
      have h := State.thread_updStrm_view (v := Thread.job) (fun _ _ => rfl) s t u f
      unfold State.codeWord
      dsimp only
      rw [h]
      rfl

theorem State.lineIn_updStrm (s : State) (a b : Agent) (f : Stream → Stream) (l : Int) :
    (s.updStrm a f).lineIn b l = s.lineIn b l := by
  cases b with
  | strm d j e => rfl
  | thread u =>
    cases a with
    | strm c k cls => rfl
    | thread t =>
      have h := State.thread_updStrm_view (v := Thread.job) (fun _ _ => rfl) s t u f
      have hp := State.thread_updStrm_view (v := Thread.part) (fun _ _ => rfl) s t u f
      unfold State.lineIn State.partOf
      dsimp only
      rw [h, hp]
      rfl

theorem State.reachFault_updStrm (s : State) (a b : Agent) (f : Stream → Stream) (l : Int) :
    (s.updStrm a f).reachFault b l = s.reachFault b l := by
  unfold State.reachFault
  rw [State.lineIn_updStrm, State.planeOf_updStrm, State.codeWord_updStrm]

theorem State.own_updStrm_flag (s : State) (a : Agent) (f : Stream → Stream) (n : Nat) :
    ((s.updStrm a f).own a).flag n = (s.own a).flag n := by
  cases a with
  | thread t => rfl
  | strm c k cls => exact (congrArg (Slot.flag · n) (s.slot_updSlot c k _)).trans (by cases cls <;> rfl)

/-! ## A line's wait (R42) -/

/-- The link word of the stream's line holds it. -/
def State.linkHolds (s : State) (a : Agent) (w : Word) (passed : Bool) : Prop :=
  linkWaits w = true ∧ passed = false ∧ ((s.own a).flag (linkFlag w)).toNat < linkVal w

/-- What a stream shows of itself once it has met a line's wait. -/
structure Stream.MetWait (old new : Stream) (holds : Prop) : Prop where
  line : new.line = old.line
  plane : new.plane = old.plane
  reached : new.reached = old.reached
  regs : new.regs = old.regs
  preds : new.preds = old.preds
  goes : ¬ holds → new.word = 1 ∧ new.mode = .running
  stays : holds → new.word = old.word ∧ new.mode = .blocked

theorem State.lineWait_spec (s : State) {a : Agent} (h : realAgent a = true) : s.sameBytes (s.lineWait a) ∧
    Stream.MetWait (s.strm a) ((s.lineWait a).strm a)
      (s.linkHolds a (s.codeWord a (s.strm a).plane (s.strm a).line 0) (s.strm a).passed) := by
  have hiff : (linkWaits (s.codeWord a (s.strm a).plane (s.strm a).line 0) = true ∧ (!(s.strm a).passed) = true ∧
      ((s.own a).flag (linkFlag (s.codeWord a (s.strm a).plane (s.strm a).line 0))).toNat <
        linkVal (s.codeWord a (s.strm a).plane (s.strm a).line 0)) ↔
      s.linkHolds a (s.codeWord a (s.strm a).plane (s.strm a).line 0) (s.strm a).passed := by
    simp only [State.linkHolds, Bool.not_eq_true']
  unfold State.lineWait
  dsimp only
  split
  · next hh =>
    refine ⟨s.updStrm_sameBytes a _, ?_⟩
    rw [State.block, State.strm_updStrm_real s h]
    exact ⟨rfl, rfl, rfl, rfl, rfl, fun hn => absurd (hiff.1 hh) hn, fun _ => ⟨rfl, rfl⟩⟩
  · next hh =>
    refine ⟨s.updStrm_sameBytes a _, ?_⟩
    rw [State.strm_updStrm_real s h]
    exact ⟨rfl, rfl, rfl, rfl, rfl, fun _ => ⟨rfl, rfl⟩, fun hn => absurd (hiff.2 hn) hh⟩

/-! ## A line that is reached (R41, R44) -/

/-- A stream passes to a line: it stands before its link word, with nothing checked. -/
def Stream.toLine (l : Int) (t : Stream) : Stream := { t with line := l, word := 0, reached := false, passed := false }
/-- The line's checks are over. -/
def Stream.reaches (plane : Nat) (t : Stream) : Stream := { t with reached := true, plane := plane }

theorem State.reach_again {s : State} {a : Agent} (h : (s.strm a).reached = true) : s.reach a = s.lineWait a := by
  unfold State.reach
  dsimp only
  rw [if_pos h]

theorem State.reach_first {s : State} {a : Agent} (h : (s.strm a).reached = false) (hf : s.reachFault a (s.strm a).line = none) :
    s.reach a = (s.updStrm a (Stream.reaches (s.planeOf a))).lineWait a := by
  unfold State.reach
  dsimp only
  rw [if_neg (by simp [h]), hf]
  rfl

theorem State.reach_fault {s : State} {a : Agent} {n : Nat} (h : (s.strm a).reached = false)
    (hf : s.reachFault a (s.strm a).line = some n) : s.reach a = s.raise a ⟨2, n, 0, 0⟩ := by
  unfold State.reach
  dsimp only
  rw [if_neg (by simp [h]), hf]
  rfl

/-- A stream before a link word: what it meets is the wait of the line at `plane`. -/
theorem State.reach_spec {s : State} {a : Agent} (h : realAgent a = true) {plane : Nat}
    (hp : plane = if (s.strm a).reached = false then s.planeOf a else (s.strm a).plane)
    (hf : (s.strm a).reached = false → s.reachFault a (s.strm a).line = none) : s.sameBytes (s.reach a) ∧
      Stream.MetWait ((s.strm a).reaches plane) ((s.reach a).strm a)
        (s.linkHolds a (s.codeWord a plane (s.strm a).line 0) (s.strm a).passed) := by
  cases hr : (s.strm a).reached with
  | true =>
    obtain rfl : plane = (s.strm a).plane := by rw [hp, hr]; rfl
    obtain ⟨hb, hm⟩ := s.lineWait_spec h
    rw [State.reach_again hr]
    exact ⟨hb, hm.line, hm.plane, hm.reached.trans hr, hm.regs, hm.preds, hm.goes, hm.stays⟩
  | false =>
    obtain rfl : plane = s.planeOf a := by rw [hp, hr]; rfl
    obtain ⟨hb, hm⟩ := (s.updStrm a (Stream.reaches (s.planeOf a))).lineWait_spec h
    rw [State.reach_first hr (hf hr)]
    rw [State.strm_updStrm_real s h, State.codeWord_updStrm] at hm
    refine ⟨State.sameBytes_trans (s.updStrm_sameBytes a _) hb, ?_⟩
    unfold State.linkHolds at hm ⊢
    rw [State.own_updStrm_flag] at hm
    exact hm

theorem exec_lineAdvance_start {s : State} {a : Agent} (h : (s.strm a).word = 0) : exec (.lineAdvance a) s = .next (s.reach a) := by
  show Host.Outcome.next _ = _
  dsimp only
  rw [if_pos h]

theorem exec_lineAdvance_end {s : State} {a : Agent} (h : 16 ≤ (s.strm a).word) : exec (.lineAdvance a) s = .next
    (if s.nextOf a = 0 then s.raise a ⟨2, 5, 0, 0⟩
     else (s.updStrm a (Stream.toLine (nextLine (s.strm a).line (s.nextOf a)))).reach a) := by
  show Host.Outcome.next _ = _
  dsimp only
  rw [if_neg (by omega), if_neg (by omega)]
  rfl

/-- A stream past its last word goes on by NEXT. -/
theorem State.toLine_spec (s : State) {a : Agent} (h : realAgent a = true) {l : Int} (hf : s.reachFault a l = none) :
    s.sameBytes ((s.updStrm a (Stream.toLine l)).reach a) ∧
      Stream.MetWait (((s.strm a).toLine l).reaches (s.planeOf a)) (((s.updStrm a (Stream.toLine l)).reach a).strm a)
        (s.linkHolds a (s.codeWord a (s.planeOf a) l 0) false) := by
  have hs := s.strm_updStrm_real h (Stream.toLine l)
  obtain ⟨hb, hm⟩ := State.reach_spec (s := s.updStrm a (Stream.toLine l)) h (plane := s.planeOf a)
    (by rw [hs, State.planeOf_updStrm]; rfl) (fun _ => by rw [hs, State.reachFault_updStrm]; exact hf)
  rw [hs, State.codeWord_updStrm] at hm
  refine ⟨State.sameBytes_trans (s.updStrm_sameBytes a _) hb, ?_⟩
  unfold State.linkHolds at hm ⊢
  rw [State.own_updStrm_flag] at hm
  exact hm

/-! ## Resumption (R27, R38) -/

/-- The meaning of an encodable instruction, tried again, is its meaning. -/
theorem reissue_eq {i : Instr} (h : i.short?.isSome ∨ i.long?.isSome) (s : State) : reissue i s = exec i s := by
  have hb : (i.short?.isSome || i.long?.isSome) = true := by rwa [Bool.or_eq_true]
  cases i
  all_goals first | exact absurd hb Bool.false_ne_true | rfl

theorem exec_unblock {s : State} {a : Agent} (h : (s.strm a).mode = .blocked) : exec (.streamUnblock a) s = .next (
    if s.mayNot a then
      (if ((State.retry { s with agent := a } a).strm a).mode = .blocked then { s with xl := (State.retry { s with agent := a } a).xl }
       else s.updStrm a (fun u => { u with mode := .running, passed := ((State.retry { s with agent := a } a).strm a).passed }))
    else State.retry { s with agent := a } a) := by
  show execStreamUnblock a s = _
  unfold execStreamUnblock
  rw [h]

theorem exec_unblock_now {s : State} {a : Agent} (h : (s.strm a).mode = .blocked) (hm : s.mayNot a = false) :
    exec (.streamUnblock a) s = .next (State.retry { s with agent := a } a) := by
  rw [exec_unblock h, if_neg (by simp [hm])]

theorem State.retry_line {s : State} {a : Agent} (hx : (s.strm a).xfer = none) (hw : (s.strm a).word = 0) :
    s.retry a = s.reach a := by
  have he : execLineAdvance a s = .next (s.reach a) := exec_lineAdvance_start hw
  unfold State.retry
  dsimp only
  rw [if_neg (by simp [hx]), if_pos (.inl hw), he]
  rfl

theorem State.retry_instr {s t : State} {a : Agent} {i : Instr} (hx : (s.strm a).xfer = none) (hl : (s.strm a).inLine = true)
    (hd : s.decodeAt a = .ok i) (hi : i.short?.isSome ∨ i.long?.isSome) (ht : exec i s = .next t) : s.retry a = t := by
  have hw : ¬ ((s.strm a).word = 0 ∨ 16 ≤ (s.strm a).word) := by
    simp only [Stream.inLine, Bool.and_eq_true, decide_eq_true_eq] at hl
    omega
  unfold State.retry
  dsimp only
  rw [if_neg (by simp [hx]), if_neg hw, hd]
  dsimp only
  rw [reissue_eq hi, ht]
  rfl

theorem State.retry_xfer {s : State} {a : Agent} (hx : (s.strm a).xfer.isSome = true) :
    .next (s.retry a) = exec (.transferRowset a) s := by
  have he : exec (.transferRowset a) s = .next (match (s.strm a).xfer with | some x => s.moveRows a x | none => s) := rfl
  have hr : s.retry a = outState s (exec (.transferRowset a) s) := by
    unfold State.retry
    dsimp only
    rw [if_pos hx]
    rfl
  rw [hr, he]
  rfl

theorem State.advance_strm_real (s : State) {a : Agent} (h : realAgent a = true) (n : Nat) :
    (s.advance a n).strm a = { (s.strm a).done with word := (s.strm a).word + n } := by
  cases a with
  | strm c k cls => exact s.advance_strm c k n (realAgent_strm h)
  | thread t => exact State.strm_updStrm_real s (a := .thread t) rfl _

/-- FWAIT whose flag has come. -/
theorem exec_fwait_on {s : State} {g : Guard} {f : BitVec 6} {v : BitVec 16} (ha : s.acts s.agent g = true)
    (hf : v.toNat ≤ ((s.own s.agent).flag f.toNat).toNat) (lit : Bool) :
    exec (.fwait g f lit v) s = .next (s.advance s.agent (if lit = true then 3 else 2)) := by
  show execFwait g f lit v s = _
  rw [execFwait, State.guarded_acts ha, State.fwait, if_pos hf]
  rfl

end Sys2Proof.Machine
end

section
/-! SUPPORT. Streams that stop (R119, R130, R182, R235): signals, the halt of a stream, the end of its matrix operations. -/

namespace Sys2Proof.Machine

/-! ## Signals (R97, R98) -/

theorem Slot.flagNow_addFlag_other (x : Slot) {f n : Nat} (h : n ≠ f) (v : BitVec 16) : (x.addFlag f v).flagNow n = x.flagNow n := by
  have hc : (x.addFlag f v).flagCycOf n = x.flagCycOf n := Tbl.get_set_other _ _ _ h
  have hf : (x.addFlag f v).flag n = x.flag n := rfl
  simp only [Slot.flagNow, hc, hf]

theorem Slot.signalAll_flagNow (fs : List Nat) (x : Slot) (n : Nat) :
    (x.signalAll fs).flagNow n = x.flagNow n + .ofNat 16 (fs.count n) := by
  induction fs generalizing x with
  | nil => exact (BitVec.add_zero _).symm
  | cons f fs ih =>
    show ((x.addFlag f 1).signalAll fs).flagNow n = _
    rw [ih]
    by_cases h : n = f
    · subst h
      rw [Slot.flagNow_addFlag, List.count_cons_self, BitVec.ofNat_add, BitVec.add_assoc, BitVec.add_comm 1]
      rfl
    · rw [Slot.flagNow_addFlag_other x h, List.count_cons_of_ne (Ne.symm h)]

theorem Slot.signalAll_eq (fs : List Nat) (x : Slot) : ∃ t, x.signalAll fs = { x with flagCyc := t } :=
  List.foldlRecOn (motive := fun y : Slot => ∃ t, y = { x with flagCyc := t }) fs _ ⟨x.flagCyc, rfl⟩ (fun y hy f _ => by
    obtain ⟨t, rfl⟩ := hy
    exact ⟨_, rfl⟩)

/-- A flag that a signal names is counted once. -/
theorem count_toList (o : Option (BitVec 6)) (n : Nat) :
    BitVec.ofNat 16 ((o.map (·.toNat)).toList.count n) = if o.map (·.toNat) = some n then 1 else 0 := by
  cases o with
  | none => rfl
  | some f =>
    by_cases h : f.toNat = n
    · simp [h]
    · simp [h, List.count_cons_of_ne]

theorem Slot.runSigs_none {x : Slot} (h : x.sigs = []) : x.runSigs = x := by
  unfold Slot.runSigs
  rw [h]
  show { x with sigs := [] } = x
  rw [← h]

/-- Signals none of which may take effect yet change no flag. -/
theorem Slot.runSigs_waiting {x : Slot} (h : ∀ p ∈ x.sigs, x.sigReady p = false) : x.runSigs.flagCyc = x.flagCyc := by
  suffices hs : ∀ (l q : List PendSig), (∀ p ∈ l, x.sigReady p = false) → ∃ q',
      l.foldl (fun (y : Slot) p => if y.sigReady p then y.applySig p else { y with sigs := y.sigs ++ [p] }) { x with sigs := q } =
        { x with sigs := q' } by
    obtain ⟨q', he⟩ := hs x.sigs [] h
    exact (congrArg Slot.flagCyc he :)
  intro l
  induction l with
  | nil => exact fun q _ => ⟨q, rfl⟩
  | cons p l ih =>
    intro q hl
    obtain ⟨hp, hl⟩ := List.forall_mem_cons.1 hl
    rw [List.foldl_cons, if_neg (by rw [show Slot.sigReady { x with sigs := q } p = x.sigReady p from rfl, hp]; exact nofun)]
    exact ih _ hl

/-! ## What a stop leaves of a slot -/

/-- Streams, the vector file and the flags are as before, and signals where none waits. -/
structure Slot.Stops (x y : Slot) : Prop where
  strm : ∀ cls, y.strm cls = x.strm cls
  v : y.v = x.v
  flags : y.flags = x.flags
  sigs : x.sigs = [] → y.sigs = [] ∧ y.flagCyc = x.flagCyc

theorem Slot.Stops.refl (x : Slot) : x.Stops x := ⟨fun _ => rfl, rfl, rfl, fun h => ⟨h, rfl⟩⟩

theorem Slot.Stops.trans {x y z : Slot} (h : x.Stops y) (g : y.Stops z) : x.Stops z :=
  ⟨fun cls => (g.strm cls).trans (h.strm cls), g.v.trans h.v, g.flags.trans h.flags,
    fun hs => ⟨(g.sigs (h.sigs hs).1).1, (g.sigs (h.sigs hs).1).2.trans (h.sigs hs).2⟩⟩

theorem Slot.Stops.mat (x : Slot) (m : MatState) : x.Stops { x with m := m } :=
  ⟨x.withMat_strm m, rfl, rfl, fun h => ⟨h, rfl⟩⟩

theorem Slot.Stops.descs (x : Slot) (d : Tbl Desc) : x.Stops { x with descs := d } :=
  ⟨fun cls => by cases cls <;> rfl, rfl, rfl, fun h => ⟨h, rfl⟩⟩

theorem Slot.Stops.runSigs (x : Slot) : x.Stops x.runSigs := by
  obtain ⟨t, q, he⟩ := x.runSigs_eq
  refine ⟨fun cls => ?_, ?_, ?_, fun h => ?_⟩
  · rw [he]; cases cls <;> rfl
  · rw [he]
  · rw [he]
  · rw [Slot.runSigs_none h]; exact ⟨h, rfl⟩

/-- What a stop leaves of the part. -/
def State.stops (s t : State) : Prop := s.sameBytes t ∧ ∀ c k, (s.slot c k).Stops (t.slot c k)

theorem State.stops_refl (s : State) : s.stops s := ⟨State.sameBytes_refl s, fun _ _ => Slot.Stops.refl _⟩

theorem State.stops_trans {s t u : State} (h : s.stops t) (g : t.stops u) : s.stops u :=
  ⟨State.sameBytes_trans h.1 g.1, fun c k => (h.2 c k).trans (g.2 c k)⟩

theorem State.updSlot_stops (s : State) (c k : Nat) {f : Slot → Slot} (hf : ∀ x : Slot, x.Stops (f x)) : s.stops (s.updSlot c k f) := by
  refine ⟨s.updSlot_sameBytes c k f, fun d j => ?_⟩
  by_cases h : (d, j) = (c, k)
  · obtain ⟨rfl, rfl⟩ := Prod.mk.inj h
    rw [State.slot_updSlot]
    exact hf _
  · rw [State.slot_updSlot_other _ _ h]
    exact Slot.Stops.refl _

theorem State.letGo_stops (s : State) (c k : Nat) (p : Desc → Bool) : s.stops (s.letGo c k p) :=
  s.updSlot_stops c k (fun x => Slot.Stops.descs x _)

theorem State.letGoRead_stops (s : State) (c k : Nat) : s.stops (s.letGoRead c k) := by
  unfold State.letGoRead
  split
  · exact State.stops_refl s
  · exact s.letGo_stops c k _

theorem State.stopOps2_stops (s : State) (c k : Nat) (pc : ComputeOp → Bool) (pr : ReadOp → Bool) : s.stops (s.stopOps2 c k pc pr) :=
  State.stops_trans (s.updSlot_stops c k (fun x => Slot.Stops.mat x _)) (State.stops_trans (State.letGoRead_stops _ c k)
    (State.updSlot_stops _ c k (fun x => (Slot.Stops.mat x _).trans (Slot.Stops.runSigs _))))

theorem State.setMsts_stops (s : State) (gs : List (Nat × Nat)) (f : MatState → MatState) : s.stops (s.setMsts gs f) :=
  List.foldlRecOn (motive := fun t : State => s.stops t) gs _ (State.stops_refl s)
    (fun t ht e _ => State.stops_trans ht (t.updSlot_stops e.1 e.2 (fun x => Slot.Stops.mat x _)))

/-- The members of a gang whose ganged operations stop with their leader's. -/
def State.stopGang (s : State) (ms : List (Nat × Nat)) (gc gr : Bool) : State :=
  ms.foldl (fun s (d, j) => s.stopOps2 d j (fun o => gc && o.kind == .mmg) (fun o => gr && o.gang)) s

theorem State.stopGang_stops (s : State) (ms : List (Nat × Nat)) (gc gr : Bool) : s.stops (s.stopGang ms gc gr) :=
  List.foldlRecOn (motive := fun t : State => s.stops t) ms _ (State.stops_refl s)
    (fun t ht e _ => State.stops_trans ht (t.stopOps2_stops e.1 e.2 _ _))

/-- The leader's product takes part in the stop. -/
def State.leadsProduct (s : State) (c k : Nat) : Bool :=
  ((s.slot c k).piece.bind (·.gang)).any (fun g => g.member == 0) &&
    (s.slot c k).m.cop.any (fun o => o.kind == .mmg && o.member == 0 && o.live)

/-- The slot's own operations end. -/
def State.stopOwn (s : State) (c k : Nat) : State :=
  s.stopOps2 c k (fun o => o.kind != .mmg || o.member == 0) (fun o => !o.gang || o.member == 0)

/-- The members stop, the leader's read-out with them. -/
def State.stopMembers (s : State) (c k : Nat) (gc gr : Bool) : State :=
  ((s.stopGang (s.membersOf c k) gc gr).setMsts (s.membersOf c k) (fun m => m.remark 1 3)).updSlot c k
    (fun x => { x with m := { x.m with gread := none } })

theorem State.stopMatrix_eq (s : State) (c k : Nat) : s.stopMatrix c k =
    if s.leadsProduct c k || (s.slot c k).m.gread.isSome then
      (s.stopOwn c k).stopMembers c k (s.leadsProduct c k) (s.slot c k).m.gread.isSome
    else s.stopOwn c k := rfl

theorem State.stopMatrix_stops (s : State) (c k : Nat) : s.stops (s.stopMatrix c k) := by
  rw [State.stopMatrix_eq]
  split
  · exact State.stops_trans (s.stopOps2_stops c k _ _) (State.stops_trans (State.stopGang_stops _ _ _ _)
      (State.stops_trans (State.setMsts_stops _ _ _) (State.updSlot_stops _ c k (fun x => Slot.Stops.mat x _))))
  · exact s.stopOps2_stops c k _ _

/-! ## The matrix product that a stop ends (R235) -/

/-- The product on the slot's path is `o`, and none waits for the path. -/
def MatState.onPath (m : MatState) (o : ComputeOp) : Prop := m.cop = some o ∧ m.share = none

theorem MatState.next_onPath {m : MatState} {o : ComputeOp} (h : m.onPath o) : m.next.onPath o := by
  have hC : m.nextC = m := by
    unfold MatState.nextC
    rw [h.2]
  have hR (m : MatState) : m.nextR.cop = m.cop ∧ m.nextR.share = m.share := by
    unfold MatState.nextR
    split
    · split <;> exact ⟨rfl, rfl⟩
    · exact ⟨rfl, rfl⟩
  unfold MatState.next
  rw [hC]
  exact ⟨(hR m).1.trans h.1, (hR m).2.trans h.2⟩

theorem MatState.stop2_onPath {m : MatState} {o : ComputeOp} (h : m.onPath o) (pc : ComputeOp → Bool) (pr : ReadOp → Bool) :
    (m.stop2 pc pr).onPath (if pc o then { o with stat := o.stat.stop2 } else o) :=
  ⟨congrArg (Option.map _) h.1, congrArg (Option.map _) h.2⟩

theorem Slot.runSigs_m (x : Slot) : x.runSigs.m = x.m := by
  obtain ⟨t, q, h⟩ := x.runSigs_eq
  rw [h]

theorem State.letGoRead_m (s : State) (c k d j : Nat) : ((s.letGoRead c k).slot d j).m = (s.slot d j).m := by
  unfold State.letGoRead
  split
  · rfl
  · exact s.slot_updSlot_view (v := Slot.m) c k d j (fun _ => rfl)

/-- The stop of a slot's operations: what becomes of the product on its path. -/
theorem State.stopOps2_onPath {s : State} {c k : Nat} {o : ComputeOp} (h : (s.slot c k).m.onPath o) (pc : ComputeOp → Bool)
    (pr : ReadOp → Bool) : ((s.stopOps2 c k pc pr).slot c k).m.onPath (if pc o then { o with stat := o.stat.stop2 } else o) := by
  unfold State.stopOps2
  rw [State.slot_updSlot, Slot.runSigs_m]
  refine MatState.next_onPath ?_
  rw [State.letGoRead_m, State.slot_updSlot]
  exact MatState.stop2_onPath h pc pr

theorem State.stopOps2_onPath_other {s : State} {c k : Nat} {o : ComputeOp} (h : (s.slot c k).m.onPath o) (d j : Nat)
    {pc : ComputeOp → Bool} (hpc : pc o = false) (pr : ReadOp → Bool) : ((s.stopOps2 d j pc pr).slot c k).m.onPath o := by
  by_cases hd : (c, k) = (d, j)
  · obtain ⟨rfl, rfl⟩ := Prod.mk.inj hd
    have := State.stopOps2_onPath h pc pr
    rwa [if_neg (by simp [hpc])] at this
  · unfold State.stopOps2
    rw [State.slot_updSlot_other _ _ hd, State.letGoRead_m, State.slot_updSlot_other _ _ hd]
    exact h

theorem State.stopGang_onPath {s : State} {c k : Nat} {o : ComputeOp} (h : (s.slot c k).m.onPath o) (hk : o.kind ≠ .mmg)
    (ms : List (Nat × Nat)) (gc gr : Bool) : ((s.stopGang ms gc gr).slot c k).m.onPath o :=
  List.foldlRecOn (motive := fun t : State => (t.slot c k).m.onPath o) ms _ h
    (fun _ ht e _ => State.stopOps2_onPath_other ht e.1 e.2 (by simp [hk]) _)

theorem MatState.remark_cop (m : MatState) (v w : Nat) : (m.remark v w).cop = m.cop :=
  List.foldlRecOn (motive := fun n : MatState => n.cop = m.cop) (List.range 6) _ rfl (fun n hn i _ => by
    split
    · exact hn
    · exact hn)

theorem State.setMsts_cop {f : MatState → MatState} (hf : ∀ m, (f m).cop = m.cop) (s : State) (gs : List (Nat × Nat)) (c k : Nat) :
    ((s.setMsts gs f).slot c k).m.cop = (s.slot c k).m.cop :=
  List.foldlRecOn (motive := fun u : State => (u.slot c k).m.cop = (s.slot c k).m.cop) gs _ rfl
    (fun u hu e _ => (u.slot_updSlot_view (v := fun x => x.m.cop) e.1 e.2 c k (f := fun x => { x with m := f x.m })
      (fun x => hf x.m)).trans hu)

theorem State.stopMembers_cop {s : State} {c k : Nat} {o : ComputeOp} (h : (s.slot c k).m.onPath o) (hk : o.kind ≠ .mmg)
    (gc gr : Bool) : ((s.stopMembers c k gc gr).slot c k).m.cop = some o := by
  unfold State.stopMembers
  rw [State.slot_updSlot]
  exact (State.setMsts_cop (fun m => m.remark_cop 1 3) _ _ c k).trans (State.stopGang_onPath h hk _ gc gr).1

/-- A live product of the slot's own ends with CAUSE 10. -/
theorem State.stopMatrix_own {s : State} {c k : Nat} {o : ComputeOp} (h : (s.slot c k).m.onPath o) (hk : o.kind ≠ .mmg)
    (hl : o.live = true) : ((s.stopMatrix c k).slot c k).m.cop = some { o with stat := .stopped 2 } := by
  have hown : ((s.stopOwn c k).slot c k).m.onPath { o with stat := .stopped 2 } := by
    have := State.stopOps2_onPath h (fun o => o.kind != .mmg || o.member == 0) (fun o => !o.gang || o.member == 0)
    rwa [if_pos (by simp [hk]), show o.stat.stop2 = .stopped 2 from if_pos hl] at this
  rw [State.stopMatrix_eq]
  split
  · exact State.stopMembers_cop hown hk _ _
  · exact hown.1

end Sys2Proof.Machine
end

section
/-! SUPPORT. The halt of a stream (R119, R130, R182), and what SSTART and SSTOP leave of their slot (R181, R182). -/

namespace Sys2Proof.Machine

/-! ## The results of a vector stream that halts (R130) -/

theorem Slot.flagNow_congr {x y : Slot} (hf : y.flags = x.flags) (hc : y.flagCyc = x.flagCyc) (n : Nat) : y.flagNow n = x.flagNow n := by
  simp only [Slot.flagNow, Slot.flagCycOf, Slot.flag, hf, hc]

/-- With no signal waiting, results that land change no flag. -/
theorem Slot.flushResults_flags {x : Slot} (h : x.sigs = []) : x.flushResults.sigs = [] ∧ x.flushResults.flagCyc = x.flagCyc := by
  unfold Slot.flushResults
  split
  · exact ⟨h, rfl⟩
  · obtain ⟨v, fp, new, -, he⟩ := x.landDue_runSigs (x.v.inflight.foldl (fun n r => max n r.due) x.v.beat)
    have hs : (x.landed v fp new x.flagCyc x.sigs).sigs = [] := h
    dsimp only
    rw [he, Slot.runSigs_none hs]
    exact ⟨hs, rfl⟩

theorem landLimit_arrived {rs : List InFlight} (h : ∀ r ∈ rs, r.arrived = true) (beat : Nat) : landLimit rs beat = beat + 1 :=
  List.foldlRecOn (motive := fun n => n = beat + 1) rs _ rfl (fun n hn r hr => by rw [h r hr]; exact hn)

theorem InFlight.due_le_last (rs : List InFlight) (n : Nat) :
    n ≤ rs.foldl (fun n r => max n r.due) n ∧ ∀ r ∈ rs, r.due ≤ rs.foldl (fun n r => max n r.due) n := by
  induction rs generalizing n with
  | nil => exact ⟨Nat.le_refl n, fun _ h => absurd h List.not_mem_nil⟩
  | cons r rs ih =>
    obtain ⟨h1, h2⟩ := ih (max n r.due)
    rw [List.foldl_cons]
    exact ⟨by omega, List.forall_mem_cons.2 ⟨by omega, h2⟩⟩

/-- Results whose replies have all come without a fault are all written. -/
theorem Slot.flushResults_inflight {x : Slot} (h : ∀ r ∈ x.v.inflight, r.arrived = true ∧ r.fault = none) :
    x.flushResults.v.inflight = [] := by
  unfold Slot.flushResults
  split
  · next he => exact List.isEmpty_iff.1 he
  · obtain ⟨v, fp, new, hv, he⟩ := x.landDue_runSigs (x.v.inflight.foldl (fun n r => max n r.due) x.v.beat)
    obtain ⟨t, q, hr⟩ := (x.landed v fp new x.flagCyc x.sigs).runSigs_eq
    dsimp only
    rw [he, hr]
    refine hv.trans (List.filter_eq_nil_iff.2 (fun r hr => ?_))
    have hd := (InFlight.due_le_last x.v.inflight x.v.beat).2 r hr
    rw [landLimit_arrived (fun r hr => (h r hr).1), (h r hr).2]
    simp
    omega

/-- A faulting result becomes a held trap, and nothing else changes. -/
theorem Slot.holdDue_eq (x : Slot) : ∃ fl ps, x.holdDue = x.withFlight fl ps ∧ (x.v.inflight = [] → fl = []) := by
  suffices h : ∀ (l fl : List InFlight) (ps : List HeldTrap), ∃ fl' ps', l.foldl (fun (y : Slot) (r : InFlight) =>
      let kept := { y with v := { y.v with inflight := y.v.inflight ++ [r] } }
      match r.fault with
      | some (n, a, el) => if r.due ≤ x.v.beat ∧ r.arrived then y.hold (r.heldFault x.v.beat n a el) else kept
      | none => kept) (x.withFlight fl ps) = x.withFlight fl' ps' ∧ (l = [] → fl' = fl) from h x.v.inflight [] x.trap.pend
  intro l
  induction l with
  | nil => exact fun fl ps => ⟨fl, ps, rfl, fun _ => rfl⟩
  | cons r l ih =>
    intro fl ps
    rw [List.foldl_cons]
    dsimp only
    split
    · split
      · next n a el _ _ =>
        obtain ⟨fl', ps', he, -⟩ := ih fl (holdTrap ps (r.heldFault x.v.beat n a el))
        exact ⟨fl', ps', he, fun h => absurd h (List.cons_ne_nil _ _)⟩
      · obtain ⟨fl', ps', he, -⟩ := ih (fl ++ [r]) ps
        exact ⟨fl', ps', he, fun h => absurd h (List.cons_ne_nil _ _)⟩
    · obtain ⟨fl', ps', he, -⟩ := ih (fl ++ [r]) ps
      exact ⟨fl', ps', he, fun h => absurd h (List.cons_ne_nil _ _)⟩

/-! ## A halt -/

/-- The stream `t` halted. -/
def Stream.halt (t : Stream) : Stream := { t.done with mode := .halted }

/-- `y` is `x` with the stream of class `cls` halted. -/
structure Slot.HaltedFrom (x y : Slot) (cls : Cls) : Prop where
  self : y.strm cls = (x.strm cls).halt
  others : ∀ d, d ≠ cls → d ≠ .net → y.strm d = x.strm d
  flags : y.flags = x.flags
  descs : y.descs = x.descs
  m : y.m = x.m
  sigs : x.sigs = [] → y.sigs = [] ∧ y.flagCyc = x.flagCyc
  plain : cls ≠ .vec → y.v = x.v ∧ y.sigs = x.sigs ∧ y.flagCyc = x.flagCyc

/-- What a change of a stream leaves of signals, flags and the vector file. -/
theorem Slot.setStrm_quiet (x : Slot) (cls : Cls) (t : Stream) : (x.setStrm cls t).flags = x.flags ∧
    (x.setStrm cls t).flagCyc = x.flagCyc ∧ (x.setStrm cls t).sigs = x.sigs ∧ (x.setStrm cls t).v = x.v := by
  cases cls <;> exact ⟨rfl, rfl, rfl, rfl⟩

/-- The vector file drained: flags and streams are as before. -/
theorem Slot.drained_spec (x : Slot) : (∀ d, x.drained.strm d = x.strm d) ∧ x.drained.flags = x.flags ∧ x.drained.descs = x.descs ∧
    x.drained.m = x.m ∧ (x.sigs = [] → x.drained.sigs = [] ∧ x.drained.flagCyc = x.flagCyc) ∧
    ((∀ r ∈ x.v.inflight, r.arrived = true ∧ r.fault = none) → x.drained.v.inflight = []) := by
  obtain ⟨v, fp, new, t, q, hf⟩ := x.flushResults_eq
  obtain ⟨fl, ps, hd, hfl⟩ := x.flushResults.holdDue_eq
  have hsig := fun h => x.flushResults_flags h
  have hin := fun h => x.flushResults_inflight h
  rw [Slot.drained, hd]
  refine ⟨fun d => ?_, ?_, ?_, ?_, hsig, fun h => hfl (hin h)⟩
  · rw [hf]; cases d <;> rfl
  · rw [hf]; rfl
  · rw [hf]; rfl
  · rw [hf]; rfl

theorem Slot.halt_haltedFrom (x : Slot) {cls : Cls} (h : cls ≠ .net) : x.HaltedFrom (x.setStrm cls (x.strm cls).halt) cls := by
  obtain ⟨hf, hc, hs, hv⟩ := x.setStrm_quiet cls (x.strm cls).halt
  obtain ⟨-, -, hd, hm⟩ := x.setStrm_rest cls (x.strm cls).halt
  exact ⟨Slot.strm_setStrm _ _ h, fun d hdc hn => x.strm_setStrm_other _ hdc hn h, hf, hd, hm, fun h0 => ⟨hs.trans h0, hc⟩,
    fun _ => ⟨hv, hs, hc⟩⟩

/-- A vector stream that still awaits replies drains first. -/
theorem Slot.haltStream_waits {x : Slot} (h : ∃ r ∈ x.v.inflight, r.arrived = false) (fs : List Nat) :
    x.haltStream .vec fs = x.setStrm .vec { x.vec.done with mode := .draining (x.vec.owedSigs ++ fs) } := by
  have ha : x.v.inflight.any (fun r => !r.arrived) = true := by simpa using h
  unfold Slot.haltStream
  exact if_pos ⟨rfl, ha⟩

/-- Any other halts at once, and its signals are made. -/
theorem Slot.haltStream_halts {x : Slot} {cls : Cls} (hn : cls ≠ .net) (h : cls ≠ .vec ∨ ¬ ∃ r ∈ x.v.inflight, r.arrived = false)
    (fs : List Nat) : ∃ y, x.HaltedFrom y cls ∧ x.haltStream cls fs = y.signalAll ((x.strm cls).owedSigs ++ fs) ∧
      (cls = .vec → (∀ r ∈ x.v.inflight, r.arrived = true ∧ r.fault = none) → y.v.inflight = []) := by
  have hw : ¬ (cls = .vec ∧ x.v.inflight.any (fun r => !r.arrived) = true) := by
    rintro ⟨hv, ha⟩
    exact h.elim (· hv) (· (by simpa using ha))
  by_cases hv : cls = .vec
  · subst hv
    obtain ⟨d1, d2, d3, d4, d5, d6⟩ := x.drained_spec
    obtain ⟨h1, h2, h3, h4, h5, h6, -⟩ := x.drained.halt_haltedFrom (cls := .vec) nofun
    refine ⟨x.drained.setStrm .vec (x.drained.strm .vec).halt, ⟨h1.trans (by rw [d1]), fun d hd hn => (h2 d hd hn).trans (d1 d),
      h3.trans d2, h4.trans d3, h5.trans d4, fun h0 => ?_, fun h => absurd rfl h⟩, ?_, fun _ => d6⟩
    · obtain ⟨e1, e2⟩ := d5 h0
      exact ⟨(h6 e1).1, (h6 e1).2.trans e2⟩
    · unfold Slot.haltStream
      exact (if_neg hw).trans (if_pos rfl)
  · refine ⟨x.setStrm cls (x.strm cls).halt, x.halt_haltedFrom hn, ?_, fun h => absurd h hv⟩
    unfold Slot.haltStream
    exact (if_neg hw).trans (if_neg hv)

end Sys2Proof.Machine
end

section
/-! Streams start, stop and resume (R27, R38, R41, R42, R130, R181, R182): O41. -/

namespace Sys2Proof.Machine

/-! ## Signals of a halt -/

theorem Slot.signalAll_strm (x : Slot) (fs : List Nat) (cls : Cls) : (x.signalAll fs).strm cls = x.strm cls := by
  obtain ⟨t, h⟩ := x.signalAll_eq fs
  rw [h]
  cases cls <;> rfl

theorem Slot.runSigs_strm (x : Slot) (cls : Cls) : x.runSigs.strm cls = x.strm cls := (Slot.Stops.runSigs x).strm cls

/-- The slot after a stream's halt and the signals that it makes. -/
def Slot.halts (x : Slot) (cls : Cls) (fs : List Nat) : Slot := Slot.runSigs (x.haltStream cls fs)

theorem Slot.halts_rest (x : Slot) (fs : List Nat) {q : List Nat} {y : Slot} {cls : Cls} (h : x.HaltedFrom y cls)
    (he : x.haltStream cls fs = y.signalAll q) : (x.halts cls fs).strm cls = (x.strm cls).halt ∧
      (∀ d, d ≠ cls → d ≠ .net → (x.halts cls fs).strm d = x.strm d) ∧ (x.halts cls fs).descs = x.descs ∧ (x.halts cls fs).m = x.m := by
  obtain ⟨t, q', hr⟩ := (x.haltStream cls fs).runSigs_eq
  obtain ⟨t', hs⟩ := y.signalAll_eq q
  refine ⟨?_, fun d hd hn => ?_, ?_, ?_⟩
  · rw [Slot.halts, Slot.runSigs_strm, he, Slot.signalAll_strm, h.self]
  · rw [Slot.halts, Slot.runSigs_strm, he, Slot.signalAll_strm, h.others d hd hn]
  · rw [Slot.halts, hr, he, hs]; exact h.descs
  · rw [Slot.halts, hr, he, hs]; exact h.m

/-- Where no signal waits, a halt makes its own and no other. -/
theorem Slot.halts_flags {x y : Slot} {cls : Cls} {fs q : List Nat} (h : x.HaltedFrom y cls)
    (he : x.haltStream cls fs = y.signalAll q) (hs : x.sigs = []) (n : Nat) :
    (x.halts cls fs).flagNow n = x.flagNow n + .ofNat 16 (q.count n) := by
  obtain ⟨hy, hc⟩ := h.sigs hs
  obtain ⟨t, ht⟩ := y.signalAll_eq q
  have hsig : (y.signalAll q).sigs = [] := by rw [ht]; exact hy
  rw [Slot.halts, he, Slot.runSigs_none hsig, Slot.signalAll_flagNow, Slot.flagNow_congr h.flags hc]

/-- So it does where those that wait have to go on waiting. -/
theorem Slot.halts_flags_waiting {x y : Slot} {cls : Cls} {fs q : List Nat} (h : x.HaltedFrom y cls)
    (he : x.haltStream cls fs = y.signalAll q) (hv : cls ≠ .vec) (hs : ∀ p ∈ x.sigs, x.sigReady p = false) (n : Nat) :
    (x.halts cls fs).flagNow n = x.flagNow n + .ofNat 16 (q.count n) := by
  obtain ⟨yv, ys, yc⟩ := h.plain hv
  obtain ⟨t, ht⟩ := y.signalAll_eq q
  have hw : ∀ p ∈ (y.signalAll q).sigs, (y.signalAll q).sigReady p = false := by
    intro p hp
    have hr : (y.signalAll q).sigReady p = x.sigReady p := by
      rw [ht]
      unfold Slot.sigReady
      dsimp only
      rw [yv, h.m]
    rw [hr]
    exact hs p (by rw [ht] at hp; exact ys ▸ hp)
  have hf : ((y.signalAll q).runSigs).flags = (y.signalAll q).flags := (Slot.Stops.runSigs _).flags
  rw [Slot.halts, he, Slot.flagNow_congr hf (Slot.runSigs_waiting hw), Slot.signalAll_flagNow, Slot.flagNow_congr h.flags yc]

/-! ## SSTART and SSTOP (R181, R182) -/

/-- The control stream of a slot has issued: what that leaves of the slot. -/
theorem State.advance_ctl (u : State) (c k : Nat) :
    let t := u.advance (.strm c k .ctl) 2
    (t.strm (.strm c k .ctl)).word = (u.slot c k).ctl.word + 2 ∧
    (∀ cls, cls ≠ .ctl → cls ≠ .net → t.strm (.strm c k cls) = (u.slot c k).strm cls) ∧
    (∀ n, (t.slot c k).flagNow n = (u.slot c k).flagNow n) ∧ (t.slot c k).descs = (u.slot c k).descs ∧
    (t.slot c k).m = (u.slot c k).m := by
  intro t
  let r : Stream := { ((u.slot c k).strm .ctl).done with word := ((u.slot c k).strm .ctl).word + 2 }
  have hs : t.slot c k = (u.slot c k).setStrm .ctl r := u.advance_slot c k 2 .ctl
  refine ⟨?_, fun cls hc hn => ?_, fun n => ?_, ?_, ?_⟩
  · show (t.slot c k).ctl.word = _
    rw [hs]
    rfl
  · show (t.slot c k).strm cls = _
    rw [hs]
    exact Slot.strm_setStrm_other _ _ hc hn nofun
  · rw [hs]; rfl
  · rw [hs]; rfl
  · rw [hs]; rfl

section
variable {s : State} {g : Guard} {c k : Nat} (hm : s.agent = .strm c k .ctl) (ha : s.acts s.agent g = true)
include hm ha

theorem exec_sstart (cls : Cls) (line : LineRef) : exec (.sstart g cls line) s = .next (
    if ((s.slot c k).strm cls).mode ≠ .halted then s.block s.agent
    else (s.updSlot c k (fun x => x.setStrm cls ((x.strm cls).start (lineVal s line)))).advance (.strm c k .ctl) 2) := by
  show execSstart g cls line s = _
  rw [execSstart, State.guarded_acts ha, hm]
  rfl

/-- The transfers of the stream end, and the operations of a matrix stream. -/
def State.endWork (s : State) (c k : Nat) (cls : Cls) : State :=
  (if cls = .mat then s.stopMatrix c k else s).letGo c k (fun d => d.holder == some cls && cls != .mat)

theorem exec_sstop (cls : Cls) (sig : Option (BitVec 6)) : exec (.sstop g cls sig) s = .next (
    (if ((s.slot c k).strm cls).mode = .halted then s.updSlot c k (·.signalAll (sig.map (·.toNat)).toList)
     else (s.endWork c k cls).updSlot c k (·.halts cls (sig.map (·.toNat)).toList)).advance (.strm c k .ctl) 2) := by
  show execSstop g cls sig s = _
  rw [execSstop, State.guarded_acts ha, hm]
  rfl

end

theorem State.endWork_stops (s : State) (c k : Nat) (cls : Cls) : s.stops (s.endWork c k cls) := by
  unfold State.endWork
  split
  · exact State.stops_trans (s.stopMatrix_stops c k) (State.letGo_stops _ c k _)
  · exact s.letGo_stops c k _

/-- For a loader or storer only descriptors change. -/
theorem State.endWork_slot (s : State) (c k : Nat) {cls : Cls} (h : cls ≠ .mat) :
    ∃ ds, (s.endWork c k cls).slot c k = { s.slot c k with descs := ds } ∧ ∀ n d, (n, d) ∈ ds → d.holder ≠ some cls := by
  refine ⟨_, by rw [State.endWork, if_neg h, State.letGo, State.slot_updSlot], fun n d hd => ?_⟩
  obtain ⟨⟨m, e⟩, -, he⟩ := List.mem_map.1 hd
  obtain ⟨-, rfl⟩ := Prod.mk.inj he
  by_cases hh : e.holder = some cls
  · have hp : (e.holder.isSome && (e.holder == some cls && cls != .mat)) = true := by simp [hh, h]
    rw [if_pos hp, Desc.letGo_holder]
    exact nofun
  · have hp : ¬ (e.holder.isSome && (e.holder == some cls && cls != .mat)) = true := by simp [hh]
    rw [if_neg hp]
    exact hh

theorem State.endWork_m (s : State) (c k : Nat) : ((s.endWork c k .mat).slot c k).m = ((s.stopMatrix c k).slot c k).m := by
  rw [State.endWork, if_pos rfl, State.letGo, State.slot_updSlot]

section
variable {s : State} {g : Guard} {cls : Cls} {c k : Nat} (hm : s.agent = .strm c k .ctl) (ha : s.acts s.agent g = true)
  (hc : cls ≠ .ctl) (hn : cls ≠ .net)
include hm ha hc hn

theorem sstart_halted {line : LineRef} (h : ((s.slot c k).strm cls).mode = .halted) : ∃ t, exec (.sstart g cls line) s = .next t ∧
    (t.strm s.agent).word = (s.strm s.agent).word + 2 ∧ s.sameBytes t ∧
    t.strm (.strm c k cls) = ((s.slot c k).strm cls).goto (lineVal s line) := by
  obtain ⟨h1, h2, -⟩ := State.advance_ctl (s.updSlot c k (fun x => x.setStrm cls ((x.strm cls).start (lineVal s line)))) c k
  refine ⟨_, by rw [exec_sstart hm ha, if_neg (not_not.2 h)], ?_, ?_, ?_⟩
  · rw [hm, h1, State.slot_updSlot]
    exact congrArg (Stream.word · + 2) (Slot.strm_setStrm_other (d := .ctl) _ _ (Ne.symm hc) nofun hn)
  · exact State.sameBytes_trans (s.updSlot_sameBytes c k _) (State.advance_sameBytes _ _ 2)
  · rw [h2 cls hc hn, State.slot_updSlot]
    exact Slot.strm_setStrm _ _ hn

/-- SSTOP of a stream that is halted only signals. -/
theorem sstop_halted {sig : Option (BitVec 6)} (h : ((s.slot c k).strm cls).mode = .halted) : ∃ t, exec (.sstop g cls sig) s = .next t ∧
    (t.strm s.agent).word = (s.strm s.agent).word + 2 ∧ s.sameBytes t ∧ t.strm (.strm c k cls) = (s.slot c k).strm cls ∧
    ∀ n, (t.slot c k).flagNow n = (s.slot c k).flagNow n + (if sig.map (·.toNat) = some n then 1 else 0) := by
  obtain ⟨h1, h2, h3, -⟩ := State.advance_ctl (s.updSlot c k (·.signalAll (sig.map (·.toNat)).toList)) c k
  refine ⟨_, by rw [exec_sstop hm ha, if_pos h], ?_, ?_, ?_, fun n => ?_⟩
  · rw [hm, h1, State.slot_updSlot]
    exact congrArg (Stream.word · + 2) (Slot.signalAll_strm _ _ .ctl)
  · exact State.sameBytes_trans (s.updSlot_sameBytes c k _) (State.advance_sameBytes _ _ 2)
  · rw [h2 cls hc hn, State.slot_updSlot, Slot.signalAll_strm]
  · rw [h3, State.slot_updSlot, Slot.signalAll_flagNow, count_toList]

/-- SSTOP of any other stream: its slot is `halts` of what the end of its work leaves. -/
theorem sstop_stops {sig : Option (BitVec 6)} (h : ((s.slot c k).strm cls).mode ≠ .halted)
    (hw : (((s.endWork c k cls).slot c k).halts cls (sig.map (·.toNat)).toList).ctl = (s.slot c k).ctl) :
    let y := ((s.endWork c k cls).slot c k).halts cls (sig.map (·.toNat)).toList
    ∃ t, exec (.sstop g cls sig) s = .next t ∧ (t.strm s.agent).word = (s.strm s.agent).word + 2 ∧ s.sameBytes t ∧
      t.strm (.strm c k cls) = y.strm cls ∧ (∀ n, (t.slot c k).flagNow n = y.flagNow n) ∧ (t.slot c k).descs = y.descs ∧
      (t.slot c k).m = y.m := by
  intro y
  obtain ⟨h1, h2, h3, h4, h5⟩ := State.advance_ctl ((s.endWork c k cls).updSlot c k (·.halts cls (sig.map (·.toNat)).toList)) c k
  rw [State.slot_updSlot] at h1 h2 h3 h4 h5
  refine ⟨_, by rw [exec_sstop hm ha, if_neg h], ?_, ?_, h2 cls hc hn, h3, h4, h5⟩
  · rw [hm, h1, hw]
    rfl
  · exact State.sameBytes_trans (s.endWork_stops c k cls).1 (State.sameBytes_trans (State.updSlot_sameBytes _ c k _)
      (State.advance_sameBytes _ _ 2))

end

theorem Stream.owedSigs_none {t : Stream} (h : t.mode = .running ∨ t.mode = .blocked) : t.owedSigs = [] := by
  unfold Stream.owedSigs
  obtain h | h := h <;> rw [h]

/-- SSTOP of a vector stream that awaits replies. -/
theorem Slot.halts_waits {x : Slot} (h : ∃ r ∈ x.v.inflight, r.arrived = false) (fs : List Nat) :
    (x.halts .vec fs).ctl = x.ctl ∧ (x.halts .vec fs).strm .vec = { x.vec.done with mode := .draining (x.vec.owedSigs ++ fs) } ∧
    (x.sigs = [] → ∀ n, (x.halts .vec fs).flagNow n = x.flagNow n) := by
  let z : Stream := { x.vec.done with mode := .draining (x.vec.owedSigs ++ fs) }
  have he : x.halts .vec fs = (x.setStrm .vec z).runSigs := congrArg Slot.runSigs (Slot.haltStream_waits h fs)
  obtain ⟨hf, hc, hs, -⟩ := x.setStrm_quiet .vec z
  rw [he]
  refine ⟨Slot.runSigs_strm _ .ctl, Slot.runSigs_strm _ .vec, fun h0 n => ?_⟩
  rw [Slot.runSigs_none (hs.trans h0)]
  exact Slot.flagNow_congr hf hc n

section
variable {s : State} {g : Guard} {cls : Cls} {c k : Nat} (hm : s.agent = .strm c k .ctl) (ha : s.acts s.agent g = true)
  (hc : cls ≠ .ctl) (hn : cls ≠ .net)
include hm ha hc hn

/-- SSTOP of a stream that halts. -/
theorem sstop_halts {sig : Option (BitVec 6)} (h : ((s.slot c k).strm cls).mode ≠ .halted)
    (hv : cls ≠ .vec ∨ ¬ ∃ r ∈ (s.slot c k).v.inflight, r.arrived = false) :
    let x := s.slot c k
    let old := x.strm cls
    let q := old.owedSigs ++ (sig.map (·.toNat)).toList
    ∃ t, exec (.sstop g cls sig) s = .next t ∧ (t.strm s.agent).word = (s.strm s.agent).word + 2 ∧ s.sameBytes t ∧
      t.strm (.strm c k cls) = old.halt ∧
      (x.sigs = [] → ∀ n, (t.slot c k).flagNow n = x.flagNow n + .ofNat 16 (q.count n)) ∧
      (cls = .ldr ∨ cls = .str → (∀ p ∈ x.sigs, x.sigReady p = false) →
        ∀ n, (t.slot c k).flagNow n = x.flagNow n + .ofNat 16 (q.count n)) ∧
      (cls ≠ .mat → ∀ n d, (n, d) ∈ (t.slot c k).descs → d.holder ≠ some cls) ∧
      (cls = .mat → (t.slot c k).m = ((s.stopMatrix c k).slot c k).m) := by
  intro x old q
  have hst : x.Stops ((s.endWork c k cls).slot c k) := (s.endWork_stops c k cls).2 c k
  obtain ⟨y, hy, he, -⟩ := Slot.haltStream_halts (x := (s.endWork c k cls).slot c k) hn (by rw [hst.v]; exact hv)
    (sig.map (·.toNat)).toList
  obtain ⟨r1, r2, r3, r4⟩ := Slot.halts_rest _ (sig.map (·.toNat)).toList hy he
  obtain ⟨t, ht, hw, hb, h1, h2, h3, h4⟩ := sstop_stops hm ha hc hn (sig := sig) h
    ((r2 .ctl (Ne.symm hc) nofun).trans (hst.strm .ctl))
  have hq : ((s.endWork c k cls).slot c k).strm cls = old := hst.strm cls
  rw [hq] at r1 he
  refine ⟨t, ht, hw, hb, h1.trans r1, fun hs n => ?_, fun hl hs n => ?_, fun hmat n d hd => ?_, fun hmat => ?_⟩
  · rw [h2, Slot.halts_flags hy he (hst.sigs hs).1, Slot.flagNow_congr hst.flags (hst.sigs hs).2]
  · obtain ⟨ds, hds, -⟩ := s.endWork_slot c k (cls := cls) (by rintro rfl; exact hl.elim nofun nofun)
    rw [h2, Slot.halts_flags_waiting hy he (by rintro rfl; exact hl.elim nofun nofun) (by rw [hds]; exact hs), hds]
    rfl
  · obtain ⟨ds, hds, hno⟩ := s.endWork_slot c k hmat
    refine hno n d ?_
    have hdd := h3.trans r3
    rw [hds] at hdd
    rw [hdd] at hd
    exact hd
  · subst hmat
    exact (h4.trans r4).trans (s.endWork_m c k)

theorem sstop_spec (sig : Option (BitVec 6)) :
    let x := s.slot c k
    let old := x.strm cls
    ∃ t, exec (.sstop g cls sig) s = .next t ∧ (t.strm s.agent).word = (s.strm s.agent).word + 2 ∧ s.sameBytes t ∧
      let new := t.strm (.strm c k cls)
      let signals : Prop := ∀ n, (t.slot c k).flagNow n = x.flagNow n + (if sig.map (·.toNat) = some n then 1 else 0)
      let awaits : Prop := ∃ r ∈ x.v.inflight, r.arrived = false
      new.regs = old.regs ∧ new.preds = old.preds ∧
      (old.mode = .halted → new = old ∧ signals) ∧
      (old.mode = .running ∨ old.mode = .blocked →
        (cls = .vec → awaits → new.mode = .draining (sig.map (·.toNat)).toList ∧
          ∀ n, x.sigs = [] → (t.slot c k).flagNow n = x.flagNow n) ∧
        (cls ≠ .vec ∨ ¬ awaits → new.mode = .halted ∧ new.xfer = none) ∧
        (cls = .ldr ∨ cls = .str → (∀ p ∈ x.sigs, x.sigReady p = false) → signals) ∧
        (cls = .mat ∨ (cls = .vec ∧ ¬ awaits) → x.sigs = [] → signals) ∧
        (cls = .ldr ∨ cls = .str → ∀ n d, (n, d) ∈ (t.slot c k).descs → d.holder ≠ some cls) ∧
        (cls = .mat → ∀ o, x.m.cop = some o → o.kind ≠ .mmg → o.live = true → x.m.share = none →
          (t.slot c k).m.cop = some { o with stat := .stopped 2 })) ∧
      (∀ fs, cls = .vec → old.mode = .draining fs → awaits → new.mode = .draining (fs ++ (sig.map (·.toNat)).toList)) := by
  intro x old
  by_cases h : old.mode = .halted
  · obtain ⟨t, ht, hw, hb, h1, h2⟩ := sstop_halted hm ha hc hn (sig := sig) h
    refine ⟨t, ht, hw, hb, by rw [h1], by rw [h1], fun _ => ⟨h1, h2⟩, fun hr => ?_, fun fs _ hd => ?_⟩
    · exact absurd h (by obtain hr | hr := hr <;> rw [hr] <;> exact nofun)
    · exact absurd h (by rw [hd]; exact nofun)
  by_cases hv : cls = .vec ∧ ∃ r ∈ x.v.inflight, r.arrived = false
  · obtain ⟨rfl, hr⟩ := hv
    have hst : x.Stops ((s.endWork c k .vec).slot c k) := (s.endWork_stops c k .vec).2 c k
    obtain ⟨w1, w2, w3⟩ := Slot.halts_waits (x := (s.endWork c k .vec).slot c k) (by rw [hst.v]; exact hr) (sig.map (·.toNat)).toList
    obtain ⟨t, ht, hw, hb, h1, h2, -⟩ := sstop_stops hm ha hc hn (sig := sig) h (w1.trans (hst.strm .ctl))
    have hvec : ((s.endWork c k .vec).slot c k).vec = old := hst.strm .vec
    have hnew := h1.trans w2
    rw [hvec] at hnew
    refine ⟨t, ht, hw, hb, by rw [hnew]; rfl, by rw [hnew]; rfl, fun hh => absurd hh h, fun hrun => ⟨fun _ _ => ⟨?_, fun n hs => ?_⟩,
      fun hh => absurd hh ?_, fun hh => ?_, fun hh => ?_, fun hh => ?_, fun hh => ?_⟩, fun fs _ hd _ => ?_⟩
    · rw [hnew, Stream.owedSigs_none hrun]; rfl
    · rw [h2, w3 (hst.sigs hs).1, Slot.flagNow_congr hst.flags (hst.sigs hs).2]
    · exact fun hh => hh.elim (· rfl) (· hr)
    · exact hh.elim nofun nofun
    · exact hh.elim nofun (fun hh => absurd hr hh.2)
    · exact hh.elim nofun nofun
    · exact nomatch hh
    · rw [hnew, Stream.owedSigs, hd]
  · have hv' : cls ≠ .vec ∨ ¬ ∃ r ∈ x.v.inflight, r.arrived = false := not_and_or.1 hv
    obtain ⟨t, ht, hw, hb, h1, h2, h3, h4, h5⟩ := sstop_halts hm ha hc hn (sig := sig) h hv'
    refine ⟨t, ht, hw, hb, by rw [h1]; rfl, by rw [h1]; rfl, fun hh => absurd hh h, fun hrun => ⟨fun e r => absurd ⟨e, r⟩ hv,
      fun _ => by rw [h1]; exact ⟨rfl, rfl⟩, fun hl hs n => ?_, fun _ hs n => ?_, fun hl => h4 ?_, fun e o ho hk hlive hsh => ?_⟩,
      fun fs e _ r => absurd ⟨e, r⟩ hv⟩
    · rw [h3 hl hs n, Stream.owedSigs_none hrun, List.nil_append, count_toList]
    · rw [h2 hs n, Stream.owedSigs_none hrun, List.nil_append, count_toList]
    · rintro rfl
      exact hl.elim nofun nofun
    · rw [h5 e]
      exact State.stopMatrix_own ⟨ho, hsh⟩ hk hlive

end

/-! ## A vector stream that has drained (R130) -/

theorem exec_unblock_draining {s : State} {c k : Nat} {fs : List Nat} (h : (s.slot c k).vec.mode = .draining fs) :
    exec (.streamUnblock (.strm c k .vec)) s = .next (
      if (s.slot c k).v.inflight.any (fun r => !r.arrived) then s
      else s.updSlot c k (fun x => Slot.haltStream (x.setStrm .vec { x.vec with mode := .running }) .vec fs)) := by
  have h' : (s.strm (.strm c k .vec)).mode = .draining fs := h
  show execStreamUnblock (.strm c k .vec) s = _
  unfold execStreamUnblock
  rw [h']
  rfl

/-- The draining stream resumed for its halt. -/
def Slot.resumed (x : Slot) : Slot := x.setStrm .vec { x.vec with mode := .running }

theorem unblock_drained {s : State} {c k : Nat} {fs : List Nat} (h : (s.slot c k).vec.mode = .draining fs)
    (hr : ∀ r ∈ (s.slot c k).v.inflight, r.arrived = true ∧ r.fault = none) :
    ∃ t, exec (.streamUnblock (.strm c k .vec)) s = .next t ∧ (t.strm (.strm c k .vec)).mode = .halted ∧
      (t.slot c k).v.inflight = [] ∧ s.sameBytes t ∧
      ((s.slot c k).sigs = [] → ∀ n, (t.slot c k).flagNow n = (s.slot c k).flagNow n + .ofNat 16 (fs.count n)) := by
  have hno : ¬ ∃ r ∈ (s.slot c k).v.inflight, r.arrived = false := by
    rintro ⟨r, hm, ha⟩
    rw [(hr r hm).1] at ha
    exact Bool.noConfusion ha
  have hany : ¬ (s.slot c k).v.inflight.any (fun r => !r.arrived) = true := fun h => hno (by simpa using h)
  obtain ⟨y, hy, he, hin⟩ := Slot.haltStream_halts (x := (s.slot c k).resumed) (cls := .vec) nofun (.inr hno) fs
  obtain ⟨t, ht⟩ := y.signalAll_eq (((s.slot c k).resumed.strm .vec).owedSigs ++ fs)
  have hslot : (s.updSlot c k (fun x => x.resumed.haltStream .vec fs)).slot c k = y.signalAll fs := (s.slot_updSlot c k _).trans he
  have hq : y.signalAll fs = { y with flagCyc := t } := ht
  refine ⟨s.updSlot c k (fun x => x.resumed.haltStream .vec fs), by rw [exec_unblock_draining h, if_neg hany]; rfl, ?_, ?_,
    s.updSlot_sameBytes c k _, fun hs n => ?_⟩
  · show (((s.updSlot c k (fun x => x.resumed.haltStream .vec fs)).slot c k).strm .vec).mode = _
    rw [hslot, Slot.signalAll_strm, hy.self]
    rfl
  · rw [hslot, hq]
    exact hin rfl hr
  · rw [hslot, Slot.signalAll_flagNow, Slot.flagNow_congr (x := s.slot c k) hy.flags (hy.sigs hs).2]

/-! ## Lines and instructions tried again -/

/-- A line that a stream reaches, and the wait of its link word (R41, R42). -/
theorem lineAdvance_spec (s : State) {a : Agent} (hr : realAgent a = true) :
    let t := s.strm a
    let l := if t.word = 0 then t.line else nextLine t.line (s.nextOf a)
    let first : Prop := 16 ≤ t.word ∨ t.reached = false
    let plane := if 16 ≤ t.word ∨ t.reached = false then s.planeOf a else t.plane
    let w := s.codeWord a plane l 0
    let held : Prop := linkWaits w = true ∧ (t.word = 0 → t.passed = false) ∧ ((s.own a).flag (linkFlag w)).toNat < linkVal w
    t.word = 0 ∨ (16 ≤ t.word ∧ s.nextOf a ≠ 0) → (first → s.reachFault a l = none) →
      ∃ u, exec (.lineAdvance a) s = .next u ∧ (u.strm a).line = l ∧ (u.strm a).plane = plane ∧ (u.strm a).reached = true ∧
        (u.strm a).regs = t.regs ∧ (u.strm a).preds = t.preds ∧ s.sameBytes u ∧
        (¬ held → (u.strm a).word = 1 ∧ (u.strm a).mode = .running) ∧
        (held → (u.strm a).word = 0 ∧ (u.strm a).mode = .blocked) := by
  intro t l first plane w held hw hf
  obtain hw | ⟨hw, hn⟩ := hw
  · have hl : l = t.line := if_pos hw
    have hp : plane = if t.reached = false then s.planeOf a else t.plane := by simp [plane, hw]
    have hh : held ↔ s.linkHolds a w t.passed := by simp [held, State.linkHolds, hw]
    obtain ⟨hb, hm⟩ := State.reach_spec hr hp (fun h => hl ▸ hf (.inr h))
    rw [show (s.strm a).line = l from hl.symm] at hm
    exact ⟨_, exec_lineAdvance_start hw, hm.line.trans hl.symm, hm.plane, hm.reached, hm.regs, hm.preds, hb,
      fun h => hm.goes (mt hh.2 h), fun h => ⟨(hm.stays (hh.1 h)).1.trans hw, (hm.stays (hh.1 h)).2⟩⟩
  · have h0 : t.word ≠ 0 := by omega
    have hl : l = nextLine t.line (s.nextOf a) := if_neg h0
    have hp : plane = s.planeOf a := if_pos (.inl hw)
    have hh : held ↔ s.linkHolds a w false := by simp [held, State.linkHolds, h0]
    obtain ⟨hb, hm⟩ := s.toLine_spec hr (hf (.inl hw))
    rw [← hp] at hm
    refine ⟨_, by rw [exec_lineAdvance_end hw, if_neg hn, ← hl], hm.line, hm.plane, hm.reached, hm.regs, hm.preds, hb,
      fun h => hm.goes (mt hh.2 h), fun h => hm.stays (hh.1 h)⟩

/-- A blocked stream tries again the instruction at which it stands (R27, R38). -/
theorem unblock_instr {s : State} {a : Agent} {i : Instr} (hb : (s.strm a).mode = .blocked) (hx : (s.strm a).xfer = none)
    (hl : (s.strm a).inLine = true) (hd : s.decodeAt a = .ok i) (hi : i.short?.isSome ∨ i.long?.isSome) :
    ∃ t, exec i { s with agent := a } = .next t ∧
      (s.mayNot a = false → exec (.streamUnblock a) s = .next t) ∧
      (s.mayNot a = true → (t.strm a).mode ≠ .blocked → exec (.streamUnblock a) s =
        .next (s.updStrm a (fun u => { u with mode := .running, passed := (t.strm a).passed }))) ∧
      (s.mayNot a = false → realAgent a = true → ∀ g f lit v, i = .fwait g f lit v → s.acts a g = true →
        v.toNat ≤ ((s.own a).flag f.toNat).toNat →
        (t.strm a).mode = .running ∧ (t.strm a).word = (s.strm a).word + (if lit = true then 3 else 2)) := by
  obtain ⟨t, ht⟩ := exec_next i { s with agent := a }
  have hretry : State.retry { s with agent := a } a = t := State.retry_instr (s := { s with agent := a }) hx hl hd hi ht
  refine ⟨t, ht, fun hm => by rw [exec_unblock_now hb hm, hretry], fun hm hne => by rw [exec_unblock hb, hretry, if_pos hm, if_neg hne],
    fun _ hr g f lit v hf ha hv => ?_⟩
  subst hf
  rw [exec_fwait_on (s := { s with agent := a }) ha hv lit] at ht
  cases ht
  rw [State.advance_strm_real _ hr]
  exact ⟨rfl, rfl⟩

/-! ## The whole -/

/-- Settles O41: lines by the wait that they meet, stops by the halt of their stream, resumptions by what is tried again. -/
theorem streamsStartStopAndResume : Obligations.StreamsStartStopAndResume := by
  refine ⟨?_, ?_, ?_, fun s a hb hm hx => ?_, ?_⟩
  · intro s g cls line sig c k hm ha hc hn x old l
    refine ⟨fun h => by rw [exec_sstart hm ha, if_pos h], fun h => ?_, sstop_spec hm ha hc hn sig⟩
    obtain ⟨t, ht, hw, hb, hs⟩ := sstart_halted hm ha hc hn (line := line) h
    refine ⟨t, ht, hw, hb, ?_⟩
    rw [hs]
    refine ⟨rfl, ?_, rfl, rfl, rfl, rfl, rfl, rfl⟩
    cases line <;> rfl
  · intro s a hr t l first plane w held
    refine ⟨lineAdvance_spec s hr, fun hw hre n hf => ?_, fun hw hn n hf => ?_, fun hw hn => ?_, fun hb hm hx hw hre => ?_⟩
    · rw [show l = t.line from if_pos hw] at hf
      rw [exec_lineAdvance_start hw, State.reach_fault hre hf]
    · have hl : l = nextLine t.line (s.nextOf a) := if_neg (by omega)
      have hs := s.strm_updStrm_real hr (Stream.toLine l)
      rw [exec_lineAdvance_end hw, if_neg hn, ← hl, State.reach_fault (n := n) (by rw [hs]; rfl)
        (by rw [hs, State.reachFault_updStrm]; exact hf)]
      rfl
    · rw [exec_lineAdvance_end hw, if_pos hn]
    · have hl : l = t.line := if_pos hw
      have hp : plane = if t.reached = false then s.planeOf a else t.plane := by simp [plane, hw]
      have hh : held ↔ s.linkHolds a w t.passed := by simp [held, State.linkHolds, hw]
      obtain ⟨hby, hmet⟩ := State.reach_spec (s := { s with agent := a }) hr hp (fun h => Bool.noConfusion (hre.symm.trans h))
      rw [show (State.strm { s with agent := a } a).line = l from hl.symm] at hmet
      refine ⟨_, by rw [exec_unblock_now hb hm, State.retry_line (s := { s with agent := a }) hx hw], hby,
        fun h => hmet.goes (mt hh.2 h), fun h => ⟨(hmet.stays (hh.1 h)).1.trans hw, (hmet.stays (hh.1 h)).2⟩⟩
  · exact fun s a i hb hx hl hd hi => unblock_instr hb hx hl hd hi
  · rw [exec_unblock_now hb hm]
    exact State.retry_xfer (s := { s with agent := a }) hx
  · intro s c k fs h x a
    refine ⟨fun hr => ?_, unblock_drained h⟩
    rw [exec_unblock_draining h, if_pos (by simpa using hr)]

end Sys2Proof.Machine
end

section
/-! SUPPORT. The words of the short forms and the fields of the long and literal forms of classes 000 to 011, read back as they
are written (R45 to R60). -/

namespace Sys2Proof

/-! ## Short forms (R46, R47) -/

/-- The fields of a short A word in register form (R46). -/
theorem encSA_fields (maj : BitVec 6) (d a b : BitVec 5) :
    let w := encSA maj d a b
    w.extractLsb' 0 2 = 0 ∧ w.extractLsb' 2 6 = maj ∧ w.extractLsb' 8 5 = d ∧ w.extractLsb' 13 5 = a ∧
      w.extractLsb' 18 5 = b ∧ w.extractLsb' 23 9 = 0 := by
  intro w
  obtain ⟨x, hx, ex⟩ : ∃ x : BitVec (9 + 5 + 5 + 5 + 6 + 2), (w : BitVec 32) = x ∧
    x = (0#9) ++ b ++ a ++ d ++ maj ++ (0#2) := ⟨_, rfl, rfl⟩
  rw [hx]
  subst ex
  simp (disch := omega) only [extract_hi, extract_lo, Nat.reduceSub, extract_all, and_self, BitVec.ofNat_eq_ofNat]

/-- The fields of a short A word with an immediate (R46). -/
theorem encSAI_fields (maj : BitVec 6) (d a : BitVec 5) (i : BitVec 14) :
    let w := encSAI maj d a i
    w.extractLsb' 0 2 = 0 ∧ w.extractLsb' 2 6 = maj ∧ w.extractLsb' 8 5 = d ∧ w.extractLsb' 13 5 = a ∧
      w.extractLsb' 23 9 ++ w.extractLsb' 18 5 = i := by
  intro w
  obtain ⟨x, hx, ex⟩ : ∃ x : BitVec (9 + 5 + 5 + 5 + 6 + 2), (w : BitVec 32) = x ∧
    x = i.extractLsb' 5 9 ++ i.extractLsb' 0 5 ++ a ++ d ++ maj ++ (0#2) := ⟨_, rfl, rfl⟩
  rw [hx]
  subst ex
  have hi : (i.extractLsb' 5 9 ++ i.extractLsb' 0 5 : BitVec 14) = i := by
    rw [BitVec.extractLsb'_append_extractLsb'_eq_extractLsb' (by omega)]; exact extract_all i
  simp (disch := omega) only [extract_hi, extract_lo, Nat.reduceSub, extract_all, true_and, BitVec.ofNat_eq_ofNat]
  exact hi

/-- The fields of a short B word (R47). -/
theorem encSB_fields (maj : BitVec 6) (d : BitVec 5) (i : BitVec 19) :
    let w := encSB maj d i
    w.extractLsb' 0 2 = 1 ∧ w.extractLsb' 2 6 = maj ∧ w.extractLsb' 8 5 = d ∧ w.extractLsb' 13 19 = i := by
  intro w
  obtain ⟨x, hx, ex⟩ : ∃ x : BitVec (19 + 5 + 6 + 2), (w : BitVec 32) = x ∧ x = i ++ d ++ maj ++ (1#2) := ⟨_, rfl, rfl⟩
  rw [hx]
  subst ex
  simp (disch := omega) only [extract_hi, extract_lo, Nat.reduceSub, extract_all, and_self, BitVec.ofNat_eq_ofNat]

theorem decode_shortA {cls : Option Cls} {w : Word} {o : OpDec} (h : w.extractLsb' 0 2 = 0) (ho : decShortA w = some o) :
    decode cls [w] = check cls o := by
  simp [decode, h, ho]

theorem decode_shortB {cls : Option Cls} {w : Word} {o : OpDec} (h : w.extractLsb' 0 2 = 1) (ho : decShortB w = some o) :
    decode cls [w] = check cls o := by
  simp [decode, h, ho]

/-- A short A instruction of registers comes back, when its major code `maj` is listed with it. -/
theorem decode_encSA {maj : BitVec 6} {d a b : BitVec 5} {mk : BitVec 5 → BitVec 5 → BitVec 5 → Instr} {ss : List Cls}
    (hm : ∀ w : Word, w.extractLsb' 2 6 = maj → decShortA w = some (short ss (w.extractLsb' 23 9 == 0)
      (mk (w.extractLsb' 8 5) (w.extractLsb' 13 5) (w.extractLsb' 18 5)))) (hw : (mk d a b).wf = true) :
    decode none [encSA maj d a b] = .ok (mk d a b) := by
  obtain ⟨hk, hj, hd, ha, hb, hz⟩ := encSA_fields maj d a b
  rw [decode_shortA hk (hm _ hj), hd, ha, hb, hz]
  exact check_ok _ _ rfl hw rfl rfl rfl

/-- A short A instruction with an immediate comes back. -/
theorem decode_encSAI {maj : BitVec 6} {d a : BitVec 5} {i : BitVec 14} {mk : BitVec 5 → BitVec 5 → BitVec 14 → Instr}
    {ss : List Cls} (hm : ∀ w : Word, w.extractLsb' 2 6 = maj → decShortA w = some (short ss true
      (mk (w.extractLsb' 8 5) (w.extractLsb' 13 5) (w.extractLsb' 23 9 ++ w.extractLsb' 18 5)))) (hw : (mk d a i).wf = true) :
    decode none [encSAI maj d a i] = .ok (mk d a i) := by
  obtain ⟨hk, hj, hd, ha, hi⟩ := encSAI_fields maj d a i
  rw [decode_shortA hk (hm _ hj), hd, ha, hi]
  exact check_ok _ _ rfl hw rfl rfl rfl

/-- A short B instruction comes back, when its reserved bits are 0. -/
theorem decode_encSB {maj : BitVec 6} {d : BitVec 5} {i : BitVec 19} {c5 : BitVec 5 → BitVec 19 → Bool}
    {mk : BitVec 5 → BitVec 19 → Instr} {ss : List Cls} (hm : ∀ w : Word, w.extractLsb' 2 6 = maj →
      decShortB w = some (short ss (c5 (w.extractLsb' 8 5) (w.extractLsb' 13 19)) (mk (w.extractLsb' 8 5) (w.extractLsb' 13 19))))
    (h5 : c5 d i = true) (hw : (mk d i).wf = true) : decode none [encSB maj d i] = .ok (mk d i) := by
  obtain ⟨hk, hj, hd, hi⟩ := encSB_fields maj d i
  rw [decode_shortB hk (hm _ hj), hd, hi]
  exact check_ok _ _ rfl hw h5 rfl rfl

/-- The 16 bits of a short flag instruction stand in its immediate, below three zero bits. -/
theorem flag_imm (v : BitVec 16) : (v.setWidth 19).setWidth 16 = v ∧ (v.setWidth 19).extractLsb' 16 3 = 0 := by
  constructor
  · exact set_set v (by omega)
  · apply BitVec.eq_of_getLsbD_eq
    intro i hi
    simp

theorem decode_encSB_flag {maj : BitVec 6} {f : BitVec 5} {v : BitVec 16} {mk : BitVec 5 → BitVec 16 → Instr} {ss : List Cls}
    (hm : ∀ w : Word, w.extractLsb' 2 6 = maj → decShortB w = some (short ss ((w.extractLsb' 13 19).extractLsb' 16 3 == 0)
      (mk (w.extractLsb' 8 5) ((w.extractLsb' 13 19).setWidth 16)))) (hw : (mk f v).wf = true) :
    decode none [encSB maj f (v.setWidth 19)] = .ok (mk f v) := by
  obtain ⟨hv, hz⟩ := flag_imm v
  have h := decode_encSB (c5 := fun _ i => i.extractLsb' 16 3 == 0) (mk := fun d i => mk d (i.setWidth 16)) (d := f) hm
    (beq_iff_eq.2 hz) (by rw [hv]; exact hw)
  rwa [hv] at h

/-- The short forms come back (R46, R47, R59, R60). -/
theorem decode_encode_short (i : Instr) (h : i.short?.isSome = true) (hw : i.wf = true) :
    decode none (encode i) = .ok i.decoded := by
  cases i with
  | nop => rfl
  | addShortReg | subShortReg | mulShortReg | andShortReg | orShortReg | xorShortReg | shlShortReg | shrShortReg | sraShortReg
  | minShortReg | maxShortReg | vaddBf16Short | vsubBf16Short | vmulBf16Short | vminBf16Short | vmaxBf16Short | fmaBf16Short
  | vaddFp32Short | vmulFp32Short | fmaFp32Short =>
    exact decode_encSA (fun w h => by rw [decShortA, h]; rfl) hw
  | vmovBf16Short d a =>
    obtain ⟨hk, hj, hd, ha, hb, hz⟩ := encSA_fields 0x26 d a 0
    exact (decode_shortA hk (by rw [decShortA, hj, hd, ha, hb, hz]; rfl)).trans (check_ok _ _ rfl hw rfl rfl rfl)
  | addShortImm | andShortImm | orShortImm | xorShortImm | shlShortImm | shrShortImm | sraShortImm =>
    exact decode_encSAI (fun w h => by rw [decShortA, h]; rfl) hw
  | brShort | bloopShort =>
    exact decode_encSB (c5 := fun d _ => d == 0) (mk := fun _ => _) (fun w h => by rw [decShortB, h]; rfl) rfl hw
  | callShort | moviShort | addShortB =>
    exact decode_encSB (c5 := fun _ _ => true) (fun w h => by rw [decShortB, h]; rfl) rfl hw
  | fwaitShort | fsigShort => exact decode_encSB_flag (fun w h => by rw [decShortB, h]; rfl) hw
  | _ => cases h

/-! ## Long and literal forms -/

theorem encode_long {i : Instr} {l : Long} (h : i.long? = some l) : encode i = l.words := by
  have hs : i.short? = none := by
    cases i <;> cases h <;> rfl
  simp [encode, hs, h]

/-- A well-formed instruction comes back from a long or literal word of its opcode, when no reserved field is set and no
field is beyond its kind. -/
theorem decodeLong_ok {l : Long} {o : OpDec} {i : Instr} (ho : opDec none l = some o) (hi : o.ins = i) (hw : i.wf = true)
    (h5 : o.c5 = true) (h6 : o.c6 = true) (hf : o.form = true) : decodeLong none l = .ok i := by
  rw [decodeLong, ho]
  exact check_ok o i hi hw h5 h6 hf

section fields
variable (f : BitVec 5) (d b a : BitVec 10) (g : Guard) (o : BitVec 10) (m : BitVec 4) (c : BitVec 8) (t : Option Word)

@[simp] theorem Long.d6_mk : (Long.mk f d g o m c b a t).d6 = d.setWidth 6 := rfl
@[simp] theorem Long.a6_mk : (Long.mk f d g o m c b a t).a6 = a.setWidth 6 := rfl
@[simp] theorem Long.b6_mk : (Long.mk f d g o m c b a t).b6 = b.setWidth 6 := rfl
@[simp] theorem Long.c6_mk : (Long.mk f d g o m c b a t).c6 = c.setWidth 6 := rfl
@[simp] theorem Long.d4_mk : (Long.mk f d g o m c b a t).d4 = d.setWidth 4 := rfl
@[simp] theorem Long.a4_mk : (Long.mk f d g o m c b a t).a4 = a.setWidth 4 := rfl
@[simp] theorem Long.b4_mk : (Long.mk f d g o m c b a t).b4 = b.setWidth 4 := rfl
@[simp] theorem Long.isLit_mk : (Long.mk f d g o m c b a t).isLit = t.isSome := rfl
@[simp] theorem Long.litB0_mk : (Long.mk f d g o m c b a t).litB0 = (!t.isSome || b == 0) := rfl
@[simp] theorem Long.srcFits_mk : (Long.mk f d g o m c b a t).srcFits = (t.isSome || fits 6 b) := rfl
@[simp] theorem Long.src_mk_none : (Long.mk f d g o m c b a none).src = .reg (b.setWidth 6) := rfl
@[simp] theorem Long.src_mk_some (w : Word) : (Long.mk f d g o m c b a (some w)).src = .lit w := rfl
@[simp] theorem Long.nsrc_mk_none : (Long.mk f d g o m c b a none).nsrc = .imm b := rfl
@[simp] theorem Long.nsrc_mk_some (w : Word) : (Long.mk f d g o m c b a (some w)).nsrc = .lit w := rfl
@[simp] theorem Long.litW_mk_some (w : Word) : (Long.mk f d g o m c b a (some w)).litW = w := rfl
@[simp] theorem Long.fmc0_mk : (Long.mk f d g o m c b a t).fmc0 = (f == 0 && m == 0 && c == 0) := rfl
@[simp] theorem Long.fm0_mk : (Long.mk f d g o m c b a t).fm0 = (f == 0 && m == 0) := rfl
@[simp] theorem Long.f27_mk : (Long.mk f d g o m c b a t).f27 = f.getLsbD 0 := rfl
@[simp] theorem Long.f28_mk : (Long.mk f d g o m c b a t).f28 = f.getLsbD 1 := rfl
@[simp] theorem Long.f31_mk : (Long.mk f d g o m c b a t).f31 = f.getLsbD 4 := rfl
@[simp] theorem Long.round_mk : (Long.mk f d g o m c b a t).round = f.extractLsb' 2 3 := rfl
@[simp] theorem Long.ty11_mk : (Long.mk f d g o m c b a t).ty11 = vtypeOf (f.setWidth 2) := rfl
end fields

@[simp] theorem fits_6_10 (x : BitVec 6) : fits 6 (x.setWidth 10) = true := fits_set x (by omega)
@[simp] theorem fits_4_10 (x : BitVec 4) : fits 4 (x.setWidth 10) = true := fits_set x (by omega)
@[simp] theorem fits_6_8 (x : BitVec 6) : fits 6 (x.setWidth 8) = true := fits_set x (by omega)
@[simp] theorem fits_zero (n k : Nat) : fits k 0#n = true := by simp [fits]

/-- A value of 16 bits leaves the upper half of its literal zero (R117). -/
@[simp] theorem literal_upper (v : BitVec 16) : (v.setWidth 32).extractLsb' 16 16 = 0#16 := by
  apply BitVec.eq_of_getLsbD_eq
  intro i hi
  simp

/-- `{C, B}` of a long word (R48). -/
@[simp] theorem extract_cb {n : Nat} (x : BitVec (n + 10)) : x.extractLsb' 10 n ++ x.extractLsb' 0 10 = x := by
  rw [BitVec.extractLsb'_append_extractLsb'_eq_extractLsb' (by omega)]
  exact extract_all x

/-- The opcode map at class 000 and at class 001 (R56). -/
theorem opDec_scalar {l : Long} {o : OpDec} (opc : BitVec 10) (h : l.opc = opc) (hc : (opc.extractLsb' 7 3).toNat = 0)
    (ho : decScalar l (opc.extractLsb' 0 7).toNat = some o) : opDec none l = some o := by
  rw [opDec, h, hc]; exact ho

theorem opDec_control {l : Long} {o : OpDec} (opc : BitVec 10) (h : l.opc = opc) (hc : (opc.extractLsb' 7 3).toNat = 1)
    (ho : decControl none l (opc.extractLsb' 0 7).toNat = some o) : opDec none l = some o := by
  rw [opDec, h, hc]; exact ho

theorem opDec_axis {l : Long} {o : OpDec} (opc : BitVec 10) (h : l.opc = opc) (hc : (opc.extractLsb' 7 3).toNat = 3)
    (ho : decAxis l (opc.extractLsb' 0 7).toNat = some o) : opDec none l = some o := by
  rw [opDec, h, hc]; exact ho

theorem decodeLong_alu {opc : BitVec 10} {mk : Guard → BitVec 6 → BitVec 6 → Src → Instr} {g : Guard} {d a : BitVec 6} {b : Src}
    (ho : ∀ l : Long, l.opc = opc → opDec none l = some (decAlu mk l)) (hw : (mk g d a b).wf = true) :
    decodeLong none (encAlu opc g d a b) = .ok (mk g d a b) := by
  have hl : (encAlu opc g d a b).opc = opc := by cases b <;> rfl
  rw [decodeLong, ho _ hl]
  exact rt_alu mk opc g d a b hw

theorem decodeLong_encDA {opc : BitVec 10} {mk : Guard → BitVec 6 → BitVec 6 → Instr} {ss : List Cls} {g : Guard} {d a : BitVec 6}
    (ho : ∀ l : Long, l.opc = opc → opDec none l = some (decDA ss mk l)) (hw : (mk g d a).wf = true) :
    decodeLong none (encDA opc g d a) = .ok (mk g d a) := by
  refine decodeLong_ok (ho _ rfl) ?_ hw ?_ ?_ rfl <;> simp [decDA, encDA, Long.zero]

theorem decodeLong_bfield {opc : BitVec 10} {mk : Guard → BitVec 6 → BitVec 6 → BField → Instr} {g : Guard} {d a : BitVec 6}
    {x : BField} (ho : ∀ l : Long, l.opc = opc → opDec none l = some (decBField mk l)) (hw : (mk g d a x).wf = true) :
    decodeLong none (encBField opc g d a x) = .ok (mk g d a x) := by
  have hl : (encBField opc g d a x).opc = opc := by cases x <;> rfl
  refine decodeLong_ok (ho _ hl) ?_ hw ?_ ?_ rfl <;> cases x <;> simp [decBField, encBField, encDA, Long.zero]

theorem decodeLong_flag {opc : BitVec 10} {mk : Guard → BitVec 6 → Bool → BitVec 16 → Instr} {g : Guard} {f : BitVec 6}
    {lit : Bool} {v : BitVec 16} (ho : ∀ l : Long, l.opc = opc → opDec none l = some (decFlag mk l))
    (hw : (mk g f lit v).wf = true) : decodeLong none (encFlag opc g f lit v) = .ok (mk g f lit v) := by
  have hl : (encFlag opc g f lit v).opc = opc := by cases lit <;> rfl
  have hv : v.extractLsb' 10 6 ++ v.extractLsb' 0 10 = v := extract_cb (n := 6) v
  refine decodeLong_ok (ho _ hl) ?_ hw ?_ ?_ rfl <;> cases lit <;> simp [decFlag, encFlag, Long.zero, hv]

/-- FUNC of MOVI: HI and ZX (R105). -/
theorem movi_func (hi zx : Bool) : let f := bit 1 hi ||| bit 0 zx
    f[1] = hi ∧ f[0] = zx ∧ f.extractLsb' 2 3 = 0 := by
  revert hi zx; decide

/-- A count in the ten bits of field B. -/
theorem waitb_field {n : BitVec 16} (h : n.toNat < 1024) : (n.setWidth 10).setWidth 16 = n := by
  apply BitVec.eq_of_toNat_eq
  simp
  omega

theorem vtypeOf_code (ty : VType) : vtypeOf ty.code = ty := by cases ty <;> rfl

/-- The opcode of family `fam` and type `ty` (R57). -/
theorem encV_opc {fam : Nat} (hf : fam < 32) (x : VArgs) :
    let o := (encV fam x).opc
    (o.extractLsb' 7 3).toNat = 2 ∧ (o.extractLsb' 0 7).toNat / 4 = fam ∧ o.getLsbD 1 = x.ty.isInt ∧
      vtypeOf (o.setWidth 2) = x.ty := by
  intro o
  have ho : o.toNat = 0x100 + 4 * fam + x.ty.code.toNat := by
    have := x.ty.code.isLt
    have : o = BitVec.ofNat 10 (0x100 + 4 * fam + x.ty.code.toNat) := rfl
    rw [this, BitVec.toNat_ofNat, Nat.mod_eq_of_lt (by omega)]
  have h2 : o.setWidth 2 = x.ty.code := by
    apply BitVec.eq_of_toNat_eq
    rw [BitVec.toNat_setWidth, ho]
    omega
  have hc := x.ty.code.isLt
  refine ⟨?_, ?_, ?_, by rw [h2, vtypeOf_code]⟩
  · simp [BitVec.extractLsb'_toNat, ho, Nat.shiftRight_eq_div_pow]
    omega
  · simp [BitVec.extractLsb'_toNat, ho]
    omega
  · have : o.getLsbD 1 = (o.setWidth 2).getLsbD 1 := by simp
    rw [this, h2]
    cases x.ty <;> rfl

theorem opDec_elem {l : Long} {fam : Nat} {o : OpDec} (hc : (l.opc.extractLsb' 7 3).toNat = 2)
    (hn : (l.opc.extractLsb' 0 7).toNat / 4 = fam) (ho : decElem l fam = some o) : opDec none l = some o := by
  subst hn
  rw [opDec, hc]; exact ho

/-- FUNC of a class 010 word: ROUND, AQ and BQ (R51). -/
theorem func_fields (r : BitVec 3) (p q : Bool) : let f := r ++ BitVec.ofBool p ++ BitVec.ofBool q
    f.extractLsb' 2 3 = r ∧ f[1] = p ∧ f[0] = q := by
  revert r p q; decide

/-- The operands of a class 010 instruction come back from its word. -/
theorem vargs_encV {fam : Nat} (hf : fam < 32) (x : VArgs) : (encV fam x).vargs = x := by
  obtain ⟨-, -, -, ht⟩ := encV_opc hf x
  obtain ⟨g, ty, round, mask, d, a, b, c⟩ := x
  unfold Long.vargs
  rw [ht]
  cases a <;> cases b <;> simp [encV, func_fields, Long.a4, Long.b4, Long.f27, Long.f28, -BitVec.ofBool_true, -BitVec.ofBool_false]

theorem decodeLong_elem {fam : Nat} {lit : Bool} {mk : VArgs → Instr} {x : VArgs} (hf : fam < 32)
    (ho : ∀ l : Long, l.opc.getLsbD 1 = x.ty.isInt → decElem l fam = some (decV lit mk l))
    (hl : lit = true ∨ x.b = .reg 0) (hw : (mk x).wf = true) : decodeLong none (encV fam x) = .ok (mk x) := by
  obtain ⟨hc, hn, hi, -⟩ := encV_opc hf x
  have hd : opDec none (encV fam x) = some (decV lit mk (encV fam x)) := opDec_elem hc hn (ho _ hi)
  refine decodeLong_ok hd (congrArg mk (vargs_encV hf x)) hw ?_ ?_ ?_
  · cases hb : x.b <;> simp [decV, encV, hb, Long.isLit, Long.f27, func_fields, -BitVec.ofBool_true, -BitVec.ofBool_false]
  · cases ha : x.a <;> cases hb : x.b <;>
      simp [decV, encV, ha, hb, Long.isLit, Long.f27, Long.f28, func_fields, fits_set, -BitVec.ofBool_true, -BitVec.ofBool_false]
  · obtain hl | hl := hl <;> simp [decV, hl, encV, Long.isLit]

/-- An instruction of one source names none in B (R140). -/
theorem unary_b {f : VFam} {x : VArgs} (hf : f.unary = true) (h : x.codeOk f = true) : x.b = .reg 0 := by
  simp only [VArgs.codeOk, hf, Bool.and_eq_true, Bool.not_true, Bool.false_or, beq_iff_eq] at h
  exact h.1.2

/-- FUNC of a class 011 word: ROUND and TYPE (R146). -/
theorem func11_fields (r : BitVec 3) (ty : VType) : let f := r ++ ty.code
    f.extractLsb' 2 3 = r ∧ vtypeOf (f.setWidth 2) = ty := by
  revert r; cases ty <;> decide

theorem decodeLong_rot {opc : BitVec 10} {mk : Guard → VType → BitVec 4 → BitVec 10 → BitVec 10 → NSrc → Instr} {g : Guard}
    {ty : VType} {m : BitVec 4} {d a : BitVec 10} {n : NSrc} (ho : ∀ l : Long, l.opc = opc → opDec none l = some (decRot mk l))
    (hw : (mk g ty m d a n).wf = true) : decodeLong none ((enc11 opc g ty 0 m d a 0).withN n) = .ok (mk g ty m d a n) := by
  have hl : ((enc11 opc g ty 0 m d a 0).withN n).opc = opc := by cases n <;> rfl
  have hf := func11_fields 0#3 ty
  refine decodeLong_ok (ho _ hl) ?_ hw ?_ rfl rfl <;> cases n <;> simp [decRot, enc11, Long.withN, Long.zero, hf]

theorem decodeLong_red {opc : BitVec 10} {mk : Guard → VType → BitVec 3 → BitVec 4 → BitVec 10 → BitVec 10 → BitVec 8 → Instr}
    {g : Guard} {ty : VType} {r : BitVec 3} {m : BitVec 4} {d a : BitVec 10} {fn : BitVec 8}
    (ho : ∀ l : Long, l.opc = opc → opDec none l = some (decRed mk l)) (hw : (mk g ty r m d a fn).wf = true) :
    decodeLong none (enc11 opc g ty r m d a fn) = .ok (mk g ty r m d a fn) := by
  have hf := func11_fields r ty
  refine decodeLong_ok (ho _ rfl) ?_ hw ?_ rfl rfl <;> simp [decRed, enc11, Long.zero, hf]

theorem decodeLong_cvt {opc : BitVec 10} {mk : Guard → BitVec 3 → BitVec 4 → BitVec 10 → BitVec 10 → BitVec 8 → Instr}
    {g : Guard} {r : BitVec 3} {m : BitVec 4} {d a : BitVec 10} {f : BitVec 8}
    (ho : ∀ l : Long, l.opc = opc → opDec none l = some (decCvt mk l)) (hw : (mk g r m d a f).wf = true) :
    decodeLong none (enc11 opc g .bf16 r m d a f) = .ok (mk g r m d a f) := by
  have hf : r ++ 0#2 = r ++ BitVec.ofBool false ++ BitVec.ofBool false := by clear hw; revert r; decide
  refine decodeLong_ok (ho _ rfl) ?_ hw ?_ rfl rfl <;>
    simp [decCvt, enc11, Long.zero, VType.code, hf, func_fields, -BitVec.ofBool_false]

theorem decodeLong_k {opc : BitVec 10} {mk : Guard → BitVec 4 → BitVec 4 → BitVec 4 → Instr} {g : Guard} {d a b : BitVec 4}
    (ho : ∀ l : Long, l.opc = opc → opDec none l = some (decK mk l)) (hw : (mk g d a b).wf = true) :
    decodeLong none { Long.zero g opc with d := d.setWidth 10, a := a.setWidth 10, b := b.setWidth 10 } = .ok (mk g d a b) := by
  refine decodeLong_ok (ho _ rfl) ?_ hw ?_ ?_ rfl <;> simp [decK, Long.zero]

end Sys2Proof
end

section
/-! SUPPORT and O2, O3. Every instruction of classes 000 to 011 comes back from its words. -/

namespace Sys2Proof

/-! ## Opcodes of the encoder's families -/

@[simp] theorem Long.zero_opc (g : Guard) (o : BitVec 10) : (Long.zero g o).opc = o := rfl
@[simp] theorem Long.withSrc_opc (l : Long) (b : Src) : (l.withSrc b).opc = l.opc := by cases b <;> rfl
@[simp] theorem Long.withN_opc (l : Long) (n : NSrc) : (l.withN n).opc = l.opc := by cases n <;> rfl
@[simp] theorem Long.withCB_opc (l : Long) (o : BitVec 18) : (l.withCB o).opc = l.opc := rfl
@[simp] theorem Long.withOff_opc (l : Long) (o : Off) : (l.withOff o).opc = l.opc := by cases o <;> rfl
@[simp] theorem Long.withVImm_opc (l : Long) (o : VImm) : (l.withVImm o).opc = l.opc := by cases o <;> rfl
@[simp] theorem Long.withTile_opc (l : Long) (n : TileRef) : (l.withTile n).opc = l.opc := by cases n <;> rfl
@[simp] theorem Long.withCnt_opc (l : Long) (n : Cnt) : (l.withCnt n).opc = l.opc := by cases n <;> rfl
@[simp] theorem encAlu_opc (o : BitVec 10) (g : Guard) (d a : BitVec 6) (b : Src) : (encAlu o g d a b).opc = o := by cases b <;> rfl
@[simp] theorem encDA_opc (o : BitVec 10) (g : Guard) (d a : BitVec 6) : (encDA o g d a).opc = o := rfl
@[simp] theorem encMM_opc (o : BitVec 10) (g : Guard) (b : BitVec 2) (w : Bool) (s : Option (BitVec 6)) :
    (encMM o g b w s).opc = o := rfl
@[simp] theorem encReadOut_opc (o : BitVec 10) (x : ReadOutArgs) (f : BitVec 5) (m : BitVec 4) : (encReadOut o x f m).opc = o := rfl
@[simp] theorem encLdSt_opc (o : BitVec 10) (g : Guard) (s : BitVec 3) (d a : BitVec 6) (x : Off) :
    (encLdSt o g s d a x).opc = o := by cases x <;> rfl
@[simp] theorem encVmem_opc (o : BitVec 10) (g : Guard) (w : Bool) (m : BitVec 4) (d : BitVec 10) (x : VImm) :
    (encVmem o g w m d x).opc = o := by cases x <;> rfl
@[simp] theorem encTset_opc (op : BitVec 4) (g : Guard) (n : TileRef) : (encTset op g n).opc = 0x312 := by cases n <;> rfl

/-! ## Instructions with fields of their own -/

/-- The well-formed terms of `i` come back from their long or literal words. -/
def Instr.comesBack (i : Instr) : Prop := ∀ l, i.long? = some l → i.wf = true → decodeLong none l = .ok i

theorem movi_comesBack (g : Guard) (hi zx : Bool) (d : BitVec 6) (w : Word) : (Instr.movi g hi zx d w).comesBack := by
  rintro _ ⟨⟩ hw
  refine decodeLong_ok (opDec_scalar 0x017 rfl rfl rfl) ?_ hw ?_ ?_ rfl <;> simp [Long.zero, movi_func, -BitVec.getElem_or]

theorem lea_comesBack (g : Guard) (sh : BitVec 3) (d a : BitVec 6) (b : Src) : (Instr.lea g sh d a b).comesBack := by
  rintro _ ⟨⟩ hw
  cases b <;> refine decodeLong_ok (opDec_scalar 0x018 rfl rfl rfl) ?_ hw ?_ ?_ rfl <;> simp [Long.zero, encAlu, Long.withSrc]

theorem cmp_comesBack (g : Guard) (cond : BitVec 5) (d : BitVec 4) (a : BitVec 6) (b : Src) : (Instr.cmp g cond d a b).comesBack := by
  rintro _ ⟨⟩ hw
  cases b <;> refine decodeLong_ok (opDec_scalar 0x01D rfl rfl rfl) ?_ hw ?_ ?_ rfl <;> simp [Long.zero, encAlu, Long.withSrc]

theorem sel_comesBack (g : Guard) (pm : BitVec 4) (d a : BitVec 6) (b : Src) : (Instr.sel g pm d a b).comesBack := by
  rintro _ ⟨⟩ hw
  cases b <;> refine decodeLong_ok (opDec_scalar 0x01E rfl rfl rfl) ?_ hw ?_ ?_ rfl <;> simp [Long.zero, encAlu, Long.withSrc]

theorem plog_comesBack (g : Guard) (table d a : BitVec 4) (b : PlogB) : (Instr.plog g table d a b).comesBack := by
  rintro _ ⟨⟩ hw
  cases b <;> refine decodeLong_ok (opDec_scalar 0x01F rfl rfl rfl) ?_ hw ?_ ?_ rfl <;> simp [Long.zero]

theorem br_comesBack (g : Guard) (off : Word) : (Instr.br g off).comesBack := by
  rintro _ ⟨⟩ hw
  exact decodeLong_ok (opDec_control 0x080 rfl rfl rfl) rfl hw rfl rfl rfl

theorem brx_comesBack (g : Guard) (a : BitVec 6) (off : BitVec 18) : (Instr.brx g a off).comesBack := by
  rintro _ ⟨⟩ hw
  refine decodeLong_ok (opDec_control 0x081 rfl rfl rfl) ?_ hw ?_ ?_ rfl <;>
    simp [Long.zero, Long.withCB, noScalars, extract_cb (n := 8)]

theorem call_comesBack (g : Guard) (d : BitVec 6) (off : Word) : (Instr.call g d off).comesBack := by
  rintro _ ⟨⟩ hw
  refine decodeLong_ok (opDec_control 0x082 rfl rfl rfl) ?_ hw ?_ ?_ rfl <;> simp [Long.zero]

theorem callx_comesBack (g : Guard) (d a : BitVec 6) (off : BitVec 18) : (Instr.callx g d a off).comesBack := by
  rintro _ ⟨⟩ hw
  refine decodeLong_ok (opDec_control 0x083 rfl rfl rfl) ?_ hw ?_ ?_ rfl <;>
    simp [Long.zero, encDA, Long.withCB, extract_cb (n := 8)]

theorem ret_comesBack (g : Guard) (a : BitVec 6) : (Instr.ret g a).comesBack := by
  rintro _ ⟨⟩ hw
  refine decodeLong_ok (opDec_control 0x084 rfl rfl rfl) ?_ hw ?_ ?_ rfl <;> simp [Long.zero]

theorem bloop_comesBack (g : Guard) (off : Word) : (Instr.bloop g off).comesBack := by
  rintro _ ⟨⟩ hw
  exact decodeLong_ok (opDec_control 0x085 rfl rfl rfl) rfl hw rfl rfl rfl

theorem loop_comesBack (g : Guard) (s1 : BitVec 3) (n : Src) : (Instr.loop g s1 n).comesBack := by
  rintro _ ⟨⟩ hw
  cases n <;> refine decodeLong_ok (opDec_control 0x086 rfl rfl rfl) ?_ hw ?_ ?_ rfl <;> simp [Long.zero]

theorem waitb_comesBack (g : Guard) (lit : Bool) (n : BitVec 16) : (Instr.waitb g lit n).comesBack := by
  rintro _ ⟨⟩ hw
  obtain ⟨hn, -⟩ := (wf_iff _).1 hw
  cases lit with
  | false =>
    have hn : n.toNat < 1024 := by
      simp only [Instr.codeOk, Bool.and_eq_true, Bool.false_or, decide_eq_true_eq] at hn
      exact hn.2
    refine decodeLong_ok (opDec_control 0x08B rfl rfl rfl) ?_ hw ?_ ?_ rfl <;> simp [Long.zero, waitb_field hn]
  | true => refine decodeLong_ok (opDec_control 0x08B rfl rfl rfl) ?_ hw ?_ ?_ rfl <;> simp [Long.zero]

theorem shalt_comesBack (g : Guard) (f : Option (BitVec 6)) : (Instr.shalt g f).comesBack := by
  rintro _ ⟨⟩ hw
  cases f <;> refine decodeLong_ok (opDec_control 0x08C rfl rfl rfl) ?_ hw ?_ ?_ rfl <;> simp [Long.zero, optReg, bit]

theorem vunpk_comesBack (g : Guard) (m : BitVec 4) (d a : BitVec 10) (f : BitVec 8) : (Instr.vunpk g m d a f).comesBack := by
  rintro _ ⟨⟩ hw
  exact decodeLong_ok (opDec_axis 0x188 rfl rfl rfl) rfl hw rfl rfl rfl

theorem vrgn_comesBack (g : Guard) (first : BitVec 10) (n : NSrc) : (Instr.vrgn g first n).comesBack := by
  rintro _ ⟨⟩ hw
  cases n <;> exact decodeLong_ok (opDec_axis 0x189 rfl rfl rfl) rfl hw rfl rfl rfl

theorem vyield_comesBack (g : Guard) : (Instr.vyield g).comesBack := by
  rintro _ ⟨⟩ hw
  exact decodeLong_ok (opDec_axis 0x18A rfl rfl rfl) rfl hw rfl rfl rfl

theorem kfill_comesBack (g : Guard) (d : BitVec 4) (x : KFillArgs) : (Instr.kfill g d x).comesBack := by
  rintro _ ⟨⟩ hw
  cases x <;> refine decodeLong_ok (opDec_axis 0x18F rfl rfl rfl) ?_ hw ?_ ?_ rfl <;> simp [Long.zero]

/-- A well-formed instruction of classes 000 to 011 comes back from its word. -/
theorem decodeLong_lowClasses {i : Instr} {l : Long} (h : i.long? = some l) (hc : l.opc.toNat < 0x200) (hw : i.wf = true) :
    decodeLong none l = .ok i.decoded := by
  obtain ⟨h5, -, -⟩ := (wf_iff i).1 hw
  cases i with
  | add | sub | mul | mulh | mulhu | div | divu | rem | remu | and | or | xor | andn | shl | shr | sra | rotl | rotr | min | max | minu
  | maxu =>
    cases h
    exact decodeLong_alu (fun l h => opDec_scalar _ h rfl rfl) hw
  | clz | ctz | popc =>
    cases h
    exact decodeLong_encDA (fun l h => opDec_scalar _ h rfl rfl) hw
  | bfx | bfi =>
    cases h
    exact decodeLong_bfield (fun l h => opDec_scalar _ h rfl rfl) hw
  | movi => exact movi_comesBack _ _ _ _ _ l h hw
  | lea => exact lea_comesBack _ _ _ _ _ l h hw
  | cmp => exact cmp_comesBack _ _ _ _ _ l h hw
  | sel => exact sel_comesBack _ _ _ _ _ l h hw
  | plog => exact plog_comesBack _ _ _ _ _ l h hw
  | br => exact br_comesBack _ _ l h hw
  | brx => exact brx_comesBack _ _ _ l h hw
  | call => exact call_comesBack _ _ _ l h hw
  | callx => exact callx_comesBack _ _ _ _ l h hw
  | ret => exact ret_comesBack _ _ l h hw
  | bloop => exact bloop_comesBack _ _ l h hw
  | loop => exact loop_comesBack _ _ _ l h hw
  | fwait | fsig | fset =>
    cases h
    exact decodeLong_flag (fun l h => opDec_control _ h rfl rfl) hw
  | fread =>
    cases h
    exact decodeLong_encDA (fun l h => opDec_control _ h rfl rfl) hw
  | waitb => exact waitb_comesBack _ _ _ l h hw
  | shalt => exact shalt_comesBack _ _ l h hw
  | vadd | vsub | vmul | fma | fms | fnma | vmin | vmax | vcmp | vsel | vmov =>
    cases h
    exact decodeLong_elem (lit := true) (by decide) (fun l h => rfl) (.inl rfl) hw
  | vminnum | vmaxnum | vdiv =>
    cases h
    simp only [Instr.codeOk, VArgs.fpOnly, Bool.and_eq_true, Bool.not_eq_true'] at h5
    exact decodeLong_elem (lit := true) (by decide) (fun l h => by simp only [decElem, h, h5.1]; rfl) (.inl rfl) hw
  | vand | vor | vxor | vshl | vshr | vsra =>
    cases h
    simp only [Instr.codeOk, VArgs.intOnly, Bool.and_eq_true] at h5
    exact decodeLong_elem (lit := true) (by decide) (fun l h => by simp only [decElem, h, h5.1]; rfl) (.inl rfl) hw
  | vabs x | vneg x =>
    cases h
    exact decodeLong_elem (lit := false) (by decide) (fun l h => rfl) (.inr (unary_b (f := .unarySat) rfl h5)) hw
  | vsqrt x =>
    cases h
    simp only [Instr.codeOk, VArgs.fpOnly, Bool.and_eq_true, Bool.not_eq_true'] at h5
    exact decodeLong_elem (lit := false) (by decide) (fun l h => by simp only [decElem, h, h5.1]; rfl)
      (.inr (unary_b (f := .unaryRound) rfl h5.2)) hw
  | vrotRow | vrotCol | vbcastRow | vbcastCol =>
    cases h
    exact decodeLong_rot (fun l h => opDec_axis _ h rfl rfl) hw
  | vredRow | vredCol =>
    cases h
    exact decodeLong_red (fun l h => opDec_axis _ h rfl rfl) hw
  | vcvt | vpack =>
    cases h
    exact decodeLong_cvt (fun l h => opDec_axis _ h rfl rfl) hw
  | vunpk => exact vunpk_comesBack _ _ _ _ _ l h hw
  | vrgn => exact vrgn_comesBack _ _ _ l h hw
  | vyield => exact vyield_comesBack _ l h hw
  | kand | kor | kxor | kandn =>
    cases h
    exact decodeLong_k (fun l h => opDec_axis _ h rfl rfl) hw
  | kfill => exact kfill_comesBack _ _ _ l h hw
  | mpset g f v => cases h; cases v <;> simp at hc
  | vamo g op r m d a b => cases h; cases b <;> simp at hc
  | sstart g c x => cases h; cases x <;> simp at hc
  | unfold g d b => cases h; cases b <;> simp at hc
  | ppoint g d m => cases h; cases m <;> simp at hc
  | _ => cases h <;> simp at hc

theorem decode_encode_long {i : Instr} {l : Long} (h : i.long? = some l) (hc : l.opc.toNat < 0x200) (hw : i.wf = true) :
    decode none (encode i) = .ok i.decoded := by
  rw [encode_long h, decode_long]
  exact decodeLong_lowClasses h hc hw

/-! ## The whole -/

/-- Settles O2: the fields of a short word, and those of a long or literal word by family, come back as they were written. -/
theorem scalarFormsRoundTrip : Obligations.ScalarFormsRoundTrip :=
  ⟨decode_encode_short, fun _ _ h hc hw => decode_encode_long h (by omega) hw⟩

/-- Settles O3: the operands of class 010 come back whatever the family, those of class 011 by family. -/
theorem vectorClassesRoundTrip : Obligations.VectorClassesRoundTrip :=
  fun _ _ h _ hc hw => decode_encode_long h hc hw

end Sys2Proof
end

section
/-! What is decoded is well formed (O5), and the words written out (O1). -/

namespace Sys2Proof

/-- Only the last of the checks of R61 answers an instruction, and the checks before it are those of well-formedness. -/
theorem wf_of_check {cls : Option Cls} {o : OpDec} {i : Instr} (h : check cls o = .ok i) : i.wf = true := by
  unfold check at h
  split_ifs at h with hs hf h5 h6 hg
  cases h
  simp only [Bool.not_eq_true, Bool.not_eq_false', Bool.and_eq_true] at h5 h6 hg
  exact (wf_iff _).2 ⟨h5.2, h6.2, hg⟩

theorem wf_of_decodeLong {cls : Option Cls} {l : Long} {i : Instr} (h : decodeLong cls l = .ok i) : i.wf = true := by
  unfold decodeLong at h
  split at h
  · cases h
  · exact wf_of_check h

theorem wf_of_decode {cls : Option Cls} {ws : List Word} {i : Instr} (h : decode cls ws = .ok i) : i.wf = true := by
  unfold decode at h
  split at h
  · cases h
  split at h
  · split at h
    · cases h
    · exact wf_of_check h
  · split at h
    · cases h
    · exact wf_of_check h
  · split at h
    · exact wf_of_decodeLong h
    · cases h
  · split at h
    · exact wf_of_decodeLong h
    · cases h

/-- Settles O5: in each form of word the last of the checks answers the instruction. -/
theorem decodedInstructionsAreWellFormed : Obligations.DecodedInstructionsAreWellFormed := fun _ _ _ h => wf_of_decode h

/-- Settles O1: each word is decoded. -/
theorem writtenWordsDecode : Obligations.WrittenWordsDecode := by
  unfold Obligations.WrittenWordsDecode
  decide

end Sys2Proof
end

section
/-! SUPPORT and O15, O17. Results, discards, and the frame of an instruction of one scalar result (R53, R94). -/

namespace Sys2Proof.Machine

/-! ## Predicates (R94) -/

/-- A bit of a word of which a field has been replaced. -/
theorem getLsbD_setField {w k : Nat} (x : BitVec w) (lo : Nat) (v : BitVec k) {i : Nat} (hi : i < w) :
    (setField x lo v).getLsbD i = if lo ≤ i ∧ i < lo + k then v.getLsbD (i - lo) else x.getLsbD i := by
  unfold setField
  simp only [BitVec.getLsbD_or, BitVec.getLsbD_and, BitVec.getLsbD_not, BitVec.getLsbD_shiftLeft, BitVec.getLsbD_setWidth,
    BitVec.getLsbD_allOnes, hi, decide_true, Bool.true_and, show i - lo < w by omega]
  by_cases hl : lo ≤ i
  · by_cases hk : i < lo + k
    · simp [hl, hk, Nat.not_lt.2 hl, show i - lo < k by omega]
    · simp [hk, show ¬ i - lo < k by omega, BitVec.getLsbD_of_ge v (i - lo) (by omega)]
  · simp [hl, Nat.not_le.1 hl]

/-- A predicate after a write to one: p0 reads 1 whatever was written. -/
theorem Stream.pred_setPred (t : Stream) (p q : BitVec 4) (v : Bool) :
    (t.setPred p v).pred q = if q = 0 then true else if q = p then v else t.pred q := by
  by_cases hq : q = 0
  · subst hq; rfl
  rw [if_neg hq]
  by_cases hp : p = 0
  · subst hp
    rw [Stream.setPred_zero, if_neg hq]
  unfold Stream.setPred Stream.pred
  rw [if_neg hp, beq_false_of_ne hq, Bool.false_or, Bool.false_or, getLsbD_setField _ _ _ q.isLt]
  by_cases h : q = p
  · simp [h]
  · have hn : q.toNat ≠ p.toNat := fun e => h (BitVec.eq_of_toNat_eq e)
    rw [if_neg h, if_neg (by omega)]

/-- A register after a write to one: s0 reads 0 whatever was written. -/
theorem Stream.reg_setReg_iff (t : Stream) (d r : BitVec 6) (v : DWord) :
    (t.setReg d v).reg r = if r = 0 then 0 else if r = d then v else t.reg r := by
  split_ifs with h0 hd
  · subst h0; rfl
  · subst hd; exact Stream.reg_setReg t v h0
  · exact Stream.reg_setReg_other t v hd

theorem Stream.setReg_word (t : Stream) (d : BitVec 6) (v : DWord) : (t.setReg d v).word = t.word := by
  unfold Stream.setReg; split <;> rfl
theorem Stream.setReg_line (t : Stream) (d : BitVec 6) (v : DWord) : (t.setReg d v).line = t.line := by
  unfold Stream.setReg; split <;> rfl
theorem Stream.setReg_lcnt (t : Stream) (d : BitVec 6) (v : DWord) : (t.setReg d v).lcnt = t.lcnt := by
  unfold Stream.setReg; split <;> rfl
theorem Stream.setReg_ecnt (t : Stream) (d : BitVec 6) (v : DWord) : (t.setReg d v).ecnt = t.ecnt := by
  unfold Stream.setReg; split <;> rfl
theorem Stream.setPred_word (t : Stream) (p : BitVec 4) (v : Bool) : (t.setPred p v).word = t.word := by
  unfold Stream.setPred; split <;> rfl

/-! ## Results and discards -/

theorem State.result_strm_real (s : State) {a : Agent} (h : realAgent a = true) (d : BitVec 6) (v : DWord) (n : Nat) :
    (s.result a d v n).strm a = { ((s.strm a).setReg d v).done with word := (s.strm a).word + n } := by
  unfold State.result State.setReg
  rw [State.advance_strm_real _ h, State.strm_updStrm_real _ h, Stream.setReg_word]

/-- Settles O15: the stream after a result, and after a written predicate, is the one written, moved on. -/
theorem resultsAndDiscards : Obligations.ResultsAndDiscards := by
  intro s d r p q v x n hr me t u
  have ht : t.strm me = _ := s.result_strm_real hr d v n
  have hu : u.strm me = { ((s.strm me).setPred p x).done with word := (s.strm me).word + n } := by
    show ((s.updStrm me _).advance me n).strm me = _
    rw [State.advance_strm_real _ hr, State.strm_updStrm_real _ hr, Stream.setPred_word]
  unfold State.reg
  rw [ht, hu]
  refine ⟨Stream.reg_setReg_iff _ d r v, ?_, rfl, Stream.setReg_line _ d v, Stream.pred_setPred _ p q x, ?_, rfl⟩
  · exact congrArg (fun y : BitVec 16 => q == 0 || y.getLsbD q.toNat) (Stream.setReg_preds _ d v)
  · exact congrArg (fun y : Tbl DWord => if r = 0 then 0 else Tbl.get 0 y r.toNat) (Stream.setPred_regs _ p x)

/-! ## The frame of one scalar result -/

theorem State.updStrm_updStrm (s : State) {a : Agent} (h : realAgent a = true) (f g : Stream → Stream) :
    (s.updStrm a f).updStrm a g = s.updStrm a (g ∘ f) := by
  cases a with
  | strm c k cls =>
    simp only [State.updStrm, State.updSlot_updSlot]
    refine congrArg (s.updSlot c k) (funext fun x => ?_)
    simp [Slot.setStrm_setStrm, Slot.strm_setStrm _ _ (realAgent_strm h)]
  | thread t => simp [State.updStrm, State.updThread, State.thread]

/-- A change of one agent's stream leaves those of the others. -/
theorem State.strm_updStrm_other (s : State) {a b : Agent} (ha : realAgent a = true) (hb : realAgent b = true) (h : b ≠ a)
    (f : Stream → Stream) : (s.updStrm a f).strm b = s.strm b := by
  cases a with
  | thread t =>
    cases b with
    | strm d j cl => rfl
    | thread u => exact congrArg Thread.strm (s.thread_updThread_other _ fun e => h (congrArg _ e))
  | strm c k cls =>
    cases b with
    | thread u => rfl
    | strm d j cl =>
      by_cases hs : (d, j) = (c, k)
      · cases hs
        have hn : cl ≠ cls := fun e => h (congrArg _ e)
        show ((s.updSlot c k _).slot c k).strm cl = _
        rw [State.slot_updSlot]
        exact Slot.strm_setStrm_other _ _ hn (realAgent_strm hb) (realAgent_strm ha)
      · exact congrArg (Slot.strm · cl) (s.slot_updSlot_other _ hs)

/-- The stream `u` is `t` after an instruction whose one result goes to `d`: the registers but `d`, the predicates and the
loop counts stand. -/
structure Stream.keeps (t u : Stream) (d : BitVec 6) : Prop where
  regs : t.keepsRegs u d
  preds : u.preds = t.preds
  lcnt : u.lcnt = t.lcnt
  ecnt : u.ecnt = t.ecnt

theorem Stream.setReg_keeps (t : Stream) (d : BitVec 6) (v : DWord) : t.keeps (t.setReg d v) d :=
  ⟨fun _ h => Stream.reg_setReg_other t v h, Stream.setReg_preds t d v, Stream.setReg_lcnt t d v, Stream.setReg_ecnt t d v⟩

theorem Stream.keeps_trans {t u w : Stream} {d : BitVec 6} (h : t.keeps u d) (g : u.keeps w d) : t.keeps w d :=
  ⟨fun r hr => (g.regs r hr).trans (h.regs r hr), g.preds.trans h.preds, g.lcnt.trans h.lcnt, g.ecnt.trans h.ecnt⟩

/-- `t` is `s` but for the stream of agent `a`, which has kept all but `d`, its position and its issue state. -/
def State.ownResult (s t : State) (a : Agent) (d : BitVec 6) : Prop :=
  ∃ f : Stream → Stream, t = s.updStrm a f ∧ ∀ x : Stream, x.keeps (f x) d

theorem State.ownResult_trans {s t u : State} {a : Agent} {d : BitVec 6} (hr : realAgent a = true) (h : s.ownResult t a d)
    (g : t.ownResult u a d) : s.ownResult u a d := by
  obtain ⟨e, rfl, he⟩ := h
  obtain ⟨f, rfl, hf⟩ := g
  exact ⟨f ∘ e, s.updStrm_updStrm hr e f, fun x => Stream.keeps_trans (he x) (hf (e x))⟩

theorem realAgent_of_scalar {a : Agent} (h : scalarAgent a = true) : realAgent a = true := by
  cases a with
  | strm c k cls => cases cls <;> cases h <;> rfl
  | thread t => rfl

/-- No vector or matrix unit takes part in a scalar issue. -/
theorem State.issued_scalar (s : State) {a : Agent} (h : scalarAgent a = true) : s.issued a = s := by
  cases a with
  | strm c k cls => cases cls <;> cases h <;> rfl
  | thread t => rfl

theorem State.setReg_own (s : State) (a : Agent) (d : BitVec 6) (v : DWord) : s.ownResult (s.setReg a d v) a d :=
  ⟨_, rfl, fun x => x.setReg_keeps d v⟩

theorem State.advance_own (s : State) {a : Agent} (h : scalarAgent a = true) (d : BitVec 6) (n : Nat) :
    s.ownResult (s.advance a n) a d :=
  ⟨_, State.issued_scalar _ h, fun _ => ⟨fun _ _ => rfl, rfl, rfl, rfl⟩⟩

theorem State.branch_own (s : State) {a : Agent} (h : scalarAgent a = true) (d : BitVec 6) (l : Int) :
    s.ownResult (s.branch a l) a d :=
  ⟨_, State.issued_scalar _ h, fun _ => ⟨fun _ _ => rfl, rfl, rfl, rfl⟩⟩

theorem State.result_own (s : State) {a : Agent} (h : scalarAgent a = true) (d : BitVec 6) (v : DWord) (n : Nat) :
    s.ownResult (s.result a d v n) a d :=
  State.ownResult_trans (realAgent_of_scalar h) (s.setReg_own a d v) (State.advance_own _ h d n)

/-- A call: the return line goes to `d` (R112). -/
theorem State.link_own (s : State) {a : Agent} (h : scalarAgent a = true) (d : BitVec 6) (v : DWord) (l : Int) :
    s.ownResult ((s.setReg a d v).branch a l) a d :=
  State.ownResult_trans (realAgent_of_scalar h) (s.setReg_own a d v) (State.branch_own _ h d l)

section
variable {s t : State} (h : scalarAgent s.agent = true)
include h

theorem guarded_own {g : Guard} {n : Nat} {u : State} {d : BitVec 6} (hu : s.ownResult u s.agent d)
    (he : (Host.Outcome.next (if s.acts s.agent g = true then u else s.advance s.agent n) : Out) = .next t) :
    s.ownResult t s.agent d := by
  cases he
  split
  · exact hu
  · exact s.advance_own h d n

theorem short_own {u : State} {d : BitVec 6} (hu : s.ownResult u s.agent d)
    (he : (Host.Outcome.next (if (s.strm s.agent).skip = true then s.advance s.agent 1 else u) : Out) = .next t) :
    s.ownResult t s.agent d := by
  cases he
  split
  · exact s.advance_own h d 1
  · exact hu

/-- Every instruction of one scalar result either writes it and moves on, or writes the return line and branches. -/
theorem exec_own {i : Instr} {d : BitVec 6} (hd : scalarDest i = some d) (he : exec i s = .next t) : s.ownResult t s.agent d := by
  cases i with
  | add | sub | mul | mulh | mulhu | div | divu | rem | remu | and | or | xor | andn | shl | shr | sra | rotl | rotr | clz | ctz | popc
  | bfx | bfi | movi | lea | min | max | minu | maxu | sel | fread | tsrd | sysrd =>
    cases hd
    exact guarded_own h (s.result_own h _ _ _) he
  | addShortReg | subShortReg | mulShortReg | andShortReg | orShortReg | xorShortReg | shlShortReg | shrShortReg | sraShortReg
  | minShortReg | maxShortReg | addShortImm | andShortImm | orShortImm | xorShortImm | shlShortImm | shrShortImm | sraShortImm
  | addShortB | moviShort =>
    cases hd
    exact short_own h (s.result_own h _ _ _) he
  | call | callx =>
    cases hd
    exact guarded_own h (s.link_own h _ _ _) he
  | callShort =>
    cases hd
    exact short_own h (s.link_own h _ _ _) he
  | _ => cases hd

end

/-- Settles O17: the instruction changes its own stream alone, and of that one register, the position and the issue state. -/
theorem scalarResultFrame : Obligations.ScalarResultFrame := by
  intro s t i d h hd he
  have hr := realAgent_of_scalar h
  obtain ⟨f, rfl, hf⟩ := exec_own h hd he
  have hs : (s.updStrm s.agent f).strm s.agent = f (s.strm s.agent) := s.strm_updStrm_real hr f
  have hk := hf (s.strm s.agent)
  rw [← hs] at hk
  refine ⟨?_, hk.regs, hk.preds, hk.lcnt, hk.ecnt, fun a ha hn => s.strm_updStrm_other hr ha hn f, s.updStrm_sameBytes _ f⟩
  unfold State.onlyStream
  rw [hs]
  cases s.agent <;> rfl

end Sys2Proof.Machine
end

section
/-! SUPPORT and O16. An instruction whose guard fails moves past its words (R50, R62, R387). -/

namespace Sys2Proof.Machine

/-- What a guarded meaning comes to where the guard fails: the issue alone. -/
theorem guard_fails {s : State} {g : Guard} (h : s.acts s.agent g = false) (t u : State) :
    (Host.Outcome.next (if s.acts s.agent g = true then t else u) : Out) = .next u := by
  rw [h]; rfl

/-- The same of the firmware's rows, in a stream of the firmware's partition. -/
theorem guard_fails_firmware {s : State} {g : Guard} (h : s.acts s.agent g = false) (hp : s.partOf s.agent = 0)
    (o : Out) (t u : State) :
    (if s.partOf s.agent ≠ 0 then o else .next (if s.acts s.agent g = true then t else u)) = .next u := by
  rw [if_neg (by simpa using hp), guard_fails h]

/-- The words of a class 010 instruction, by its source b (R49). -/
theorem words_elem {i : Instr} {fam : Nat} {x : VArgs} (hs : i.short? = none) (hl : i.long? = some (encV fam x)) :
    i.words = vsrcBWords x.b := by
  have hw : i.words = (encV fam x).words.length := by simp [Instr.words, encode, hs, hl]
  rw [hw]
  cases hb : x.b <;> simp [Long.words, encV, hb, vsrcBWords]

/-- Every long and literal form is such a meaning, and what it moves past is its words. -/
theorem exec_guard_fails {s : State} {i : Instr} {g : Guard} (hg : i.guard? = some g)
    (hf : firmwareRow i = false ∨ s.partOf s.agent = 0) (h : s.acts s.agent g = false) :
    exec i s = .next (s.advance s.agent i.words) := by
  cases i with
  | add _ _ _ b | sub _ _ _ b | mul _ _ _ b | mulh _ _ _ b | mulhu _ _ _ b | div _ _ _ b | divu _ _ _ b | rem _ _ _ b | remu _ _ _ b
  | and _ _ _ b | or _ _ _ b | xor _ _ _ b | andn _ _ _ b | shl _ _ _ b | shr _ _ _ b | sra _ _ _ b | rotl _ _ _ b | rotr _ _ _ b
  | min _ _ _ b | max _ _ _ b | minu _ _ _ b | maxu _ _ _ b | lea _ _ _ _ b | cmp _ _ _ _ b | sel _ _ _ _ b | plog _ _ _ _ b
  | bfx _ _ _ b | bfi _ _ _ b | loop _ _ b | mwait _ _ _ b | dset _ _ _ b | wadv _ _ b | unfold _ _ b | srad _ b | pin _ _ _ b
  | tmplw _ _ _ b | swait _ _ _ b | arm _ _ _ b | cadd _ _ _ b | cwait _ _ _ b | trap _ b | ppoint _ _ b | mpset _ _ b
  | ld _ _ _ _ b | st _ _ _ _ b | marm _ _ _ b | vld _ _ _ _ b | vst _ _ _ _ b | amo _ _ _ _ _ _ _ b | vamo _ _ _ _ _ _ b
  | sstart _ _ b | qput _ _ _ b | qget _ _ _ b | vrotRow _ _ _ _ _ b | vrotCol _ _ _ _ _ b | vbcastRow _ _ _ _ _ b
  | vbcastCol _ _ _ _ _ b | vrgn _ _ b | kfill _ _ b | fwait _ _ b _ | fsig _ _ b _ | fset _ _ b _ | waitb _ b _
  | tfree _ b | tsetFill _ b | tsetDrain _ b | tsetAbort _ b | tsetAdv _ b | tqry _ _ b _ | tpost _ _ b | taddr _ _ b _ _ =>
    cases hg
    cases b <;> exact guard_fails h _ _
  | tsetFillfor _ n b | tsetOrg _ n b | tsetWstep _ n b | tsetKey _ n b | talloc _ _ _ n b _ =>
    cases hg
    cases n <;> cases b <;> exact guard_fails h _ _
  | vadd | vsub | vmul | fma | fms | fnma | vmin | vmax | vminnum | vmaxnum | vabs | vneg | vand | vor | vxor | vshl | vshr | vsra | vcmp
  | vsel | vdiv | vsqrt =>
    cases hg
    rw [words_elem rfl rfl]
    exact guard_fails h _ _
  | vmov x =>
    cases hg
    rw [words_elem rfl rfl]
    show execVmov x s = _
    unfold execVmov
    split <;> exact guard_fails h _ _
  | xinv | partStop | partRelease | partReset | partRequest | cryoQuery | cryoCool | cryoWarm | cryoForceRetreat | cryoReleaseRetreat
  | cryoClearRatev =>
    cases hg
    exact guard_fails_firmware h (hf.resolve_left Bool.noConfusion) _ _ _
  | _ =>
    cases hg <;> exact guard_fails h _ _

/-- Settles O16, by the meaning of each form. -/
theorem failedGuardOnlyIssues : Obligations.FailedGuardOnlyIssues := fun _ _ _ hg hf h => exec_guard_fails hg hf h

end Sys2Proof.Machine
end

section
/-! SUPPORT and O24. The short forms of class 010 (R54, R59), and the elements of an element-wise instruction. -/

namespace Sys2Proof.Machine

/-! ## Elements -/

theorem unpackNat_length (w n v : Nat) : (unpackNat w n v).length = n := by
  induction n generalizing v with
  | zero => rfl
  | succ n ih => simp [unpackNat, ih]

theorem VecState.elems_length (v : VecState) (wide : Bool) (r : Nat) : (v.elems wide r).length = 1024 := by
  cases wide <;> simp [VecState.elems, elems1, elems2, rowCells, unpackNat_length]

theorem range_map_getD {xs : List Nat} {n : Nat} (h : xs.length = n) : (List.range n).map (fun e => xs.getD e 0) = xs := by
  subst h
  apply List.ext_getElem
  · simp
  · intro i h1 h2
    simp [List.getD_eq_getElem?_getD, List.getElem?_eq_getElem h2]

/-- Numbered elements of three sources. -/
theorem zip3_eq {xs ys zs : List Nat} (hx : xs.length = 1024) (hy : ys.length = 1024) (hz : zs.length = 1024) :
    zip3 xs ys zs = (List.range 1024).map (fun e => (e, xs.getD e 0, ys.getD e 0, zs.getD e 0)) := by
  unfold zip3
  conv_lhs => rw [← range_map_getD hx, ← range_map_getD hy, ← range_map_getD hz]
  rw [List.zip_map', List.zip_map', ← List.map_prod_left_eq_zip]

/-- The elements of an element-wise instruction are its operation on each cell that the mask allows (R139). -/
theorem laneMap_eq {lanes : Mask} {xs ys zs : List Nat} (op : Nat → Nat → Nat → Nat → Nat × FFlags) (hx : xs.length = 1024)
    (hy : ys.length = 1024) (hz : zs.length = 1024) :
    laneMap ((List.range 1024).map (fun e => lanes.getLsbD e)) (zip3 xs ys zs) op =
      elementResults lanes (fun e => op e (xs.getD e 0) (ys.getD e 0) (zs.getD e 0)) := by
  rw [zip3_eq hx hy hz]
  simp only [laneMap, elementResults, List.zip_map', List.map_map, List.foldl_map]
  generalize List.range 1024 = l
  refine congrArg₂ Prod.mk (List.map_congr_left fun e _ => ?_) (List.foldl_ext _ _ _ fun f e _ => ?_)
  · simp only [Function.comp]
    split <;> rfl
  · simp only [Function.comp]
    split
    · rfl
    · exact BitVec.or_zero

theorem replicate_true_eq : List.replicate 1024 true = (List.range 1024).map (fun e => (BitVec.allOnes 1024).getLsbD e) := by
  symm
  rw [List.eq_replicate_iff]
  refine ⟨by simp, fun b hb => ?_⟩
  obtain ⟨e, he, rfl⟩ := List.mem_map.1 hb
  rw [BitVec.getLsbD_allOnes]
  exact decide_eq_true (List.mem_range.1 he)

/-! ## What the vector file shows -/

/-- Results that land change registers and masks alone. -/
theorem VecState.land_vrgn (v : VecState) (r : InFlight) : (v.land r).vrgn = v.vrgn := by
  unfold VecState.land
  split
  · rfl
  · split <;> rfl
  · rfl

theorem VecState.seen_vrgn (v : VecState) : v.seen.vrgn = v.vrgn := by
  unfold VecState.seen
  generalize v.dueBy v.beat = rs
  induction rs generalizing v with
  | nil => rfl
  | cons r rs ih => exact (ih _).trans (v.land_vrgn r)

/-- The logical register of a short form's field (R54). -/
def Slot.shortReg (x : Slot) (r : BitVec 5) : Nat := ((if x.seen.v.size = 0 then 0 else x.seen.v.start) + r.toNat) % 1024

theorem Slot.wbase_toNat (x : Slot) (r : BitVec 5) : (x.v.wbase r).toNat = x.shortReg r := by
  unfold Slot.shortReg VecState.wbase VecState.size VecState.start
  rw [show x.seen.v.vrgn = x.v.vrgn from x.v.seen_vrgn, BitVec.toNat_ofNat]

theorem State.updOwn_congr (s : State) (a : Agent) {f g : Slot → Slot} (h : f (s.own a) = g (s.own a)) :
    s.updOwn a f = s.updOwn a g := by
  cases a with
  | strm c k cls => exact congrArg (s.setSlot c k) h
  | thread t => rfl

/-- Element `e` of the register, or pair, of a short form's field. -/
def Slot.shortElem (x : Slot) (wide : Bool) (r : BitVec 5) (e : Nat) : Nat := (x.seen.v.elems wide (x.shortReg r)).getD e 0

/-- The cells of a short form's result: every lane is on, and an addend that is not read counts as zero. -/
theorem Slot.laneMap_short (x : Slot) (w z : Bool) (d a b : BitVec 5) (op : Nat → Nat → Nat → Nat → Nat × FFlags) :
    laneMap (List.replicate 1024 true)
        (zip3 (x.seen.v.elems w (x.shortReg a)) (x.seen.v.elems w (x.shortReg b))
          (if z = true then x.seen.v.elems w (x.shortReg d) else List.replicate 1024 0)) op =
      elementResults (BitVec.allOnes 1024)
        (fun e => op e (x.shortElem w a e) (x.shortElem w b e) (if z = true then x.shortElem w d e else 0)) := by
  have hl (r : BitVec 5) := x.seen.v.elems_length w (x.shortReg r)
  rw [replicate_true_eq]
  cases z
  · rw [if_neg Bool.false_ne_true, laneMap_eq op (hl a) (hl b) List.length_replicate]
    refine congrArg _ (funext fun e => ?_)
    exact congrArg (op e _ _) (List.getElem?_getD_replicate_default_eq 0 1024 e)
  · exact laneMap_eq op (hl a) (hl b) (hl d)

/-- A short form is the element-wise result of its operation, with every lane on. -/
theorem State.velemShort_eq {s : State} (h : (s.strm s.agent).skip = false) (ty : VType) (d a b : BitVec 5) (l16 l32 : Nat) (z : Bool)
    (op : VArgs → Slot → Nat → Nat → Nat → Nat → Nat × FFlags) :
    let x := s.own s.agent
    let w := vWide ty
    s.velemShort (s.shortArgs ty d a b) l16 l32 z op =
      .next (s.vectorResult x.seen w (x.shortReg d) (if w = true then l32 else l16) 1 (BitVec.allOnes 1024)
        (fun e => op (s.shortArgs ty d a b) x.seen e (x.shortElem w a e) (x.shortElem w b e)
          (if z = true then x.shortElem w d e else 0))) := by
  intro x w
  have hr := x.laneMap_short w z d a b (op (s.shortArgs ty d a b) x.seen)
  simp only [← Slot.wbase_toNat] at hr ⊢
  unfold State.velemShort State.short State.vectorResult
  rw [h, if_neg Bool.false_ne_true]
  generalize List.replicate 1024 true = on, List.replicate 1024 0 = zs, elementResults _ _ = r at hr ⊢
  refine congrArg (fun u => Host.Outcome.next (State.advance u s.agent 1)) (State.updOwn_congr _ _ ?_)
  exact congrArg (fun r : List Nat × FFlags => x.issue (if w = true then l32 else l16)
    (.regs (x.seen.v.dest w (x.v.wbase d).toNat r.1)) (BitVec.allOnes 1024) r.2) hr

/-- Settles O24: each short form under its own operation. -/
theorem shortVectorForms : Obligations.ShortVectorForms := by
  intro s d a b h me reg z E done F
  exact ⟨State.velemShort_eq h .bf16 d a b 3 4 false addE,
    State.velemShort_eq h .fp32 d a b 3 4 false addE,
    State.velemShort_eq h .bf16 d a b 3 4 false subE,
    State.velemShort_eq h .bf16 d a b 4 5 false mulE,
    State.velemShort_eq h .fp32 d a b 4 5 false mulE,
    State.velemShort_eq h .bf16 d a b 4 6 true fmaE,
    State.velemShort_eq h .fp32 d a b 4 6 true fmaE,
    State.velemShort_eq h .bf16 d a b 2 3 false (fun x => minMax x false false),
    State.velemShort_eq h .bf16 d a b 2 3 false (fun x => minMax x true false),
    State.velemShort_eq h .bf16 d a 0 1 2 false (fun _ _ _ v _ _ => (v, ffNone))⟩

end Sys2Proof.Machine
end

section
/-! O29. Rounding leaves a value that the format holds as it is (R69, R80). -/

namespace Sys2Proof.Machine

/-! ## A scaled value -/

theorem Exact.scaled_neg (neg : Bool) (n : Nat) (q : Int) : (Exact.scaled neg n q).neg = neg := by
  unfold Exact.scaled
  split <;> rfl

theorem Exact.scaled_num_eq_zero (neg : Bool) (n : Nat) (q : Int) : (Exact.scaled neg n q).num = 0 ↔ n = 0 := by
  unfold Exact.scaled
  split <;> simp

/-- In steps of `2^q` a scaled value is `n`. -/
theorem Exact.scaled_in_steps (neg : Bool) (n : Nat) (q : Int) :
    (if 0 ≤ q then (Exact.scaled neg n q).num else (Exact.scaled neg n q).num * 2 ^ (-q).toNat) =
      n * (if 0 ≤ q then (Exact.scaled neg n q).den * 2 ^ q.toNat else (Exact.scaled neg n q).den) := by
  unfold Exact.scaled
  split <;> simp

theorem Exact.scaled_step_pos (neg : Bool) (n : Nat) (q : Int) :
    0 < (if 0 ≤ q then (Exact.scaled neg n q).den * 2 ^ q.toNat else (Exact.scaled neg n q).den) := by
  unfold Exact.scaled
  split <;> simp

theorem log2_mul_two_pow {n : Nat} (h : n ≠ 0) (p : Nat) : (n * 2 ^ p).log2 = n.log2 + p := by
  have h1 : 2 ^ n.log2 ≤ n := Nat.log2_self_le h
  have h2 : n < 2 ^ (n.log2 + 1) := Nat.lt_log2_self
  refine (Nat.log2_eq_iff (by positivity)).2 ⟨?_, ?_⟩
  · rw [pow_add]
    exact Nat.mul_le_mul_right _ h1
  · rw [Nat.add_right_comm, pow_add]
    exact Nat.mul_lt_mul_of_pos_right h2 (by positivity)

/-- The estimate by the logarithms of numerator and denominator is exact where one of them is a power of two. -/
theorem Exact.log2_scaled (neg : Bool) {n : Nat} (h : n ≠ 0) (q : Int) : (Exact.scaled neg n q).log2 = n.log2 + q := by
  have hn : 2 ^ n.log2 ≤ n := Nat.log2_self_le h
  unfold Exact.scaled Exact.log2
  split
  · next hq =>
    obtain ⟨p, rfl⟩ := Int.eq_ofNat_of_zero_le hq
    have hk : 2 ^ (n.log2 + p) ≤ n * 2 ^ p := by
      rw [pow_add]
      exact Nat.mul_le_mul_right _ hn
    have hl : ((n.log2 + p : Nat) - (Nat.log2 1 : Nat) : Int) = (n.log2 + p : Nat) := by
      rw [show Nat.log2 1 = 0 from rfl]
      omega
    simp only [Int.toNat_natCast, log2_mul_two_pow h, hl]
    rw [if_pos (Int.natCast_nonneg _), if_neg (by omega), Int.natCast_add]
  · next hq =>
    obtain ⟨p, rfl⟩ : ∃ p : Nat, q = -p := ⟨(-q).toNat, by omega⟩
    simp only [Int.neg_neg, Int.toNat_natCast, Nat.log2_two_pow]
    split
    · next hk =>
      rw [if_neg]
      · omega
      · rw [← pow_add, show p + (n.log2 - p : Int).toNat = n.log2 by omega]
        omega
    · next hk =>
      have hp : 2 ^ p ≤ n * 2 ^ (-(n.log2 - p : Int)).toNat := by
        calc 2 ^ p = 2 ^ n.log2 * 2 ^ (-(n.log2 - p : Int)).toNat := by
              rw [← pow_add]
              congr 1
              omega
          _ ≤ _ := Nat.mul_le_mul_right _ hn
      rw [if_neg (by omega)]
      omega

/-! ## Rounding -/

/-- Every mode keeps an integer: its remainder is 0, and random bits come to less than one step (R78, R80). -/
theorem roundQuot_mul (m : Rm) (neg : Bool) (n : Nat) {d sr : Nat} (hd : 0 < d) (hs : sr < 2 ^ 32) :
    roundQuot m neg (n * d) d sr = n := by
  cases m with
  | sr =>
    have h : n * d * 2 ^ 32 + sr * d = d * 2 ^ 32 * n + sr * d := by ring
    have hlt : sr * d < d * 2 ^ 32 := by
      rw [Nat.mul_comm]
      exact Nat.mul_lt_mul_of_pos_left hs hd
    simp only [roundQuot]
    rw [h, Nat.mul_add_div (by positivity), Nat.div_eq_of_lt hlt, Nat.add_zero]
  | rne | rz | ru | rd => simp [roundQuot, hd, b2n]

/-- The kept bits `n` in steps of `2^q` are in range for `f` and as the rounding of R80 keeps them: the step is the one of
their exponent, or of the subnormals. -/
def Fmt.keeps (f : Fmt) (n : Nat) (q : Int) : Prop :=
  n < 2 ^ (f.t + 1) ∧ max (n.log2 + q) (1 - (f.bias : Int)) = q + f.t ∧
    (q + f.t < f.emax ∨ q + f.t = f.emax ∧ n ≤ f.maxSig)

/-- Kept bits are rounded to themselves, exactly. -/
theorem roundTo_scaled {f : Fmt} {n : Nat} {q : Int} (hn : n ≠ 0) (h : f.keeps n q) (neg : Bool) (m : Rm) {sr : Nat}
    (hs : sr < 2 ^ 32) :
    roundTo f (.scaled neg n q) m sr false =
      (if n < 2 ^ f.t then fMake f neg 0 n else fMake f neg (q + f.t + f.bias).toNat (n - 2 ^ f.t), ffNone) := by
  obtain ⟨hlt, hstep, hmax⟩ := h
  have hk : max ((n.log2 : Int) + q) (1 - (f.bias : Int)) - f.t = q := by omega
  unfold roundTo
  rw [if_neg (by rwa [Exact.scaled_num_eq_zero])]
  simp only [Exact.scaled_neg, Exact.log2_scaled neg hn, Bool.false_and, Bool.false_eq_true, if_false, hk, if_neg hlt.ne,
    Exact.scaled_in_steps, roundQuot_mul m neg n (Exact.scaled_step_pos neg n q) hs, bne_self_eq_false, Bool.and_false]
  rw [hstep, if_neg (by omega)]
  split <;> rfl

/-! ## Encodings -/

theorem fExp_lt (f : Fmt) (x : Nat) : fExp f x < 2 ^ f.e := Nat.mod_lt _ (by positivity)
theorem fFrac_lt (f : Fmt) (x : Nat) : fFrac f x < 2 ^ f.t := Nat.mod_lt _ (by positivity)

/-- An encoding is that of its sign, exponent and fraction (R69). -/
theorem fMake_fields {f : Fmt} {x : Nat} (h : x < 2 ^ f.width) : fMake f (fSign f x) (fExp f x) (fFrac f x) = x := by
  have hs : b2n (fSign f x) = x / 2 ^ f.t / 2 ^ f.e := by
    rw [Nat.div_div_eq_div_mul, ← pow_add, ← Nat.mod_eq_of_lt (a := x / _) (b := 2), ← Nat.toNat_testBit, fSign]
    · cases x.testBit (f.t + f.e) <;> rfl
    · exact Nat.div_lt_of_lt_mul (by rwa [← pow_succ])
  unfold fMake fExp fFrac
  rw [hs, Nat.shiftLeft_eq, Nat.shiftLeft_eq, Nat.shiftRight_eq_div_pow, pow_add, Nat.mul_comm (2 ^ f.t), ← Nat.mul_assoc,
    ← Nat.add_mul, Nat.div_add_mod', Nat.div_add_mod']

/-- Below the infinities and NaNs an exponent is in range, E4M3's largest with all but its last fraction (R69, R70). -/
theorem fExp_in_range {f : Fmt} {x : Nat} (hn : isNaN f x = false) (hi : isInf f x = false) :
    (fExp f x : Int) - f.bias < f.emax ∨ (fExp f x : Int) - f.bias = f.emax ∧ 2 ^ f.t + fFrac f x ≤ f.maxSig := by
  have he := fExp_lt f x
  have hf := fFrac_lt f x
  cases f <;> simp [isNaN, isInf, Fmt.e, Fmt.t, Fmt.bias, Fmt.emax, Fmt.maxSig] at * <;> omega

theorem Fmt.keeps_subnormal {f : Fmt} {n : Nat} (h0 : n ≠ 0) (h : n < 2 ^ f.t) : f.keeps n (1 - f.bias - f.t) := by
  have hl : n.log2 < f.t := (Nat.log2_lt h0).2 h
  have hp : 2 ^ (f.t + 1) = 2 * 2 ^ f.t := by ring
  have hb : 1 - (f.bias : Int) < f.emax := by cases f <;> decide
  exact ⟨by omega, by omega, .inl (by omega)⟩

theorem Fmt.keeps_normal {f : Fmt} {x : Nat} (h0 : fExp f x ≠ 0) (hn : isNaN f x = false) (hi : isInf f x = false) :
    f.keeps (2 ^ f.t + fFrac f x) ((fExp f x : Int) - f.bias - f.t) := by
  have hf := fFrac_lt f x
  have hp : 2 ^ (f.t + 1) = 2 * 2 ^ f.t := by ring
  have hl : (2 ^ f.t + fFrac f x).log2 = f.t := (Nat.log2_eq_iff (by omega)).2 ⟨by omega, by omega⟩
  have hr := fExp_in_range hn hi
  exact ⟨by omega, by omega, by omega⟩

/-- Settles O29: subnormal and normal encodings are kept bits in the step of their exponent. -/
theorem roundingKeepsRepresentableValues : Obligations.RoundingKeepsRepresentableValues := by
  intro f x sr m hx hs hn hi
  have hx := fMake_fields hx
  unfold value
  split
  · next he =>
    rw [he] at hx
    by_cases h0 : fFrac f x = 0
    · rw [h0] at hx ⊢
      unfold roundTo
      rw [if_pos ((Exact.scaled_num_eq_zero _ _ _).2 rfl), Exact.scaled_neg]
      exact congrArg (·, ffNone) hx
    · rw [roundTo_scaled h0 (Fmt.keeps_subnormal h0 (fFrac_lt f x)) _ m hs, if_pos (fFrac_lt f x), hx]
  · next he =>
    have hE : ((fExp f x : Int) - f.bias - f.t + f.t + f.bias).toNat = fExp f x := by omega
    rw [roundTo_scaled (by positivity) (Fmt.keeps_normal he hn hi) _ m hs, if_neg (by omega), hE, Nat.add_sub_cancel_left, hx]

end Sys2Proof.Machine
end

section
/-! SUPPORT. The cells of a row-set and the lanes of a mask, one by one (R120, R121), and cells merged by lanes (R128). -/

namespace Sys2Proof.Machine

/-! ## Equal fields of a number -/

theorem unpackNat_eq (w n v : Nat) : unpackNat w n v = (List.range n).map (fun i => v >>> (w * i) % 2 ^ w) := by
  induction n generalizing v with
  | zero => rfl
  | succ n ih =>
    rw [List.range_succ_eq_map, List.map_cons, List.map_map, unpackNat, ih]
    refine congrArg _ (List.map_congr_left fun i _ => ?_)
    rw [← Nat.shiftRight_add, Function.comp_apply, Nat.mul_succ, Nat.add_comm w]

/-- Field `i` of packed numbers is number `i`. -/
theorem packNat_field (w : Nat) (xs : List Nat) (i : Nat) : packNat w xs >>> (w * i) % 2 ^ w = xs.getD i 0 % 2 ^ w := by
  induction xs generalizing i with
  | nil => simp [packNat]
  | cons x xs ih =>
    rw [packNat, Nat.shiftLeft_eq]
    cases i with
    | zero => simp
    | succ i =>
      have hx : (x % 2 ^ w + packNat w xs * 2 ^ w) >>> w = packNat w xs := by
        rw [Nat.shiftRight_eq_div_pow, Nat.add_mul_div_right _ _ (by positivity), Nat.div_eq_of_lt (Nat.mod_lt _ (by positivity)),
          Nat.zero_add]
      rw [Nat.mul_succ, Nat.add_comm (w * i), Nat.shiftRight_add, hx, ih, List.getD_cons_succ]

/-! ## Row-sets and masks -/

theorem rowCell_eq (x : RowSet) (e : Nat) : rowCell x e = x.toNat >>> (16 * e) % 2 ^ 16 := BitVec.extractLsb'_toNat ..

theorem rowCells_eq (x : RowSet) : rowCells x = (List.range 1024).map (rowCell x) := by
  rw [rowCells, unpackNat_eq]
  exact List.map_congr_left fun e _ => (rowCell_eq x e).symm

theorem maskLanes_eq (m : Mask) : maskLanes m = (List.range 1024).map (fun e => m.getLsbD e) := by
  rw [maskLanes, unpackNat_eq, List.map_map]
  refine List.map_congr_left fun e _ => ?_
  rw [BitVec.getLsbD, Nat.testBit_eq_decide_div_mod_eq, Function.comp_apply, Nat.one_mul, Nat.shiftRight_eq_div_pow]
  rfl

theorem rowCell_lt (x : RowSet) (e : Nat) : rowCell x e < 2 ^ 16 := BitVec.isLt _

theorem rowCell_rowOfCells (cs : List Nat) {e : Nat} (h : e < 1024) : rowCell (rowOfCells cs) e = cs.getD e 0 % 2 ^ 16 := by
  rw [← packNat_field 16, rowCell_eq, rowOfCells, BitVec.toNat_ofNat]
  refine Nat.eq_of_testBit_eq fun i => ?_
  simp only [Nat.testBit_mod_two_pow, Nat.testBit_shiftRight]
  by_cases hi : i < 16
  · have hb : 16 * e + i < 16384 := by omega
    simp [hb]
  · simp [hi]

/-- A cell takes its new value where its lane allows (R128). -/
theorem rowCell_mergeCells (lanes : Mask) (old new : RowSet) {e : Nat} (h : e < 1024) :
    rowCell (mergeCells lanes old new) e = if lanes.getLsbD e then rowCell new e else rowCell old e := by
  unfold mergeCells
  split
  · next hl =>
    subst hl
    rw [BitVec.getLsbD_allOnes, if_pos (decide_eq_true h)]
  · rw [rowCell_rowOfCells _ h, maskLanes_eq, rowCells_eq, rowCells_eq, List.zip_map', List.zip_map', List.map_map,
      List.getD_eq_getElem?_getD, List.getElem?_map, List.getElem?_range h, Option.map_some, Option.getD_some, Nat.mod_eq_of_lt]
    · rfl
    · simp only [Function.comp_apply]
      split <;> exact rowCell_lt _ e


end Sys2Proof.Machine
end

section
/-! SUPPORT and O27. A result of the vector stream in flight, and its landing (R127, R128). -/

namespace Sys2Proof.Machine

/-! ## Results that land (R127) -/

theorem landLimit_le (rs : List InFlight) (beat : Nat) : landLimit rs beat ≤ beat + 1 :=
  List.foldlRecOn (motive := fun n => n ≤ beat + 1) rs _ (Nat.le_refl _) (fun n hn r _ => by
    split
    · exact hn
    · exact (Nat.min_le_left _ _).trans hn)

/-- A beat at which no result is due writes none. -/
theorem Slot.landDue_none {x : Slot} {beat : Nat} (h : ∀ r ∈ x.v.inflight, beat < r.due) (hs : x.sigs = []) : x.landDue beat = x := by
  have hlate (r : InFlight) (hr : r ∈ x.v.inflight) : decide (r.due < landLimit x.v.inflight beat) = false := by
    have := h r hr
    have := landLimit_le x.v.inflight beat
    exact decide_eq_false (by omega)
  have hdue : x.v.dueBy beat = [] := by
    rw [VecState.dueBy, List.filter_eq_nil_iff.2 (fun r hr => by rw [hlate r hr]; exact Bool.false_ne_true)]
    rfl
  have hleft : x.v.inflight.filter (fun r => !(decide (r.due < landLimit x.v.inflight beat) && r.fault.isNone)) = x.v.inflight :=
    List.filter_eq_self.2 (fun r hr => by rw [hlate r hr]; rfl)
  unfold Slot.landDue
  dsimp only
  rw [hdue, hleft]
  exact Slot.runSigs_none hs

/-- `x` with the result `r`, the only one in flight, written. -/
def Slot.lands (x : Slot) (r : InFlight) : Slot := Slot.raiseFp { x with v := { x.v.land r with inflight := [] } } 0 r.flags

theorem Slot.landDue_one {x : Slot} {r : InFlight} {beat : Nat} (h : x.v.inflight = [r]) (ha : r.arrived = true)
    (hf : r.fault = none) (hd : r.due ≤ beat) (hs : x.sigs = []) : x.landDue beat = x.lands r := by
  have hlim : landLimit [r] beat = beat + 1 := landLimit_arrived (by simpa using ha) beat
  have hp : (decide (r.due < beat + 1) && r.fault.isNone) = true := by
    simp only [hf, Option.isNone_none, Bool.and_true, decide_eq_true_eq]
    omega
  have hdue : x.v.dueBy beat = [r] := by
    rw [VecState.dueBy, h, hlim, List.filter_singleton, hp]
    rfl
  unfold Slot.landDue
  dsimp only
  rw [hdue, h, hlim, List.filter_singleton, hp]
  exact Slot.runSigs_none (x := x.lands r) hs

/-! ## What a result writes (R128) -/

theorem VecState.land_reg {v : VecState} {r : InFlight} {d : Nat} {new : RowSet} (h : r.dest = .regs [(d, new)]) (q : Nat) :
    (v.land r).reg q = if q = d then mergeCells r.lanes (v.reg d) new else v.reg q := by
  unfold VecState.land
  rw [h]
  exact Tbl.get_set ..

theorem VecState.land_mask {v : VecState} {r : InFlight} {k : Nat} {new : Mask} (h : r.dest = .mask k new) (hk : k ≠ 0) :
    (v.land r).regs = v.regs ∧ (v.land r).mask k = (new &&& r.lanes) ||| (v.mask k &&& ~~~r.lanes) := by
  unfold VecState.land
  rw [h]
  dsimp only
  rw [if_neg hk]
  refine ⟨rfl, ?_⟩
  rw [VecState.mask, if_neg hk]
  exact Tbl.get_set_same ..

/-- A lane takes its new bit where its lane allows. -/
theorem getLsbD_merged {lanes old new : Mask} {e : Nat} (h : e < 1024) :
    ((new &&& lanes) ||| (old &&& ~~~lanes)).getLsbD e = if lanes.getLsbD e then new.getLsbD e else old.getLsbD e := by
  rw [BitVec.getLsbD_or, BitVec.getLsbD_and, BitVec.getLsbD_and, BitVec.getLsbD_not, decide_eq_true h, Bool.true_and]
  cases lanes.getLsbD e <;> simp

/-- The flags of a result join those of VECF, the group at bit 0 (R73, R74). -/
theorem orFlags_zero (x : DWord) (f : FFlags) : orFlags x 0 f = x ||| f.setWidth 64 := by
  rw [orFlags, BitVec.shiftLeft_zero]

/-- What an issue adds to the results in flight. -/
theorem Slot.issue_inflight (x : Slot) (lat : Nat) (dest : VDest) (lanes : Mask) (fl : FFlags) :
    ∃ r : InFlight, (x.issue lat dest lanes fl).v.inflight = x.v.inflight ++ [r] ∧ r.due = x.v.beat + lat ∧ r.dest = dest ∧
      r.lanes = lanes ∧ r.flags = fl ∧ r.arrived = true ∧ r.fault = none :=
  ⟨_, rfl, rfl, rfl, rfl, rfl, rfl, rfl⟩

/-- Settles O27: until its beat the only result in flight leaves all as it is, and then it alone is written. -/
theorem vectorResultLands : Obligations.VectorResultLands := by
  intro x lat dest lanes fl beat y z hx hs
  obtain ⟨r, hr, hdue, rfl, rfl, rfl, harr, hfault⟩ := x.issue_inflight lat dest lanes fl
  rw [hx, List.nil_append] at hr
  refine ⟨fun hb => ?_, fun hb => ?_, fun w hw hws => ?_⟩
  · exact Slot.landDue_none (by rw [hr]; simpa [hdue] using hb) hs
  · have hz : z = y.lands r := Slot.landDue_one hr harr hfault (by omega) hs
    rw [hz]
    refine ⟨rfl, orFlags_zero _ _, fun d v hd => ?_, fun k m hd hk => ?_⟩
    · have hreg (q : Nat) : (y.lands r).v.reg q = if q = d then mergeCells r.lanes (x.v.reg d) v else x.v.reg q :=
        VecState.land_reg (v := y.v) hd q
      refine ⟨fun q hq => by rw [hreg, if_neg hq], fun e he => ?_⟩
      rw [hreg, if_pos rfl]
      exact rowCell_mergeCells _ _ _ he
    · obtain ⟨hregs, hmask⟩ := VecState.land_mask (v := y.v) hd hk
      refine ⟨hregs, fun e he => ?_⟩
      exact (congrArg (·.getLsbD e) hmask).trans (getLsbD_merged he)
  · have hland : w.landDue w.v.beat = w := Slot.landDue_none (by rw [hw]; exact fun _ h => absurd h List.not_mem_nil) hws
    unfold Slot.beat
    rw [hland]

end Sys2Proof.Machine
end

section
/-! SUPPORT and O22. The element-wise instructions: their sources, and their operation on each element (R138 to R145). -/

namespace Sys2Proof.Machine

/-! ## Sources -/

theorem elems2_length (lo hi : RowSet) : (elems2 lo hi).length = 1024 := by
  simp [elems2, rowCells, unpackNat_length]

theorem Slot.srcA_length (x : Slot) (wide : Bool) (a : VSrcA) : (x.srcA wide a).1.length = 1024 := by
  cases a with
  | reg r => exact x.v.elems_length wide r.toNat
  | queue q =>
    cases wide
    · exact unpackNat_length ..
    · exact elems2_length ..

theorem Slot.srcB_length (x : Slot) (wide : Bool) (b : VSrcB) : (x.srcB wide b).1.length = 1024 := by
  cases b with
  | reg r => exact x.v.elems_length wide r.toNat
  | queue q =>
    cases wide
    · exact unpackNat_length ..
    · exact elems2_length ..
  | lit w => exact List.length_replicate

/-- Registers are named modulo 1,024 (R124). -/
theorem VecState.elems_congr (v : VecState) (wide : Bool) {q r : Nat} (h : q % 1024 = r % 1024) : v.elems wide q = v.elems wide r := by
  have h1 : (q + 1) % 1024 = (r + 1) % 1024 := by omega
  simp only [VecState.elems, VecState.log, h, h1]

/-- The addend's register, C past the destination (R138). -/
theorem VecState.elems_addend (v : VecState) (wide : Bool) (d : BitVec 10) (c : BitVec 8) :
    v.elems wide (d.toNat + 1024 + c.toInt.toNat - (-c.toInt).toNat) = v.elems wide (((d.toNat : Int) + c.toInt) % 1024).toNat := by
  have h1 := BitVec.le_toInt c
  have h2 := BitVec.toInt_lt (x := c)
  exact v.elems_congr wide (by omega)

/-- An element-wise instruction whose queue sources hold what they need answers the elements of its operation (R139). -/
theorem State.velem_result {s : State} {x : VArgs} (hg : s.acts s.agent x.g = true) {z : Bool} {l16 l32 : Nat}
    {op : Slot → Nat → Nat → Nat → Nat → Nat × FFlags} {res : Nat → Nat × FFlags} :
    let me := (s.own s.agent).seen
    let w := vWide x.ty
    let a := me.srcA w x.a
    let b := a.2.srcB w x.b
    let c := me.v.elems w (((x.d.toNat : Int) + x.c.toInt) % 1024).toNat
    me.qSay ((qOfA w x.a).toList ++ (qOfB w x.b).toList) 3 = .go →
    (∀ e, op me e (a.1.getD e 0) (b.1.getD e 0) (if z = true then c.getD e 0 else 0) = res e) →
    s.velem x l16 l32 z none op = .next (s.vectorResult b.2 w x.d.toNat (if w = true then l32 else l16) (vsrcBWords x.b)
      (me.v.mask x.mask.toNat) res) := by
  intro me w a b c hq hop
  have hz : (if z = true then
        (if z = true then me.v.elems w (x.d.toNat + 1024 + x.c.toInt.toNat - (-x.c.toInt).toNat) else [])
      else List.replicate 1024 0) = if z = true then c else List.replicate 1024 0 := by
    cases z
    · rfl
    · exact me.v.elems_addend w x.d x.c
  have hcells : laneMap (maskLanes (me.v.mask x.mask.toNat)) (zip3 a.1 b.1 (if z = true then c else List.replicate 1024 0)) (op me) =
      elementResults (me.v.mask x.mask.toNat) res := by
    have hc : (if z = true then c else List.replicate 1024 0).length = 1024 := by
      split
      · exact me.v.elems_length ..
      · exact List.length_replicate
    rw [maskLanes_eq, laneMap_eq _ (me.srcA_length w x.a) (a.2.srcB_length w x.b) hc]
    refine congrArg _ (funext fun e => (congrArg _ ?_).trans (hop e))
    split
    · rfl
    · exact List.getElem?_getD_replicate_default_eq 0 1024 e
  unfold State.velem
  rw [State.guarded_acts hg]
  dsimp only
  rw [show (s.own s.agent).seen.qSay ((qOfA (vWide x.ty) x.a).toList ++ (qOfB (vWide x.ty) x.b).toList) 3 = .go from hq]
  dsimp only
  refine congrArg (fun u => Host.Outcome.next (State.advance u s.agent (vsrcBWords x.b))) (congrArg (s.updOwn s.agent) (funext fun t => ?_))
  rw [hz]
  exact congrArg (fun r : List Nat × FFlags => Slot.issue { b.2 with v := t.v } (if w = true then l32 else l16)
    (.regs (me.v.dest w x.d.toNat r.1)) (me.v.mask x.mask.toNat) r.2) hcells

/-! ## Operations on elements -/

theorem sext_eq {n : Nat} (hn : 0 < n) (a : Nat) : sext n a = signedOf n a := by
  obtain ⟨k, rfl⟩ : ∃ k, n = k + 1 := ⟨n - 1, by omega⟩
  rw [signedOf, BitVec.toInt_eq_toNat_cond, BitVec.toNat_ofNat, sext, Nat.add_sub_cancel]
  have h : 2 ^ (k + 1) = 2 * 2 ^ k := by ring
  split <;> split <;> omega

theorem low_eq (n : Nat) (v : Int) : low n v = bitsOf n v := (BitVec.toNat_ofInt ..).symm

theorem satS_eq (n : Nat) (v : Int) : satS n v = max (-2 ^ (n - 1)) (min (2 ^ (n - 1) - 1) v) := by
  have h : (0 : Int) < 2 ^ (n - 1) := by positivity
  unfold satS
  split
  · omega
  · split <;> omega

theorem vBits_pos (ty : VType) : 0 < vBits ty := by cases ty <;> decide

/-- On integer types the exact result, wrapped or saturated (R143). -/
theorem arith_int {x : VArgs} (h : vInt x.ty = true) (fp : Fmt → Nat → Nat → Nat → Rm → Nat → Bool → Nat × FFlags)
    (g : Int → Int → Int → Int) (me : Slot) (e a b c : Nat) :
    let n := vBits x.ty
    let v := g (signedOf n a) (signedOf n b) (signedOf n c)
    arith x fp g me e a b c = (bitsOf n (if x.round = 1 then max (-2 ^ (n - 1)) (min (2 ^ (n - 1) - 1) v) else v), ffNone) := by
  have hn := vBits_pos x.ty
  unfold arith intRed
  simp only [h, if_true, sext_eq hn, low_eq, satS_eq, beq_iff_eq, apply_ite (bitsOf _)]

/-- On floating-point types the operation in the instruction's rounding mode, on operands flushed under FTZVEC (R75). -/
theorem arith_fp {x : VArgs} (h : vInt x.ty = false) (fp : Fmt → Nat → Nat → Nat → Rm → Nat → Bool → Nat × FFlags)
    (g : Int → Int → Int → Int) (me : Slot) (e a b c : Nat) :
    let f := fmtOf x.ty
    let z := me.ftzVec
    arith x fp g me e a b c =
      fp f (flush f z a) (flush f z b) (flush f z c) (Rm.ofCode x.round.toNat) (me.srAt x.round (e / 64) (e % 64)) z := by
  unfold arith
  rw [h]
  rfl

theorem absOp_int {x : VArgs} (h : vInt x.ty = true) (me : Slot) (e a b c : Nat) :
    absOp x me e a b c = arith x (fun _ _ _ _ _ _ _ => (0, ffNone)) (fun a _ _ => |a|) me e a b c := by
  have habs : (fun a _ _ : Int => if a < 0 then -a else a) = fun a _ _ => |a| := by
    funext a _ _
    split
    · next ha => exact (abs_of_neg ha).symm
    · next ha => exact (abs_of_nonneg (Int.not_lt.1 ha)).symm
  rw [absOp, if_pos h, habs]

theorem negElem_int {x : VArgs} (h : vInt x.ty = true) (me : Slot) (e a b c : Nat) :
    negElem x me e a b c = arith x (fun _ _ _ _ _ _ _ => (0, ffNone)) (fun a _ _ => -a) me e a b c := if_pos h

/-- The sign bit of an element stands above its format's exponent and fraction. -/
theorem sign_position (ty : VType) : (fmtOf ty).t + (fmtOf ty).e = vBits ty - 1 := by cases ty <;> rfl

theorem absOp_fp {x : VArgs} (h : vInt x.ty = false) (me : Slot) (e a b c : Nat) :
    absOp x me e a b c = (a % 2 ^ (vBits x.ty - 1), ffNone) := by
  rw [absOp, h, if_neg Bool.false_ne_true, fAbs, sign_position]

theorem negElem_fp {x : VArgs} (h : vInt x.ty = false) (me : Slot) (e a b c : Nat) :
    negElem x me e a b c = (a ^^^ 2 ^ (vBits x.ty - 1), ffNone) := by
  rw [negElem, h, if_neg Bool.false_ne_true]

/-- Settles O22: each instruction answers the elements of its operation, exact on integers and rounded on the others. -/
theorem vectorArithmetic : Obligations.VectorArithmetic := by
  intro s x hg me w n a b c f z m sr A B C I done hq
  have result {l16 l32 : Nat} {y : Bool} {op : Slot → Nat → Nat → Nat → Nat → Nat × FFlags} {res : Nat → Nat × FFlags}
      (h : ∀ e, op me e (A e) (B e) (if y = true then C e else 0) = res e) : s.velem x l16 l32 y none op = done l16 l32 res :=
    State.velem_result hg hq h
  refine ⟨fun hi => ?_, fun hf => ?_⟩
  · have int {fp g} (e a b c) := arith_int hi fp g me e a b c
    exact ⟨result fun e => int e .., result fun e => int e .., result fun e => int e .., result fun e => int e ..,
      result fun e => int e .., result fun e => int e .., result fun e => (absOp_int hi ..).trans (int e ..),
      result fun e => (negElem_int hi ..).trans (int e ..)⟩
  · have fp {fp g} (e a b c) := arith_fp hf fp g me e a b c
    exact ⟨result fun e => fp e .., result fun e => fp e .., result fun e => fp e .., result fun e => fp e ..,
      result fun e => fp e .., result fun e => fp e .., result fun e => fp e .., result fun e => fp e ..,
      result fun e => absOp_fp hf .., result fun e => negElem_fp hf ..⟩

end Sys2Proof.Machine
end

section
/-! SUPPORT and O9, O13, O14. The frames of class 000 (R50, R100), sums, products, addresses, selections and predicates
(R101, R106 to R109). -/

namespace Sys2Proof.Machine

/-! ## Frames (R50, R59, R387) -/

theorem State.short_runs {s : State} (h : (s.strm s.agent).skip = false) (body : State → State) : s.short body = .next (body s) := by
  rw [State.short, h, if_neg Bool.false_ne_true]

section
variable {s : State} {g : Guard} {f : DWord → DWord → DWord} {v : DWord}

theorem State.alu_next (h : s.acts s.agent g = true) {d a : BitVec 6} {b : Src} (hv : f (s.reg s.agent a) (s.src s.agent b) = v) :
    s.alu g d a b f = .next (s.result s.agent d v (srcWords b)) :=
  hv ▸ State.guarded_acts h _ _

theorem State.aluReg_next (h : (s.strm s.agent).skip = false) {d a b : BitVec 5}
    (hv : f (s.reg s.agent (wide5 a)) (s.reg s.agent (wide5 b)) = v) :
    s.aluReg d a b f = .next (s.result s.agent (wide5 d) v 1) :=
  hv ▸ State.short_runs h _

theorem State.aluImm_next (h : (s.strm s.agent).skip = false) {d a : BitVec 5} {i : BitVec 14}
    (hv : f (s.reg s.agent (wide5 a)) (i.signExtend 64) = v) :
    s.aluImm d a i f = .next (s.result s.agent (wide5 d) v 1) :=
  hv ▸ State.short_runs h _

theorem State.unary_next (h : s.acts s.agent g = true) {d a : BitVec 6} {f : DWord → DWord} (hv : f (s.reg s.agent a) = v) :
    s.unary g d a f = .next (s.result s.agent d v 2) :=
  hv ▸ State.guarded_acts h _ _

end

/-! ## Sums and products (R101) -/

theorem add_eq_ofInt (x y : DWord) : x + y = .ofInt 64 (x.toInt + y.toInt) := by
  rw [BitVec.ofInt_add, BitVec.ofInt_toInt, BitVec.ofInt_toInt]

theorem sub_eq_ofInt (x y : DWord) : x - y = .ofInt 64 (x.toInt - y.toInt) := by
  rw [Int.sub_eq_add_neg, BitVec.ofInt_add, BitVec.ofInt_neg, BitVec.ofInt_toInt, BitVec.ofInt_toInt, BitVec.sub_eq_add_neg]

theorem mul_eq_ofInt (x y : DWord) : x * y = .ofInt 64 (x.toInt * y.toInt) := by
  rw [BitVec.ofInt_mul, BitVec.ofInt_toInt, BitVec.ofInt_toInt]

/-- A sign-extended immediate stands for the same integer (R46). -/
theorem add_signExtend {k : Nat} (hk : k ≤ 64) (x : DWord) (i : BitVec k) : x + i.signExtend 64 = .ofInt 64 (x.toInt + i.toInt) := by
  rw [add_eq_ofInt, BitVec.toInt_signExtend_of_le hk]

/-- Bits [127:64] of a product that is congruent to `p` modulo 2^128. -/
theorem extract_high {z : BitVec 128} {p : Int} (h : z = .ofInt 128 p) : z.extractLsb' 64 64 = .ofInt 64 (p / 2 ^ 64) := by
  subst h
  apply BitVec.eq_of_toNat_eq
  rw [BitVec.extractLsb'_toNat, BitVec.toNat_ofInt, BitVec.toNat_ofInt, Nat.shiftRight_eq_div_pow]
  omega

theorem mulHigh_eq (x y : DWord) : mulHigh x y = .ofInt 64 (x.toInt * y.toInt / 2 ^ 64) := by
  refine extract_high ?_
  rw [BitVec.ofInt_mul, ← BitVec.toInt_signExtend_of_le (x := x) (v := 128) (by omega),
    ← BitVec.toInt_signExtend_of_le (x := y) (v := 128) (by omega), BitVec.ofInt_toInt, BitVec.ofInt_toInt]

theorem mulHighU_eq (x y : DWord) : mulHighU x y = .ofNat 64 (x.toNat * y.toNat / 2 ^ 64) := by
  have hlt : x.toNat * y.toNat < 2 ^ 128 := (Nat.mul_lt_mul'' x.isLt y.isLt).trans_eq (by norm_num)
  apply BitVec.eq_of_toNat_eq
  rw [mulHighU, BitVec.extractLsb'_toNat, BitVec.toNat_mul, BitVec.toNat_setWidth_of_le (by omega), BitVec.toNat_setWidth_of_le (by omega),
    Nat.mod_eq_of_lt hlt, BitVec.toNat_ofNat, Nat.shiftRight_eq_div_pow]

/-- Settles O9: each operation is that of the integers modulo 2^64. -/
theorem sumsAndProducts : Obligations.SumsAndProducts := by
  intro s g d a b d5 a5 b5 i j me x y p q
  refine ⟨fun h => ?_, fun h => ?_⟩
  · exact ⟨State.alu_next h (add_eq_ofInt x y), State.alu_next h (sub_eq_ofInt x y), State.alu_next h (mul_eq_ofInt x y),
      State.alu_next h (mulHigh_eq x y), State.alu_next h (mulHighU_eq x y)⟩
  · refine ⟨State.aluReg_next h (add_eq_ofInt p q), State.aluReg_next h (sub_eq_ofInt p q), State.aluReg_next h (mul_eq_ofInt p q),
      State.aluImm_next h (add_signExtend (by omega) p i), ?_⟩
    rw [← add_signExtend (by omega)]
    exact State.short_runs h (fun s => s.result s.agent (wide5 d5) (s.reg s.agent (wide5 d5) + j.signExtend 64) 1)

/-! ## Addresses and selections (R106, R108) -/

theorem add_shiftLeft_eq_ofNat (x y : DWord) (n : Nat) : x + y <<< n = .ofNat 64 (x.toNat + y.toNat * 2 ^ n) := by
  apply BitVec.eq_of_toNat_eq
  rw [BitVec.toNat_add, BitVec.toNat_shiftLeft, BitVec.toNat_ofNat, Nat.shiftLeft_eq, Nat.add_mod_mod]

/-- SEL's source (R108). -/
theorem exec_sel {s : State} {g : Guard} (h : s.acts s.agent g = true) (pm : BitVec 4) (d a : BitVec 6) (b : Src) :
    exec (.sel g pm d a b) s = .next (s.result s.agent d
      (if (s.strm s.agent).pred pm then s.reg s.agent a else s.src s.agent b) (srcWords b)) := by
  show execSel g pm d a b s = _
  rw [execSel, State.guarded_acts h]

/-- Settles O13: LEA by its sum, SEL by each value of its predicate. -/
theorem addressesAndSelections : Obligations.AddressesAndSelections := by
  refine ⟨fun s g sh d a b h => ?_, fun s g pm d a b h => ⟨fun hp => ?_, fun hp => ?_⟩⟩
  · exact State.alu_next (f := fun x y => x + y <<< sh.toNat) h (add_shiftLeft_eq_ofNat ..)
  · rw [exec_sel h, hp, if_pos rfl]
  · rw [exec_sel h, hp, if_neg Bool.false_ne_true]

/-! ## Comparisons and predicates (R107, R109) -/

theorem exec_cmp {s : State} {g : Guard} (h : s.acts s.agent g = true) (c : BitVec 5) (d : BitVec 4) (a : BitVec 6) (b : Src) :
    exec (.cmp g c d a b) s = .next
      ((s.setPred s.agent d (cmpHolds c (s.reg s.agent a) (s.src s.agent b))).advance s.agent (srcWords b)) := by
  show execCmp g c d a b s = _
  rw [execCmp, State.guarded_acts h]

theorem exec_plog {s : State} {g : Guard} (h : s.acts s.agent g = true) (table d p : BitVec 4) (q : PlogB) :
    exec (.plog g table d p q) s = .next ((s.setPred s.agent d
      (table.getLsbD (2 * b2n ((s.strm s.agent).pred p) + b2n (s.plogB s.agent q)))).advance s.agent (plogWords q)) := by
  show execPlog g table d p q s = _
  rw [execPlog, State.guarded_acts h]

/-- Settles O14: CMP by the codes of its conditions, PLOG by the kinds of its second operand, NOP by its meaning. -/
theorem comparisonsAndPredicates : Obligations.ComparisonsAndPredicates := by
  intro s g c d a b table p q me x y holds second
  refine ⟨fun h hc => ?_, fun h => ?_, rfl⟩
  · have hh : cmpHolds c x y = holds := by
      simp only [cmpHolds, holds]
      generalize c.toNat = n at hc
      match n, hc with
      | 0, _ | 2, _ | 3, _ | 4, _ | 5, _ | 7, _ => rfl
      | 1, _ => exact (decide_not (p := x = y)).symm
      | 6, _ => exact (decide_not (p := x &&& y = 0)).symm
    rw [exec_cmp h, hh]
  · have hq : s.plogB me q = second := by cases q <;> rfl
    rw [exec_plog h, hq]

end Sys2Proof.Machine
end

section
/-! SUPPORT and O10. Division and remainder (R102). -/

namespace Sys2Proof.Machine

/-! ## Quotient and remainder as those of the integers -/

theorem sdiv_eq_ofInt (x y : DWord) : x.sdiv y = .ofInt 64 (x.toInt.tdiv y.toInt) :=
  BitVec.eq_of_toInt_eq ((BitVec.toInt_sdiv x y).trans (BitVec.toInt_ofInt _).symm)

theorem srem_eq_ofInt (x y : DWord) : x.srem y = .ofInt 64 (x.toInt.tmod y.toInt) := by
  rw [← BitVec.toInt_srem, BitVec.ofInt_toInt]

/-- a = quotient × b + remainder, modulo 2^64 also for −2^63 by −1. -/
theorem sdiv_mul_add_srem (x y : DWord) : x.sdiv y * y + x.srem y = x := by
  have h : x.sdiv y * y = .ofInt 64 (x.toInt.tdiv y.toInt * y.toInt) := by
    rw [BitVec.ofInt_mul, ← sdiv_eq_ofInt, BitVec.ofInt_toInt]
  rw [h, srem_eq_ofInt, ← BitVec.ofInt_add, Int.tdiv_mul_add_tmod, BitVec.ofInt_toInt]

theorem udiv_mul_add_umod (x y : DWord) : x / y * y + x % y = x := by
  apply BitVec.eq_of_toNat_eq
  rw [BitVec.toNat_add, BitVec.toNat_mul, Nat.mod_add_mod, BitVec.toNat_udiv, BitVec.toNat_umod, Nat.div_add_mod',
    Nat.mod_eq_of_lt x.isLt]

theorem eq_intMin_of_toInt {x : DWord} (h : x.toInt = -2 ^ 63) : x = BitVec.intMin 64 := BitVec.eq_of_toInt_eq h

theorem eq_negOne_of_toInt {y : DWord} (h : y.toInt = -1) : y = -1#64 := BitVec.eq_of_toInt_eq h

/-- The one quotient that is no 64-bit integer (R102). -/
theorem sdiv_overflow {x y : DWord} (hx : x.toInt = -2 ^ 63) (hy : y.toInt = -1) : x.sdiv y = x ∧ x.srem y = 0 := by
  rw [eq_intMin_of_toInt hx, eq_negOne_of_toInt hy]
  decide

theorem toInt_sdiv_exact {x y : DWord} (h : ¬ (x.toInt = -2 ^ 63 ∧ y.toInt = -1)) : (x.sdiv y).toInt = x.toInt.tdiv y.toInt := by
  refine BitVec.toInt_sdiv_of_ne_or_ne x y ((not_and_or.1 h).imp ?_ ?_)
  · rintro hx rfl; exact hx rfl
  · rintro hy rfl; exact hy rfl

/-- Settles O10: of a divisor 0 the borderline results, of any other those of the integers. -/
theorem divisionAndRemainder : Obligations.DivisionAndRemainder := by
  intro s g d a b h x y
  refine ⟨divS x y, remS x y, divU x y, remU x y, State.alu_next h rfl, State.alu_next h rfl, State.alu_next h rfl,
    State.alu_next h rfl, fun h0 => ?_, fun h0 => ?_⟩
  · rw [divS, remS, divU, remU, if_pos h0, if_pos h0, if_pos h0, if_pos h0]
    exact ⟨rfl, rfl, rfl, rfl⟩
  · rw [divS, remS, divU, remU, if_neg h0, if_neg h0, if_neg h0, if_neg h0]
    exact ⟨BitVec.toNat_udiv, BitVec.toNat_umod, (sdiv_mul_add_srem x y).symm, (udiv_mul_add_umod x y).symm, BitVec.toInt_srem x y,
      toInt_sdiv_exact, fun ho => sdiv_overflow ho.1 ho.2⟩

end Sys2Proof.Machine
end

section
/-! SUPPORT and O11. Bitwise logic, minima, shifts and rotations (R59, R101, R103). -/

namespace Sys2Proof.Machine

theorem getLsbD_andn (x y : DWord) {n : Nat} (h : n < 64) : (x &&& ~~~y).getLsbD n = (x.getLsbD n && !y.getLsbD n) := by
  rw [BitVec.getLsbD_and, BitVec.getLsbD_not, decide_eq_true h, Bool.true_and]

/-! ## Minima (R101) -/

theorem minS_eq (x y : DWord) : minS x y = .ofInt 64 (min x.toInt y.toInt) := by
  unfold minS
  split
  · next h => rw [min_eq_left (BitVec.slt_iff_toInt_lt.1 h).le, BitVec.ofInt_toInt]
  · next h => rw [min_eq_right (not_lt.1 (h ∘ BitVec.slt_iff_toInt_lt.2)), BitVec.ofInt_toInt]

theorem maxS_eq (x y : DWord) : maxS x y = .ofInt 64 (max x.toInt y.toInt) := by
  unfold maxS
  split
  · next h => rw [max_eq_right (BitVec.slt_iff_toInt_lt.1 h).le, BitVec.ofInt_toInt]
  · next h => rw [max_eq_left (not_lt.1 (h ∘ BitVec.slt_iff_toInt_lt.2)), BitVec.ofInt_toInt]

theorem minU_eq (x y : DWord) : minU x y = .ofNat 64 (min x.toNat y.toNat) := by
  unfold minU
  split
  · next h => rw [min_eq_left (BitVec.ult_iff_toNat_lt.1 h).le, BitVec.ofNat_toNat, BitVec.setWidth_eq]
  · next h => rw [min_eq_right (not_lt.1 (h ∘ BitVec.ult_iff_toNat_lt.2)), BitVec.ofNat_toNat, BitVec.setWidth_eq]

theorem maxU_eq (x y : DWord) : maxU x y = .ofNat 64 (max x.toNat y.toNat) := by
  unfold maxU
  split
  · next h => rw [max_eq_right (BitVec.ult_iff_toNat_lt.1 h).le, BitVec.ofNat_toNat, BitVec.setWidth_eq]
  · next h => rw [max_eq_left (not_lt.1 (h ∘ BitVec.ult_iff_toNat_lt.2)), BitVec.ofNat_toNat, BitVec.setWidth_eq]

/-! ## Shifts by the whole count (R103) -/

theorem shlBy_eq (x y : DWord) : shlBy x y = .ofNat 64 (x.toNat * 2 ^ y.toNat) := by
  apply BitVec.eq_of_toNat_eq
  unfold shlBy
  split
  · next h =>
    have hd : 2 ^ 64 ∣ x.toNat * 2 ^ y.toNat := Dvd.dvd.mul_left (pow_dvd_pow 2 h) _
    exact (Nat.mod_eq_zero_of_dvd hd).symm
  · rw [BitVec.toNat_shiftLeft, Nat.shiftLeft_eq, BitVec.toNat_ofNat]

theorem shrBy_eq (x y : DWord) : shrBy x y = .ofNat 64 (x.toNat / 2 ^ y.toNat) := by
  unfold shrBy
  split
  · next h => rw [Nat.div_eq_of_lt (x.isLt.trans_le (Nat.pow_le_pow_right (by decide) h))]; rfl
  · exact BitVec.eq_of_toNat_eq (by
      rw [BitVec.toNat_ushiftRight, Nat.shiftRight_eq_div_pow, BitVec.toNat_ofNat,
        Nat.mod_eq_of_lt ((Nat.div_le_self ..).trans_lt x.isLt)])

/-- From 63 on every count leaves the sign alone. -/
theorem toInt_ediv_pow_ge (x : DWord) {n : Nat} (h : 63 ≤ n) : x.toInt / 2 ^ n = x.toInt / 2 ^ 63 := by
  have hn : (2 : Int) ^ n = 2 ^ 63 * 2 ^ (n - 63) := by rw [← pow_add, Nat.add_sub_cancel' h]
  have h1 := BitVec.le_toInt x
  have h2 := BitVec.toInt_lt (x := x)
  rw [hn, ← Int.ediv_ediv_of_nonneg (by decide)]
  rcases (by omega : x.toInt / 2 ^ 63 = 0 ∨ x.toInt / 2 ^ 63 = -1) with e | e
  · rw [e, Int.zero_ediv]
  · rw [e, Int.neg_one_ediv, Int.sign_eq_one_of_pos (by positivity)]

theorem sraBy_eq (x y : DWord) : sraBy x y = .ofInt 64 (x.toInt / 2 ^ y.toNat) := by
  have hx : (sraBy x y).toInt = x.toInt / 2 ^ y.toNat := by
    rw [sraBy, BitVec.toInt_sshiftRight, Int.shiftRight_eq_div_pow]
    rcases Nat.le_total y.toNat 63 with h | h
    · rw [Nat.min_eq_left h]; norm_cast
    · rw [Nat.min_eq_right h, toInt_ediv_pow_ge x h]; norm_cast
  rw [← hx, BitVec.ofInt_toInt]

/-- A short immediate up to 63 is its own count. -/
theorem toNat_signExtend_count {i : BitVec 14} (h : i.toNat ≤ 63) : (i.signExtend 64).toNat = i.toNat := by
  rw [BitVec.signExtend_eq_setWidth_of_msb_false (BitVec.msb_eq_false_iff_two_mul_lt.2 (by omega)),
    BitVec.toNat_setWidth_of_le (by omega)]

/-! ## Rotations (R12, R103) -/

/-- The two parts of a rotation do not overlap. -/
theorem rotated_parts {x a b : Nat} (hx : x < 2 ^ 64) (h : a + b = 64) :
    x <<< a % 2 ^ 64 ||| x >>> b = (x * 2 ^ a + x / 2 ^ b) % 2 ^ 64 := by
  have hp : 2 ^ 64 = 2 ^ b * 2 ^ a := by rw [← pow_add, Nat.add_comm, h]
  have hhi : x / 2 ^ b < 2 ^ a := Nat.div_lt_of_lt_mul (hp ▸ hx)
  have hlo : x * 2 ^ a % 2 ^ 64 = 2 ^ a * (x % 2 ^ b) := by rw [hp, Nat.mul_mod_mul_right, Nat.mul_comm]
  have hlt : 2 ^ a * (x % 2 ^ b) + x / 2 ^ b < 2 ^ 64 := calc
    _ < 2 ^ a * (x % 2 ^ b + 1) := by rw [Nat.mul_succ]; omega
    _ ≤ 2 ^ a * 2 ^ b := Nat.mul_le_mul_left _ (Nat.mod_lt _ (by positivity))
    _ = 2 ^ 64 := by rw [hp, Nat.mul_comm]
  rw [Nat.shiftLeft_eq, Nat.shiftRight_eq_div_pow, hlo, ← Nat.two_pow_add_eq_or_of_lt hhi, ← Nat.mod_add_mod, hlo, Nat.mod_eq_of_lt hlt]

theorem rotlBy_eq (x y : DWord) :
    rotlBy x y = .ofNat 64 (x.toNat * 2 ^ (y.toNat % 64) + x.toNat / 2 ^ (64 - y.toNat % 64)) := by
  apply BitVec.eq_of_toNat_eq
  rw [rotlBy, rotl64, BitVec.toNat_rotateLeft, Nat.mod_mod, BitVec.toNat_ofNat]
  exact rotated_parts x.isLt (by omega)

theorem rotrBy_eq (x y : DWord) :
    rotrBy x y = .ofNat 64 (x.toNat / 2 ^ (y.toNat % 64) + x.toNat * 2 ^ (64 - y.toNat % 64)) := by
  apply BitVec.eq_of_toNat_eq
  rw [rotrBy, rotr64, BitVec.toNat_rotateRight, Nat.mod_mod, BitVec.toNat_ofNat, Nat.or_comm, Nat.add_comm]
  exact rotated_parts x.isLt (by omega)

/-- Settles O11: each operation by its bits, or by its integers. -/
theorem logicShiftsAndMinima : Obligations.LogicShiftsAndMinima := by
  refine ⟨fun s g d a b d5 a5 b5 i => ⟨fun h => ?_, fun h => ?_⟩, fun s g d a b d5 a5 b5 => ⟨fun h => ?_, fun h => ?_⟩,
    fun s g d a b d5 a5 b5 i => ⟨fun h => ?_, fun h => ⟨?_, ?_, ?_, fun hi => ?_⟩, fun hi => ?_⟩⟩
  · let x := s.reg s.agent a
    let y := s.src s.agent b
    exact ⟨x &&& y, x ||| y, x ^^^ y, x &&& ~~~y, fun _ _ => BitVec.getLsbD_and, fun _ _ => BitVec.getLsbD_or,
      fun _ _ => BitVec.getLsbD_xor, fun _ hn => getLsbD_andn x y hn, State.alu_next h rfl, State.alu_next h rfl,
      State.alu_next h rfl, State.alu_next (f := fun x y => x &&& ~~~y) h rfl⟩
  · let x := s.reg s.agent (wide5 a5)
    let y := s.reg s.agent (wide5 b5)
    let z := i.signExtend 64
    exact ⟨x &&& y, x ||| y, x ^^^ y, x &&& z, x ||| z, x ^^^ z, fun _ _ => BitVec.getLsbD_and, fun _ _ => BitVec.getLsbD_or,
      fun _ _ => BitVec.getLsbD_xor, fun _ _ => BitVec.getLsbD_and, fun _ _ => BitVec.getLsbD_or, fun _ _ => BitVec.getLsbD_xor,
      State.aluReg_next h rfl, State.aluReg_next h rfl, State.aluReg_next h rfl, State.aluImm_next h rfl, State.aluImm_next h rfl,
      State.aluImm_next h rfl⟩
  · exact ⟨State.alu_next h (minS_eq ..), State.alu_next h (maxS_eq ..), State.alu_next h (minU_eq ..), State.alu_next h (maxU_eq ..)⟩
  · exact ⟨State.aluReg_next h (minS_eq ..), State.aluReg_next h (maxS_eq ..)⟩
  · exact ⟨State.alu_next h (shlBy_eq ..), State.alu_next h (shrBy_eq ..), State.alu_next h (sraBy_eq ..),
      State.alu_next h (rotlBy_eq ..), State.alu_next h (rotrBy_eq ..)⟩
  · exact State.aluReg_next h (shlBy_eq ..)
  · exact State.aluReg_next h (shrBy_eq ..)
  · exact State.aluReg_next h (sraBy_eq ..)
  · rw [← toNat_signExtend_count hi]
    exact ⟨State.aluImm_next h (shlBy_eq ..), State.aluImm_next h (shrBy_eq ..), State.aluImm_next h (sraBy_eq ..)⟩
  · have hf : decide (i.toNat < 64) = false := decide_eq_false (by omega)
    simp [Instr.wf, Instr.limitOk, hf]

end Sys2Proof.Machine
end

section
/-! SUPPORT and O12. Counts, fields and constants (R103 to R105). -/

namespace Sys2Proof.Machine

/-! ## Counts (R103) -/

theorem leadZeros_eq {x : DWord} {k : Nat} (hk : k ≤ 64) (hz : ∀ i, 64 - k ≤ i → i < 64 → x.getLsbD i = false)
    (ho : k < 64 → x.getLsbD (63 - k) = true) : leadZeros x = k := by
  have hlt : x.toNat < 2 ^ (64 - k) := Nat.lt_pow_two_of_testBit _ fun i hi => by
    by_cases h : i < 64
    · exact hz i hi h
    · exact BitVec.getLsbD_of_ge x i (by omega)
  unfold leadZeros
  rcases hk.lt_or_eq with h | rfl
  · have hge : 2 ^ (63 - k) ≤ x.toNat := Nat.ge_two_pow_of_testBit (ho h)
    have hpos : x.toNat ≠ 0 := by have := Nat.two_pow_pos (63 - k); omega
    have hlog : x.toNat.log2 = 63 - k := (Nat.log2_eq_iff hpos).2 ⟨hge, by rwa [show 63 - k + 1 = 64 - k by omega]⟩
    rw [if_neg (fun e => hpos (congrArg BitVec.toNat e)), hlog]
    omega
  · exact if_pos (BitVec.eq_of_toNat_eq (Nat.lt_one_iff.1 hlt))

theorem trailZeros_eq {x : DWord} {k : Nat} (hk : k ≤ 64) (hz : ∀ i, i < k → x.getLsbD i = false)
    (ho : k < 64 → x.getLsbD k = true) : trailZeros x = k := by
  unfold trailZeros
  rcases hk.lt_or_eq with h | rfl
  · rw [List.find?_range_eq_some.2 ⟨ho h, List.mem_range.2 h, fun j hj => by rw [hz j hj]; rfl⟩, Option.getD_some]
  · rw [List.find?_eq_none.2 fun i hi => by rw [hz i (List.mem_range.1 hi)]; exact Bool.false_ne_true, Option.getD_none]

theorem popCount_eq (x : DWord) : popCount x = (Finset.univ.filter (fun i : Fin 64 => x.getLsbD i = true)).card := by
  have hr : popCount x = ((Finset.range 64).filter (fun i => x.getLsbD i = true)).card := by
    show _ = ((List.range 64).filter (fun i => decide (x.getLsbD i = true))).length
    simp only [Bool.decide_eq_true, popCount]
  rw [hr, Finset.card_filter, Finset.card_filter, ← Fin.sum_univ_eq_sum_range (fun i => if x.getLsbD i = true then 1 else 0) 64]

/-! ## Fields (R104) -/

theorem lt_of_lt_fieldBits {off wid i : Nat} (h : i < fieldBits off wid) : off < 64 := by
  unfold fieldBits at h
  split at h
  · next hc => exact hc.2
  · exact absurd h (Nat.not_lt_zero i)

theorem getLsbD_bfxOf (x : DWord) (off wid : Nat) {i : Nat} (hi : i < 64) :
    (bfxOf x off wid).getLsbD i = (decide (i < fieldBits off wid) && x.getLsbD (off + i)) := by
  rw [bfxOf, BitVec.getLsbD_ofNat, decide_eq_true hi, Bool.true_and, Nat.testBit_mod_two_pow, Nat.testBit_shiftRight]
  by_cases h : i < fieldBits off wid
  · rw [Nat.min_eq_left (lt_of_lt_fieldBits h).le]; rfl
  · rw [decide_eq_false h, Bool.false_and, Bool.false_and]

/-- The mask of a field's bits. -/
theorem testBit_fieldMask (off wid i : Nat) :
    ((2 ^ fieldBits off wid - 1) * 2 ^ min off 63).testBit i = decide (off ≤ i ∧ i < off + fieldBits off wid) := by
  rw [Nat.testBit_mul_two_pow, Nat.testBit_two_pow_sub_one, ← Bool.decide_and]
  refine decide_eq_decide.2 ⟨fun ⟨h1, h2⟩ => ?_, fun ⟨h1, h2⟩ => ?_⟩
  · have := lt_of_lt_fieldBits h2
    omega
  · have := lt_of_lt_fieldBits (i := i - off) (off := off) (wid := wid) (by omega)
    omega

theorem getLsbD_bfiOf (old x : DWord) (off wid : Nat) {i : Nat} (hi : i < 64) : (bfiOf old x off wid).getLsbD i =
    if off ≤ i ∧ i < off + fieldBits off wid then x.getLsbD (i - off) else old.getLsbD i := by
  simp only [bfiOf, BitVec.getLsbD_or, BitVec.getLsbD_and, BitVec.getLsbD_not, BitVec.getLsbD_shiftLeft, BitVec.getLsbD_ofNat, hi,
    decide_true, Bool.true_and, testBit_fieldMask]
  split
  · next h =>
    have hm : min off 63 = off := by omega
    simp [h, hm]
  · next h => simp [h]

/-- A literal's sub-fields are its bits [5:0] and [11:6] (R104). -/
theorem State.bfield_lit (s : State) (a : Agent) (w : Word) : s.bfield a (.lit w) = (w.toNat % 64, w.toNat / 64 % 64) := by
  simp [State.bfield, fieldNat, Nat.shiftRight_eq_div_pow]

theorem exec_bfx {s : State} {g : Guard} (h : s.acts s.agent g = true) (d a : BitVec 6) (f : BField) : exec (.bfx g d a f) s =
    .next (s.result s.agent d (bfxOf (s.reg s.agent a) (s.bfield s.agent f).1 (s.bfield s.agent f).2) (bfieldWords f)) := by
  show execBfx g d a f s = _
  rw [execBfx, State.guarded_acts h]

theorem exec_bfi {s : State} {g : Guard} (h : s.acts s.agent g = true) (d a : BitVec 6) (f : BField) : exec (.bfi g d a f) s =
    .next (s.result s.agent d (bfiOf (s.reg s.agent d) (s.reg s.agent a) (s.bfield s.agent f).1 (s.bfield s.agent f).2)
      (bfieldWords f)) := by
  show execBfi g d a f s = _
  rw [execBfi, State.guarded_acts h]

/-! ## Constants (R105) -/

theorem exec_movi {s : State} {g : Guard} (h : s.acts s.agent g = true) (hi zx : Bool) (d : BitVec 6) (w : Word) :
    exec (.movi g hi zx d w) s = .next (s.result s.agent d
      (if hi then w ++ (s.reg s.agent d).extractLsb' 0 32 else if zx then w.setWidth 64 else w.signExtend 64) 3) := by
  show execMovi g hi zx d w s = _
  rw [execMovi, State.guarded_acts h]

theorem upperHalf_eq (w : Word) (x : DWord) : w ++ x.extractLsb' 0 32 = BitVec.ofNat 64 (w.toNat * 2 ^ 32 + x.toNat % 2 ^ 32) := by
  apply BitVec.eq_of_toNat_eq
  have hlo : x.toNat % 2 ^ 32 < 2 ^ 32 := Nat.mod_lt _ (by decide)
  have hlt : 2 ^ 32 * w.toNat + x.toNat % 2 ^ 32 < 2 ^ 64 := by have := w.isLt; omega
  rw [BitVec.toNat_append, BitVec.extractLsb'_toNat, Nat.shiftRight_zero, Nat.shiftLeft_eq, Nat.mul_comm,
    ← Nat.two_pow_add_eq_or_of_lt hlo, BitVec.toNat_ofNat, Nat.mod_eq_of_lt hlt]

/-- Settles O12: counts by their values, fields bit by bit, constants by their forms. -/
theorem fieldsCountsAndConstants : Obligations.FieldsCountsAndConstants := by
  refine ⟨fun s g d a h => ?_, ?_, fun s g d w d5 j => ⟨fun h => ?_, fun h => ?_⟩⟩
  · exact ⟨fun k hk hz ho => State.unary_next (f := fun x => .ofNat 64 (leadZeros x)) h (congrArg _ (leadZeros_eq hk hz ho)),
      fun k hk hz ho => State.unary_next (f := fun x => .ofNat 64 (trailZeros x)) h (congrArg _ (trailZeros_eq hk hz ho)),
      State.unary_next (f := fun x => .ofNat 64 (popCount x)) h (congrArg _ (popCount_eq _))⟩
  · intro s g d a f h x old off wid n
    have hf : s.bfield s.agent f = (off, wid) := by
      cases f with
      | regs b c => rfl
      | imm o w => rfl
      | lit w => exact s.bfield_lit s.agent w
    refine ⟨bfxOf x off wid, bfiOf old x off wid, ?_, ?_, fun i hi => getLsbD_bfxOf x off wid hi,
      fun i hi => getLsbD_bfiOf old x off wid hi⟩
    · rw [exec_bfx h, hf]
    · rw [exec_bfi h, hf]
  · refine ⟨exec_movi h false false d w, ?_, ?_⟩
    · rw [BitVec.ofNat_toNat]
      exact exec_movi h false true d w
    · rw [← upperHalf_eq]
      exact exec_movi h true false d w
  · exact State.short_runs h (fun s => s.result s.agent (wide5 d5) (j.signExtend 64) 1)

end Sys2Proof.Machine
end

section
/-! SUPPORT and O18. Branches and calls (R110 to R112). -/

namespace Sys2Proof.Machine

/-! ## What an issue and a branch leave of the streams -/

theorem State.issued_strm (s : State) (a b : Agent) : (s.issued a).strm b = s.strm b := by
  cases a with
  | thread t => rfl
  | strm c k cls =>
    cases b with
    | thread u =>
      obtain ⟨cs, h⟩ := s.issued_rest c k cls
      rw [h]
      rfl
    | strm d j e =>
      by_cases hs : (d, j) = (c, k)
      · cases hs
        obtain ⟨v, fp, new, t, q, h⟩ := beatOf_landed cls (s.slot c k)
        show ((s.issued _).slot c k).strm e = _
        rw [State.issued_slot, h, Slot.landed_strm]
        rfl
      · exact congrArg (Slot.strm · e) (s.issued_slot_other cls hs)

theorem State.branch_strm (s : State) {a : Agent} (h : realAgent a = true) (l : Int) : (s.branch a l).strm a = (s.strm a).goto l :=
  (State.issued_strm _ a a).trans (s.strm_updStrm_real h _)

theorem State.branch_strm_other (s : State) {a b : Agent} (ha : realAgent a = true) (hb : realAgent b = true) (h : b ≠ a) (l : Int) :
    (s.branch a l).strm b = s.strm b :=
  (State.issued_strm _ a b).trans (s.strm_updStrm_other ha hb h _)

theorem State.branch_sameBytes (s : State) (a : Agent) (l : Int) : s.sameBytes (s.branch a l) :=
  State.sameBytes_trans (s.updStrm_sameBytes a _) (State.issued_sameBytes _ a)

/-- Settles O18: each instruction by its target and link, and a branch by the stream that it leaves. -/
theorem branchesAndCalls : Obligations.BranchesAndCalls := by
  refine ⟨?_, fun s l hr => ?_⟩
  · intro s g d a off o d5 j me l next back abs
    have hb : s.returnLine = back := rfl
    rw [← hb]
    have habs : abs + (o.toNat : Int) = ((s.reg me a).toNat + o.toNat : Nat) := (Nat.cast_add _ _).symm
    rw [habs]
    refine ⟨fun h => ⟨?_, ?_, ?_, ?_, ?_⟩, fun h => ⟨?_, ?_⟩⟩
    · exact State.guarded_acts h 3 (fun s => s.branch s.agent (s.here + off.toInt))
    · exact State.guarded_acts h 2 (fun s => s.branch s.agent ((s.reg s.agent a).toNat + o.toNat : Nat))
    · exact State.guarded_acts h 3 (fun s => (s.setReg s.agent d s.returnLine).branch s.agent (s.here + off.toInt))
    · exact State.guarded_acts h 2 (fun s =>
        (s.setReg s.agent d s.returnLine).branch s.agent ((s.reg s.agent a).toNat + o.toNat : Nat))
    · exact State.guarded_acts h 2 (fun s => s.branch s.agent (s.reg s.agent a).toNat)
    · exact State.short_runs h (fun s => s.branch s.agent (s.here + j.toInt))
    · exact State.short_runs h (fun s => (s.setReg s.agent (wide5 d5) s.returnLine).branch s.agent (s.here + j.toInt))
  · intro t u v
    have hu : u = v.goto l := s.branch_strm hr l
    rw [hu]
    exact ⟨rfl, rfl, rfl, rfl, rfl, rfl, rfl, rfl, fun a ha hn => s.branch_strm_other hr ha hn l, s.branch_sameBytes s.agent l⟩

end Sys2Proof.Machine
end

section
/-! SUPPORT and O19. Hardware loops (R113 to R115). -/

namespace Sys2Proof.Machine

/-! ## The stage predicates -/

theorem Stream.stagePreds_getLsbD (t : Stream) (hi : BitVec 8) (q : Nat) :
    (t.stagePreds hi).preds.getLsbD q = if q < 8 then t.preds.getLsbD q else hi.getLsbD (q - 8) := by
  show (hi ++ t.preds.extractLsb' 0 8).getLsbD q = _
  rw [BitVec.getLsbD_append]
  split
  · next h => rw [BitVec.getLsbD_extractLsb', decide_eq_true h, Bool.true_and, Nat.zero_add]
  · rfl

/-- The stream after a rotation by one pass, with other loop counts (R115). -/
def Stream.rotate (t : Stream) (fill : Bool) (l : Word) (e : BitVec 4) : Stream :=
  { t.stagePreds (t.preds.extractLsb' 8 7 ++ BitVec.ofBool fill) with lcnt := l, ecnt := e }

theorem Stream.rotate_rotated (t : Stream) (fill : Bool) (l : Word) (e : BitVec 4) : t.rotated (t.rotate fill l e) fill := by
  have hp (q : Nat) : (t.rotate fill l e).preds.getLsbD q = _ := t.stagePreds_getLsbD (t.preds.extractLsb' 8 7 ++ BitVec.ofBool fill) q
  refine ⟨rfl, fun q hq => ?_, ?_, fun q h9 h16 => ?_⟩
  · rw [hp, if_pos hq]
  · rw [hp, if_neg (by omega), BitVec.getLsbD_append, if_pos (by omega)]
    cases fill <;> rfl
  · rw [hp, if_neg (by omega), BitVec.getLsbD_append, if_neg (by omega), BitVec.getLsbD_extractLsb', decide_eq_true (by omega),
      Bool.true_and, show 8 + (q - 8 - 1) = q - 1 by omega]

/-! ## A change of the issuing stream -/

theorem State.updStrm_const (s : State) (a : Agent) (f : Stream → Stream) : s.updStrm a f = s.updStrm a (fun _ => f (s.strm a)) := by
  cases a <;> rfl

/-- A stream written as it is. -/
theorem State.updStrm_self (s : State) (a : Agent) (f : Stream → Stream) :
    (s.updStrm a (fun _ => s.strm a)).updStrm a f = s.updStrm a f := by
  cases a with
  | strm c k cls =>
    have hx : (s.slot c k).setStrm cls ((s.slot c k).strm cls) = s.slot c k := by cases cls <;> rfl
    simp only [State.updStrm, State.strm, State.updSlot, hx, State.slot_setSlot, State.setSlot_setSlot]
  | thread t => simp [State.updStrm, State.strm, State.updThread, State.thread]

/-! ## LOOP (R114) -/

/-- The stream that LOOP sets up. -/
def Stream.looped (t : Stream) (trips : Nat) (s1 : BitVec 3) : Stream :=
  if trips = 0 then { (t.stagePreds 0) with lcnt := 0, ecnt := 1 }
  else { (t.stagePreds 1) with lcnt := BitVec.ofNat 32 (trips - 1), ecnt := BitVec.ofNat 4 (s1.toNat + 1) }

theorem exec_loop {s : State} {g : Guard} (h : s.acts s.agent g = true) (s1 : BitVec 3) (n : Src) :
    exec (.loop g s1 n) s = .next ((s.updStrm s.agent
      (fun _ => (s.strm s.agent).looped (min (s.srcZ s.agent n).toNat (2 ^ 32)) s1)).advance s.agent (srcWords n)) := by
  show execLoop g s1 n s = _
  rw [execLoop, State.guarded_acts h]
  exact congrArg (fun u : State => Host.Outcome.next (u.advance s.agent (srcWords n)))
    (s.updStrm_const s.agent (·.looped (min (s.srcZ s.agent n).toNat (2 ^ 32)) s1))

theorem Stream.looped_spec (t : Stream) {trips : Nat} (h : trips ≤ 2 ^ 32) (s1 : BitVec 3) :
    let u := t.looped trips s1
    u.regs = t.regs ∧ u.lcnt.toNat = trips - 1 ∧ u.ecnt.toNat = (if trips = 0 then 1 else s1.toNat + 1) ∧
      u.preds.getLsbD 8 = decide (trips ≠ 0) ∧ (∀ q, 9 ≤ q → u.preds.getLsbD q = false) ∧
      (∀ q, q < 8 → u.preds.getLsbD q = t.preds.getLsbD q) := by
  have low (hi : BitVec 8) (q : Nat) (hq : q < 8) : (t.stagePreds hi).preds.getLsbD q = t.preds.getLsbD q := by
    rw [Stream.stagePreds_getLsbD, if_pos hq]
  have one (q : Nat) (hq : 9 ≤ q) : (1 : BitVec 8).getLsbD (q - 8) = false := by
    show (1#8).getLsbD (q - 8) = false
    rw [BitVec.getLsbD_one, decide_eq_false (p := q - 8 = 0) (by omega), Bool.and_false]
  have high (hi : BitVec 8) (q : Nat) (hq : 8 ≤ q) : (t.stagePreds hi).preds.getLsbD q = hi.getLsbD (q - 8) := by
    rw [Stream.stagePreds_getLsbD, if_neg (by omega)]
  intro u
  by_cases h0 : trips = 0
  · simp only [u, Stream.looped, if_pos h0]
    exact ⟨rfl, by rw [h0]; rfl, rfl, by rw [h0]; exact high 0 8 (by omega),
      fun q hq => (high 0 q (by omega)).trans BitVec.getLsbD_zero, low 0⟩
  · have hs := s1.isLt
    simp only [u, Stream.looped, if_neg h0]
    refine ⟨rfl, ?_, ?_, ?_, fun q hq => (high 1 q (by omega)).trans (one q hq), low 1⟩
    · rw [BitVec.toNat_ofNat]; omega
    · rw [BitVec.toNat_ofNat]; omega
    · rw [decide_eq_true h0]; exact high 1 8 (by omega)

/-! ## BLOOP (R115) -/

theorem Stream.bloop_trips {t : Stream} (h : t.lcnt ≠ 0) : t.bloop = (t.rotate true (t.lcnt - 1) t.ecnt, true, true) := by
  unfold Stream.bloop
  exact if_pos h

theorem Stream.bloop_drains {t : Stream} (h : t.lcnt = 0) (he : 1 < t.ecnt.toNat) :
    t.bloop = (t.rotate false t.lcnt (t.ecnt - 1), true, true) := by
  unfold Stream.bloop
  exact (if_neg (not_not.2 h)).trans (if_pos he)

theorem Stream.bloop_last {t : Stream} (h : t.lcnt = 0) (he : t.ecnt = 1) : t.bloop = (t.rotate false t.lcnt 0, true, false) := by
  unfold Stream.bloop
  exact (if_neg (not_not.2 h)).trans ((if_neg (by rw [he]; decide)).trans (if_pos he))

theorem Stream.bloop_none {t : Stream} (h : t.lcnt = 0) (he : t.ecnt = 0) : t.bloop = (t, false, false) := by
  unfold Stream.bloop
  exact (if_neg (not_not.2 h)).trans ((if_neg (by rw [he]; decide)).trans (if_neg (by rw [he]; decide)))

/-- A pass that rotates: in the vector stream the region turns too, and the pass is taken or falls through. -/
theorem State.bloopTo_turns {s : State} {a : Agent} {u : Stream} {taken : Bool} (h : (s.strm a).bloop = (u, true, taken)) (n : Nat)
    (l : Int) : s.bloopTo a n l =
      let w := if agentCls a = .vec then (s.updStrm a (fun _ => u)).updOwn a (fun x => { x with v := x.v.turn })
        else s.updStrm a (fun _ => u)
      if taken then w.branch a l else w.advance a n := by
  unfold State.bloopTo
  rw [h]
  simp only [Bool.true_and, beq_iff_eq]

/-- Without a loop the instruction only issues. -/
theorem State.bloopTo_none {s : State} {a : Agent} (h : (s.strm a).bloop = (s.strm a, false, false)) (n : Nat) (l : Int) :
    s.bloopTo a n l = s.advance a n := by
  unfold State.bloopTo
  rw [h]
  exact congrArg (State.issued · a) (s.updStrm_self a _)

/-- Settles O19: LOOP by the stream it sets up, BLOOP by its four kinds of pass. -/
theorem hardwareLoops : Obligations.HardwareLoops := by
  refine ⟨fun s g s1 n h => ⟨_, exec_loop h s1 n, Stream.looped_spec _ (Nat.min_le_right _ _) s1⟩, ?_⟩
  intro s g off j me t turned pass
  have hpass (i : Instr) (n : Nat) (dest : Int) (hi : exec i s = .next (s.bloopTo me n dest)) : pass i n dest := by
    refine ⟨fun hl => ?_, fun hl he => ?_, fun hl he => ?_, fun hl he => ?_⟩
    · refine ⟨_, t.rotate_rotated true (t.lcnt - 1) t.ecnt, ?_, rfl, ?_⟩
      · have hp : t.lcnt.toNat ≠ 0 := fun e => hl (BitVec.eq_of_toNat_eq e)
        show (t.lcnt - 1).toNat + 1 = t.lcnt.toNat
        bv_omega
      · rw [hi, State.bloopTo_turns (Stream.bloop_trips hl)]
        rfl
    · refine ⟨_, t.rotate_rotated false t.lcnt (t.ecnt - 1), hl, ?_, ?_⟩
      · show (t.ecnt - 1).toNat + 1 = t.ecnt.toNat
        bv_omega
      · rw [hi, State.bloopTo_turns (Stream.bloop_drains hl he)]
        rfl
    · refine ⟨_, t.rotate_rotated false t.lcnt 0, hl, rfl, ?_⟩
      rw [hi, State.bloopTo_turns (Stream.bloop_last hl he)]
      rfl
    · rw [hi, State.bloopTo_none (Stream.bloop_none hl he)]
  exact ⟨fun h => hpass _ _ _ (State.guarded_acts h 3 (fun s => s.bloopTo s.agent 3 (s.here + off.toInt))),
    fun h => hpass _ _ _ (State.short_runs h (fun s => s.bloopTo s.agent 1 (s.here + j.toInt)))⟩

end Sys2Proof.Machine
end

section
/-! SUPPORT and O20. Completion flags (R97, R98, R117). -/

namespace Sys2Proof.Machine

/-! ## Waiting signals (R98) -/

/-- The only signal that waits takes effect where nothing earlier is outstanding. -/
theorem Slot.runSigs_ready {x : Slot} {p : PendSig} (hs : x.sigs = []) (hp : x.sigReady p = true) :
    Slot.runSigs { x with sigs := x.sigs ++ [p] } = x.applySig p := by
  have hx : { x with sigs := [] } = x := by rw [← hs]
  show List.foldl _ { x with sigs := [] } (x.sigs ++ [p]) = _
  rw [hs, hx]
  exact if_pos hp

/-- Otherwise it goes on waiting. -/
theorem Slot.runSigs_kept {x : Slot} {p : PendSig} (hs : x.sigs = []) (hp : x.sigReady p = false) :
    Slot.runSigs { x with sigs := x.sigs ++ [p] } = { x with sigs := [p] } := by
  have hx : { x with sigs := [] } = x := by rw [← hs]
  show List.foldl _ { x with sigs := [] } (x.sigs ++ [p]) = _
  rw [hs, hx]
  refine (if_neg (by rw [hp]; exact Bool.false_ne_true)).trans ?_
  rw [hs]
  rfl

/-- No operation of the matrix stream is unfinished. -/
structure MatState.Idle (m : MatState) : Prop where
  cop : m.cop = none
  rop : m.rop = none
  clr : m.clr = none
  gread : m.gread = none
  followOns : m.followOns = []

theorem MatState.pendingBefore_idle {m : MatState} (h : m.Idle) (q : Nat) : m.pendingBefore q = false := by
  simp [MatState.pendingBefore, h.cop, h.rop, h.clr, h.gread, h.followOns]

theorem MatState.pendingBefore_running {m : MatState} {o : ComputeOp} {q : Nat} (ho : m.cop = some o) (hs : o.stat = .running)
    (hk : o.kind = .mm) (hq : o.seq < q) : m.pendingBefore q = true := by
  simp [MatState.pendingBefore, ho, hs, hk, hq, OpStat.pending]

/-- What a change to a flag makes of the slot once it takes effect. -/
def Slot.flagged (x : Slot) (pri f : Nat) (set : Bool) (v : BitVec 16) : Slot := if set then x.setFlag pri f v else x.addFlag f v

/-- Where no earlier result of its stream is outstanding, a change takes effect at once. -/
theorem Slot.signal_now {x : Slot} {cls : Cls} (hv : cls = .vec → x.v.inflight = [] ∧ x.sigs = [])
    (hm : cls = .mat → x.m.Idle ∧ x.sigs = []) (f : Nat) (set : Bool) (v : BitVec 16) :
    x.signal cls f set v = x.flagged (clsCode cls) f set v := by
  cases cls with
  | ctl | ldr | str | net => rfl
  | vec =>
    obtain ⟨hi, hs⟩ := hv rfl
    exact Slot.runSigs_ready hs (by simp [Slot.sigReady, hi])
  | mat =>
    obtain ⟨hi, hs⟩ := hm rfl
    exact Slot.runSigs_ready hs (by simp [Slot.sigReady, MatState.pendingBefore_idle hi])

/-- Behind a result in flight, or a running product, it waits. -/
theorem Slot.signal_vec_kept {x : Slot} (hs : x.sigs = []) (h : ∃ r ∈ x.v.inflight, r.ix < x.v.nextIx) (f : Nat) (set : Bool)
    (v : BitVec 16) : x.signal .vec f set v = { x with sigs := [⟨true, f, set, v, x.v.nextIx⟩] } :=
  Slot.runSigs_kept hs (by simpa [Slot.sigReady] using h)

theorem Slot.signal_mat_kept {x : Slot} (hs : x.sigs = []) {o : ComputeOp} (ho : x.m.cop = some o) (hr : o.stat = .running)
    (hk : o.kind = .mm) (hq : o.seq < x.m.nextSeq) (f : Nat) (set : Bool) (v : BitVec 16) :
    x.signal .mat f set v = { x with sigs := [⟨false, f, set, v, x.m.nextSeq⟩] } :=
  Slot.runSigs_kept hs (by simp [Slot.sigReady, MatState.pendingBefore_running ho hr hk hq])

/-! ## The changes of a core cycle (R97) -/

theorem Slot.putCyc_putCyc (x : Slot) (f : Nat) (c d : FlagCyc) : (x.putCyc f c).putCyc f d = x.putCyc f d := by
  simp [Slot.putCyc]

theorem Slot.flagCycOf_putCyc (x : Slot) (f : Nat) (c : FlagCyc) : (x.putCyc f c).flagCycOf f = c := Tbl.get_set_same ..

theorem Slot.addFlag_putCyc (x : Slot) (f : Nat) (c : FlagCyc) (v : BitVec 16) :
    (x.putCyc f c).addFlag f v = x.putCyc f { c with inc := c.inc + v } := by
  rw [Slot.addFlag, Slot.flagCycOf_putCyc, Slot.putCyc_putCyc]

theorem Slot.setFlag_putCyc (x : Slot) (f pri : Nat) (c : FlagCyc) (v : BitVec 16) :
    (x.putCyc f c).setFlag pri f v = x.putCyc f (c.write pri v) := by
  rw [Slot.setFlag, Slot.flagCycOf_putCyc, Slot.putCyc_putCyc]

/-- The first increment, and the first FSET, of a cycle. -/
theorem Slot.addFlag_first {x : Slot} (h : x.flagCyc = []) (f : Nat) (v : BitVec 16) :
    x.addFlag f v = x.putCyc f { set := none, inc := v } := by
  rw [Slot.addFlag, Slot.flagCycOf, h, Tbl.get_nil, FlagCyc.none, BitVec.ofNat_eq_ofNat, BitVec.zero_add]

theorem Slot.setFlag_first {x : Slot} (h : x.flagCyc = []) (pri f : Nat) (v : BitVec 16) :
    x.setFlag pri f v = x.putCyc f { set := some (pri, v), inc := 0 } := by
  rw [Slot.setFlag, Slot.flagCycOf, h, Tbl.get_nil]
  rfl

theorem FlagCyc.write_none (pri : Nat) (u v : BitVec 16) : FlagCyc.write { set := Option.none, inc := u } pri v =
    { set := some (pri, v), inc := u } := rfl

/-- An FSET of higher priority takes the place of one of lower, whichever comes first. -/
theorem FlagCyc.write_lower {p q : Nat} (h : p < q) (u v w : BitVec 16) :
    FlagCyc.write { set := some (p, v), inc := u } q w = { set := some (p, v), inc := u } := by
  simp [FlagCyc.write, Nat.not_le.2 h]

theorem FlagCyc.write_higher {p q : Nat} (h : p < q) (u v w : BitVec 16) :
    FlagCyc.write { set := some (q, w), inc := u } p v = { set := some (p, v), inc := u } := by
  simp [FlagCyc.write, h.le]

/-- The one flag that a cycle changes takes its new value at the end of the cycle. -/
theorem Slot.newCycle_flag {x : Slot} (h : x.flagCyc = []) (f n : Nat) (c : FlagCyc) :
    (x.putCyc f c).newCycle.flag n = if n = f then c.value (x.flag f) else x.flag n := by
  show Tbl.get 0 (List.foldl _ x.flags (Tbl.set x.flagCyc f c)) n = _
  rw [h]
  exact Tbl.get_set ..

/-! ## The instructions (R117) -/

section
variable {s : State} {f : Nat} {v : BitVec 16}

theorem State.fwait_on (h : v.toNat ≤ ((s.own s.agent).flag f).toNat) (n : Nat) : s.fwait f v.toNat n = s.advance s.agent n := if_pos h

theorem State.fwait_blocks (h : ((s.own s.agent).flag f).toNat < v.toNat) (n : Nat) : s.fwait f v.toNat n = s.block s.agent :=
  if_neg (by omega)

end

theorem exec_fwait {s : State} {g : Guard} (h : s.acts s.agent g = true) (f : BitVec 6) (lit : Bool) (v : BitVec 16) :
    exec (.fwait g f lit v) s = .next (s.fwait f.toNat v.toNat (if lit = true then 3 else 2)) :=
  State.guarded_acts h (formWords lit) (fun s => s.fwait f.toNat v.toNat (formWords lit))

theorem exec_fwaitShort {s : State} (h : (s.strm s.agent).skip = false) (f : BitVec 5) (v : BitVec 16) :
    exec (.fwaitShort f v) s = .next (s.fwait f.toNat v.toNat 1) :=
  State.short_runs h (fun s => s.fwait f.toNat v.toNat 1)

theorem exec_fread {s : State} {g : Guard} (h : s.acts s.agent g = true) (d f : BitVec 6) :
    exec (.fread g d f) s = .next (s.result s.agent d (.ofNat 64 ((s.own s.agent).flag f.toNat).toNat) 2) := by
  rw [BitVec.ofNat_toNat]
  exact State.guarded_acts h 2 (fun s => s.result s.agent d (((s.own s.agent).flag f.toNat).setWidth 64) 2)

/-- FSIG and FSET with nothing earlier outstanding. -/
theorem State.flagOp_now {s : State} (hv : agentCls s.agent = .vec → (s.own s.agent).v.inflight = [] ∧ (s.own s.agent).sigs = [])
    (hm : agentCls s.agent = .mat → (s.own s.agent).m.Idle ∧ (s.own s.agent).sigs = []) (f : Nat) (set : Bool)
    (v : BitVec 16) (n : Nat) :
    s.flagOp f set v n = (s.updOwn s.agent (fun y => y.flagged (clsCode (agentCls s.agent)) f set v)).advance s.agent n :=
  congrArg (State.advance · s.agent n) (s.updOwn_congr s.agent (Slot.signal_now hv hm f set v))

/-- Settles O20: waits and reads by the flag's value, changes that take effect or wait, and their combination in a cycle. -/
theorem completionFlags : Obligations.CompletionFlags := by
  refine ⟨fun s g d f lit v f5 =>
      ⟨fun h => ⟨fun hn => ?_, fun hn => ?_, exec_fread h d f⟩, fun h => ⟨fun hn => ?_, fun hn => ?_⟩⟩,
    fun s g f lit v f5 => ?_, fun x f n p q u v w => ⟨rfl, rfl, fun h => ⟨?_, ?_, fun hpq => ?_⟩⟩,
    fun x f set v hs => ⟨fun h => ?_, fun ⟨o, ho, hr, hk, hq⟩ => ?_⟩⟩
  · rw [exec_fwait h, State.fwait_on hn]
  · rw [exec_fwait h, State.fwait_blocks hn]
  · rw [exec_fwaitShort h, State.fwait_on hn]
  · rw [exec_fwaitShort h, State.fwait_blocks hn]
  · intro me x w hv hm
    have hop := State.flagOp_now (s := s) hv fun e =>
      have ⟨h1, h2, h3, h4, h5, h6⟩ := hm e
      ⟨⟨h1, h2, h3, h4, h5⟩, h6⟩
    refine ⟨fun h => ⟨?_, ?_⟩, fun h => ?_⟩
    · refine (State.guarded_acts h w (fun s => s.flagOp f.toNat false v w)).trans ?_
      rw [hop]
      rfl
    · refine (State.guarded_acts h w (fun s => s.flagOp f.toNat true v w)).trans ?_
      rw [hop]
      rfl
    · refine (State.short_runs h (fun s => s.flagOp f5.toNat false v 1)).trans ?_
      rw [hop]
      rfl
  · rw [Slot.addFlag_first h, Slot.newCycle_flag h]
    rfl
  · rw [Slot.setFlag_first h, Slot.newCycle_flag h]
    simp [FlagCyc.value]
  · simp only [List.forall_mem_cons, Slot.addFlag_first h, Slot.setFlag_first h, Slot.addFlag_putCyc, Slot.setFlag_putCyc,
      FlagCyc.write_none, FlagCyc.write_lower hpq, FlagCyc.write_higher hpq, Slot.newCycle_flag h, if_true, FlagCyc.value]
    simp
  · rw [Slot.signal_vec_kept hs h]
    exact ⟨rfl, rfl, rfl⟩
  · rw [Slot.signal_mat_kept hs ho hr hk hq]
    exact ⟨rfl, rfl, rfl⟩

end Sys2Proof.Machine
end

section
/-! SUPPORT. WAITB, one beat a step (R118). -/

namespace Sys2Proof.Machine

theorem State.issued_agent (s : State) (a : Agent) : (s.issued a).agent = s.agent := by
  cases a with
  | thread t => rfl
  | strm c k cls =>
    obtain ⟨cs, h⟩ := s.issued_rest c k cls
    rw [h]

/-- Beats that WAITB has still to take: all `n` where it begins. -/
def Stream.beatsLeft (t : Stream) (n : Nat) : Nat := if t.waitLeft = 0 then n else t.waitLeft

/-- One step of WAITB, of `w` words and `n` beats. -/
def State.waitBeat (s : State) (n w : Nat) : State :=
  let left := (s.strm s.agent).beatsLeft n
  if left ≤ 1 then s.advance s.agent w
  else (s.updStrm s.agent (fun t => { t with mode := .running, waitLeft := left - 1 })).issued s.agent

theorem exec_waitb {s : State} {g : Guard} (h : s.acts s.agent g = true) (lit : Bool) (n : BitVec 16) :
    exec (.waitb g lit n) s = .next (s.waitBeat n.toNat (if lit = true then 3 else 2)) :=
  State.guarded_acts h (formWords lit) (fun s => s.waitBeat n.toNat (formWords lit))

/-- `a` is `s` amid the wait of its running agent, with `left` beats to take. -/
structure State.Waits (s a : State) (n left : Nat) : Prop where
  agent : a.agent = s.agent
  bytes : s.sameBytes a
  strm : ∃ m l, a.strm s.agent = { s.strm s.agent with mode := m, waitLeft := l }
  left : (a.strm s.agent).beatsLeft n = left

section
variable {s a : State} {n left : Nat}

theorem State.Waits.begin (h : (s.strm s.agent).waitLeft = 0) : s.Waits s n n :=
  ⟨rfl, State.sameBytes_refl s, ⟨_, _, rfl⟩, if_pos h⟩

/-- The wait keeps the guard. -/
theorem State.Waits.acts (h : s.Waits a n left) (g : Guard) : a.acts a.agent g = s.acts s.agent g := by
  obtain ⟨m, l, hs⟩ := h.strm
  unfold State.acts
  rw [h.agent, hs]
  rfl

/-- A beat that is not the last leaves the stream at its place. -/
theorem State.Waits.beat (h : s.Waits a n left) (hr : realAgent s.agent = true) (hl : 1 < left) (w : Nat) :
    s.Waits (a.waitBeat n w) n (left - 1) := by
  obtain ⟨m, l, hs⟩ := h.strm
  have hb : a.waitBeat n w =
      (a.updStrm s.agent (fun t => { t with mode := .running, waitLeft := left - 1 })).issued s.agent := by
    unfold State.waitBeat
    simp only [h.agent, h.left]
    exact if_neg (by omega)
  have ht : (a.waitBeat n w).strm s.agent = { s.strm s.agent with mode := .running, waitLeft := left - 1 } := by
    rw [hb, State.issued_strm, State.strm_updStrm_real _ hr, hs]
  refine ⟨?_, ?_, ⟨_, _, ht⟩, ?_⟩
  · rw [hb, State.issued_agent, State.updStrm_agent, h.agent]
  · rw [hb]
    exact State.sameBytes_trans h.bytes (State.sameBytes_trans (a.updStrm_sameBytes _ _) (State.issued_sameBytes _ _))
  · rw [ht]
    exact if_neg (Nat.sub_ne_zero_of_lt hl)

/-- The last moves past the instruction. -/
theorem State.Waits.last (h : s.Waits a n left) (hl : left ≤ 1) (w : Nat) : a.waitBeat n w = a.advance s.agent w := by
  unfold State.waitBeat
  simp only [h.agent, h.left]
  exact if_pos hl

end

/-- The states of a wait, one a beat. -/
theorem State.Waits.iterate {s : State} (hr : realAgent s.agent = true) (h0 : (s.strm s.agent).waitLeft = 0) {n : Nat} (w : Nat) :
    ∀ i, i < n → s.Waits ((fun a => a.waitBeat n w)^[i] s) n (n - i)
  | 0, _ => State.Waits.begin h0
  | i + 1, hi => by
    rw [Function.iterate_succ_apply', ← Nat.sub_sub]
    exact (State.Waits.iterate hr h0 w i (by omega)).beat hr (by omega) w

/-- The states before and after each of the `n` beats of WAITB. -/
theorem waitb_beats {s : State} {g : Guard} (ha : s.acts s.agent g = true) (hr : realAgent s.agent = true)
    (h0 : (s.strm s.agent).waitLeft = 0) (lit : Bool) (n : BitVec 16) (hn : 1 ≤ n.toNat) :
    let w := if lit = true then 3 else 2
    ∃ us : List State, us.length = n.toNat + 1 ∧ us.head? = some s ∧
      (∀ (i : Nat) (a b : State), us[i]? = some a → us[i + 1]? = some b → exec (.waitb g lit n) a = .next b) ∧
      (∀ (i : Nat) (a : State), us[i]? = some a → i < n.toNat → (a.strm s.agent).word = (s.strm s.agent).word) ∧
      ∀ b, us.getLast? = some b → (b.strm s.agent).word = (s.strm s.agent).word + w ∧ (b.strm s.agent).mode = .running ∧
        (b.strm s.agent).regs = (s.strm s.agent).regs ∧ s.sameBytes b := by
  intro w
  let f (a : State) : State := a.waitBeat n.toNat w
  have hwait (i : Nat) (hi : i < n.toNat) : s.Waits (f^[i] s) n.toNat (n.toNat - i) := State.Waits.iterate hr h0 w i hi
  have hlen : (List.iterate f s (n.toNat + 1)).length = n.toNat + 1 := List.length_iterate ..
  have hget (i : Nat) (hi : i < n.toNat + 1) : (List.iterate f s (n.toNat + 1))[i]? = some (f^[i] s) := List.getElem?_iterate f s _ i hi
  refine ⟨List.iterate f s (n.toNat + 1), hlen, rfl, fun i a b hia hib => ?_, fun i a hia hi => ?_, fun b hb => ?_⟩
  · have hi : i + 1 < n.toNat + 1 := hlen ▸ (List.getElem?_eq_some_iff.1 hib).1
    obtain rfl := Option.some.inj ((hget i (by omega)).symm.trans hia)
    obtain rfl := Option.some.inj ((hget (i + 1) hi).symm.trans hib)
    rw [exec_waitb (((hwait i (by omega)).acts g).trans ha), Function.iterate_succ_apply']
  · obtain rfl := Option.some.inj ((hget i (by omega)).symm.trans hia)
    obtain ⟨m, l, hs⟩ := (hwait i hi).strm
    rw [hs]
  · obtain ⟨k, hk⟩ : ∃ k, n.toNat = k + 1 := ⟨n.toNat - 1, by omega⟩
    have hk' := hwait k (by omega)
    have hlast : b = (f^[k] s).advance s.agent w := by
      rw [List.getLast?_eq_getElem?, hlen, hget _ (by omega), hk, Nat.add_sub_cancel, Function.iterate_succ_apply'] at hb
      exact (Option.some.inj hb).symm.trans (hk'.last (by omega) w)
    obtain ⟨m, l, hs⟩ := hk'.strm
    rw [hlast, State.advance_strm_real _ hr, hs]
    exact ⟨rfl, rfl, rfl, State.sameBytes_trans hk'.bytes (State.advance_sameBytes _ _ w)⟩

end Sys2Proof.Machine
end

section
/-! SUPPORT and O21. SHALT, by the class of its stream (R98, R119, R130). -/

namespace Sys2Proof.Machine

/-! ## An issue-beat and the results in flight (R127, R388) -/

/-- A missing reply holds its own beat and every later one. -/
theorem landLimit_le_due {rs : List InFlight} {r : InFlight} (hr : r ∈ rs) (ha : r.arrived = false) (beat : Nat) :
    landLimit rs beat ≤ r.due := by
  unfold landLimit
  generalize beat + 1 = n
  have hle (l : List InFlight) (n : Nat) : l.foldl (fun n r => if r.arrived then n else min n r.due) n ≤ n :=
    List.foldlRecOn (motive := fun k => k ≤ n) l _ (Nat.le_refl n) (fun k hk q _ => by
      split
      · exact hk
      · exact (Nat.min_le_left _ _).trans hk)
  induction rs generalizing n with
  | nil => exact absurd hr List.not_mem_nil
  | cons q rs ih =>
    rw [List.foldl_cons]
    rcases List.mem_cons.1 hr with rfl | hm
    · rw [ha]
      exact (hle rs _).trans (Nat.min_le_right _ _)
    · exact ih hm _

theorem Slot.beat_inflight (x : Slot) : x.beat.v.inflight =
    x.v.inflight.filter (fun r => !(decide (r.due < landLimit x.v.inflight x.v.beat) && r.fault.isNone)) := by
  obtain ⟨v, fp, new, hv, he⟩ := x.landDue_runSigs x.v.beat
  obtain ⟨t, q, hr⟩ := (x.landed v fp new x.flagCyc x.sigs).runSigs_eq
  unfold Slot.beat
  rw [he, hr]
  exact hv

/-- A result whose reply is missing stays in flight. -/
theorem Slot.mem_beat_inflight {x : Slot} {r : InFlight} (hr : r ∈ x.v.inflight) (ha : r.arrived = false) : r ∈ x.beat.v.inflight := by
  have hl := landLimit_le_due hr ha x.v.beat
  rw [Slot.beat_inflight]
  exact List.mem_filter.2 ⟨hr, by rw [decide_eq_false (by omega)]; rfl⟩

/-- With no signal waiting, a beat changes no flag. -/
theorem Slot.beat_flags {x : Slot} (h : x.sigs = []) : x.beat.sigs = [] ∧ x.beat.flagCyc = x.flagCyc := by
  obtain ⟨v, fp, new, -, he⟩ := x.landDue_runSigs x.v.beat
  have hs : (x.landed v fp new x.flagCyc x.sigs).sigs = [] := h
  unfold Slot.beat
  rw [he, Slot.runSigs_none hs]
  exact ⟨hs, rfl⟩

theorem beatOf_flags (cls : Cls) (x : Slot) : (beatOf cls x).flags = x.flags := by
  obtain ⟨v, fp, new, t, q, h⟩ := beatOf_landed cls x
  rw [h]
  rfl

theorem beatOf_strm (cls : Cls) (x : Slot) (d : Cls) : (beatOf cls x).strm d = x.strm d := by
  obtain ⟨v, fp, new, t, q, h⟩ := beatOf_landed cls x
  rw [h, Slot.landed_strm]

/-! ## The halt -/

theorem Slot.signalAll_flags (x : Slot) (fs : List Nat) : (x.signalAll fs).flags = x.flags := by
  obtain ⟨t, h⟩ := x.signalAll_eq fs
  rw [h]

/-- No halt changes a flag within its cycle (R97). -/
theorem Slot.haltStream_flags (x : Slot) (cls : Cls) (fs : List Nat) : (x.haltStream cls fs).flags = x.flags := by
  obtain ⟨-, hd, -⟩ := x.drained_spec
  unfold Slot.haltStream
  dsimp only
  split
  · exact (x.setStrm_quiet cls _).1
  · split
    · exact (Slot.signalAll_flags _ _).trans ((x.drained.setStrm_quiet cls _).1.trans hd)
    · exact (Slot.signalAll_flags _ _).trans (x.setStrm_quiet cls _).1

theorem Slot.shalt_flags (x : Slot) (cls : Cls) (f : Option Nat) : (x.shalt cls f).flags = x.flags := by
  unfold Slot.shalt
  split
  · exact (Slot.Stops.runSigs _).flags.trans (x.haltStream_flags .mat [])
  · exact x.haltStream_flags _ _

/-- A stream that owes no signals, other than the vector stream, halts and makes those asked for. -/
theorem Slot.haltStream_plain {x : Slot} {cls : Cls} (hn : cls ≠ .net) (hv : cls ≠ .vec)
    (ho : (x.strm cls).owedSigs = []) (fs : List Nat) :
    let y := x.haltStream cls fs
    y.strm cls = (x.strm cls).halt ∧ y.sigs = x.sigs ∧ y.m = x.m ∧ ∀ n, y.flagNow n = x.flagNow n + .ofNat 16 (fs.count n) := by
  obtain ⟨y, hy, he, -⟩ := Slot.haltStream_halts hn (.inl hv) fs
  obtain ⟨t, ht⟩ := y.signalAll_eq fs
  obtain ⟨-, hsig, hcyc⟩ := hy.plain hv
  rw [ho, List.nil_append] at he
  rw [he]
  refine ⟨?_, ?_, ?_, fun n => ?_⟩
  · rw [Slot.signalAll_strm, hy.self]
  · rw [ht]; exact hsig
  · rw [ht]; exact hy.m
  · rw [Slot.signalAll_flagNow, Slot.flagNow_congr hy.flags hcyc]

/-! ## SHALT's own halt, by the class of its stream -/

section
variable {x : Slot} {f : Option Nat}

/-- A loader or storer stream halts and makes its signal. -/
theorem Slot.shalt_plain {cls : Cls} (hc : cls = .ldr ∨ cls = .str) (ho : (x.strm cls).owedSigs = []) :
    (x.shalt cls f).strm cls = (x.strm cls).halt ∧ ∀ n, (x.shalt cls f).flagNow n = x.flagNow n + .ofNat 16 (f.toList.count n) := by
  have he : x.shalt cls f = x.haltStream cls f.toList := by obtain rfl | rfl := hc <;> rfl
  obtain ⟨hs, -, -, hf⟩ := Slot.haltStream_plain (by rintro rfl; exact hc.elim nofun nofun) (by rintro rfl; exact hc.elim nofun nofun)
    ho f.toList
  rw [he]
  exact ⟨hs, hf⟩

/-- A matrix stream halts, whatever becomes of its signal. -/
theorem Slot.shalt_mat_strm (ho : x.mat.owedSigs = []) : (x.shalt .mat f).strm .mat = x.mat.halt := by
  obtain ⟨hs, -⟩ := Slot.haltStream_plain (cls := .mat) nofun nofun ho []
  cases f with
  | none => exact hs
  | some f => exact (Slot.runSigs_strm _ .mat).trans hs

/-- Its signal is made where none of its operations is unfinished. -/
theorem Slot.shalt_mat_idle (ho : x.mat.owedSigs = []) (hm : x.m.Idle) (hs : x.sigs = []) (n : Nat) :
    (x.shalt .mat f).flagNow n = x.flagNow n + .ofNat 16 (f.toList.count n) := by
  obtain ⟨-, hsig, hmat, hflag⟩ := Slot.haltStream_plain (cls := .mat) nofun nofun ho []
  cases f with
  | none => exact hflag n
  | some f =>
    have he : x.shalt .mat (some f) = (x.haltStream .mat []).signalAll [f] :=
      Slot.signal_now (cls := .mat) nofun (fun _ => ⟨hmat ▸ hm, hsig.trans hs⟩) f false 1
    rw [he, Slot.signalAll_flagNow, hflag]
    exact congrArg (· + _) (BitVec.add_zero _)

/-- Behind a running product its signal waits. -/
theorem Slot.shalt_mat_waits (ho : x.mat.owedSigs = []) {o : ComputeOp} (hc : x.m.cop = some o) (hr : o.stat = .running) (hk : o.kind = .mm)
    (hq : o.seq < x.m.nextSeq) (hs : x.sigs = []) :
    (∀ n, (x.shalt .mat f).flagNow n = x.flagNow n) ∧ (x.shalt .mat f).sigs.length = f.toList.length := by
  obtain ⟨-, hsig, hmat, hflag⟩ := Slot.haltStream_plain (cls := .mat) nofun nofun ho []
  have hflag (n : Nat) : (x.haltStream .mat []).flagNow n = x.flagNow n := (hflag n).trans (BitVec.add_zero _)
  cases f with
  | none => exact ⟨hflag, congrArg List.length (hsig.trans hs)⟩
  | some f =>
    have he : x.shalt .mat (some f) = _ :=
      Slot.signal_mat_kept (hsig.trans hs) (hmat ▸ hc) hr hk (hmat ▸ hq) f false 1
    rw [he]
    exact ⟨hflag, rfl⟩

/-- A vector stream whose replies have all come halts with its results written. -/
theorem Slot.shalt_vec_halts (ho : x.vec.owedSigs = []) (hr : ∀ r ∈ x.v.inflight, r.arrived = true ∧ r.fault = none) :
    (x.shalt .vec f).strm .vec = x.vec.halt ∧ (x.shalt .vec f).v.inflight = [] ∧
      (x.sigs = [] → ∀ n, (x.shalt .vec f).flagNow n = x.flagNow n + .ofNat 16 (f.toList.count n)) := by
  have hno : ¬ ∃ r ∈ x.v.inflight, r.arrived = false := by
    rintro ⟨r, hm, ha⟩
    rw [(hr r hm).1] at ha
    exact Bool.noConfusion ha
  obtain ⟨y, hy, he, hin⟩ := Slot.haltStream_halts (cls := .vec) nofun (.inr hno) f.toList
  obtain ⟨t, ht⟩ := y.signalAll_eq f.toList
  have he : x.shalt .vec f = y.signalAll f.toList := by
    refine Eq.trans ?_ (he.trans (congrArg (fun q => y.signalAll (q ++ f.toList)) ho))
    cases f <;> rfl
  rw [he]
  refine ⟨?_, ?_, fun hs n => ?_⟩
  · rw [Slot.signalAll_strm, hy.self]
    rfl
  · rw [ht]; exact hin rfl hr
  · rw [Slot.signalAll_flagNow, Slot.flagNow_congr hy.flags (hy.sigs hs).2]

/-- One that still awaits replies drains. -/
theorem Slot.shalt_vec_drains (ho : x.vec.owedSigs = []) (hr : ∃ r ∈ x.v.inflight, r.arrived = false) :
    x.shalt .vec f = x.setStrm .vec { x.vec.done with mode := .draining f.toList } := by
  have he := Slot.haltStream_waits hr f.toList
  rw [ho, List.nil_append] at he
  cases f <;> exact he

end

/-! ## The instruction -/

/-- The stream that SHALT halts, past its words. -/
def Stream.past (t : Stream) (n : Nat) : Stream := { t.done with word := t.word + n }

theorem Stream.past_owedSigs (t : Stream) (n : Nat) : (t.past n).owedSigs = [] := Stream.owedSigs_none (.inl rfl)

/-- The slot of a stream that has issued SHALT, before its halt. -/
def Slot.issuedShalt (x : Slot) (cls : Cls) : Slot := beatOf cls (x.setStrm cls ((x.strm cls).past 2))

theorem Slot.issuedShalt_strm (x : Slot) {cls : Cls} (h : cls ≠ .net) : (x.issuedShalt cls).strm cls = (x.strm cls).past 2 :=
  (beatOf_strm cls _ cls).trans (x.strm_setStrm _ h)

theorem Slot.issuedShalt_flags (x : Slot) (cls : Cls) : (x.issuedShalt cls).flags = x.flags :=
  (beatOf_flags cls _).trans (x.setStrm_quiet cls _).1

/-- With no signal waiting, the issue changes no flag. -/
theorem Slot.issuedShalt_quiet {x : Slot} (h : x.sigs = []) (cls : Cls) :
    (x.issuedShalt cls).sigs = [] ∧ ∀ n, (x.issuedShalt cls).flagNow n = x.flagNow n := by
  obtain ⟨hf, hc, hs, -⟩ := x.setStrm_quiet cls ((x.strm cls).past 2)
  cases cls
  case vec =>
    obtain ⟨h1, h2⟩ := Slot.beat_flags (hs.trans h)
    exact ⟨h1, Slot.flagNow_congr (x.issuedShalt_flags .vec) (h2.trans hc)⟩
  all_goals exact ⟨hs.trans h, Slot.flagNow_congr hf hc⟩

/-- Of a stream of another class than the vector stream the issue changes nothing else. -/
theorem Slot.issuedShalt_plain (x : Slot) {cls : Cls} (h : cls ≠ .vec) : (x.issuedShalt cls).m = x.m ∧
    ∀ n, (x.issuedShalt cls).flagNow n = x.flagNow n := by
  obtain ⟨hf, hc, -⟩ := x.setStrm_quiet cls ((x.strm cls).past 2)
  obtain ⟨-, -, -, hm⟩ := x.setStrm_rest cls ((x.strm cls).past 2)
  cases cls
  case vec => exact absurd rfl h
  all_goals exact ⟨hm, Slot.flagNow_congr hf hc⟩

/-- What is in flight after the issue was so before; a missing reply is still awaited. -/
theorem Slot.issuedShalt_inflight (x : Slot) : (∀ r ∈ (x.issuedShalt .vec).v.inflight, r ∈ x.v.inflight) ∧
    ∀ r ∈ x.v.inflight, r.arrived = false → r ∈ (x.issuedShalt .vec).v.inflight := by
  refine ⟨fun r hr => ?_, fun r hr ha => Slot.mem_beat_inflight (x := x.setStrm .vec (x.vec.past 2)) hr ha⟩
  have he : (x.issuedShalt .vec).v.inflight = _ := Slot.beat_inflight (x.setStrm .vec (x.vec.past 2))
  rw [he] at hr
  exact (List.mem_filter.1 hr).1

theorem exec_shalt {s : State} {g : Guard} {c k : Nat} {cls : Cls} (hm : s.agent = .strm c k cls) (h : s.acts s.agent g = true)
    (f : Option (BitVec 6)) : ∃ t, exec (.shalt g f) s = .next t ∧ s.sameBytes t ∧
      t.slot c k = ((s.slot c k).issuedShalt cls).shalt cls (f.map (·.toNat)) := by
  refine ⟨_, State.guarded_acts h 2
    (fun s => (s.advance s.agent 2).updOwn s.agent (fun x => x.shalt (agentCls s.agent) (f.map (fun r : BitVec 6 => r.toNat)))), ?_, ?_⟩
  · exact State.sameBytes_trans (State.advance_sameBytes _ _ _) (State.updOwn_sameBytes _ _ _)
  · rw [hm]
    refine (State.slot_updSlot _ c k _).trans ?_
    rw [State.advance_slot]
    rfl

/-- A halted stream past SHALT's words. -/
theorem Stream.halt_past {t u : Stream} (h : u = (t.past 2).halt) : u.mode = .halted ∧ u.word = t.word + 2 ∧ u.regs = t.regs := by
  rw [h]
  exact ⟨rfl, rfl, rfl⟩

/-- Settles O21: WAITB by its beats, SHALT by the class of its stream. -/
theorem waitsAndHalts : Obligations.WaitsAndHalts := by
  refine ⟨fun s g lit n ha => ?_, fun s g f c k cls hm ha => ?_⟩
  · intro me w k left
    refine ⟨fun hl => ?_, fun hl => ?_, fun hr h0 hn => waitb_beats ha hr h0 lit n hn⟩
    · rw [exec_waitb ha]
      exact congrArg Host.Outcome.next (if_pos hl)
    · rw [exec_waitb ha]
      exact congrArg Host.Outcome.next (if_neg (Nat.not_le.2 hl))
  · intro x
    obtain ⟨t, ht, hb, hs⟩ := exec_shalt hm ha f
    let f' : Option Nat := f.map (·.toNat)
    have hown (hn : cls ≠ .net) : (x.issuedShalt cls).strm cls = (s.strm s.agent).past 2 := by
      rw [hm]
      exact x.issuedShalt_strm hn
    have howed (hn : cls ≠ .net) : ((x.issuedShalt cls).strm cls).owedSigs = [] := by rw [hown hn, Stream.past_owedSigs]
    have hme : t.strm s.agent = ((x.issuedShalt cls).shalt cls f').strm cls := by
      rw [hm]
      exact congrArg (Slot.strm · cls) hs
    refine ⟨t, ht, ?_⟩
    rw [hme, hs]
    intro signalled halted
    have hsig (h : ∀ n, ((x.issuedShalt cls).shalt cls f').flagNow n = x.flagNow n + .ofNat 16 (f'.toList.count n)) : signalled :=
      fun n => (h n).trans (congrArg (x.flagNow n + ·) (count_toList f n))
    refine ⟨hb, fun n => ?_, fun hc => ?_, fun hc => ?_, fun hc hr => ?_, fun hc hr => ?_⟩
    · exact congrArg (Tbl.get 0 · n) ((Slot.shalt_flags _ _ _).trans (x.issuedShalt_flags cls))
    · have hn : cls ≠ .net := by rintro rfl; exact hc.elim nofun nofun
      have hv : cls ≠ .vec := by rintro rfl; exact hc.elim nofun nofun
      obtain ⟨hst, hf⟩ := Slot.shalt_plain (f := f') hc (howed hn)
      exact ⟨Stream.halt_past (hst.trans (congrArg Stream.halt (hown hn))),
        hsig fun n => (hf n).trans (congrArg (· + _) ((x.issuedShalt_plain hv).2 n))⟩
    · subst hc
      obtain ⟨hmat, hflag⟩ := x.issuedShalt_plain (cls := .mat) nofun
      have ho := howed nofun
      refine ⟨Stream.halt_past ((Slot.shalt_mat_strm ho).trans (congrArg Stream.halt (hown nofun))), ?_, ?_⟩
      · intro h1 h2 h3 h4 h5 h6
        have hi : (x.issuedShalt .mat).m.Idle := hmat ▸ ⟨h1, h2, h3, h4, h5⟩
        exact hsig fun n => (Slot.shalt_mat_idle ho hi (Slot.issuedShalt_quiet h6 .mat).1 n).trans (congrArg (· + _) (hflag n))
      · intro o h1 h2 h3 h4 h5
        obtain ⟨hf, hl⟩ := Slot.shalt_mat_waits (f := f') ho (hmat ▸ h1) h2 h3 (hmat ▸ h4) (Slot.issuedShalt_quiet h5 .mat).1
        exact ⟨fun n => (hf n).trans (hflag n), hl.trans (by cases f <;> rfl)⟩
    · subst hc
      obtain ⟨hst, hin, hf⟩ := Slot.shalt_vec_halts (f := f') (howed nofun) (fun r h => hr r (x.issuedShalt_inflight.1 r h))
      refine ⟨Stream.halt_past (hst.trans (congrArg Stream.halt (hown nofun))), hin, fun h => hsig fun n => ?_⟩
      obtain ⟨hq, hflag⟩ := Slot.issuedShalt_quiet h .vec
      exact (hf hq n).trans (congrArg (· + _) (hflag n))
    · subst hc
      obtain ⟨r, hm, ha⟩ := hr
      have he := Slot.shalt_vec_drains (f := f') (howed nofun) ⟨r, x.issuedShalt_inflight.2 r hm ha, ha⟩
      rw [he]
      refine ⟨rfl, fun n h => ?_⟩
      exact (Slot.issuedShalt_quiet h .vec).2 n

end Sys2Proof.Machine
end

section
/-! SUPPORT and O28. The element-wise instructions as the frame of class 010 (R139), and what their queue sources decide (R138, R166). -/

namespace Sys2Proof.Machine

/-- The elements of VSEL, by the select mask, and of VMOV, the literal in the literal form (R142). -/
def selElem (x : VArgs) (me : Slot) (e a b _ : Nat) : Nat × FFlags := (if (me.v.mask x.c.toNat).getLsbD e then a else b, ffNone)
def movElem (x : VArgs) (_ : Slot) (_ a _ _ : Nat) : Nat × FFlags :=
  (match x.b with | .lit w => litElem (vWide x.ty) w | .reg _ => a | .queue _ => a, ffNone)

theorem exec_vmov (x : VArgs) (s : State) : exec (.vmov x) s = s.velem x 1 2 false none (movElem x) := by
  obtain ⟨g, ty, round, mask, d, a, b, c⟩ := x
  cases b <;> rfl

/-- Every element-wise instruction is the frame of class 010 over its latencies and its operation (R129, R139). -/
theorem exec_velem (x : VArgs) : ∀ i ∈ [Instr.vadd x, .vsub x, .vmul x, .fma x, .fms x, .fnma x, .vmin x, .vmax x, .vminnum x,
    .vmaxnum x, .vabs x, .vneg x, .vand x, .vor x, .vxor x, .vshl x, .vshr x, .vsra x, .vcmp x, .vsel x, .vmov x, .vdiv x, .vsqrt x],
    ∃ l16 l32 z k op, ∀ s : State, exec i s = s.velem x l16 l32 z k op := by
  simp only [List.forall_mem_cons, List.not_mem_nil, false_imp_iff, implies_true, and_true]
  exact ⟨⟨3, 4, false, none, addE x, fun _ => rfl⟩, ⟨3, 4, false, none, subE x, fun _ => rfl⟩,
    ⟨4, 5, false, none, mulE x, fun _ => rfl⟩, ⟨4, 6, true, none, fmaE x, fun _ => rfl⟩,
    ⟨4, 6, true, none, fmsE x, fun _ => rfl⟩, ⟨4, 6, true, none, fnmaE x, fun _ => rfl⟩,
    ⟨2, 3, false, none, minMax x false false, fun _ => rfl⟩, ⟨2, 3, false, none, minMax x true false, fun _ => rfl⟩,
    ⟨2, 3, false, none, minMax x false true, fun _ => rfl⟩, ⟨2, 3, false, none, minMax x true true, fun _ => rfl⟩,
    ⟨1, 2, false, none, absOp x, fun _ => rfl⟩, ⟨1, 2, false, none, negElem x, fun _ => rfl⟩,
    ⟨1, 2, false, none, bitwise (· &&& ·), fun _ => rfl⟩, ⟨1, 2, false, none, bitwise (· ||| ·), fun _ => rfl⟩,
    ⟨1, 2, false, none, bitwise (· ^^^ ·), fun _ => rfl⟩, ⟨2, 2, false, none, bitwise (shiftOp x 0), fun _ => rfl⟩,
    ⟨2, 2, false, none, bitwise (shiftOp x 1), fun _ => rfl⟩, ⟨2, 2, false, none, bitwise (shiftOp x 2), fun _ => rfl⟩,
    ⟨2, 3, false, some x.d.toNat, cmpElem x, fun _ => rfl⟩, ⟨1, 2, false, none, selElem x, fun _ => rfl⟩,
    ⟨1, 2, false, none, movElem x, exec_vmov x⟩, ⟨12, 24, false, none, divE x, fun _ => rfl⟩,
    ⟨12, 24, false, none, sqrtE x, fun _ => rfl⟩⟩

theorem State.velem_wait {s : State} {x : VArgs} (hg : s.acts s.agent x.g = true) {z : Bool} {l16 l32 : Nat} {k : Option Nat}
    {op : Slot → Nat → Nat → Nat → Nat → Nat × FFlags}
    (h : (s.own s.agent).qSay ((qOfA (vWide x.ty) x.a).toList ++ (qOfB (vWide x.ty) x.b).toList) 3 = .wait) :
    s.velem x l16 l32 z k op = .next (s.block s.agent) := by
  unfold State.velem
  rw [State.guarded_acts hg]
  dsimp only
  rw [show (s.own s.agent).seen.qSay _ 3 = _ from h]

theorem State.velem_bad {s : State} {x : VArgs} (hg : s.acts s.agent x.g = true) {z : Bool} {l16 l32 : Nat} {k : Option Nat}
    {op : Slot → Nat → Nat → Nat → Nat → Nat × FFlags}
    (h : (s.own s.agent).qSay ((qOfA (vWide x.ty) x.a).toList ++ (qOfB (vWide x.ty) x.b).toList) 3 = .bad) :
    s.velem x l16 l32 z k op = .next (s.raise s.agent (Exc.of 3 3)) := by
  unfold State.velem
  rw [State.guarded_acts hg]
  dsimp only
  rw [show (s.own s.agent).seen.qSay _ 3 = _ from h]

/-- What one queue source allows of the consumer that it serves (R166). -/
theorem Slot.qSay_one {x : Slot} {q k cons : Nat} (h : (x.queue q).popBy cons = true) :
    x.qSay [(q, k)] cons = if k ≤ (x.queue q).ready then .go else .wait := by
  simp [Slot.qSay, h]

/-- Settles O28: the instructions share the frame of class 010, in which the queue sources decide first. -/
theorem vectorQueueSources : Obligations.VectorQueueSources := by
  intro s x hg me needs
  refine ⟨fun i hi => ?_, fun y q k h hk => ?_, fun y q k h hk => ?_⟩
  · obtain ⟨l16, l32, z, k, op, he⟩ := exec_velem x i hi
    rw [he]
    exact ⟨State.velem_wait hg, State.velem_bad hg⟩
  · rw [Slot.qSay_one h, if_neg (by omega)]
  · rw [Slot.qSay_one h, if_pos hk]

end Sys2Proof.Machine
end

section
/-! SUPPORT and O23. The widths of elements, and logic, shifts, selections, minima and comparisons on them (R140 to R145). -/

namespace Sys2Proof.Machine

/-! ## Elements and their width -/

theorem elems2_lt {n : Nat} (lo hi : RowSet) (h : n ∈ elems2 lo hi) : n < 2 ^ 32 := by
  unfold elems2 at h
  rw [rowCells_eq, rowCells_eq, List.zipWith_map, List.zipWith_self, List.mem_map] at h
  obtain ⟨e, -, rfl⟩ := h
  have h1 := rowCell_lt lo e
  have h2 := rowCell_lt hi e
  rw [Nat.shiftLeft_eq]
  omega

theorem elems1_lt {n : Nat} (x : RowSet) (h : n ∈ elems1 x) : n < 2 ^ 16 := by
  rw [elems1, rowCells_eq, List.mem_map] at h
  obtain ⟨e, -, rfl⟩ := h
  exact rowCell_lt x e

theorem VecState.elems_lt {n : Nat} (v : VecState) (wide : Bool) (r : Nat) (h : n ∈ v.elems wide r) :
    n < 2 ^ (if wide = true then 32 else 16) := by
  cases wide
  · exact elems1_lt _ h
  · exact elems2_lt _ _ h

theorem getD_zero_lt {xs : List Nat} {b : Nat} (h : ∀ n ∈ xs, n < 2 ^ b) (e : Nat) : xs.getD e 0 < 2 ^ b := by
  rw [List.getD_eq_getElem?_getD]
  cases he : xs[e]? with
  | none => exact Nat.two_pow_pos b
  | some n => exact h n (List.mem_of_getElem? he)

theorem Slot.srcA_lt (x : Slot) (wide : Bool) (a : VSrcA) (e : Nat) :
    (x.srcA wide a).1.getD e 0 < 2 ^ (if wide = true then 32 else 16) := by
  refine getD_zero_lt (fun n hn => ?_) e
  cases a with
  | reg r => exact x.v.elems_lt wide _ hn
  | queue q =>
    cases wide
    · exact elems1_lt _ hn
    · exact elems2_lt _ _ hn

theorem Slot.srcB_lt (x : Slot) (wide : Bool) (b : VSrcB) (e : Nat) :
    (x.srcB wide b).1.getD e 0 < 2 ^ (if wide = true then 32 else 16) := by
  refine getD_zero_lt (fun n hn => ?_) e
  cases b with
  | reg r => exact x.v.elems_lt wide _ hn
  | queue q =>
    cases wide
    · exact elems1_lt _ hn
    · exact elems2_lt _ _ hn
  | lit w =>
    obtain rfl := List.eq_of_mem_replicate hn
    cases wide
    · exact Nat.mod_lt _ (by decide)
    · exact w.isLt

/-- Numbers of `n` bits with one signed reading are one number. -/
theorem eq_of_signedOf_eq {n a b : Nat} (ha : a < 2 ^ n) (hb : b < 2 ^ n) (h : signedOf n a = signedOf n b) : a = b := by
  have := congrArg BitVec.toNat (BitVec.eq_of_toInt_eq h)
  rwa [BitVec.toNat_ofNat, BitVec.toNat_ofNat, Nat.mod_eq_of_lt ha, Nat.mod_eq_of_lt hb] at this

/-! ## Operations on integer elements -/

theorem shiftOp_left (x : VArgs) (a b : Nat) :
    shiftOp x 0 a b = if b < vBits x.ty then a * 2 ^ b % 2 ^ vBits x.ty else 0 := by
  show (if vBits x.ty ≤ b then 0 else low (vBits x.ty) ((a : Int) * 2 ^ b)) = _
  split
  · next h => rw [if_neg (by omega)]
  · next h =>
    rw [if_pos (by omega), low]
    norm_cast

theorem shiftOp_right (x : VArgs) (a b : Nat) : shiftOp x 1 a b = if b < vBits x.ty then a / 2 ^ b else 0 := by
  show (if vBits x.ty ≤ b then 0 else a >>> b) = _
  split
  · next h => rw [if_neg (by omega)]
  · next h => rw [if_pos (by omega), Nat.shiftRight_eq_div_pow]

/-- A signed number of `n` bits is all sign after `n - 1` places. -/
theorem signedOf_div_sign {n : Nat} (hn : 0 < n) (a : Nat) : signedOf n a / 2 ^ (n - 1) = signedOf n a / 2 ^ n := by
  obtain ⟨k, rfl⟩ : ∃ k, n = k + 1 := ⟨n - 1, by omega⟩
  have hp : (0 : Int) < 2 ^ k := by positivity
  have h1 : -2 ^ k ≤ signedOf (k + 1) a := BitVec.le_toInt _
  have h2 : signedOf (k + 1) a < 2 ^ k := BitVec.toInt_lt
  generalize signedOf (k + 1) a = v at h1 h2
  rw [Nat.add_sub_cancel]
  rcases lt_or_ge v 0 with h | h
  · rw [Int.ediv_eq_neg_one_of_neg_of_le h (by omega), Int.ediv_eq_neg_one_of_neg_of_le h (by rw [pow_succ]; omega)]
  · rw [Int.ediv_eq_zero_of_lt h h2, Int.ediv_eq_zero_of_lt h (by rw [pow_succ]; omega)]

theorem shiftOp_arith (x : VArgs) (a b : Nat) :
    shiftOp x 2 a b = bitsOf (vBits x.ty) (signedOf (vBits x.ty) a / 2 ^ min b (vBits x.ty)) := by
  have hn := vBits_pos x.ty
  show low (vBits x.ty) (sext (vBits x.ty) a / 2 ^ min b (vBits x.ty - 1)) = _
  rw [low_eq, sext_eq hn]
  rcases lt_or_ge b (vBits x.ty) with h | h
  · rw [Nat.min_eq_left (by omega), Nat.min_eq_left (by omega)]
  · rw [Nat.min_eq_right (by omega), Nat.min_eq_right h, signedOf_div_sign hn]

theorem minMax_int {x : VArgs} (h : vInt x.ty = true) (isMax num : Bool) (me : Slot) (e a b c : Nat) :
    minMax x isMax num me e a b c =
      (if decide (signedOf (vBits x.ty) a < signedOf (vBits x.ty) b) = isMax then b else a, ffNone) := by
  unfold minMax
  rw [if_pos h]
  simp only [sext_eq (vBits_pos x.ty)]

/-- Of two elements with one signed reading either is the lesser. -/
theorem lesser_signed {n a b : Nat} (ha : a < 2 ^ n) (hb : b < 2 ^ n) :
    (if decide (signedOf n a < signedOf n b) = false then b else a) = if signedOf n a ≤ signedOf n b then a else b := by
  simp only [decide_eq_false_iff_not, not_lt]
  rcases lt_trichotomy (signedOf n a) (signedOf n b) with h | h | h
  · rw [if_neg (not_le.2 h), if_pos h.le]
  · rw [eq_of_signedOf_eq ha hb h, ite_self]
  · rw [if_pos h.le, if_neg (not_le.2 h)]

theorem minMax_fp {x : VArgs} (h : vInt x.ty = false) (isMax num : Bool) (me : Slot) (e a b c : Nat) :
    minMax x isMax num me e a b c = minOp (fmtOf x.ty) isMax num (flush (fmtOf x.ty) me.ftzVec a) (flush (fmtOf x.ty) me.ftzVec b) := by
  unfold minMax
  rw [h]
  rfl

theorem cmpElem_int {x : VArgs} (h : vInt x.ty = true) (me : Slot) (e a b c : Nat) :
    cmpElem x me e a b c = (b2n (iCmp x.c.toNat (signedOf (vBits x.ty) a) (signedOf (vBits x.ty) b)), ffNone) := by
  unfold cmpElem
  rw [if_pos h]
  simp only [sext_eq (vBits_pos x.ty)]

theorem cmpElem_fp {x : VArgs} (h : vInt x.ty = false) (me : Slot) (e a b c : Nat) :
    let r := fCmp (fmtOf x.ty) x.c.toNat (flush (fmtOf x.ty) me.ftzVec a) (flush (fmtOf x.ty) me.ftzVec b)
    cmpElem x me e a b c = (b2n r.1, r.2) := by
  unfold cmpElem
  rw [h]
  rfl

/-! ## Results -/

/-- A result is its operation on the 1,024 elements. -/
theorem elementResults_congr {lanes : Mask} {f g : Nat → Nat × FFlags} (h : ∀ e, e < 1024 → f e = g e) :
    elementResults lanes f = elementResults lanes g := by
  unfold elementResults
  refine congrArg₂ Prod.mk (List.map_congr_left fun e he => ?_) (List.foldl_ext _ _ _ fun fl e he => ?_)
  · rw [h e (List.mem_range.1 he)]
  · rw [h e (List.mem_range.1 he)]

/-- A literal stands in every element (R49). -/
theorem Slot.srcB_lit (x : Slot) (wide : Bool) {b : VSrcB} {v : Word} (h : b = .lit v) {e : Nat} (he : e < 1024) :
    (x.srcB wide b).1.getD e 0 = litElem wide v := by
  subst h
  exact List.getD_replicate _ he

theorem State.vectorResult_congr (s : State) (y : Slot) (wide : Bool) (d lat n : Nat) (lanes : Mask) {f g : Nat → Nat × FFlags}
    (h : ∀ e, e < 1024 → f e = g e) : s.vectorResult y wide d lat n lanes f = s.vectorResult y wide d lat n lanes g := by
  unfold State.vectorResult
  rw [elementResults_congr h]

/-- VCMP's frame: a comparison answers the lane mask of its operation (R128, R144). -/
theorem State.velem_maskResult {s : State} {x : VArgs} (hg : s.acts s.agent x.g = true) {l16 l32 n : Nat}
    {op : Slot → Nat → Nat → Nat → Nat → Nat × FFlags} {res : Nat → Nat × FFlags} :
    let me := (s.own s.agent).seen
    let w := vWide x.ty
    let a := me.srcA w x.a
    let b := a.2.srcB w x.b
    me.qSay ((qOfA w x.a).toList ++ (qOfB w x.b).toList) 3 = .go →
    (∀ e, op me e (a.1.getD e 0) (b.1.getD e 0) 0 = res e) →
    s.velem x l16 l32 false (some n) op = .next (s.maskResult b.2 n (if w = true then l32 else l16) (vsrcBWords x.b)
      (me.v.mask x.mask.toNat) res) := by
  intro me w a b hq hop
  have hcells : laneMap (maskLanes (me.v.mask x.mask.toNat)) (zip3 a.1 b.1 (List.replicate 1024 0)) (op me) =
      elementResults (me.v.mask x.mask.toNat) res := by
    have hc : (List.replicate 1024 0).length = 1024 := List.length_replicate
    rw [maskLanes_eq, laneMap_eq _ (me.srcA_length w x.a) (a.2.srcB_length w x.b) hc]
    refine congrArg _ (funext fun e => (congrArg _ ?_).trans (hop e))
    exact List.getElem?_getD_replicate_default_eq 0 1024 e
  unfold State.velem
  rw [State.guarded_acts hg]
  dsimp only
  rw [show (s.own s.agent).seen.qSay ((qOfA (vWide x.ty) x.a).toList ++ (qOfB (vWide x.ty) x.b).toList) 3 = .go from hq]
  dsimp only
  refine congrArg (fun u => Host.Outcome.next (State.advance u s.agent (vsrcBWords x.b))) (congrArg (s.updOwn s.agent) (funext fun t => ?_))
  exact congrArg (fun r : List Nat × FFlags => Slot.issue { b.2 with v := t.v } (if w = true then l32 else l16)
    (.mask n (maskOfLanes (r.1.map (· == 1)))) (me.v.mask x.mask.toNat) r.2) hcells

/-- Settles O23: each instruction answers the elements of its operation, integers by their signed reading. -/
theorem vectorLogicAndSelection : Obligations.VectorLogicAndSelection := by
  intro s x hg me w n a b f z A B lanes done fmin hq
  have hn : vBits x.ty = n := rfl
  have hA (e : Nat) : A e < 2 ^ n := me.srcA_lt w x.a e
  have hB (e : Nat) : B e < 2 ^ n := a.2.srcB_lt w x.b e
  have result {l16 l32 : Nat} {op : Slot → Nat → Nat → Nat → Nat → Nat × FFlags} {res : Nat → Nat × FFlags}
      (h : ∀ e, op me e (A e) (B e) 0 = res e) : s.velem x l16 l32 false none op = done l16 l32 res :=
    State.velem_result hg hq h
  refine ⟨fun hi => ⟨result fun e => rfl, result fun e => rfl, result fun e => rfl,
    result fun e => congrArg (·, ffNone) (shiftOp_left ..), result fun e => congrArg (·, ffNone) (shiftOp_right ..), result fun e => congrArg (·, ffNone) (shiftOp_arith ..),
    result fun e => ?_, result fun e => ?_, fun hc => State.velem_maskResult hg hq fun e => ?_⟩,
    fun hf => ⟨result fun e => minMax_fp hf .., result fun e => minMax_fp hf .., result fun e => minMax_fp hf ..,
      result fun e => minMax_fp hf .., State.velem_maskResult hg hq fun e => cmpElem_fp hf ..⟩,
    result (op := selElem x) fun e => rfl, ?_⟩
  · exact (minMax_int hi ..).trans (congrArg (·, ffNone) (lesser_signed (hA e) (hB e)))
  · exact (minMax_int hi ..).trans (congrArg (·, ffNone) (if_congr decide_eq_true_iff rfl rfl))
  · refine (cmpElem_int hi ..).trans (congrArg (b2n ·, ffNone) ?_)
    generalize x.c.toNat = c at hc
    interval_cases c
    exacts [rfl, decide_not.symm, rfl, rfl, rfl, rfl]
  · refine (exec_vmov x s).trans ((result (op := movElem x) fun e => rfl).trans
      (congrArg Host.Outcome.next (s.vectorResult_congr _ _ _ _ _ _ fun e he => ?_)))
    have hlit (v : Word) (h : x.b = .lit v) : B e = litElem w v := a.2.srcB_lit w h he
    clear_value B
    unfold movElem
    generalize x.b = src at hlit
    cases src with
    | lit v => exact congrArg (·, ffNone) (hlit v rfl).symm
    | reg r => rfl
    | queue q => rfl

end Sys2Proof.Machine
end

section
/-! SUPPORT and O25. Axis moves, reductions and conversions (R146 to R152). -/

namespace Sys2Proof.Machine

/-! ## Moves along an axis (R147, R148) -/

theorem pick_eq (xs : List Nat) (src : Nat → Nat → Nat × Nat) : pick xs src =
    (List.range 1024).map (fun e => xs.getD (64 * (src (e / 64) (e % 64)).1 + (src (e / 64) (e % 64)).2) 0) := by
  unfold pick
  simp only [List.getElem?_toArray, List.getD_eq_getElem?_getD]

/-- An axis instruction whose guard acts issues its elements, for the lanes of its mask or for all. -/
theorem State.vaxis_acts {s : State} {g : Guard} (hg : s.acts s.agent g = true) (wide : Bool) (mask : BitVec 4) (d a : BitVec 10)
    (n lat : Nat) (f : Slot → List Nat → List Nat × FFlags) (all : Bool) :
    let me := (s.own s.agent).seen
    let r := f me (me.v.elems wide a.toNat)
    s.vaxis g wide mask d a n lat f all = .next ((s.updOwn s.agent (fun x => x.issue lat (.regs (me.v.dest wide d.toNat r.1))
      (if all = true then BitVec.allOnes 1024 else me.v.mask mask.toNat) r.2)).advance s.agent n) :=
  State.guarded_acts hg ..

theorem State.vaxis_pick {s : State} {g : Guard} (hg : s.acts s.agent g = true) (wide : Bool) (mask : BitVec 4) (d a : BitVec 10)
    (n lat : Nat) (src : Nat → Nat → Nat × Nat) :
    let me := (s.own s.agent).seen
    let at2 (r c : Nat) : Nat := (me.v.elems wide a.toNat).getD (64 * r + c) 0
    s.vaxis g wide mask d a n lat (fun _ xs => (pick xs src, ffNone)) false =
      .next ((s.updOwn s.agent (fun y => y.issue lat (.regs (me.v.dest wide d.toNat ((List.range 1024).map (fun e =>
        at2 (src (e / 64) (e % 64)).1 (src (e / 64) (e % 64)).2)))) (me.v.mask mask.toNat) ffNone)).advance s.agent n) := by
  intro me at2
  rw [State.vaxis_acts hg, pick_eq, if_neg Bool.false_ne_true]

/-! ## Reductions (R149) -/

theorem getD_map_range {n e : Nat} (f : Nat → Nat) (h : e < n) : ((List.range n).map f).getD e 0 = f e := by
  rw [List.getD_eq_getElem?_getD, List.getElem?_map, List.getElem?_range h, Option.map_some, Option.getD_some]

/-- The source of a reduction: the identity stands where the mask leaves a lane out. -/
theorem redSource_getD (lanes : Mask) {xs : List Nat} (hx : xs.length = 1024) (ident : Nat) {e : Nat} (he : e < 1024) :
    ((((maskLanes lanes).zipWith (fun l x => if l then x else ident) xs).toArray)[e]?).getD 0 =
      if lanes.getLsbD e then xs.getD e 0 else ident := by
  rw [maskLanes_eq, ← range_map_getD hx, List.zipWith_map, List.zipWith_self, List.getElem?_toArray, ← List.getD_eq_getElem?_getD,
    getD_map_range _ he]
  rw [range_map_getD hx]

theorem vred_getD (row : Bool) (ty : VType) (round : BitVec 3) (mask : BitVec 4) (fn : Nat) (me : Slot) {xs : List Nat}
    (hx : xs.length = 1024) {r c : Nat} (hr : r < 16) (hc : c < 64) :
    let kept (r c : Nat) : Nat := if (me.v.mask mask.toNat).getLsbD (64 * r + c) then xs.getD (64 * r + c) 0 else redIdentity ty fn
    (vred row ty round mask fn me xs).1.getD (64 * r + c) 0 =
      if row = true then (treeFold (redNode ty round fn me.ftzVec (me.srAt round r 0)) 6 ((List.range 64).map (kept r))).1
      else (treeFold (redNode ty round fn me.ftzVec (me.srAt round 0 c)) 4 ((List.range 16).map (fun r => kept r c))).1 := by
  intro kept
  have hrow : (64 * r + c) / 64 = r := by omega
  have hcol : (64 * r + c) % 64 = c := by omega
  have hsrc (q p : Nat) (hq : q < 16) (hp : p < 64) := redSource_getD (me.v.mask mask.toNat) hx (redIdentity ty fn) (e := 64 * q + p)
    (by omega)
  unfold vred
  dsimp only
  rw [getD_map_range _ (by omega), hrow, hcol, List.getElem?_toArray, ← List.getD_eq_getElem?_getD, List.map_map]
  cases row
  · simp only [Bool.false_eq_true, if_false]
    rw [getD_map_range _ hc]
    refine congrArg (fun l => (treeFold _ 4 l).1) (List.map_congr_left fun q hq => ?_)
    exact hsrc q c (List.mem_range.1 hq) hc
  · simp only [if_true]
    rw [getD_map_range _ hr]
    refine congrArg (fun l => (treeFold _ 6 l).1) (List.map_congr_left fun p hp => ?_)
    exact hsrc r p hr (List.mem_range.1 hp)

theorem vred_length (row : Bool) (ty : VType) (round : BitVec 3) (mask : BitVec 4) (fn : Nat) (me : Slot) (xs : List Nat) :
    (vred row ty round mask fn me xs).1.length = 1024 := by
  unfold vred
  rw [List.length_map, List.length_range]

/-! ## Conversions (R150 to R152) -/

/-- A conversion is its operation on the elements that the mask allows (R139). -/
theorem cvtLanes_eq (lanes : Mask) {xs : List Nat} (hx : xs.length = 1024) (op : Nat → Nat → Nat × FFlags) :
    cvtLanes (maskLanes lanes) xs op = elementResults lanes (fun e => op e (xs.getD e 0)) := by
  have hz : (List.range 1024).zip xs = (List.range 1024).map (fun e => (e, xs.getD e 0)) := by
    conv_lhs => rw [← range_map_getD hx]
    rw [← List.map_prod_left_eq_zip]
  rw [maskLanes_eq, cvtLanes, hz]
  simp only [elementResults, List.zip_map', List.map_map, List.foldl_map]
  refine congrArg₂ Prod.mk (List.map_congr_left fun e _ => ?_) (List.foldl_ext _ _ _ fun f e _ => ?_)
  · simp only [Function.comp]
    split <;> rfl
  · simp only [Function.comp]
    split
    · rfl
    · exact BitVec.or_zero

theorem cvtLanes_map (lanes : Mask) {xs : List Nat} (hx : xs.length = 1024) (op : Nat → Nat → Nat × FFlags) {p : Nat → Nat}
    (hp : p 0 = 0) : cvtLanes (maskLanes lanes) (xs.map p) op = elementResults lanes (fun e => op e (p (xs.getD e 0))) := by
  rw [cvtLanes_eq lanes (by rw [List.length_map, hx])]
  refine congrArg _ (funext fun e => congrArg (op e) ?_)
  exact (congrArg ((xs.map p).getD e) hp.symm).trans (List.getD_map ..)

/-- Two halves of a cell, one conversion each (R151). -/
theorem zipWith_elementResults (lanes : Mask) (lo hi : Nat → Nat × FFlags) (h : Nat → Nat → Nat) :
    (elementResults lanes lo).1.zipWith h (elementResults lanes hi).1 = (List.range 1024).map (fun e =>
      h (if lanes.getLsbD e then (lo e).1 else 0) (if lanes.getLsbD e then (hi e).1 else 0)) := by
  unfold elementResults
  rw [List.zipWith_map, List.zipWith_self]

section
variable {s : State} {g : Guard} (hg : s.acts s.agent g = true) (round : BitVec 3) (mask : BitVec 4) (d a : BitVec 10) (fm : BitVec 8)
include hg

/-- VCVT takes every element that the mask allows to the other format (R150). -/
theorem execVcvt_acts :
    let me := (s.own s.agent).seen
    let src (e : Nat) : Nat := (me.v.elems ((cvtSrc fm).size == 4) a.toNat).getD e 0
    execVcvt g round mask d a fm s = .next (s.vectorResult me ((cvtDst fm).size == 4) d.toNat 4 2 (me.v.mask mask.toNat) (fun e =>
      convert (cvtDst fm) (cvtSrc fm) (src e) (Rm.ofCode round.toNat) (me.srAt round (e / 64) (e % 64)) me.ftzVec)) := by
  intro me src
  refine (State.guarded_acts hg ..).trans ?_
  dsimp only
  rw [cvtLanes_eq _ (VecState.elems_length ..)]
  exact congrArg (fun u => Host.Outcome.next (State.advance u s.agent 2)) (State.updOwn_congr _ _ rfl)

/-- VPACK puts the conversions of two registers, or pairs, into the bytes of one (R151). -/
theorem execVpack_acts :
    let me := (s.own s.agent).seen
    let wide := (cvtSrc fm).size == 4
    let lanes := me.v.mask mask.toNat
    let half (i e : Nat) : Nat := if lanes.getLsbD e then (convert (cvtDst fm) (cvtSrc fm)
      ((me.v.elems wide (a.toNat + i * (if wide then 2 else 1))).getD e 0) (Rm.ofCode round.toNat)
      (me.srAt round (e / 64) (2 * (e % 64) + i)) me.ftzVec).1 else 0
    ∃ fl, execVpack g round mask d a fm s = .next ((s.updOwn s.agent (fun y => y.issue 4 (.regs (me.v.dest false d.toNat
      ((List.range 1024).map (fun e => half 0 e % 256 + half 1 e % 256 * 256)))) lanes fl)).advance s.agent 2) := by
  intro me wide lanes half
  unfold execVpack
  rw [State.guarded_acts hg]
  dsimp only
  rw [cvtLanes_eq _ (VecState.elems_length ..), cvtLanes_eq _ (VecState.elems_length ..), zipWith_elementResults]
  simp only [half, Nat.zero_mul, Nat.one_mul, Nat.add_zero]
  exact ⟨_, rfl⟩

/-- VUNPK converts the low and the high bytes of one register's cells (R152). -/
theorem execVunpk_acts :
    let me := (s.own s.agent).seen
    let wide := (cvtDst fm).size == 4
    let lanes := me.v.mask mask.toNat
    let half (p : Nat → Nat) : List Nat := (List.range 1024).map (fun e => if lanes.getLsbD e then
      (convert (cvtDst fm) (cvtSrc fm) (p ((me.v.elems false a.toNat).getD e 0)) .rne 0 me.ftzVec).1 else 0)
    ∃ fl, execVunpk g mask d a fm s = .next ((s.updOwn s.agent (fun y => y.issue 3 (.regs
      (me.v.dest wide d.toNat (half (· % 256)) ++ me.v.dest wide (d.toNat + (if wide then 2 else 1)) (half (· / 256)))) lanes fl)).advance
      s.agent 2) := by
  intro me wide lanes half
  unfold execVunpk
  rw [State.guarded_acts hg]
  dsimp only
  rw [cvtLanes_map _ (VecState.elems_length ..) _ (Nat.zero_mod 256), cvtLanes_map _ (VecState.elems_length ..) _ (Nat.zero_div 256)]
  simp only [half, elementResults]
  exact ⟨_, rfl⟩

end

/-- Settles O25: moves by the place that the rule names, reductions by the tree over what the mask keeps, conversions element by
element. -/
theorem vectorAxisInstructions : Obligations.VectorAxisInstructions := by
  intro s g ty mask d a n round fn fm hg me w lanes k at2 moved kept z m from1 to1 src1
  have hel (wide : Bool) (r : Nat) : (me.v.elems wide r).length = 1024 := me.v.elems_length wide r
  refine ⟨State.vaxis_pick hg w mask d a _ 2 (fun r c => (r, (c + k) % 64)),
    State.vaxis_pick hg w mask d a _ 4 (fun r c => ((r + k) % 16, c)), fun _ => State.vaxis_pick hg w mask d a _ 2 (fun r _ => (r, k)),
    fun _ => State.vaxis_pick hg w mask d a _ 4 (fun _ c => (k, c)),
    ⟨_, _, State.vaxis_acts hg w mask d a 2 _ (vred true ty round mask fn.toNat) true, vred_length .., fun r c hr hc => ?_⟩,
    ⟨_, _, State.vaxis_acts hg w mask d a 2 _ (vred false ty round mask fn.toNat) true, vred_length .., fun r c hr hc => ?_⟩,
    ?_, ?_, ?_⟩
  · exact (vred_getD true ty round mask fn.toNat me (hel w a.toNat) hr hc).trans (if_pos rfl)
  · exact (vred_getD false ty round mask fn.toNat me (hel w a.toNat) hr hc).trans (if_neg Bool.false_ne_true)
  · exact execVcvt_acts hg ..
  · exact execVpack_acts hg ..
  · exact execVunpk_acts hg ..

end Sys2Proof.Machine
end

section
/-! SUPPORT. Traps: the places that a frame shows, what stops, and what the taking of a trap leaves (file 18). -/

namespace Sys2Proof.Machine

/-! ## Places (R382) -/

theorem low_lt (n : Nat) (v : Int) : low n v < 2 ^ n := by
  have h : (0 : Int) < (2 ^ n : Nat) := by positivity
  have h1 := Int.emod_nonneg v h.ne'
  have h2 := Int.emod_lt_of_pos v h
  unfold low
  omega

theorem low_natCast {n v : Nat} (h : v < 2 ^ n) : low n v = v := by
  unfold low
  rw [← Int.natCast_mod, Int.toNat_natCast, Nat.mod_eq_of_lt h]

/-- A frame's LINE has 16 bits and its WORD four. -/
theorem State.shownAt_lt (s : State) (a : Agent) : (s.shownAt a).1 < 2 ^ 16 ∧ (s.shownAt a).2 < 16 := by
  unfold State.shownAt
  dsimp only
  split
  · exact ⟨low_lt .., by omega⟩
  · split
    · exact ⟨low_lt .., by omega⟩
    · exact ⟨low_lt .., by omega⟩

/-- Where a stream stands: all that its shown place rests on beside the code. -/
def Stream.place (t : Stream) : Int × Nat × Nat := (t.line, t.word, t.plane)

theorem State.shownAt_of_place {s t : State} {c k : Nat} {d : Cls} (hc : ∀ n, (t.core c).plane n = (s.core c).plane n)
    (hp : (t.strm (.strm c k d)).place = (s.strm (.strm c k d)).place) : t.shownAt (.strm c k d) = s.shownAt (.strm c k d) := by
  simp only [Stream.place, Prod.mk.injEq] at hp
  obtain ⟨hl, hw, hq⟩ := hp
  have hn : t.nextOf (.strm c k d) = s.nextOf (.strm c k d) := by
    unfold State.nextOf State.codeWord
    dsimp only
    rw [hl, hq, hc]
  unfold State.shownAt
  simp only [hl, hw, hn]

theorem State.shownAt_updSlot (s : State) {c k : Nat} {d : Cls} {f : Slot → Slot}
    (h : ((f (s.slot c k)).strm d).place = ((s.slot c k).strm d).place) :
    (s.updSlot c k f).shownAt (.strm c k d) = s.shownAt (.strm c k d) := by
  refine State.shownAt_of_place (fun n => State.core_updSlot_view (v := fun x => x.plane n) (fun _ _ _ _ => rfl) s c k c f) ?_
  exact (congrArg (fun x : Slot => (x.strm d).place) (s.slot_updSlot c k f)).trans h

/-! ## The frame (R382) -/

theorem framePc_place {ctl : Nat × Nat} (h1 : ctl.1 < 2 ^ 16) (h2 : ctl.2 < 16) (h : HeldTrap) :
    (fieldNat (framePc ctl h) 48 16, fieldNat (framePc ctl h) 44 4) = ctl := by
  have hl := low_lt 16 h.line
  unfold framePc
  rw [fieldNat_ofNat _ (by omega), fieldNat_ofNat _ (by omega)]
  refine Prod.ext ?_ ?_
  · dsimp only
    omega
  · dsimp only
    omega

/-- TRAP.cplace has the widths of CLINE and CWORD. -/
theorem TrapRegs.cplace_lt (r : TrapRegs) : r.cplace.1 < 2 ^ 16 ∧ r.cplace.2 < 16 := ⟨BitVec.isLt _, BitVec.isLt _⟩

/-! ## Transfers that stop (R172) -/

theorem Stream.stopXfer_rows (t : Stream) : xferRows t.stopXfer.xfer t.stopXfer.again = xferRows t.xfer t.again := by
  unfold Stream.stopXfer
  cases h : t.xfer with
  | some f => rfl
  | none => dsimp only; rw [h]

theorem CtlSave.stopXfer_rows (t : CtlSave) : xferRows t.stopXfer.xfer t.stopXfer.again = xferRows t.xfer t.again := by
  unfold CtlSave.stopXfer
  cases h : t.xfer with
  | some f => rfl
  | none => dsimp only; rw [h]

/-- The slot whose descriptors are let go and whose transfers stop. -/
def Slot.stopped (image : Nat → BitVec 512) (x : Slot) : Slot := (x.freeDescs image).stopXfers

theorem Slot.stopped_trap (image : Nat → BitVec 512) (x : Slot) :
    (x.stopped image).trap = { x.trap with ctl := x.trap.ctl.map CtlSave.stopXfer } := rfl

/-- What a stop of transfers leaves of the rest of the slot. -/
theorem Slot.stopped_rest (image : Nat → BitVec 512) (x : Slot) : (x.stopped image).phase = x.phase ∧ (x.stopped image).regs = x.regs ∧
    (x.stopped image).m = x.m ∧ (x.stopped image).v = x.v ∧ (x.stopped image).queues = x.queues := ⟨rfl, rfl, rfl, rfl, rfl⟩

theorem State.stopTransfers_eq (s : State) (c k : Nat) :
    s.stopTransfers c k = s.updSlot c k (Slot.stopped (s.core c).descImage) := by
  unfold State.stopTransfers State.letGo
  rw [State.updSlot_updSlot]
  rfl

/-- The first stream with row-sets left to move, of the control stream, LDR and STR. -/
def firstRows : Option Nat → Option Nat → Option Nat → Option (Cls × Nat)
  | some n, _, _ => some (.ctl, n)
  | none, some n, _ => some (.ldr, n)
  | none, none, some n => some (.str, n)
  | none, none, none => none

theorem Slot.stoppedRows_eq (x : Slot) : x.stoppedRows =
    firstRows (if x.trap.intrap then x.trap.ctl.bind fun v => xferRows v.xfer v.again else xferRows x.ctl.xfer x.ctl.again)
      (xferRows x.ldr.xfer x.ldr.again) (xferRows x.str.xfer x.str.again) := rfl

/-- A transfer that has stopped counts the row-sets that it still had to move. -/
theorem Slot.stopped_rows (image : Nat → BitVec 512) (x : Slot) : (x.stopped image).stoppedRows = x.stoppedRows := by
  have hc : ((x.trap.ctl.map CtlSave.stopXfer).bind fun v => xferRows v.xfer v.again) =
      x.trap.ctl.bind fun v => xferRows v.xfer v.again := by
    cases x.trap.ctl with
    | none => rfl
    | some v => exact v.stopXfer_rows
  rw [Slot.stoppedRows_eq, Slot.stoppedRows_eq]
  show firstRows (if x.trap.intrap then (x.trap.ctl.map CtlSave.stopXfer).bind fun v => xferRows v.xfer v.again
    else xferRows x.ctl.stopXfer.xfer x.ctl.stopXfer.again) (xferRows x.ldr.stopXfer.xfer x.ldr.stopXfer.again)
    (xferRows x.str.stopXfer.xfer x.str.stopXfer.again) = _
  rw [hc, Stream.stopXfer_rows, Stream.stopXfer_rows, Stream.stopXfer_rows]

/-- A transfer that stops leaves registers, predicates and place of its stream. -/
theorem Slot.stopped_strm (image : Nat → BitVec 512) (x : Slot) (d : Cls) : ((x.stopped image).strm d).regs = (x.strm d).regs ∧
    ((x.stopped image).strm d).preds = (x.strm d).preds ∧ ((x.stopped image).strm d).place = (x.strm d).place := by
  have h (t : Stream) : t.stopXfer.regs = t.regs ∧ t.stopXfer.preds = t.preds ∧ t.stopXfer.place = t.place := by
    unfold Stream.stopXfer
    split <;> exact ⟨rfl, rfl, rfl⟩
  cases d
  case vec => exact ⟨rfl, rfl, rfl⟩
  case mat => exact ⟨rfl, rfl, rfl⟩
  all_goals exact h _

/-! ## Results that enter the landing buffer (R385) -/

/-- Nothing but the results in flight and the held traps changes. -/
theorem Slot.landing_eq (x : Slot) : ∃ fl ps, x.landing = x.withFlight fl ps := by
  unfold Slot.landing
  refine List.foldlRecOn (motive := fun y : Slot => ∃ fl ps, y = x.withFlight fl ps) _ _ ⟨[], x.trap.pend, rfl⟩ ?_
  rintro _ ⟨fl, ps, rfl⟩ r _
  dsimp only
  split
  · split
    · exact ⟨fl, _, rfl⟩
    · exact ⟨_, ps, rfl⟩
  · exact ⟨_, ps, rfl⟩

theorem Slot.landing_none {x : Slot} (h : x.v.inflight = []) : x.landing = x := by
  unfold Slot.landing
  rw [h, List.foldl_nil, ← h]

/-! ## A trap is taken (R379, R381, R382) -/

/-- Where the control stream resumes, as the frame shows it. -/
def Slot.trapPlace (x : Slot) (ctl : Nat × Nat) (h : HeldTrap) : Nat × Nat :=
  if h.sync = true then (low 16 h.line, h.word) else if x.trap.intrap = true then x.trap.cplace else ctl

theorem Slot.trapPlace_lt {x : Slot} {ctl : Nat × Nat} {h : HeldTrap} (h1 : ctl.1 < 2 ^ 16) (h2 : ctl.2 < 16)
    (hw : h.sync = true → h.word < 16) :
    (x.trapPlace ctl h).1 < 2 ^ 16 ∧ (x.trapPlace ctl h).2 < 16 := by
  unfold Slot.trapPlace
  split
  · next hs => exact ⟨low_lt .., hw hs⟩
  · split
    · exact x.trap.cplace_lt
    · exact ⟨h1, h2⟩

theorem Slot.trapPlace_first {x : Slot} (ctl : Nat × Nat) {h : HeldTrap} (hs : h.sync = false) (hi : x.trap.intrap = false) :
    x.trapPlace ctl h = ctl := by
  rw [Slot.trapPlace, hs, hi, if_neg Bool.false_ne_true, if_neg Bool.false_ne_true]

theorem Slot.stopped_trapPlace (image : Nat → BitVec 512) (x : Slot) (ctl : Nat × Nat) (h : HeldTrap) :
    (x.stopped image).trapPlace ctl h = x.trapPlace ctl h := by
  unfold Slot.trapPlace
  rw [x.stopped_trap image]
  rfl

/-- `y` is `x` at its handler's line, its transfers stopped and the frame of `h` written. -/
structure Slot.TrapTaken (x y : Slot) (ctl : Nat × Nat) (h : HeldTrap) (async : Bool) : Prop where
  tcause : y.trap.tcause = frameCause h async
  tpc : y.trap.tpc = framePc (x.trapPlace ctl h) h
  taddr : y.trap.taddr = h.addr
  tinfo : y.trap.tinfo = h.info
  trows : y.trap.trows = .ofNat 64 ((x.stoppedRows.map (·.2)).getD 0)
  trow : y.trap.trow = x.stoppedRows.map (·.1)
  intrap : y.trap.intrap = true
  tvec : y.trap.tvec = x.trap.tvec
  pend : x.v.inflight = [] → y.trap.pend = x.trap.pend
  saved : h.sync = false → x.trap.intrap = true → ∀ v, x.trap.ctl = some v → y.trap.ctl = some v.stopXfer
  ctl : y.ctl.line = fieldNat x.trap.tvec 0 12 ∧ y.ctl.word = 0 ∧ y.ctl.mode = .running
  strm : ∀ d, (y.strm d).regs = (x.strm d).regs ∧ (y.strm d).preds = (x.strm d).preds ∧
    (d ≠ .ctl → d ≠ .net → (y.strm d).place = (x.strm d).place)
  phase : y.phase = x.phase
  rest : y.regs = x.regs ∧ y.m = x.m ∧ y.v.regs = x.v.regs ∧ y.queues = x.queues

/-- A slot whose control stream goes to a line, with the other streams of `x`. -/
theorem Slot.strm_goto {x y : Slot} {l : Int} (hctl : y.ctl = x.ctl.goto l) (hvec : y.vec = x.vec) (hmat : y.mat = x.mat)
    (hldr : y.ldr = x.ldr) (hstr : y.str = x.str) (d : Cls) : (y.strm d).regs = (x.strm d).regs ∧
      (y.strm d).preds = (x.strm d).preds ∧ (d ≠ .ctl → d ≠ .net → y.strm d = x.strm d) := by
  have hregs : y.ctl.regs = x.ctl.regs := by rw [hctl]; rfl
  have hpreds : y.ctl.preds = x.ctl.preds := by rw [hctl]; rfl
  cases d with
  | ctl => exact ⟨hregs, hpreds, fun h => absurd rfl h⟩
  | vec => exact ⟨congrArg Stream.regs hvec, congrArg Stream.preds hvec, fun _ _ => hvec⟩
  | mat => exact ⟨congrArg Stream.regs hmat, congrArg Stream.preds hmat, fun _ _ => hmat⟩
  | ldr => exact ⟨congrArg Stream.regs hldr, congrArg Stream.preds hldr, fun _ _ => hldr⟩
  | str => exact ⟨congrArg Stream.regs hstr, congrArg Stream.preds hstr, fun _ _ => hstr⟩
  | net => exact ⟨hregs, hpreds, fun _ h => absurd rfl h⟩

theorem Slot.takeTrap_trap (x : Slot) (ctl : Nat × Nat) (h : HeldTrap) (async : Bool) : ∃ save ps,
    (x.takeTrap ctl h async none).trap =
      { x.trap.frame (x.trapPlace ctl h) h async x.stoppedRows with intrap := true, ctl := some save, pend := ps } ∧
    (x.v.inflight = [] → ps = x.trap.pend) := by
  obtain ⟨fl, ps, hland⟩ := x.landing_eq
  have hps (hf : x.v.inflight = []) : ps = x.trap.pend := by
    rw [Slot.landing_none hf] at hland
    exact (congrArg (fun y : Slot => y.trap.pend) hland).symm
  unfold Slot.takeTrap Slot.trapPlace
  rw [hland]
  cases h.sync with
  | true => exact ⟨_, ps, rfl, hps⟩
  | false => exact ⟨_, ps, rfl, hps⟩

/-- The frame leaves SYS.TVEC. -/
theorem TrapRegs.frame_tvec {r t : TrapRegs} {at1 : Nat × Nat} {h : HeldTrap} {async i : Bool} {rows : Option (Cls × Nat)}
    {save : Option CtlSave} {ps : List HeldTrap}
    (ht : t = { r.frame at1 h async rows with intrap := i, ctl := save, pend := ps }) : t.tvec = r.tvec := by
  subst ht
  cases r
  rfl

/-- A trap from within TRET keeps what was saved of the control stream first, its transfer stopped. -/
theorem Slot.takeTrap_saved (image : Nat → BitVec 512) {x : Slot} (ctl : Nat × Nat) {h : HeldTrap} (async : Bool)
    (hs : h.sync = false) (hi : x.trap.intrap = true) {v : CtlSave} (hv : x.trap.ctl = some v) :
    ((x.stopped image).takeTrap ctl h async none).trap.ctl = some v.stopXfer := by
  have hc : (x.stopped image).trap.ctl = some v.stopXfer := congrArg (Option.map CtlSave.stopXfer) hv
  have hi' : (x.stopped image).trap.intrap = true := hi
  unfold Slot.takeTrap
  dsimp only
  rw [hs, hi', hc, if_pos rfl, if_neg Bool.false_ne_true]
  rfl

theorem Slot.takeTrap_rest (x : Slot) (ctl : Nat × Nat) (h : HeldTrap) (async : Bool) : let y := x.takeTrap ctl h async none
    y.ctl = x.ctl.goto x.trap.line ∧ y.vec = x.vec ∧ y.mat = x.mat ∧ y.ldr = x.ldr ∧ y.str = x.str ∧ y.phase = x.phase ∧
      y.regs = x.regs ∧ y.m = x.m ∧ y.v.regs = x.v.regs ∧ y.queues = x.queues := by
  obtain ⟨fl, ps, hland⟩ := x.landing_eq
  unfold Slot.takeTrap
  dsimp only
  rw [hland]
  exact ⟨rfl, rfl, rfl, rfl, rfl, rfl, rfl, rfl, rfl, rfl⟩

/-- The slot as a trap takes it, its transfers stopped (R172, R379). -/
theorem Slot.takeTrap_stopped (image : Nat → BitVec 512) (x : Slot) (ctl : Nat × Nat) (h : HeldTrap) (async : Bool) :
    x.TrapTaken ((x.stopped image).takeTrap ctl h async none) ctl h async := by
  obtain ⟨save, ps, htrap, hps⟩ := (x.stopped image).takeTrap_trap ctl h async
  obtain ⟨hctl, hvec, hmat, hldr, hstr, hphase, hregs, hm, hv, hqueues⟩ := (x.stopped image).takeTrap_rest ctl h async
  obtain ⟨hphase', hregs', hm', hv', hqueues'⟩ := x.stopped_rest image
  rw [x.stopped_rows image, x.stopped_trap image, x.stopped_trapPlace image] at htrap
  rw [x.stopped_trap image, hv'] at hps
  rw [x.stopped_trap image] at hctl
  refine { tcause := ?_, tpc := ?_, taddr := ?_, tinfo := ?_, trows := ?_, trow := ?_, intrap := ?_,
           tvec := TrapRegs.frame_tvec htrap, pend := fun hf => ?_,
           saved := fun hs hi v hv => Slot.takeTrap_saved image ctl async hs hi hv, ctl := ?_, strm := fun d => ?_,
           phase := hphase.trans hphase', rest := ⟨hregs.trans hregs', hm.trans hm', hv.trans (congrArg VecState.regs hv'),
             hqueues.trans hqueues'⟩ }
  · rw [htrap]; rfl
  · rw [htrap]; rfl
  · rw [htrap]; rfl
  · rw [htrap]; rfl
  · rw [htrap]; rfl
  · rw [htrap]; rfl
  · rw [htrap]
  · rw [htrap]; exact hps hf
  · rw [hctl]; exact ⟨rfl, rfl, rfl⟩
  · obtain ⟨hr, hp, ho⟩ := Slot.strm_goto hctl hvec hmat hldr hstr d
    obtain ⟨hr', hp', hpl⟩ := x.stopped_strm image d
    exact ⟨hr.trans hr', hp.trans hp', fun hc hn => (congrArg Stream.place (ho hc hn)).trans hpl⟩

/-! ## Synchronous traps (R378, R380) -/

/-- The slot with a stream of its own running: as its instruction raises a trap. -/
def Slot.running (cls : Cls) (x : Slot) : Slot := x.setStrm cls { x.strm cls with mode := .running }

/-- The trap of an exception of a stream of class `cls` that stands at `at1`. -/
def Exc.held (e : Exc) (cls : Cls) (at1 : Nat × Nat) : HeldTrap :=
  { cause := e.cause, sub := e.sub, strm := clsCode cls, addr := e.addr, info := e.info, line := at1.1, word := at1.2, beats := 0 }

theorem State.raise_eq (s : State) (c k : Nat) (cls : Cls) (e : Exc) : s.raise (.strm c k cls) e =
    (s.updSlot c k (Slot.running cls)).trapAt c k (e.held cls (s.shownAt (.strm c k cls))) false none := rfl

theorem Slot.running_rest (x : Slot) (cls : Cls) : (x.running cls).trap = x.trap ∧ (x.running cls).phase = x.phase ∧
    (x.running cls).stoppedRows = x.stoppedRows ∧ (x.running cls).regs = x.regs ∧ (x.running cls).m = x.m ∧
    (x.running cls).v = x.v ∧ (x.running cls).queues = x.queues := by
  cases cls <;> exact ⟨rfl, rfl, rfl, rfl, rfl, rfl, rfl⟩

theorem Slot.running_strm (x : Slot) (cls d : Cls) : ((x.running cls).strm d).regs = (x.strm d).regs ∧
    ((x.running cls).strm d).preds = (x.strm d).preds ∧ ((x.running cls).strm d).place = (x.strm d).place := by
  cases cls <;> cases d <;> exact ⟨rfl, rfl, rfl⟩

theorem State.shownAt_running (s : State) (c k : Nat) (cls d : Cls) :
    (s.updSlot c k (Slot.running cls)).shownAt (.strm c k d) = s.shownAt (.strm c k d) :=
  State.shownAt_updSlot s ((s.slot c k).running_strm cls d).2.2

theorem State.trapAt_taken {s : State} {c k : Nat} (hr : (s.slot c k).phase = .running) (hen : (s.slot c k).trap.en = true)
    (hin : (s.slot c k).trap.intrap = false) (h : HeldTrap) (async : Bool) : s.trapAt c k h async none =
      s.updSlot c k (fun x => (x.stopped (s.core c).descImage).takeTrap (s.shownAt (.strm c k .ctl)) h async none) := by
  unfold State.trapAt
  rw [if_neg (not_not.2 hr), hen, hin, if_pos (by decide), State.stopTransfers_eq, State.updSlot_updSlot]
  rfl

theorem State.trapAt_refused {s : State} {c k : Nat} (hr : (s.slot c k).phase = .running)
    (hno : (s.slot c k).trap.en = false ∨ (s.slot c k).trap.intrap = true) (h : HeldTrap) (async : Bool) : s.trapAt c k h async none =
      (s.updSlot c k (fun x => { x with trap := x.trap.frame (s.shownAt (.strm c k .ctl)) h async (s.slot c k).stoppedRows })).stopAndHold
        c k := by
  have hc : ((s.slot c k).trap.en && !(s.slot c k).trap.intrap) = false := by
    rcases hno with h | h <;> simp [h]
  unfold State.trapAt
  rw [if_neg (not_not.2 hr), hc, if_neg Bool.false_ne_true]
  rfl

theorem frameCause_sync (h : HeldTrap) : frameCause h false = .ofNat 64 (h.cause * 2 ^ 56 + h.sub * 2 ^ 48 + h.strm * 2 ^ 45) := by
  rw [frameCause, b2n, if_neg Bool.false_ne_true, Nat.zero_mul, Nat.add_zero]

theorem framePc_now (at1 : Nat × Nat) (h : HeldTrap) {at2 : Nat × Nat} (h1 : at2.1 < 2 ^ 16) (h2 : at2.2 < 16) (hb : h.beats = 0)
    (hl : h.line = at2.1) (hw : h.word = at2.2) :
    framePc at1 h = .ofNat 64 (at1.1 * 2 ^ 48 + at1.2 * 2 ^ 44 + at2.1 * 2 ^ 16 + at2.2) := by
  rw [framePc, hb, hl, hw, low_natCast h1, Nat.mod_eq_of_lt h2, Nat.zero_mod, Nat.zero_mul, Nat.add_zero]

/-- A synchronous exception of a slot whose handler may run is taken at once. -/
theorem State.raise_taken {s : State} {c k : Nat} (cls : Cls) (hr : (s.slot c k).phase = .running) (hen : (s.slot c k).trap.en = true)
    (hin : (s.slot c k).trap.intrap = false) (e : Exc) : ∃ f : Slot → Slot,
      let h := e.held cls (s.shownAt (.strm c k cls))
      s.raise (.strm c k cls) e = s.updSlot c k f ∧
      ((s.slot c k).running cls).TrapTaken (f (s.slot c k)) (s.shownAt (.strm c k .ctl)) h false := by
  obtain ⟨htrap, hphase, -⟩ := (s.slot c k).running_rest cls
  let u := s.updSlot c k (Slot.running cls)
  have hu : u.slot c k = (s.slot c k).running cls := s.slot_updSlot c k _
  have ht := State.trapAt_taken (s := u) (c := c) (k := k) (by rw [hu, hphase, hr]) (by rw [hu, htrap, hen]) (by rw [hu, htrap, hin])
    (e.held cls (s.shownAt (.strm c k cls))) false
  rw [State.shownAt_running, State.updSlot_updSlot] at ht
  exact ⟨_, (s.raise_eq c k cls e).trans ht, Slot.takeTrap_stopped ..⟩

/-- Where no handler may run, the frame is written and the piece stopped (R380). -/
theorem State.raise_refused {s : State} {c k : Nat} (cls : Cls) (hr : (s.slot c k).phase = .running)
    (hno : (s.slot c k).trap.en = false ∨ (s.slot c k).trap.intrap = true) (e : Exc) :
    let r := (s.slot c k).trap.frame (s.shownAt (.strm c k .ctl)) (e.held cls (s.shownAt (.strm c k cls))) false (s.slot c k).stoppedRows
    s.raise (.strm c k cls) e = ((s.updSlot c k (Slot.running cls)).updSlot c k (fun x => { x with trap := r })).stopAndHold c k := by
  intro r
  obtain ⟨htrap, hphase, hrows, -⟩ := (s.slot c k).running_rest cls
  let u := s.updSlot c k (Slot.running cls)
  have hu : u.slot c k = (s.slot c k).running cls := s.slot_updSlot c k _
  have ht := State.trapAt_refused (s := u) (c := c) (k := k) (by rw [hu, hphase, hr]) (by rw [hu, htrap]; exact hno)
    (e.held cls (s.shownAt (.strm c k cls))) false
  refine (s.raise_eq c k cls e).trans (ht.trans (congrArg (State.stopAndHold · c k) (congrArg (u.setSlot c k) ?_)))
  dsimp only
  rw [State.shownAt_running, hu, htrap, hrows]

/-- What a synchronous exception of a slot's stream does (R378 to R382). -/
theorem raise_trap (s : State) (c k : Nat) (cls : Cls) (e : Exc) (hr : (s.slot c k).phase = .running) :
    let me : Agent := .strm c k cls
    let x := s.slot c k
    let t := s.raise me e
    let y := t.slot c k
    let cause : DWord := .ofNat 64 (e.cause * 2 ^ 56 + e.sub * 2 ^ 48 + clsCode cls * 2 ^ 45)
    let at1 := s.shownAt (.strm c k .ctl)
    let at2 := s.shownAt me
    let pc : DWord := .ofNat 64 (at1.1 * 2 ^ 48 + at1.2 * 2 ^ 44 + at2.1 * 2 ^ 16 + at2.2)
    let rows : DWord := .ofNat 64 ((x.stoppedRows.map (·.2)).getD 0)
    x.trap.en = true → x.trap.intrap = false →
      y.trap.tcause = cause ∧ y.trap.tpc = pc ∧ y.trap.taddr = e.addr ∧ y.trap.tinfo = e.info ∧ y.trap.trows = rows ∧
      y.trap.trow = x.stoppedRows.map (·.1) ∧ y.trap.intrap = true ∧ y.trap.tvec = x.trap.tvec ∧ y.ctl.line = fieldNat x.trap.tvec 0 12 ∧
      y.ctl.word = 0 ∧ y.ctl.mode = .running ∧ (∀ d, y.phase = x.phase ∧ (y.strm d).regs = (x.strm d).regs ∧
        (y.strm d).preds = (x.strm d).preds ∧ (d ≠ .ctl → d ≠ .net → t.shownAt (.strm c k d) = s.shownAt (.strm c k d))) ∧
      y.regs = x.regs ∧ y.m = x.m ∧ y.v.regs = x.v.regs ∧ y.queues = x.queues ∧
      (∀ d j, (d, j) ≠ (c, k) → t.slot d j = s.slot d j) ∧ t.parts = s.parts ∧ t.npd = s.npd ∧ t.dram = s.dram ∧ s.sameBytes t := by
  intro me x t y cause at1 at2 pc rows hen hin
  obtain ⟨f, hf, ht⟩ := State.raise_taken cls hr hen hin e
  obtain ⟨htrap, hphase, hrows, hregs, hm, hv, hqueues⟩ := x.running_rest cls
  have hy : y = f x := (congrArg (State.slot · c k) hf).trans (s.slot_updSlot c k f)
  rw [← hy] at ht
  obtain ⟨hat1, hat2⟩ := s.shownAt_lt me
  have hplace : (x.running cls).trapPlace at1 (e.held cls at2) = at1 :=
    Slot.trapPlace_first at1 rfl ((congrArg TrapRegs.intrap htrap).trans hin)
  obtain ⟨hregs', hm', hvregs', hqueues'⟩ := ht.rest
  obtain ⟨hline, hword, hmode⟩ := ht.ctl
  rw [htrap] at hline
  have hpc : y.trap.tpc = pc := by
    rw [ht.tpc, hplace]
    exact framePc_now at1 _ hat1 hat2 rfl rfl rfl
  refine ⟨ht.tcause.trans (frameCause_sync _), hpc, ht.taddr, ht.tinfo, ?_, ?_, ht.intrap, ht.tvec.trans (congrArg _ htrap),
    hline, hword, hmode, fun d => ?_,
    hregs'.trans hregs, hm'.trans hm, hvregs'.trans (congrArg _ hv), hqueues'.trans hqueues, fun d j hdj => ?_, ?_, ?_, ?_, ?_⟩
  · rw [ht.trows, hrows]
  · rw [ht.trow, hrows]
  · obtain ⟨h1, h2, h3⟩ := ht.strm d
    obtain ⟨g1, g2, g3⟩ := x.running_strm cls d
    refine ⟨ht.phase.trans hphase, h1.trans g1, h2.trans g2, fun hc hn => ?_⟩
    rw [show t = _ from hf]
    exact State.shownAt_updSlot s (hy ▸ (h3 hc hn).trans g3)
  · exact (congrArg (State.slot · d j) hf).trans (s.slot_updSlot_other f hdj)
  · rw [show t = _ from hf]; rfl
  · rw [show t = _ from hf]; rfl
  · rw [show t = _ from hf]; rfl
  · rw [show t = _ from hf]; exact s.updSlot_sameBytes c k f

/-- The frame that a synchronous exception writes where no handler may run. -/
theorem raise_framed (s : State) (c k : Nat) (cls : Cls) (e : Exc) (hr : (s.slot c k).phase = .running)
    (hno : (s.slot c k).trap.en = false ∨ (s.slot c k).trap.intrap = true) :
    let me : Agent := .strm c k cls
    let x := s.slot c k
    let at1 := s.shownAt (.strm c k .ctl)
    let at2 := s.shownAt me
    let framed : TrapRegs := { x.trap with
      tcause := .ofNat 64 (e.cause * 2 ^ 56 + e.sub * 2 ^ 48 + clsCode cls * 2 ^ 45),
      tpc := .ofNat 64 (at1.1 * 2 ^ 48 + at1.2 * 2 ^ 44 + at2.1 * 2 ^ 16 + at2.2), taddr := e.addr, tinfo := e.info,
      trows := .ofNat 64 ((x.stoppedRows.map (·.2)).getD 0), trow := x.stoppedRows.map (·.1) }
    s.raise me e = State.stopAndHold ((s.updStrm me (fun z => { z with mode := .running })).updSlot c k
      (fun z => { z with trap := framed })) c k := by
  intro me x at1 at2 framed
  obtain ⟨h1, h2⟩ := s.shownAt_lt me
  have hf : x.trap.frame at1 (e.held cls at2) false x.stoppedRows = framed := by
    rw [TrapRegs.frame, frameCause_sync, framePc_now at1 _ h1 h2 rfl rfl rfl]
    rfl
  exact (State.raise_refused cls hr hno e).trans (congrArg (fun r : TrapRegs =>
    State.stopAndHold ((s.updSlot c k (Slot.running cls)).updSlot c k (fun z => { z with trap := r })) c k) hf)

/-! ## Held traps (R381) -/

/-- The slot with other held traps. -/
def Slot.withPend (hs : List HeldTrap) (x : Slot) : Slot := { x with trap := { x.trap with pend := hs } }

theorem State.placed_spec (s : State) (c k : Nat) (ctl : Nat × Nat) (h : HeldTrap) : let p := s.placed c k ctl h
    (p.cause = h.cause ∧ p.sub = h.sub ∧ p.strm = h.strm) ∧ p.addr = h.addr ∧ p.info = h.info ∧ p.sync = h.sync ∧
      (h.sync = true → p = h) := by
  unfold State.placed
  split
  · exact ⟨⟨rfl, rfl, rfl⟩, rfl, rfl, rfl, fun _ => rfl⟩
  · next hs =>
    split
    · exact ⟨⟨rfl, rfl, rfl⟩, rfl, rfl, rfl, fun h => absurd h hs⟩
    · split
      · exact ⟨⟨rfl, rfl, rfl⟩, rfl, rfl, rfl, fun h => absurd h hs⟩
      · split
        · exact ⟨⟨rfl, rfl, rfl⟩, rfl, rfl, rfl, fun h => absurd h hs⟩
        · exact ⟨⟨rfl, rfl, rfl⟩, rfl, rfl, rfl, fun h => absurd h hs⟩

theorem frameCause_held (h : HeldTrap) (sync : Bool) :
    frameCause h (!sync) = .ofNat 64 (h.cause * 2 ^ 56 + h.sub * 2 ^ 48 + h.strm * 2 ^ 45 + if sync = true then 0 else 2 ^ 44) := by
  cases sync
  · rw [frameCause, b2n, Bool.not_false, if_pos rfl, if_neg Bool.false_ne_true, Nat.one_mul]
  · rw [frameCause, b2n, Bool.not_true, if_neg Bool.false_ne_true, if_pos rfl, Nat.zero_mul]

/-- Where the control stream of a slot resumes as a trap is taken of it: within a handler, still where it was stopped first. -/
def State.resumesAt (s : State) (c k : Nat) : Nat × Nat :=
  if (s.slot c k).trap.intrap = true then (s.slot c k).trap.cplace else s.shownAt (.strm c k .ctl)

theorem State.resumesAt_lt (s : State) (c k : Nat) : (s.resumesAt c k).1 < 2 ^ 16 ∧ (s.resumesAt c k).2 < 16 := by
  unfold State.resumesAt
  split
  · exact TrapRegs.cplace_lt _
  · exact State.shownAt_lt ..

/-- The first held trap `h` of `x` is taken, leaving `hs`: what the frame and the control stream are then. -/
structure Slot.HeldTaken (x y : Slot) (ctl : Nat × Nat) (h : HeldTrap) (hs : List HeldTrap) : Prop where
  intrap : y.trap.intrap = true
  pend : y.trap.pend = hs
  taddr : y.trap.taddr = h.addr
  tinfo : y.trap.tinfo = h.info
  tcause : y.trap.tcause =
    .ofNat 64 (h.cause * 2 ^ 56 + h.sub * 2 ^ 48 + h.strm * 2 ^ 45 + if h.sync = true then 0 else 2 ^ 44)
  trows : y.trap.trows = .ofNat 64 ((x.stoppedRows.map (·.2)).getD 0)
  place : (fieldNat y.trap.tpc 48 16, fieldNat y.trap.tpc 44 4) = if h.sync = true then (low 16 h.line, h.word) else ctl
  saved : h.sync = false → x.trap.intrap = true → ∀ v, x.trap.ctl = some v → y.trap.ctl = some v.stopXfer
  ctl : y.ctl.line = fieldNat x.trap.tvec 0 12 ∧ y.ctl.word = 0

theorem State.takeHeld_spec {s : State} {c k : Nat} {h : HeldTrap} {hs : List HeldTrap} (hp : (s.slot c k).trap.pend = h :: hs)
    (hv : (s.slot c k).v.inflight = []) (hw : h.word < 16) : ∃ f : Slot → Slot, s.takeHeld c k = s.updSlot c k f ∧
      (s.slot c k).HeldTaken (f (s.slot c k)) (s.resumesAt c k) h hs := by
  let x := s.slot c k
  let ctl := s.resumesAt c k
  let p := s.placed c k ctl h
  obtain ⟨⟨hcause, hsub, hstrm⟩, haddr, hinfo, hsync, hsame⟩ := s.placed_spec c k ctl h
  obtain ⟨hc1, hc2⟩ := s.resumesAt_lt c k
  have heq : s.takeHeld c k = s.updSlot c k (fun x => ((x.withPend hs).stopped (s.core c).descImage).takeTrap ctl p (!p.sync) none) := by
    unfold State.takeHeld
    dsimp only
    rw [hp]
    dsimp only
    rw [State.stopTransfers_eq, State.updSlot_updSlot]
    rfl
  have ht := (x.withPend hs).takeTrap_stopped (s.core c).descImage ctl p (!p.sync)
  have hplace : (x.withPend hs).trapPlace ctl p = if h.sync = true then (low 16 h.line, h.word) else ctl := by
    rw [Slot.trapPlace, show p.sync = h.sync from hsync]
    split
    · next h1 => rw [show p = h from hsame h1]
    · show (if x.trap.intrap = true then x.trap.cplace else ctl) = ctl
      split
      · next h2 => exact (if_pos h2).symm
      · rfl
  have hat : (fieldNat (framePc ((x.withPend hs).trapPlace ctl p) p) 48 16, fieldNat (framePc ((x.withPend hs).trapPlace ctl p) p) 44 4) =
      (x.withPend hs).trapPlace ctl p := by
    obtain ⟨hl1, hl2⟩ := Slot.trapPlace_lt (x := x.withPend hs) (h := p) hc1 hc2 (fun h1 => by
      rw [show p = h from hsame (hsync ▸ h1)]
      exact hw)
    exact framePc_place hl1 hl2 p
  obtain ⟨hline, hword, -⟩ := ht.ctl
  have hcause : frameCause p (!p.sync) =
      .ofNat 64 (h.cause * 2 ^ 56 + h.sub * 2 ^ 48 + h.strm * 2 ^ 45 + if h.sync = true then 0 else 2 ^ 44) := by
    rw [frameCause_held, show p.cause = h.cause from hcause, show p.sub = h.sub from hsub, show p.strm = h.strm from hstrm,
      show p.sync = h.sync from hsync]
  exact ⟨_, heq, ht.intrap, ht.pend hv, ht.taddr.trans haddr, ht.tinfo.trans hinfo, ht.tcause.trans hcause, ht.trows,
    by rw [ht.tpc, hat, hplace], fun h1 => ht.saved (hsync.trans h1), hline, hword⟩

end Sys2Proof.Machine
end

section
/-! SUPPORT. The return of a trap, and what TRET finds held (R387). -/

namespace Sys2Proof.Machine

/-! ## The row-sets of a stopped transfer (R172, R387) -/

/-- What is to be moved again of a transfer of class `d` that stands at `again`. -/
def Slot.rowsOf (x : Slot) (d : Cls) (again : Option Nat) : Option Nat :=
  if x.trap.trow = some d ∧ again ≠ none then some x.trap.trows.toNat else again

theorem Slot.rowsOf_other {x : Slot} {d : Cls} (h : x.trap.trow ≠ some d) (again : Option Nat) : x.rowsOf d again = again :=
  if_neg fun h' => h h'.1

theorem Slot.rowsOf_self {x : Slot} {d : Cls} (h : x.trap.trow = some d) (again : Option Nat) :
    x.rowsOf d again = if again = none then none else some x.trap.trows.toNat := by
  cases again with
  | none => exact if_neg fun h' => h'.2 rfl
  | some n => exact if_pos ⟨h, nofun⟩

theorem Stream.again_rows (t : Stream) (n : Nat) :
    (if t.again.isSome then { t with again := some n } else t) = { t with again := if t.again = none then none else some n } := by
  cases h : t.again with
  | none => exact congrArg (fun o => { t with again := o }) h
  | some m => rfl

theorem CtlSave.again_rows (v : CtlSave) (n : Nat) :
    (if v.again.isSome then { v with again := some n } else v) = { v with again := if v.again = none then none else some n } := by
  cases h : v.again with
  | none => exact congrArg (fun o => { v with again := o }) h
  | some m => rfl

/-- The return re-issues the transfer of SYS.TROWS' stream, where it still stands at it. -/
theorem Slot.withRows_eq (x : Slot) : x.withRows =
    { x with ldr := { x.ldr with again := x.rowsOf .ldr x.ldr.again }, str := { x.str with again := x.rowsOf .str x.str.again },
             trap := { x.trap with ctl := x.trap.ctl.map (fun v => { v with again := x.rowsOf .ctl v.again }) } } := by
  have hctl (h : x.trap.trow ≠ some .ctl) : x.trap.ctl.map (fun v => { v with again := x.rowsOf .ctl v.again }) = x.trap.ctl := by
    simp only [Slot.rowsOf_other h]
    exact Option.map_id' ..
  have hnone (h1 : x.trap.trow ≠ some .ctl) (h2 : x.trap.trow ≠ some .ldr) (h3 : x.trap.trow ≠ some .str) : x =
      { x with ldr := { x.ldr with again := x.rowsOf .ldr x.ldr.again }, str := { x.str with again := x.rowsOf .str x.str.again },
               trap := { x.trap with ctl := x.trap.ctl.map (fun v => { v with again := x.rowsOf .ctl v.again }) } } := by
    rw [hctl h1, x.rowsOf_other h2, x.rowsOf_other h3]
  unfold Slot.withRows
  cases h : x.trap.trow with
  | none => exact hnone (by simp [h]) (by simp [h]) (by simp [h])
  | some d =>
    cases d with
    | ctl =>
      simp only [x.rowsOf_self h, CtlSave.again_rows]
      rw [x.rowsOf_other (by simp [h]), x.rowsOf_other (by simp [h])]
    | ldr =>
      dsimp only
      rw [hctl (by simp [h]), x.rowsOf_self h, x.rowsOf_other (d := .str) (by simp [h]), ← Stream.again_rows]
    | str =>
      dsimp only
      rw [hctl (by simp [h]), x.rowsOf_self h, x.rowsOf_other (d := .ldr) (by simp [h]), ← Stream.again_rows]
    | vec | mat | net => exact hnone (by simp [h]) (by simp [h]) (by simp [h])

/-- What the row-sets of a return leave: the saved control stream but for them, and every stream's place. -/
theorem Slot.withRows_trap (x : Slot) : x.withRows.trap =
    { x.trap with ctl := x.trap.ctl.map (fun v => { v with again := x.rowsOf .ctl v.again }) } :=
  congrArg Slot.trap x.withRows_eq

theorem Slot.withRows_strm (x : Slot) {d : Cls} (hn : d ≠ .net) (hc : d ≠ .ctl) :
    x.withRows.strm d = { x.strm d with again := if d = .ldr ∨ d = .str then x.rowsOf d (x.strm d).again else (x.strm d).again } := by
  rw [x.withRows_eq]
  cases d with
  | ctl => exact absurd rfl hc
  | net => exact absurd rfl hn
  | vec => rfl
  | mat => rfl
  | ldr => rfl
  | str => rfl

theorem Slot.withRows_place (x : Slot) (d : Cls) : (x.withRows.strm d).place = (x.strm d).place := by
  rw [x.withRows_eq]
  cases d <;> rfl

/-! ## Return (R387) -/

/-- The stream of class `d` that trapped, as it goes on. -/
def Slot.backTo (x : Slot) (d : Cls) (plane : Nat) (skip same : Bool) (t : Stream) : Stream :=
  let t := if d = .ctl ∨ same = true then t else t.moved (fieldNat x.trap.tpc 16 16, fieldNat x.trap.tpc 0 4) plane
  let t := if d = .vec then t.reissued x.trap.element else t
  { t with skip := skip }

/-- The control stream back from the handler, and no trap in hand. -/
def Slot.handled (x : Slot) (plane : Nat) : Slot :=
  { x with ctl := x.ctl.resumeCtl x.trap.ctl x.trap.cplace plane, trap := { x.trap with intrap := false, ctl := none, trow := none } }

/-- The slot returned from its trap: of a synchronous one, the stream that trapped goes on too. -/
def Slot.returned (x : Slot) (plane : Nat) (skip same : Bool) : Slot :=
  let d := clsOfCode (fieldNat x.trap.tcause 45 3)
  if x.trap.tcause.getLsbD 44 = true then x.handled plane
  else (x.handled plane).setStrm d (x.backTo d plane skip same ((x.handled plane).strm d))

theorem State.tret_returns {s : State} {c k : Nat} (h : (s.slot c k).trap.pend = [] ∨ (s.slot c k).trap.en = false) (skip : Bool) :
    let x := (s.slot c k).withRows
    let d := clsOfCode (fieldNat x.trap.tcause 45 3)
    ∃ plane same, s.tret c k skip = s.setSlot c k (x.returned plane skip same) ∧
      (d ≠ .ctl → same = (s.shownAt (.strm c k d) == (fieldNat x.trap.tpc 16 16, fieldNat x.trap.tpc 0 4))) := by
  intro x d
  have hx : (s.updSlot c k Slot.withRows).slot c k = x := s.slot_updSlot c k _
  have htrap := (s.slot c k).withRows_trap
  have hno : ¬ (x.trap.pend ≠ [] ∧ x.trap.en = true) := by
    rw [show x.trap = _ from htrap]
    rintro ⟨h1, h2⟩
    rcases h with h | h
    · exact h1 h
    · exact Bool.false_ne_true (h.symm.trans h2)
  let u := s.updSlot c k Slot.withRows
  let p := (fieldNat x.trap.tpc 16 16, fieldNat x.trap.tpc 0 4)
  have heq : s.tret c k skip = s.setSlot c k (x.returned (u.core c).activePlane skip
      (if d = .ctl then x.trap.ctl.any (fun v => v.shown == x.trap.cplace) else u.shownAt (.strm c k d) == p)) := by
    unfold State.tret
    dsimp only
    rw [hx, if_neg hno]
    exact State.setSlot_setSlot ..
  exact ⟨_, _, heq, fun hd => (if_neg hd).trans (congrArg (· == p) (s.shownAt_updSlot ((s.slot c k).withRows_place d)))⟩

theorem clsOfCode_clsCode (d : Cls) : clsOfCode (clsCode d) = d := by
  cases d <;> rfl

theorem clsOfCode_eq {n : Nat} {d : Cls} (hn : d ≠ .net) (h : clsOfCode n = d) : n = clsCode d := by
  subst h
  unfold clsOfCode at hn ⊢
  split at hn
  case h_6 => exact absurd rfl hn
  all_goals rfl

theorem Slot.returned_trap (x : Slot) (plane : Nat) (skip same : Bool) :
    (x.returned plane skip same).trap = { x.trap with intrap := false, ctl := none, trow := none } := by
  unfold Slot.returned
  dsimp only
  split
  · rfl
  · exact ((x.handled plane).setStrm_rest _ _).1

/-- Of the control stream, the return of a synchronous trap of its own changes besides only whether the instruction is skipped. -/
theorem Slot.returned_ctl (x : Slot) (plane : Nat) (skip same : Bool) : ∃ sk,
    (x.returned plane skip same).ctl = { x.ctl.resumeCtl x.trap.ctl x.trap.cplace plane with skip := sk } ∧
      (x.trap.tcause.getLsbD 44 = false → fieldNat x.trap.tcause 45 3 = 0 → sk = skip) := by
  unfold Slot.returned
  dsimp only
  split
  · next h => exact ⟨_, rfl, fun h0 => absurd (h.symm.trans h0) (by decide)⟩
  · cases hd : clsOfCode (fieldNat x.trap.tcause 45 3) with
    | ctl => exact ⟨skip, rfl, fun _ _ => rfl⟩
    | vec | mat | ldr | str | net => exact ⟨_, rfl, fun _ h0 => by rw [h0] at hd; cases hd⟩

/-- A stream but the control stream goes on as it stands, but for the one that trapped synchronously. -/
theorem Slot.returned_strm (x : Slot) (plane : Nat) (skip same : Bool) {d : Cls} (hc : d ≠ .ctl) (hn : d ≠ .net) :
    (x.returned plane skip same).strm d =
      if x.trap.tcause.getLsbD 44 = false ∧ fieldNat x.trap.tcause 45 3 = clsCode d then x.backTo d plane skip same (x.strm d)
      else x.strm d := by
  have hd : (x.handled plane).strm d = x.strm d := by
    cases d with
    | ctl => exact absurd rfl hc
    | net => exact absurd rfl hn
    | vec | mat | ldr | str => rfl
  unfold Slot.returned
  dsimp only
  split
  · next h => rw [if_neg (by simp [h]), hd]
  · next h =>
    have h0 : x.trap.tcause.getLsbD 44 = false := Bool.eq_false_iff.2 h
    split
    · next hs =>
      rw [hs.2, clsOfCode_clsCode, Slot.strm_setStrm _ _ hn, hd]
    · next hs =>
      have hne : d ≠ clsOfCode (fieldNat x.trap.tcause 45 3) := fun e => hs ⟨h0, clsOfCode_eq hn e.symm⟩
      by_cases hnet : clsOfCode (fieldNat x.trap.tcause 45 3) = .net
      · rw [hnet]
        exact hd
      · rw [Slot.strm_setStrm_other _ _ hne hn hnet, hd]

/-- The control stream goes on where the frame says, and where it was stopped there with its transfer. -/
theorem Stream.resumeCtl_spec (t : Stream) (o : Option CtlSave) (p : Nat × Nat) (plane : Nat) : let r := t.resumeCtl o p plane
    r.mode = .running ∧ (o = none → r.line = p.1 ∧ r.word = p.2) ∧
      ∀ v, o = some v → (v.shown = p → r.line = v.line ∧ r.word = v.word ∧ r.again = v.again ∧ r.xfer = v.xfer) ∧
        (v.shown ≠ p → r.line = p.1 ∧ r.word = p.2) := by
  unfold Stream.resumeCtl
  cases o with
  | none => exact ⟨rfl, fun _ => ⟨rfl, rfl⟩, fun _ h => by cases h⟩
  | some v =>
    dsimp only
    by_cases hp : v.shown = p
    · rw [if_pos hp]
      refine ⟨rfl, nofun, ?_⟩
      rintro _ ⟨⟩
      exact ⟨fun _ => ⟨rfl, rfl, rfl, rfl⟩, fun h => absurd hp h⟩
    · rw [if_neg hp]
      refine ⟨rfl, nofun, ?_⟩
      rintro _ ⟨⟩
      exact ⟨fun h => absurd h hp, fun _ => ⟨rfl, rfl⟩⟩

/-! ## A packet thread that ends (R344) -/

theorem State.withNpd_sameBytes (s : State) {n : Npd} (h : n.handlers = s.npd.handlers) : s.sameBytes { s with npd := n } :=
  State.sameBytes_of_stores (fun _ => ⟨rfl, rfl, rfl⟩) (fun _ => rfl) h rfl rfl

theorem State.threadFault_sameBytes (s : State) (t cls sub : Nat) (addr : DWord) : s.sameBytes (s.threadFault t cls sub addr) := by
  have hf : s.sameBytes (if (s.thread t).part = 0 then { s with fw := { s.fw with faults := s.fw.faults + 1 } } else s) := by
    split
    · exact State.sameBytes_of_fields rfl rfl rfl rfl rfl
    · exact State.sameBytes_refl s
  have hend (u : State) : u.sameBytes (u.endThread t) := u.withNpd_sameBytes rfl
  unfold State.threadFault
  dsimp only
  generalize (if (s.thread t).part = 0 then { s with fw := { s.fw with faults := s.fw.faults + 1 } } else s) = u at hf ⊢
  split
  · refine State.sameBytes_trans hf (State.sameBytes_trans (u.event_sameBytes _ _ _ _ _ _) (State.sameBytes_trans (State.withNpd_sameBytes _ ?_)
      (hend _)))
    split
    · split
      · exact Npd.updMsg_handlers ..
      · exact Npd.dropMsg_handlers ..
    · rfl
  · refine State.sameBytes_trans hf (State.sameBytes_trans ?_ (hend _))
    split
    · exact State.sameBytes_refl u
    · exact u.event_sameBytes _ _ _ _ _ _
  · exact State.sameBytes_trans hf (hend u)

/-! ## TRET (R387) -/

theorem Slot.withRows_inflight (x : Slot) : x.withRows.v = x.v := by
  rw [x.withRows_eq]

/-- The return finds a trap still held: it is taken, and the control stream resumes after it where it would have now. -/
theorem State.tret_takes {s : State} {c k : Nat} {h : HeldTrap} {hs : List HeldTrap} (hi : (s.slot c k).trap.intrap = true)
    (hen : (s.slot c k).trap.en = true) (hp : (s.slot c k).trap.pend = h :: hs) (hw : h.word < 16)
    (hv : (s.slot c k).v.inflight = []) (skip : Bool) : ∃ f : Slot → Slot, s.tret c k skip = s.updSlot c k f ∧
      (s.slot c k).withRows.HeldTaken (f (s.slot c k)) (s.slot c k).trap.cplace h hs := by
  let x := s.slot c k
  let u := s.updSlot c k Slot.withRows
  have hu : u.slot c k = x.withRows := s.slot_updSlot c k _
  have htrap := x.withRows_trap
  have hpend : x.withRows.trap.pend = h :: hs := (congrArg TrapRegs.pend htrap).trans hp
  have hen' : x.withRows.trap.en = true := (congrArg TrapRegs.en htrap).trans hen
  have hi' : x.withRows.trap.intrap = true := (congrArg TrapRegs.intrap htrap).trans hi
  have hat : u.resumesAt c k = x.trap.cplace := by
    rw [State.resumesAt, hu, if_pos hi', htrap]
    rfl
  obtain ⟨f, hf, ht⟩ := State.takeHeld_spec (s := u) (c := c) (k := k) (by rw [hu, hpend])
    (by rw [hu, x.withRows_inflight]; exact hv) hw
  rw [hu, hat] at ht
  have hcond : x.withRows.trap.pend ≠ [] ∧ x.withRows.trap.en = true := ⟨by rw [hpend]; exact List.cons_ne_nil h hs, hen'⟩
  refine ⟨f ∘ Slot.withRows, ?_, ht⟩
  unfold State.tret
  dsimp only
  rw [show (s.updSlot c k Slot.withRows).slot c k = x.withRows from hu, if_pos hcond]
  exact hf.trans (State.updSlot_updSlot ..)

/-- The saved control stream of a slot, as a return with SYS.TROWS of another stream leaves it. -/
theorem Slot.withRows_saved {x : Slot} (h : x.trap.trow ≠ some .ctl) : x.withRows.trap.ctl = x.trap.ctl := by
  rw [x.withRows_trap]
  simp only [Slot.rowsOf_other h]
  exact Option.map_id' ..

theorem Slot.withRows_ctl (x : Slot) : x.withRows.ctl = x.ctl := by
  rw [x.withRows_eq]

theorem Slot.withRows_frame (x : Slot) : x.withRows.trap.tcause = x.trap.tcause ∧ x.withRows.trap.tpc = x.trap.tpc := by
  rw [x.withRows_trap]
  exact ⟨rfl, rfl⟩

/-! ## The streams after a return (R387) -/

/-- The stream that trapped goes on where it stands, where the frame shows that place, and else where the frame says. -/
theorem Slot.backTo_spec (x : Slot) {d : Cls} (hc : d ≠ .ctl) (plane : Nat) (skip same : Bool) (t : Stream) :
    let r := x.backTo d plane skip same t
    r.skip = skip ∧ r.regs = t.regs ∧ (same = true → r.line = t.line ∧ r.word = t.word ∧ (d ≠ .vec → r.again = t.again)) ∧
      (same = false → r.line = fieldNat x.trap.tpc 16 16 ∧ r.word = fieldNat x.trap.tpc 0 4) ∧
      (d = .vec → r.again = some x.trap.element) := by
  unfold Slot.backTo
  cases same with
  | true =>
    rw [if_pos (.inr rfl)]
    dsimp only
    by_cases hv : d = .vec
    · rw [if_pos hv]
      exact ⟨rfl, rfl, fun _ => ⟨rfl, rfl, fun h => absurd hv h⟩, nofun, fun _ => rfl⟩
    · rw [if_neg hv]
      exact ⟨rfl, rfl, fun _ => ⟨rfl, rfl, fun _ => rfl⟩, nofun, fun h => absurd h hv⟩
  | false =>
    rw [if_neg fun h => h.elim hc Bool.false_ne_true]
    dsimp only
    by_cases hv : d = .vec
    · rw [if_pos hv]
      exact ⟨rfl, rfl, nofun, fun _ => ⟨rfl, rfl⟩, fun _ => rfl⟩
    · rw [if_neg hv]
      exact ⟨rfl, rfl, nofun, fun _ => ⟨rfl, rfl⟩, fun h => absurd h hv⟩

section
variable {s : State} {c k : Nat} (h : (s.slot c k).trap.pend = [] ∨ (s.slot c k).trap.en = false) (skip : Bool)
include h

/-- The control stream after a return. -/
theorem State.tret_ctl : let x := s.slot c k
    let y := (s.tret c k skip).slot c k
    ∃ plane sk, y.ctl = { x.ctl.resumeCtl (x.trap.ctl.map (fun v => { v with again := x.rowsOf .ctl v.again })) x.trap.cplace plane with
      skip := sk } ∧ (x.trap.tcause.getLsbD 44 = false → fieldNat x.trap.tcause 45 3 = 0 → sk = skip) ∧
      y.trap.intrap = false ∧ y.trap.pend = x.trap.pend := by
  intro x y
  obtain ⟨plane, same, heq, -⟩ := State.tret_returns h skip
  have hy : y = x.withRows.returned plane skip same := (congrArg (State.slot · c k) heq).trans (s.slot_setSlot c k _)
  obtain ⟨sk, hsk, hskip⟩ := x.withRows.returned_ctl plane skip same
  have htrap := x.withRows.returned_trap plane skip same
  rw [x.withRows_ctl, x.withRows_trap] at hsk
  rw [x.withRows_trap] at htrap hskip
  refine ⟨plane, sk, hy ▸ hsk, hskip, ?_, ?_⟩
  · rw [hy, htrap]
  · rw [hy, htrap]

/-- A data stream after a return. -/
theorem State.tret_strm {d : Cls} (hc : d ≠ .ctl) (hn : d ≠ .net) : let x := s.slot c k
    let y := (s.tret c k skip).slot c k
    let p := (fieldNat x.trap.tpc 16 16, fieldNat x.trap.tpc 0 4)
    if x.trap.tcause.getLsbD 44 = false ∧ fieldNat x.trap.tcause 45 3 = clsCode d then
      ∃ plane, y.strm d = x.withRows.backTo d plane skip (s.shownAt (.strm c k d) == p) (x.withRows.strm d)
    else y.strm d = x.withRows.strm d := by
  intro x y p
  obtain ⟨plane, same, heq, hsame⟩ := State.tret_returns h skip
  have hy : y = x.withRows.returned plane skip same := (congrArg (State.slot · c k) heq).trans (s.slot_setSlot c k _)
  have hst := x.withRows.returned_strm plane skip same hc hn
  obtain ⟨htc, htp⟩ := x.withRows_frame
  rw [htc] at hst hsame
  rw [htp] at hsame
  rw [hy, hst]
  split
  · next hd =>
    have hcls : clsOfCode (fieldNat x.trap.tcause 45 3) = d := by rw [hd.2, clsOfCode_clsCode]
    rw [hcls] at hsame
    exact ⟨plane, by rw [hsame hc]⟩
  · rfl

end

/-- A data stream's place, registers and mode of issue after the return of its own synchronous trap. -/
theorem State.tret_trapped {s : State} {c k : Nat} (h : (s.slot c k).trap.pend = [] ∨ (s.slot c k).trap.en = false) (skip : Bool)
    {d : Cls} (hc : d ≠ .ctl) (hn : d ≠ .net) : let x := s.slot c k
    let y := (s.tret c k skip).slot c k
    let p := (fieldNat x.trap.tpc 16 16, fieldNat x.trap.tpc 0 4)
    x.trap.tcause.getLsbD 44 = false → clsCode d = fieldNat x.trap.tcause 45 3 →
      (y.strm d).skip = skip ∧ (y.strm d).regs = (x.strm d).regs ∧
      (s.shownAt (.strm c k d) = p → (y.strm d).line = (x.strm d).line ∧ (y.strm d).word = (x.strm d).word) ∧
      (s.shownAt (.strm c k d) ≠ p → (y.strm d).line = p.1 ∧ (y.strm d).word = p.2) := by
  intro x y p ha hd
  have hst := State.tret_strm h skip hc hn
  dsimp only at hst
  rw [if_pos ⟨ha, hd.symm⟩] at hst
  obtain ⟨plane, hst⟩ := hst
  obtain ⟨hskip, hregs, hsame, hmoved, -⟩ := x.withRows.backTo_spec hc plane skip (s.shownAt (.strm c k d) == p) (x.withRows.strm d)
  rw [x.withRows_frame.2] at hmoved
  have hw := x.withRows_strm hn hc
  rw [show y.strm d = _ from hst]
  refine ⟨hskip, hregs.trans (by rw [hw]), fun he => ?_, fun he => hmoved (beq_eq_false_iff_ne.2 he)⟩
  obtain ⟨hl, hwd, -⟩ := hsame (beq_iff_eq.2 he)
  exact ⟨hl.trans (by rw [hw]), hwd.trans (by rw [hw])⟩

/-- What a return does (R387). -/
theorem tret_return (s : State) (c k : Nat) (skip : Bool) (h : (s.slot c k).trap.pend = [] ∨ (s.slot c k).trap.en = false) :
    let x := s.slot c k
    let y := (s.tret c k skip).slot c k
    let async := x.trap.tcause.getLsbD 44
    let from1 := fieldNat x.trap.tcause 45 3
    let cline := fieldNat x.trap.tpc 48 16
    let cword := fieldNat x.trap.tpc 44 4
    let line := fieldNat x.trap.tpc 16 16
    let word := fieldNat x.trap.tpc 0 4
    y.trap.intrap = false ∧ y.trap.pend = x.trap.pend ∧ y.ctl.mode = .running ∧
    (x.trap.ctl = none → y.ctl.line = cline ∧ y.ctl.word = cword) ∧
    (∀ v, x.trap.ctl = some v → v.shown = (cline, cword) → y.ctl.line = v.line ∧ y.ctl.word = v.word) ∧
    (∀ v, x.trap.ctl = some v → v.shown ≠ (cline, cword) → y.ctl.line = cline ∧ y.ctl.word = cword) ∧
    (async = true → ∀ d, d ≠ .ctl → d ≠ .net → x.trap.trow ≠ some d → y.strm d = x.strm d) ∧
    (∀ d ∈ [Cls.ldr, .str], x.trap.trow = some d →
      async = true ∨ clsCode d ≠ from1 ∨ s.shownAt (.strm c k d) = (line, word) →
      (y.strm d).again = (if (x.strm d).again = none then none else some x.trap.trows.toNat)) ∧
    (x.trap.trow = some .ctl → ∀ v, x.trap.ctl = some v → v.shown = (cline, cword) →
      y.ctl.again = (if v.again = none then none else some x.trap.trows.toNat) ∧ y.ctl.xfer = v.xfer) ∧
    (async = false → from1 = 1 → y.vec.again =
      some (if fieldNat x.trap.tcause 56 8 = 5 then 0 else x.trap.tinfo.toNat % 1024)) ∧
    (async = false → from1 = 0 → y.ctl.skip = skip) ∧
    (∀ d, async = false → d ≠ .ctl → d ≠ .net → clsCode d = from1 →
      (y.strm d).skip = skip ∧ (y.strm d).regs = (x.strm d).regs ∧
      (s.shownAt (.strm c k d) = (line, word) → (y.strm d).line = (x.strm d).line ∧ (y.strm d).word = (x.strm d).word) ∧
      (s.shownAt (.strm c k d) ≠ (line, word) → (y.strm d).line = line ∧ (y.strm d).word = word)) := by
  intro x y async from1 cline cword line word
  obtain ⟨plane, sk, hctl, hskip, hin, hpend⟩ := State.tret_ctl h skip
  let saved := x.trap.ctl.map (fun v => { v with again := x.rowsOf .ctl v.again })
  obtain ⟨hmode, hnone, hsome⟩ := x.ctl.resumeCtl_spec saved x.trap.cplace plane
  have hsaved {v : CtlSave} (hv : x.trap.ctl = some v) := hsome { v with again := x.rowsOf .ctl v.again } (congrArg (Option.map _) hv)
  rw [show y.ctl = _ from hctl]
  refine ⟨hin, hpend, hmode, fun hv => hnone (congrArg (Option.map _) hv), fun v hv hs => ?_, fun v hv hs => (hsaved hv).2 hs,
    fun ha d hc hn hr => ?_, fun d hd hr hgo => ?_, fun hr v hv hs => ?_, fun ha h1 => ?_, hskip,
    fun d ha hc hn hd => State.tret_trapped h skip hc hn ha hd⟩
  · obtain ⟨hl, hw, -⟩ := (hsaved hv).1 hs
    exact ⟨hl, hw⟩
  · have hst := State.tret_strm h skip hc hn
    dsimp only at hst
    rw [if_neg fun hd => Bool.false_ne_true (hd.1.symm.trans ha)] at hst
    rw [show y.strm d = _ from hst, x.withRows_strm hn hc, x.rowsOf_other hr, ite_self]
  · have hls : d = .ldr ∨ d = .str := by simpa using hd
    have hc : d ≠ .ctl := by rcases hls with rfl | rfl <;> decide
    have hn : d ≠ .net := by rcases hls with rfl | rfl <;> decide
    have hv : d ≠ .vec := by rcases hls with rfl | rfl <;> decide
    have hw : (x.withRows.strm d).again = if (x.strm d).again = none then none else some x.trap.trows.toNat := by
      rw [x.withRows_strm hn hc, if_pos hls, x.rowsOf_self hr]
    rw [← hw]
    have hst := State.tret_strm h skip hc hn
    dsimp only at hst
    by_cases hd : x.trap.tcause.getLsbD 44 = false ∧ fieldNat x.trap.tcause 45 3 = clsCode d
    · rw [if_pos hd] at hst
      obtain ⟨plane, hst⟩ := hst
      have hat : s.shownAt (.strm c k d) = (line, word) :=
        (hgo.resolve_left fun ha => Bool.false_ne_true (hd.1.symm.trans ha)).resolve_left fun hne => hne hd.2.symm
      obtain ⟨-, -, hsame, -⟩ := x.withRows.backTo_spec hc plane skip (s.shownAt (.strm c k d) == (line, word)) (x.withRows.strm d)
      obtain ⟨-, -, hagain⟩ := hsame (beq_iff_eq.2 hat)
      exact (congrArg Stream.again hst).trans (hagain hv)
    · rw [if_neg hd] at hst
      exact congrArg Stream.again hst
  · obtain ⟨-, -, ha, hx⟩ := (hsaved hv).1 hs
    exact ⟨ha.trans (x.rowsOf_self hr _), hx⟩
  · have hst := State.tret_strm h skip (d := .vec) (by decide) (by decide)
    dsimp only at hst
    rw [if_pos ⟨ha, h1⟩] at hst
    obtain ⟨plane, hst⟩ := hst
    obtain ⟨-, -, -, -, helem⟩ := x.withRows.backTo_spec (d := .vec) (by decide) plane skip
      (s.shownAt (.strm c k .vec) == (line, word)) (x.withRows.strm .vec)
    refine (congrArg Stream.again hst).trans ((helem rfl).trans ?_)
    rw [x.withRows_trap, TrapRegs.element, fieldNat_zero]
    rfl

/-- TRET with a trap still held: it is taken in place of a return (R387). -/
theorem tret_next {s : State} {c k : Nat} {h : HeldTrap} {hs : List HeldTrap} (hi : (s.slot c k).trap.intrap = true)
    (hen : (s.slot c k).trap.en = true) (hp : (s.slot c k).trap.pend = h :: hs) (hw : h.word < 16)
    (hv : (s.slot c k).v.inflight = []) (skip : Bool) : let x := s.slot c k
    let y := (s.tret c k skip).slot c k
    y.trap.intrap = true ∧ y.trap.pend = hs ∧ y.trap.taddr = h.addr ∧ y.trap.tinfo = h.info ∧
    y.trap.tcause = .ofNat 64 (h.cause * 2 ^ 56 + h.sub * 2 ^ 48 + h.strm * 2 ^ 45 + if h.sync = true then 0 else 2 ^ 44) ∧
    (h.sync = false → ∀ v, x.trap.ctl = some v → x.trap.trow ≠ some .ctl → y.trap.ctl = some v.stopXfer) ∧
    fieldNat y.trap.tpc 48 16 = (if h.sync = true then low 16 h.line else fieldNat x.trap.tpc 48 16) ∧
    fieldNat y.trap.tpc 44 4 = (if h.sync = true then h.word else fieldNat x.trap.tpc 44 4) ∧
    y.ctl.line = fieldNat x.trap.tvec 0 12 ∧ y.ctl.word = 0 := by
  intro x y
  obtain ⟨f, hf, ht⟩ := State.tret_takes hi hen hp hw hv skip
  have hy : f x = y := ((congrArg (State.slot · c k) hf).trans (s.slot_updSlot c k f)).symm
  rw [show f (s.slot c k) = y from hy] at ht
  have htrap := x.withRows_trap
  have hi' : x.withRows.trap.intrap = true := (congrArg TrapRegs.intrap htrap).trans hi
  obtain ⟨hline, hword⟩ := ht.ctl
  rw [show (s.slot c k).withRows.trap = _ from htrap] at hline
  refine ⟨ht.intrap, ht.pend, ht.taddr, ht.tinfo, ht.tcause, fun h1 v hctl hrow => ht.saved h1 hi' v ((x.withRows_saved hrow).trans hctl),
    ?_, ?_, hline, hword⟩
  · exact (congrArg Prod.fst ht.place).trans (apply_ite ..)
  · exact (congrArg Prod.snd ht.place).trans (apply_ite ..)

end Sys2Proof.Machine
end

section
/-! SUPPORT. Freezes of a core that lacks a reply, and their end (R388 to R390). -/

namespace Sys2Proof.Machine

/-! ## Freezes (R388 to R390) -/

theorem Core.slot_single {x : Core} {k : Nat} {y : Slot} (hs : x.slots = [(k, y)]) (j : Nat) :
    x.slot j = if j = k then y else Slot.reset := by
  unfold Core.slot
  rw [hs]
  by_cases h : j = k
  · rw [if_pos h, h]
    exact if_pos rfl
  · rw [if_neg h]
    exact if_neg (Ne.symm h)

/-- A free slot holds no freeze: that of a core with one slot in use is this slot's. -/
theorem Core.freezeHeld_single {x : Core} {k : Nat} {y : Slot} (hs : x.slots = [(k, y)]) (hk : k < 4) :
    x.freezeHeld = x.holdsFreeze k := by
  have hfree (j : Nat) (hj : j ≠ k) : x.holdsFreeze j = false := by
    have h : x.slot j = Slot.reset := (Core.slot_single hs j).trans (if_neg hj)
    unfold Core.holdsFreeze Core.beats
    rw [h]
    rfl
  rw [Bool.eq_iff_iff, Core.freezeHeld, List.any_eq_true]
  refine ⟨?_, fun h => ⟨k, List.mem_range.2 hk, h⟩⟩
  rintro ⟨j, -, hj⟩
  by_cases h : j = k
  · exact h ▸ hj
  · exact absurd ((hfree j h).symm.trans hj) Bool.false_ne_true

theorem Core.thaw_frz {x : Core} {b : Nat} (hb : x.frz.since = some b) (now : Nat) : (x.thaw now).frz.since = none ∧
    (x.thaw now).frz.count = x.frz.count ∧ (x.thaw now).frz.last = .ofNat 32 (min (now - b) (2 ^ 32 - 1)) := by
  unfold Core.thaw
  rw [hb]
  exact ⟨rfl, rfl, rfl⟩

/-- The end of a freeze changes nothing but SYS.FRZ. -/
theorem Core.thaw_rest (x : Core) (now : Nat) : (x.thaw now).slots = x.slots ∧ (x.thaw now).scratch = x.scratch ∧
    (x.thaw now).plane0 = x.plane0 ∧ (x.thaw now).plane1 = x.plane1 := by
  unfold Core.thaw
  split <;> exact ⟨rfl, rfl, rfl, rfl⟩

/-- Of a core in whose only slot no reply holds the freeze, it ends. -/
theorem State.thawed_single {s : State} {c k b : Nat} {y : Slot} (hs : (s.core c).slots = [(k, y)]) (hk : k < 4)
    (hn : (s.core c).holdsFreeze k = false) (hb : (s.core c).frz.since = some b) : let t := s.thawed c
    ((t.core c).frz.since = none ∧ (t.core c).frz.count = (s.core c).frz.count ∧
      (t.core c).frz.last = .ofNat 32 (min (s.cycle - b) (2 ^ 32 - 1))) ∧ t.slot c k = y ∧ s.sameBytes t := by
  have ht : s.thawed c = s.updCore c (fun x => x.thaw s.cycle) := by
    unfold State.thawed
    rw [Core.freezeHeld_single hs hk, hn, if_neg Bool.false_ne_true]
  intro t
  rw [show t = _ from ht, State.core_updCore]
  refine ⟨Core.thaw_frz hb s.cycle, ?_, s.updCore_sameBytes c (fun x => (x.thaw_rest _).2.1) (fun x => (x.thaw_rest _).2.2.1)
    (fun x => (x.thaw_rest _).2.2.2)⟩
  rw [State.slot, State.core_updCore, Core.slot_single (((s.core c).thaw_rest s.cycle).1.trans hs), if_pos rfl]

/-- The reply of a slot's only result comes without a fault. -/
def InFlight.come (r : InFlight) : InFlight := { r with arrived := true, landing := false }

/-- The slot with that reply come, its result not yet written. -/
def Slot.came (x : Slot) (r : InFlight) : Slot := { x with v := { x.v with inflight := [r.come] } }

theorem Slot.reply_single {x : Slot} {r : InFlight} (hp : x.phase = .running) (hi : x.trap.intrap = false) (hv : x.v.inflight = [r])
    (ha : r.arrived = false) (hf : r.fault = none) : x.reply r.ix = x.came r := by
  have hfind : x.v.inflight.find? (fun q => q.ix == r.ix && !q.arrived) = some r := by
    rw [hv]
    exact List.find?_cons_of_pos (by simp [ha])
  unfold Slot.reply Slot.came
  rw [hfind]
  dsimp only
  rw [hp, hf, hv, hi, if_neg nofun, List.map_singleton, if_pos rfl]
  rfl

/-- The result is seen by the instruction of its beat, before it is written (R127). -/
theorem VecState.seen_come {v : VecState} {r : InFlight} (hf : r.fault = none) (hd : r.due ≤ v.beat) :
    (VecState.seen { v with inflight := [r.come] }).regs = (v.land r).regs := by
  let w : VecState := { v with inflight := [r.come] }
  have hlim : landLimit [r.come] v.beat = v.beat + 1 := landLimit_arrived (by simp [InFlight.come]) v.beat
  have hp : (decide (r.come.due < v.beat + 1) && r.come.fault.isNone) = true := by
    rw [show r.come.fault = none from hf, Option.isNone_none, Bool.and_true, decide_eq_true_eq]
    exact Nat.lt_succ_of_le hd
  have hdue : w.dueBy w.beat = [r.come] := by
    show (([r.come].filter (fun q => decide (q.due < landLimit [r.come] v.beat) && q.fault.isNone)).foldl _ []) = _
    rw [hlim, List.filter_singleton, hp]
    rfl
  show ((w.dueBy w.beat).foldl VecState.land w).regs = _
  rw [hdue]
  show (w.land r.come).regs = _
  unfold VecState.land
  cases hr : r.dest with
  | regs ws => rw [show r.come.dest = _ from hr]; rfl
  | mask k m =>
    rw [show r.come.dest = _ from hr]
    dsimp only
    split <;> rfl
  | none => rw [show r.come.dest = _ from hr]

/-- The reply on which a running vector stream waits at this beat holds the freeze. -/
theorem Slot.owes_late {x : Slot} {r : InFlight} (ha : r.arrived = false) (hd : r.due ≤ x.v.beat) : x.owes r = true := by
  rw [Slot.owes, ha, decide_eq_true hd]
  rfl

theorem Slot.abandon_single {x : Slot} {r : InFlight} (hv : x.v.inflight = [r]) (ho : x.owes r = true) (hp : x.trap.pend = []) :
    x.abandon = x.withFlight [] [r.abandoned] := by
  unfold Slot.abandon
  dsimp only
  rw [hv, List.filter_singleton, List.filter_singleton, ho, Bool.not_true]
  show Slot.hold (x.withFlight [] x.trap.pend) r.abandoned = _
  rw [hp]
  rfl

section
variable {s : State} {c k : Nat} {x : Slot} {r : InFlight} (hs : (s.core c).slots = [(k, x)]) (hp : x.phase = .running)
  (hi : x.trap.intrap = false) (hm : x.vec.mode = .running) (ho : (s.core c).owns k = true) (hv : x.v.inflight = [r])
  (ha : r.arrived = false) (hd : r.due ≤ x.v.beat)
include hs hp hi hm ho hv ha hd

theorem freezeHeld_late : (s.core c).holdsFreeze k = true := by
  have hx : (s.core c).slot k = x := (Core.slot_single hs k).trans (if_pos rfl)
  rw [Core.holdsFreeze, Core.beats, hx, hp, hi, hm, hv, List.any_cons, Slot.owes_late ha hd]
  exact (Bool.and_true _).trans ho

variable (hk : k < 4)
include hk

/-- FREEZE_START on a core whose vector stream lacks a reply (R388). -/
theorem exec_freezeStart (hf : (s.core c).frz.since = none) : ∃ t, exec (.freezeStart c) s = .next t ∧
    (t.core c).frz = { (s.core c).frz with since := some s.cycle, count := (s.core c).frz.count + 1 } ∧ (t.core c).slots = [(k, x)] := by
  have hheld : (s.core c).freezeHeld = true :=
    (Core.freezeHeld_single hs hk).trans (freezeHeld_late hs hp hi hm ho hv ha hd)
  have hfr : (s.core c).freeze s.cycle = { s.core c with frz :=
      { (s.core c).frz with since := some s.cycle, count := (s.core c).frz.count + 1 } } := by
    rw [Core.freeze, hf]
    rfl
  refine ⟨_, congrArg Host.Outcome.next (if_pos hheld), ?_, ?_⟩
  · rw [State.core_updCore, hfr]
  · rw [State.core_updCore, hfr, hs]

omit hm ho in
/-- VECTOR_REPLY_ARRIVAL of that reply, without a fault: the freeze ends (R389). -/
theorem exec_vectorReply {b : Nat} (hb : (s.core c).frz.since = some b) (hf : r.fault = none) :
    ∃ t, exec (.vectorReplyArrival c k r.ix) s = .next t ∧
      ((t.core c).frz.since = none ∧ (t.core c).frz.count = (s.core c).frz.count ∧
        (t.core c).frz.last = .ofNat 32 (min (s.cycle - b) (2 ^ 32 - 1))) ∧
      (t.slot c k).v.inflight = [{ r with arrived := true, landing := false }] ∧ (t.slot c k).v.regs = x.v.regs ∧
      (t.slot c k).v.seen.regs = (x.v.land r).regs ∧ s.sameBytes t := by
  let u := s.updSlot c k (Slot.reply · r.ix)
  have hx : s.slot c k = x := (Core.slot_single hs k).trans (if_pos rfl)
  have hu : u.core c = (s.core c).setSlot k (x.came r) := by
    rw [show u = s.setSlot c k ((s.slot c k).reply r.ix) from rfl, hx, Slot.reply_single hp hi hv ha hf]
    exact s.core_setCore c _
  have hslots : (u.core c).slots = [(k, x.came r)] := by
    rw [hu]
    show Tbl.set (s.core c).slots k _ = _
    rw [hs, Tbl.set, if_neg k.lt_irrefl, if_pos rfl]
  have hno : (u.core c).holdsFreeze k = false := by
    rw [Core.holdsFreeze, (Core.slot_single hslots k).trans (if_pos rfl)]
    exact Bool.and_false _
  have hfrz : (u.core c).frz = (s.core c).frz := by rw [hu]; rfl
  obtain ⟨hpassed, hy, hbytes⟩ := State.thawed_single hslots hk hno ((congrArg Frz.since hfrz).trans hb)
  refine ⟨u.thawed c, rfl, ?_, ?_, ?_, ?_, State.sameBytes_trans (s.updSlot_sameBytes c k _) hbytes⟩
  · rw [hfrz] at hpassed
    exact hpassed
  · rw [hy]
    rfl
  · rw [hy]
    rfl
  · rw [hy]
    exact VecState.seen_come hf hd

/-- FREEZE_WATCHDOG_EXPIRY (R390). -/
theorem exec_freezeWatchdog {b : Nat} (hb : (s.core c).frz.since = some b) :
    (s.cycle < b + 2 ^ (10 + (s.core c).frz.limit.toNat) → exec (.freezeWatchdogExpiry c) s = .next s) ∧
    (b + 2 ^ (10 + (s.core c).frz.limit.toNat) ≤ s.cycle → x.trap.pend = [] → ∃ t, exec (.freezeWatchdogExpiry c) s = .next t ∧
      ((t.core c).frz.since = none ∧ (t.core c).frz.count = (s.core c).frz.count ∧
        (t.core c).frz.last = .ofNat 32 (min (s.cycle - b) (2 ^ 32 - 1))) ∧
      (t.slot c k).v.inflight = [] ∧ s.sameBytes t ∧ ∃ h, (t.slot c k).trap.pend = [h] ∧ h.cause = 10 ∧ h.sub = 0 ∧ h.strm = 1 ∧
        h.addr = r.addr) := by
  refine ⟨fun hl => congrArg Host.Outcome.next ?_, fun hl hpend => ?_⟩
  · dsimp only
    rw [hb]
    exact if_neg (by omega)
  let y := x.withFlight [] [r.abandoned]
  have hslots : (s.core c).abandon.slots = [(k, y)] := by
    unfold Core.abandon
    rw [hs, List.map_singleton]
    dsimp only
    rw [freezeHeld_late hs hp hi hm ho hv ha hd, if_pos rfl, Slot.abandon_single hv (Slot.owes_late ha hd) hpend]
  let u := s.updCore c Core.abandon
  have hu : u.core c = (s.core c).abandon := s.core_updCore c _
  have hno : (u.core c).holdsFreeze k = false := by
    rw [Core.holdsFreeze, (Core.slot_single (hu ▸ hslots) k).trans (if_pos rfl)]
    exact Bool.and_false _
  obtain ⟨hpassed, hy, hbytes⟩ := State.thawed_single (s := u) (b := b) (hu ▸ hslots) hk hno (by rw [hu]; exact hb)
  have hexec : exec (.freezeWatchdogExpiry c) s = .next (u.thawed c) := by
    refine congrArg Host.Outcome.next ?_
    dsimp only
    rw [hb]
    exact if_pos hl
  rw [hu] at hpassed
  have hbytes' : s.sameBytes u := s.updCore_sameBytes c (fun _ => rfl) (fun _ => rfl) (fun _ => rfl)
  refine ⟨u.thawed c, hexec, hpassed, ?_, State.sameBytes_trans hbytes' hbytes,
    r.abandoned, ?_, rfl, rfl, rfl, rfl⟩
  · rw [hy]
    rfl
  · rw [hy]
    rfl

end

end Sys2Proof.Machine
end

section
/-! O53. Traps and returns. -/

namespace Sys2Proof.Machine

/-! ## Delivery of a held trap (R381) -/

/-- No stream's turn comes before a trap whose rank is the control stream's or lower. -/
theorem State.syncFirst_none (s : State) (c k : Nat) {r : Nat} (hr : r ≤ 3) : s.syncFirst c k r = none := by
  have hno (cls : Cls) : ¬ trapOrder cls < r := by
    cases cls <;> simp only [trapOrder] <;> omega
  unfold State.syncFirst
  rw [List.findSome?_eq_none_iff]
  exact fun cls _ => if_neg fun h => hno cls h.1

theorem Slot.holdDue_none {x : Slot} (h : x.v.inflight = []) : x.holdDue = x := by
  unfold Slot.holdDue
  rw [h, List.foldl_nil, ← h]

/-- ASYNC_TRAP_DELIVERY of a slot without results in flight, of whose held traps `h` is the first. -/
theorem exec_asyncTrapDelivery {s : State} {c k : Nat} {h : HeldTrap} {hs : List HeldTrap} (hst : (s.slot c k).stopping = none)
    (hr : (s.slot c k).phase = .running) (hv : (s.slot c k).v.inflight = []) (hp : (s.slot c k).trap.pend = h :: hs) :
    exec (.asyncTrapDelivery c k) s = .next (if (s.slot c k).trap.intrap = true then s else (s.syncFirst c k h.rank).getD
      (s.asyncTrap c k)) := by
  show execAsyncTrapDelivery c k s = _
  unfold execAsyncTrapDelivery
  dsimp only
  rw [hst, ite_self]
  dsimp only
  rw [Slot.holdDue_none hv, hp]
  dsimp only
  refine congrArg Host.Outcome.next ?_
  by_cases hi : (s.slot c k).trap.intrap = true
  · rw [if_pos (.inr hi), if_pos hi]
  · rw [if_neg fun h => h.elim (absurd hr) hi, if_neg hi]
    cases s.syncFirst c k h.rank <;> rfl

/-- Where no synchronous trap comes first, the held trap is taken. -/
theorem State.asyncTrap_takes {s : State} {c k : Nat} {h : HeldTrap} {hs : List HeldTrap} (hr : (s.slot c k).phase = .running)
    (hen : (s.slot c k).trap.en = true) (hi : (s.slot c k).trap.intrap = false) (hv : (s.slot c k).v.inflight = [])
    (hp : (s.slot c k).trap.pend = h :: hs) (hw : h.word < 16) : ∃ f : Slot → Slot, s.asyncTrap c k = s.updSlot c k f ∧
      (s.slot c k).HeldTaken (f (s.slot c k)) (s.shownAt (.strm c k .ctl)) h hs := by
  let u := s.updSlot c k Slot.holdDue
  have hu : u.slot c k = s.slot c k := (s.slot_updSlot c k _).trans (Slot.holdDue_none hv)
  have hat : u.resumesAt c k = s.shownAt (.strm c k .ctl) := by
    rw [State.resumesAt, hu, hi, if_neg Bool.false_ne_true]
    exact State.shownAt_updSlot s (by rw [Slot.holdDue_none hv])
  obtain ⟨f, hf, ht⟩ := State.takeHeld_spec (s := u) (c := c) (k := k) (by rw [hu, hp]) (by rw [hu, hv]) hw
  rw [hu, hat] at ht
  refine ⟨f ∘ Slot.holdDue, ?_, ?_⟩
  · unfold State.asyncTrap
    dsimp only
    rw [hr, hi, hen, if_neg (by simp), if_pos rfl]
    exact hf.trans (State.updSlot_updSlot ..)
  · rw [Function.comp, Slot.holdDue_none hv]
    exact ht

/-! ## TRAP and TRET -/

/-- A thread that faults runs no longer (R344). -/
theorem raise_thread (s : State) (t : Nat) (e : Exc) :
    (s.raise (.thread t) e).npd.threads = Tbl.erase s.npd.threads t ∧ s.sameBytes (s.raise (.thread t) e) :=
    ⟨(State.threadFault_spec ..).2, s.threadFault_sameBytes t (threadClass e.cause) (e.sub % 16) e.addr⟩

/-- TRAP (R379, R399). -/
theorem exec_trap {s : State} {g : Guard} (hg : s.acts s.agent g = true) (n : NSrc) :
    exec (.trap g n) s = .next (s.raise s.agent ⟨9, 0, 0, .ofNat 64 (nsrcNat n)⟩) :=
  State.guarded_acts hg (nsrcWords n) (fun s => s.raise s.agent (softTrap (nsrcNat n)))

/-- TRET of a stream: outside a handler it does nothing. -/
theorem exec_tret_strm {s : State} {g : Guard} {c k : Nat} {cls : Cls} (ha : s.agent = .strm c k cls) (hg : s.acts s.agent g = true)
    (skip : Bool) : exec (.tret g skip) s =
      .next (if (s.slot c k).trap.intrap = true then s.tret c k skip else s.advance s.agent 2) := by
  refine (show exec (.tret g skip) s = execTret g skip s from rfl).trans ?_
  unfold execTret
  rw [State.guarded_acts hg, ha]

/-- TRET of a packet thread acts as TRAP 0. -/
theorem exec_tret_thread {s : State} {g : Guard} {t : Nat} (ha : s.agent = .thread t) (hg : s.acts s.agent g = true) (skip : Bool) :
    exec (.tret g skip) s = .next (s.raise s.agent ⟨9, 0, 0, 0⟩) := by
  refine (show exec (.tret g skip) s = execTret g skip s from rfl).trans ?_
  unfold execTret
  rw [State.guarded_acts hg, ha]
  rfl

/-- Settles O53: each kind of entry is one change of the slot to its handler's line with the frame written, a return is one
change of the slot back, and a freeze is counted from its start to its end. -/
theorem trapsAndReturns : Obligations.TrapsAndReturns := by
  unfold Obligations.TrapsAndReturns
  refine ⟨fun s g n hg => exec_trap hg n, fun s c k cls e _ => ?_, raise_thread, fun s g skip c k cls ha hg => ?_,
    fun s g skip t ha hg => exec_tret_thread ha hg skip, fun s c k h hs => ?_, fun s c k x r hs hk hp hi hm ho hv ha hd => ?_⟩
  case refine_1 =>
    exact fun hr => ⟨raise_trap s c k cls e hr, raise_framed s c k cls e hr⟩
  case refine_2 =>
    have hexec := exec_tret_strm ha hg skip
    refine ⟨fun hi => ?_, fun h hs hi hen hp hw hv => ?_, fun hi h => ?_⟩
    · rw [hexec, hi, if_neg Bool.false_ne_true]
    · exact ⟨_, hexec.trans (congrArg Host.Outcome.next (if_pos hi)), tret_next hi hen hp hw hv skip⟩
    · refine ⟨_, hexec.trans (congrArg Host.Outcome.next (if_pos hi)), ?_, tret_return s c k skip h⟩
      obtain ⟨plane, same, heq, -⟩ := State.tret_returns h skip
      exact heq ▸ s.setSlot_sameBytes c k _
  case refine_3 =>
    intro x hst hr hen hv hp hw
    have hexec := exec_asyncTrapDelivery hst hr hv hp
    refine ⟨fun hi => ?_, fun u hi hu => ?_, fun hi hfirst => ?_⟩
    · rw [hexec, if_pos hi]
    · rw [hexec, if_neg (Bool.eq_false_iff.1 hi), hu, Option.getD_some]
    · have hnone : s.syncFirst c k h.rank = none := hfirst.elim (s.syncFirst_none c k) id
      obtain ⟨f, hf, ht⟩ := State.asyncTrap_takes hr hen hi hv hp hw
      rw [hnone, if_neg (Bool.eq_false_iff.1 hi), Option.getD_none] at hexec
      have hy : (s.asyncTrap c k).slot c k = f x := (congrArg (State.slot · c k) hf).trans (s.slot_updSlot c k f)
      refine ⟨_, hexec, hf ▸ s.updSlot_sameBytes c k f, ?_⟩
      rw [hy]
      exact ⟨ht.intrap, ht.pend, ht.taddr, ht.tinfo, ht.trows, ht.tcause,
        ⟨congrArg Prod.fst ht.place, congrArg Prod.snd ht.place⟩, ht.ctl⟩
  case refine_4 =>
    exact ⟨exec_freezeStart hs hp hi hm ho hv ha hd hk, fun b hb hf => exec_vectorReply hs hp hi hv ha hd hk hb hf,
      fun b hb => exec_freezeWatchdog hs hp hi hm ho hv ha hd hk hb⟩

end Sys2Proof.Machine
end

section
/-! O26. Masks, region and yield. -/

namespace Sys2Proof.Machine

/-- No stream of its own is kept of class `net`: a write of it leaves the slot (log 89). -/
theorem State.updStrm_net (s : State) (c k : Nat) (f : Stream → Stream) :
    s.updStrm (.strm c k .net) f = s.updSlot c k (fun x => x) := rfl

/-- The second turn of a VYIELD of class `net` leaves the mode of the stream that its class reads. -/
theorem vyield_net_mode {s : State} {g : Guard} {c k : Nat} (ha : s.agent = .strm c k .net) (hg : s.acts s.agent g = true)
    (hw : (s.strm s.agent).waitLeft ≠ 0) (hv : (s.own s.agent).v.inflight = []) :
    ∃ t, exec (.vyield g) s = .next t ∧ (t.strm s.agent).mode = (s.strm s.agent).mode := by
  have hno : ¬ ((s.strm s.agent).waitLeft = 0 ∨ (!(s.own s.agent).v.inflight.isEmpty) = true) := by
    rw [hv]
    simpa using hw
  refine ⟨_, (show exec (.vyield g) s = execVyield g s from rfl).trans ((State.guarded_acts hg ..).trans
    (congrArg Host.Outcome.next (if_neg hno))), ?_⟩
  rw [ha, State.updStrm_net]
  show (Slot.strm (State.slot (State.updCore _ c _) c k) .net).mode = ((s.slot c k).strm .net).mode
  rw [State.slot, State.core_updCore]
  exact congrArg (fun x : Slot => (x.strm .net).mode) (s.slot_updSlot c k _)

/-- A halted stream at the second turn of a VYIELD, for an agent of class `net`. -/
def yieldingNet : State :=
  { (State.reset.setSlot 0 0 { Slot.reset with ctl := { Stream.reset with waitLeft := 1 } }) with agent := .strm 0 0 .net }

/-- Refutes O26: VYIELD's last clause has its stream running after it for every class, that of class `net` too, of which no
slot keeps a stream; of `yieldingNet` the stream that stands for it is still halted. -/
theorem not_masksRegionAndYield : ¬ Obligations.MasksRegionAndYield := by
  unfold Obligations.MasksRegionAndYield
  intro h
  let g : Guard := ⟨false, 0⟩
  have hg : yieldingNet.acts yieldingNet.agent g = true := by decide
  obtain ⟨v, -, -, -, -, -, -, -, -, hyield⟩ := h.2 yieldingNet g 0 (.imm 0) hg (by decide)
  obtain ⟨t, ht, hmode, -⟩ := hyield 0 0 .net rfl (by decide) rfl
  obtain ⟨u, hu, hleft⟩ := vyield_net_mode (g := g) (show yieldingNet.agent = .strm 0 0 .net from rfl) hg (by decide) rfl
  have htu : t = u := Host.Outcome.next.inj (ht.symm.trans hu)
  rw [htu, hleft] at hmode
  exact absurd hmode (by decide)

end Sys2Proof.Machine
end
